-- ==== Sys2Proof/Word.lean ====
section
/-!
DEFINITION. The word types of the LM9: registers and memory bytes are bits (R4, R5), everything that is only counted is a Nat.
-/
namespace Sys2Proof

/-- A 64-bit register value, an address value or a message word (R5, R138). -/
abbrev Word := BitVec 64

/-- A 32-bit lane, predicate register or 32-bit register value (R134). -/
abbrev Lane := BitVec 32

/-- One byte of memory. -/
abbrev Byte := BitVec 8

end Sys2Proof
end

