-- ==== Sys2Proof/Syntax.lean ====
section
/-!
DEFINITION. The commands of the LM9 as data: one constructor per row of the table of operations and events.
-/
namespace Sys2Proof

/-- A scalar or vector register number (R142). -/
abbrev RegNo := BitVec 5
/-- A predicate register number (R142). -/
abbrev PredNo := BitVec 3
/-- A 2-bit field. -/
abbrev Imm2 := BitVec 2
/-- A 3-bit field. -/
abbrev Imm3 := BitVec 3
/-- A 6-bit field. -/
abbrev Imm6 := BitVec 6
/-- A 10-bit field. -/
abbrev Imm10 := BitVec 10
/-- The IMM13 field (R142). -/
abbrev Imm13 := BitVec 13
/-- The IMM16 field (R142). -/
abbrev Imm16 := BitVec 16
/-- The IMM21 field (R142). -/
abbrev Imm21 := BitVec 21

/-- What the fetch of an instruction gave (R139, R143): the word named by the command, a word with a reserved encoding in a field the command does not carry, a poisoned word, an error response, or a fetch that reached its stall limit. -/
inductive Fetch where
  | ok | reserved | poisoned | error | wakeLimit
  deriving DecidableEq, Repr

/-- The thread that executes an instruction: its tile, its number, and what its fetch gave. -/
structure Th where
  tile : Nat
  thr : Nat
  fetch : Fetch
  deriving DecidableEq, Repr

/-- Who accesses a register from outside a thread: a tenant's requester, boot firmware before a plat is applied, the host through BAR0, debug through the TAP. -/
inductive Who where
  | tenant (n : Nat)
  | boot
  | host
  | debug
  deriving DecidableEq, Repr


/-- The commands of the block: one constructor for each row of the table of operations and events. A thread instruction names the thread that executes it, an event the unit it happens to and the values the outside world supplies. -/
inductive Instr where
  /-- REGISTER_WRITE (R10): A write to a register field that has no row of its own takes effect according to its access code. -/
  | registerWrite (who : Who) (addr : Nat) (size : Nat) (value : Word)
  /-- PLAT_LOAD (R57): The Notary stages, verifies and validates a plat, checks quiescence and writes shadow copies. -/
  | platLoad
  /-- PLAT_ROUTE_DRAIN_END (R55): Outstanding transactions to re-routed identifiers complete or time out, and stalled ones proceed on the new route. -/
  | platRouteDrainEnd
  /-- PLAT_APPLY_COMMIT (R57): Once the route drain ends, the Headgate commits all shadow copies in one step and the Notary measures the plat. -/
  | platApplyCommit
  /-- VAULT_FILL_DONE (R56): The zero-fill of a vault that changed tenant completes, and its pages become allocatable. -/
  | vaultFillDone (v : Nat)
  /-- MAP (R80): VC_CMD MAP allocates a frame, charges quota and writes the translation entry. -/
  | map (who : Who) (n : Nat) (page : Nat) (tier : Nat) (cls : Nat) (wr : Bool) (pin : Bool) (strict : Bool) (loc : Nat) (peer : Nat)
  /-- UNMAP (R80): VC_CMD UNMAP writes back cached lines, clears the entry, frees the frame and releases quota. -/
  | unmap (who : Who) (n : Nat) (page : Nat)
  /-- UNMAP_AFTER_MOVE (R79): An UNMAP of a page that was migrating completes once the move ends. -/
  | unmapAfterMove (n : Nat) (page : Nat)
  /-- MIGRATE (R80): VC_CMD MIGRATE allocates and charges the destination frame and queues a move. -/
  | migrate (who : Who) (n : Nat) (page : Nat) (tier : Nat) (strict : Bool) (loc : Nat)
  /-- PROTECT (R80): VC_CMD PROTECT sets WRITABLE and PINNED of a valid entry. -/
  | protect (who : Who) (n : Nat) (page : Nat) (wr : Bool) (pin : Bool)
  /-- QUERY (R80): VC_CMD QUERY returns the translation entry and changes nothing. -/
  | query (who : Who) (n : Nat) (page : Nat)
  /-- MIGRATION_LANE_START (R84): A migration lane is granted to a queued move, sets MIGRATING, writes back cached lines and starts copying. -/
  | migrationLaneStart
  /-- MIGRATION_COMMIT (R84): The copy ends, the entry is rewritten, stalled accesses resume, the source is freed and the result is posted. -/
  | migrationCommit (n : Nat) (page : Nat) (fail : Bool) (data : List Nat) (marks : List Nat)
  /-- MIG_RESULT_READ (R83): A read of VC_MIG_RESULT with VALID 1 removes the result and releases the migration slot. -/
  | migResultRead (who : Who) (n : Nat)
  /-- XM_TRAIN_START (R93): A write of START to XM_TRAIN starts training of the enabled LPDDR5X channels. -/
  | xmTrainStart (i : Nat)
  /-- XM_TRAIN_DONE (R93): Channel training finishes, setting DONE, FAIL and the trained capacity. -/
  | xmTrainDone (i : Nat) (cap0 : Nat) (cap1 : Nat) (fail0 : Bool) (fail1 : Bool)
  /-- MEMORY_RESPONSE (R117): Data or an error response for an outstanding access returns to its requester. -/
  | memoryResponse (tile : Nat) (thr : Nat) (id : Nat) (grp : Nat)
  /-- STORE_ERROR_ARRIVAL (R129): An error response for a posted store arrives and is held until the thread's next ordering point. -/
  | storeErrorArrival (tile : Nat) (thr : Nat) (id : Nat) (sub : Nat)
  /-- STALL_LIMIT_REACHED (R479): A stalled access reaches its stall limit and receives an error response. -/
  | stallLimitReached (tile : Nat) (thr : Nat) (id : Nat)
  /-- ADD (R145): OPR ADD writes rs1 + rs2 to rd. -/
  | add (h : Th) (rd : RegNo) (rs1 : RegNo) (rs2 : RegNo)
  /-- SUB (R145): OPR SUB writes rs1 − rs2 to rd. -/
  | sub (h : Th) (rd : RegNo) (rs1 : RegNo) (rs2 : RegNo)
  /-- AND (R145): OPR AND writes the bitwise AND of rs1 and rs2 to rd. -/
  | and_ (h : Th) (rd : RegNo) (rs1 : RegNo) (rs2 : RegNo)
  /-- OR (R145): OPR OR writes the bitwise OR of rs1 and rs2 to rd. -/
  | or_ (h : Th) (rd : RegNo) (rs1 : RegNo) (rs2 : RegNo)
  /-- XOR (R145): OPR XOR writes the bitwise XOR of rs1 and rs2 to rd. -/
  | xor_ (h : Th) (rd : RegNo) (rs1 : RegNo) (rs2 : RegNo)
  /-- SLL (R145): OPR SLL shifts rs1 left by rs2[5:0]. -/
  | sll (h : Th) (rd : RegNo) (rs1 : RegNo) (rs2 : RegNo)
  /-- SRL (R145): OPR SRL shifts rs1 right by rs2[5:0], filling with zeros. -/
  | srl (h : Th) (rd : RegNo) (rs1 : RegNo) (rs2 : RegNo)
  /-- SRA (R145): OPR SRA shifts rs1 right by rs2[5:0], filling with the sign bit. -/
  | sra (h : Th) (rd : RegNo) (rs1 : RegNo) (rs2 : RegNo)
  /-- SLT (R145): OPR SLT writes 1 if rs1 < rs2 as signed numbers. -/
  | slt (h : Th) (rd : RegNo) (rs1 : RegNo) (rs2 : RegNo)
  /-- SLTU (R145): OPR SLTU writes 1 if rs1 < rs2 as unsigned numbers. -/
  | sltu (h : Th) (rd : RegNo) (rs1 : RegNo) (rs2 : RegNo)
  /-- MIN (R145): OPR MIN writes the signed minimum. -/
  | min (h : Th) (rd : RegNo) (rs1 : RegNo) (rs2 : RegNo)
  /-- MAX (R145): OPR MAX writes the signed maximum. -/
  | max (h : Th) (rd : RegNo) (rs1 : RegNo) (rs2 : RegNo)
  /-- MINU (R145): OPR MINU writes the unsigned minimum. -/
  | minu (h : Th) (rd : RegNo) (rs1 : RegNo) (rs2 : RegNo)
  /-- MAXU (R145): OPR MAXU writes the unsigned maximum. -/
  | maxu (h : Th) (rd : RegNo) (rs1 : RegNo) (rs2 : RegNo)
  /-- MUL (R145): OPR MUL writes the low 64 bits of the product. -/
  | mul (h : Th) (rd : RegNo) (rs1 : RegNo) (rs2 : RegNo)
  /-- MULH (R145): OPR MULH writes the high 64 bits of the signed product. -/
  | mulh (h : Th) (rd : RegNo) (rs1 : RegNo) (rs2 : RegNo)
  /-- MULHU (R145): OPR MULHU writes the high 64 bits of the unsigned product. -/
  | mulhu (h : Th) (rd : RegNo) (rs1 : RegNo) (rs2 : RegNo)
  /-- DIV (R146): OPR DIV writes the signed quotient, with fixed results for the edge cases. -/
  | div (h : Th) (rd : RegNo) (rs1 : RegNo) (rs2 : RegNo)
  /-- DIVU (R146): OPR DIVU writes the unsigned quotient, or all ones for a divisor of zero. -/
  | divu (h : Th) (rd : RegNo) (rs1 : RegNo) (rs2 : RegNo)
  /-- REM (R146): OPR REM writes the signed remainder. -/
  | rem (h : Th) (rd : RegNo) (rs1 : RegNo) (rs2 : RegNo)
  /-- REMU (R146): OPR REMU writes the unsigned remainder. -/
  | remu (h : Th) (rd : RegNo) (rs1 : RegNo) (rs2 : RegNo)
  /-- CLZ (R145): OPR CLZ writes the count of leading zeros of rs1. -/
  | clz (h : Th) (rd : RegNo) (rs1 : RegNo)
  /-- CTZ (R145): OPR CTZ writes the count of trailing zeros of rs1. -/
  | ctz (h : Th) (rd : RegNo) (rs1 : RegNo)
  /-- POPC (R145): OPR POPC writes the count of set bits of rs1. -/
  | popc (h : Th) (rd : RegNo) (rs1 : RegNo)
  /-- ADDI (R147): ADDI writes rs1 + IMM16. -/
  | addi (h : Th) (rd : RegNo) (rs1 : RegNo) (imm : Imm16)
  /-- ANDI (R147): ANDI writes rs1 AND IMM16. -/
  | andi (h : Th) (rd : RegNo) (rs1 : RegNo) (imm : Imm16)
  /-- ORI (R147): ORI writes rs1 OR IMM16. -/
  | ori (h : Th) (rd : RegNo) (rs1 : RegNo) (imm : Imm16)
  /-- XORI (R147): XORI writes rs1 XOR IMM16. -/
  | xori (h : Th) (rd : RegNo) (rs1 : RegNo) (imm : Imm16)
  /-- SLTI (R147): SLTI writes 1 if rs1 < IMM16 as signed numbers. -/
  | slti (h : Th) (rd : RegNo) (rs1 : RegNo) (imm : Imm16)
  /-- SLTIU (R147): SLTIU writes 1 if rs1 < IMM16 as unsigned numbers, after sign extension. -/
  | sltiu (h : Th) (rd : RegNo) (rs1 : RegNo) (imm : Imm16)
  /-- SLLI (R147): SHIFTI with selector 0 shifts rs1 left by IMM16[5:0]. -/
  | slli (h : Th) (rd : RegNo) (rs1 : RegNo) (amt : Imm6)
  /-- SRLI (R147): SHIFTI with selector 1 shifts rs1 right logically by IMM16[5:0]. -/
  | srli (h : Th) (rd : RegNo) (rs1 : RegNo) (amt : Imm6)
  /-- SRAI (R147): SHIFTI with selector 2 shifts rs1 right arithmetically by IMM16[5:0]. -/
  | srai (h : Th) (rd : RegNo) (rs1 : RegNo) (amt : Imm6)
  /-- LUI (R147): LUI writes IMM21, sign-extended and shifted left by 16. -/
  | lui (h : Th) (rd : RegNo) (imm : Imm21)
  /-- SHORI (R147): SHORI writes (rs1 << 16) OR the zero-extended IMM16. -/
  | shori (h : Th) (rd : RegNo) (rs1 : RegNo) (imm : Imm16)
  /-- AUIPC (R147): AUIPC writes PC plus the shifted IMM21. -/
  | auipc (h : Th) (rd : RegNo) (imm : Imm21)
  /-- LB (R148): LB loads one byte, sign-extended. -/
  | lb (h : Th) (rd : RegNo) (rs1 : RegNo) (imm : Imm16)
  /-- LBU (R148): LBU loads one byte, zero-extended. -/
  | lbu (h : Th) (rd : RegNo) (rs1 : RegNo) (imm : Imm16)
  /-- LH (R148): LH loads two bytes, sign-extended. -/
  | lh (h : Th) (rd : RegNo) (rs1 : RegNo) (imm : Imm16)
  /-- LHU (R148): LHU loads two bytes, zero-extended. -/
  | lhu (h : Th) (rd : RegNo) (rs1 : RegNo) (imm : Imm16)
  /-- LW (R148): LW loads four bytes, sign-extended. -/
  | lw (h : Th) (rd : RegNo) (rs1 : RegNo) (imm : Imm16)
  /-- LWU (R148): LWU loads four bytes, zero-extended. -/
  | lwu (h : Th) (rd : RegNo) (rs1 : RegNo) (imm : Imm16)
  /-- LD (R148): LD loads eight bytes. -/
  | ld (h : Th) (rd : RegNo) (rs1 : RegNo) (imm : Imm16)
  /-- SB (R150): SB posts a one-byte store. -/
  | sb (h : Th) (rs2 : RegNo) (rs1 : RegNo) (imm : Imm16)
  /-- SH (R150): SH posts a two-byte store. -/
  | sh (h : Th) (rs2 : RegNo) (rs1 : RegNo) (imm : Imm16)
  /-- SW (R150): SW posts a four-byte store. -/
  | sw (h : Th) (rs2 : RegNo) (rs1 : RegNo) (imm : Imm16)
  /-- SD (R150): SD posts an eight-byte store. -/
  | sd (h : Th) (rs2 : RegNo) (rs1 : RegNo) (imm : Imm16)
  /-- LD_ACQ (R119): LD.ACQ performs an acquiring load at home, after the cluster's copy of the line is written back and invalidated. -/
  | ldAcq (h : Th) (rd : RegNo) (rs1 : RegNo) (size : Imm2) (sx : Bool)
  /-- ST_REL (R119): ST.REL performs a releasing store at home once every earlier access has been performed. -/
  | stRel (h : Th) (rs1 : RegNo) (rs2 : RegNo) (size : Imm2)
  /-- AMO_ADD (R152): An atomic add is performed at home and returns the old value. -/
  | amoAdd (h : Th) (rd : RegNo) (rs1 : RegNo) (rs2 : RegNo) (dword : Bool) (order : Imm2)
  /-- AMO_AND (R152): An atomic AND is performed at home and returns the old value. -/
  | amoAnd (h : Th) (rd : RegNo) (rs1 : RegNo) (rs2 : RegNo) (dword : Bool) (order : Imm2)
  /-- AMO_OR (R152): An atomic OR is performed at home and returns the old value. -/
  | amoOr (h : Th) (rd : RegNo) (rs1 : RegNo) (rs2 : RegNo) (dword : Bool) (order : Imm2)
  /-- AMO_XOR (R152): An atomic XOR is performed at home and returns the old value. -/
  | amoXor (h : Th) (rd : RegNo) (rs1 : RegNo) (rs2 : RegNo) (dword : Bool) (order : Imm2)
  /-- AMO_SMIN (R152): An atomic signed minimum is performed at home. -/
  | amoSmin (h : Th) (rd : RegNo) (rs1 : RegNo) (rs2 : RegNo) (dword : Bool) (order : Imm2)
  /-- AMO_SMAX (R152): An atomic signed maximum is performed at home. -/
  | amoSmax (h : Th) (rd : RegNo) (rs1 : RegNo) (rs2 : RegNo) (dword : Bool) (order : Imm2)
  /-- AMO_UMIN (R152): An atomic unsigned minimum is performed at home. -/
  | amoUmin (h : Th) (rd : RegNo) (rs1 : RegNo) (rs2 : RegNo) (dword : Bool) (order : Imm2)
  /-- AMO_UMAX (R152): An atomic unsigned maximum is performed at home. -/
  | amoUmax (h : Th) (rd : RegNo) (rs1 : RegNo) (rs2 : RegNo) (dword : Bool) (order : Imm2)
  /-- AMO_SWAP (R152): An atomic swap is performed at home and returns the old value. -/
  | amoSwap (h : Th) (rd : RegNo) (rs1 : RegNo) (rs2 : RegNo) (dword : Bool) (order : Imm2)
  /-- AMO_CAS (R153): An atomic compare-and-swap stores rs2 if the location equals rd and returns the old value. -/
  | amoCas (h : Th) (rd : RegNo) (rs1 : RegNo) (rs2 : RegNo) (dword : Bool) (order : Imm2)
  /-- BR_EQ (R156): BR with COND EQ branches if rs1 equals rs2. -/
  | brEq (h : Th) (rs1 : RegNo) (rs2 : RegNo) (imm : Imm13)
  /-- BR_NE (R156): BR with COND NE branches if rs1 differs from rs2. -/
  | brNe (h : Th) (rs1 : RegNo) (rs2 : RegNo) (imm : Imm13)
  /-- BR_LT (R156): BR with COND LT branches on a signed less-than. -/
  | brLt (h : Th) (rs1 : RegNo) (rs2 : RegNo) (imm : Imm13)
  /-- BR_GE (R156): BR with COND GE branches on a signed greater-or-equal. -/
  | brGe (h : Th) (rs1 : RegNo) (rs2 : RegNo) (imm : Imm13)
  /-- BR_LTU (R156): BR with COND LTU branches on an unsigned less-than. -/
  | brLtu (h : Th) (rs1 : RegNo) (rs2 : RegNo) (imm : Imm13)
  /-- BR_GEU (R156): BR with COND GEU branches on an unsigned greater-or-equal. -/
  | brGeu (h : Th) (rs1 : RegNo) (rs2 : RegNo) (imm : Imm13)
  /-- JAL (R156): JAL writes PC + 4 to rd and jumps relative to PC. -/
  | jal (h : Th) (rd : RegNo) (imm : Imm21)
  /-- JALR (R156): JALR writes PC + 4 to rd and jumps to rs1 + IMM16 with bits [1:0] cleared. -/
  | jalr (h : Th) (rd : RegNo) (rs1 : RegNo) (imm : Imm16)
  /-- BP_ANY (R156): BP with COND ANY branches if any bit of the predicate is set. -/
  | bpAny (h : Th) (ps : PredNo) (imm : Imm21)
  /-- BP_ALL (R156): BP with COND ALL branches if all bits of the predicate are set. -/
  | bpAll (h : Th) (ps : PredNo) (imm : Imm21)
  /-- BP_NONE (R156): BP with COND NONE branches if no bit of the predicate is set. -/
  | bpNone (h : Th) (ps : PredNo) (imm : Imm21)
  /-- BP_NOTALL (R156): BP with COND NOTALL branches if not all bits of the predicate are set. -/
  | bpNotall (h : Th) (ps : PredNo) (imm : Imm21)
  /-- FENCE_FULL (R120): FENCE.FULL orders every earlier access and engine issue before every later one. -/
  | fenceFull (h : Th)
  /-- FENCE_ST (R120): FENCE.ST orders earlier stores before later stores. -/
  | fenceSt (h : Th)
  /-- FENCE_LD (R120): FENCE.LD orders earlier loads before later loads and stores. -/
  | fenceLd (h : Th)
  /-- TRAP (R158): TRAP raises the TRAP exception with its 10-bit code in EADDR. -/
  | trap (h : Th) (code : Imm10)
  /-- ERET (R130): ERET clears handler mode and resumes at EPC. -/
  | eret (h : Th)
  /-- TEND (R105): TEND moves the issuing thread to IDLE without waiting for its outstanding accesses. -/
  | tend (h : Th)
  /-- SRR (R158): SRR reads a special register into rd. -/
  | srr (h : Th) (rd : RegNo) (n : RegNo)
  /-- SRW (R159): SRW writes rs1 to a writable special register. -/
  | srw (h : Th) (rs1 : RegNo) (n : RegNo)
  /-- TSTART (R104): TSTART starts an IDLE thread of the same tile at an address with an argument. -/
  | tstart (h : Th) (rd : RegNo) (rs1 : RegNo) (rs2 : RegNo)
  /-- MSEND (R109): MSEND takes a send credit and posts a message, or a CARRY, to a target. -/
  | msend (h : Th) (p : RegNo) (rs1 : RegNo) (rs2 : RegNo) (len : Imm3)
  /-- MWAIT (R113): MWAIT takes the next message or bounce, or enters WAIT_MSG until one arrives or the deadline passes. -/
  | mwait (h : Th) (rs1 : RegNo)
  /-- ENG_MX (R165): ENG to engine 0x0 copies a descriptor into the command buffer for the tile's matrix unit and returns a handle. -/
  | engMx (h : Th) (rd : RegNo) (rs1 : RegNo)
  /-- ENG_AT (R165): ENG to engine 0x1 issues a command to the cluster's Attention engine. -/
  | engAt (h : Th) (rd : RegNo) (rs1 : RegNo)
  /-- ENG_SC (R165): ENG to engine 0x2 issues a command to the cluster's Scan engine. -/
  | engSc (h : Th) (rd : RegNo) (rs1 : RegNo)
  /-- ENG_CV (R165): ENG to engine 0x3 issues a command to the cluster's Convolution engine. -/
  | engCv (h : Th) (rd : RegNo) (rs1 : RegNo)
  /-- ENG_ST (R165): ENG to engine 0x4 issues a command to the Stem engine. -/
  | engSt (h : Th) (rd : RegNo) (rs1 : RegNo)
  /-- ENG_PP (R165): ENG to engine 0x5 issues a command to the Post-processing unit. -/
  | engPp (h : Th) (rd : RegNo) (rs1 : RegNo)
  /-- ENGWAIT (R169): ENGWAIT retrieves a command's result and frees its slot, or waits in WAIT_ENG for it. -/
  | engwait (h : Th) (rd : RegNo) (rs1 : RegNo)
  /-- ENGPOLL (R169): ENGPOLL retrieves a returned result, or writes 0 and keeps the slot. -/
  | engpoll (h : Th) (rd : RegNo) (rs1 : RegNo)
  /-- CWB (R122): CWB writes back the dirty lines of a range in the partition's cache ways. -/
  | cwb (h : Th) (rs1 : RegNo) (rs2 : RegNo)
  /-- CINV (R122): CINV invalidates the lines of a range, discarding dirty data in lines wholly inside it. -/
  | cinv (h : Th) (rs1 : RegNo) (rs2 : RegNo)
  /-- CWBI (R122): CWBI writes back and invalidates the lines of a range. -/
  | cwbi (h : Th) (rs1 : RegNo) (rs2 : RegNo)
  /-- VADD (R173): VADD adds integer lanes. -/
  | vadd (h : Th) (vd : RegNo) (vs1 : RegNo) (form : Imm2) (c : RegNo) (g : PredNo)
  /-- VSUB (R173): VSUB subtracts integer lanes. -/
  | vsub (h : Th) (vd : RegNo) (vs1 : RegNo) (form : Imm2) (c : RegNo) (g : PredNo)
  /-- VMUL (R173): VMUL writes the low 32 bits of each lane product. -/
  | vmul (h : Th) (vd : RegNo) (vs1 : RegNo) (form : Imm2) (c : RegNo) (g : PredNo)
  /-- VMULH (R173): VMULH writes the high 32 bits of each signed lane product. -/
  | vmulh (h : Th) (vd : RegNo) (vs1 : RegNo) (form : Imm2) (c : RegNo) (g : PredNo)
  /-- VMIN (R173): VMIN writes the signed lane minimum. -/
  | vmin (h : Th) (vd : RegNo) (vs1 : RegNo) (form : Imm2) (c : RegNo) (g : PredNo)
  /-- VMAX (R173): VMAX writes the signed lane maximum. -/
  | vmax (h : Th) (vd : RegNo) (vs1 : RegNo) (form : Imm2) (c : RegNo) (g : PredNo)
  /-- VMINU (R173): VMINU writes the unsigned lane minimum. -/
  | vminu (h : Th) (vd : RegNo) (vs1 : RegNo) (form : Imm2) (c : RegNo) (g : PredNo)
  /-- VMAXU (R173): VMAXU writes the unsigned lane maximum. -/
  | vmaxu (h : Th) (vd : RegNo) (vs1 : RegNo) (form : Imm2) (c : RegNo) (g : PredNo)
  /-- VAND (R173): VAND writes the lane bitwise AND. -/
  | vand (h : Th) (vd : RegNo) (vs1 : RegNo) (form : Imm2) (c : RegNo) (g : PredNo)
  /-- VOR (R173): VOR writes the lane bitwise OR. -/
  | vor (h : Th) (vd : RegNo) (vs1 : RegNo) (form : Imm2) (c : RegNo) (g : PredNo)
  /-- VXOR (R173): VXOR writes the lane bitwise XOR. -/
  | vxor (h : Th) (vd : RegNo) (vs1 : RegNo) (form : Imm2) (c : RegNo) (g : PredNo)
  /-- VSLL (R173): VSLL shifts lanes left. -/
  | vsll (h : Th) (vd : RegNo) (vs1 : RegNo) (form : Imm2) (c : RegNo) (g : PredNo)
  /-- VSRL (R173): VSRL shifts lanes right logically. -/
  | vsrl (h : Th) (vd : RegNo) (vs1 : RegNo) (form : Imm2) (c : RegNo) (g : PredNo)
  /-- VSRA (R173): VSRA shifts lanes right arithmetically. -/
  | vsra (h : Th) (vd : RegNo) (vs1 : RegNo) (form : Imm2) (c : RegNo) (g : PredNo)
  /-- VADDS (R173): VADDS adds lanes with signed saturation. -/
  | vadds (h : Th) (vd : RegNo) (vs1 : RegNo) (form : Imm2) (c : RegNo) (g : PredNo)
  /-- VSUBS (R173): VSUBS subtracts lanes with signed saturation. -/
  | vsubs (h : Th) (vd : RegNo) (vs1 : RegNo) (form : Imm2) (c : RegNo) (g : PredNo)
  /-- VABS (R173): VABS writes the lane absolute value. -/
  | vabs (h : Th) (vd : RegNo) (vs1 : RegNo) (g : PredNo)
  /-- VFADD (R174): VFADD adds F32 lanes. -/
  | vfadd (h : Th) (vd : RegNo) (vs1 : RegNo) (form : Imm2) (c : RegNo) (g : PredNo)
  /-- VFSUB (R174): VFSUB subtracts F32 lanes. -/
  | vfsub (h : Th) (vd : RegNo) (vs1 : RegNo) (form : Imm2) (c : RegNo) (g : PredNo)
  /-- VFMUL (R174): VFMUL multiplies F32 lanes. -/
  | vfmul (h : Th) (vd : RegNo) (vs1 : RegNo) (form : Imm2) (c : RegNo) (g : PredNo)
  /-- VFMA (R174): VFMA writes vs1 × src2 + vd with one rounding. -/
  | vfma (h : Th) (vd : RegNo) (vs1 : RegNo) (form : Imm2) (c : RegNo) (g : PredNo)
  /-- VFMIN (R174): VFMIN writes the F32 lane minimum. -/
  | vfmin (h : Th) (vd : RegNo) (vs1 : RegNo) (form : Imm2) (c : RegNo) (g : PredNo)
  /-- VFMAX (R174): VFMAX writes the F32 lane maximum. -/
  | vfmax (h : Th) (vd : RegNo) (vs1 : RegNo) (form : Imm2) (c : RegNo) (g : PredNo)
  /-- VFABS (R174): VFABS writes the F32 absolute value. -/
  | vfabs (h : Th) (vd : RegNo) (vs1 : RegNo) (g : PredNo)
  /-- VFNEG (R174): VFNEG negates F32 lanes. -/
  | vfneg (h : Th) (vd : RegNo) (vs1 : RegNo) (g : PredNo)
  /-- VFSCALE (R174): VFSCALE multiplies F32 lanes by 2^n. -/
  | vfscale (h : Th) (vd : RegNo) (vs1 : RegNo) (form : Imm2) (c : RegNo) (g : PredNo)
  /-- VFRCP (R174): VFRCP writes an approximate reciprocal. -/
  | vfrcp (h : Th) (vd : RegNo) (vs1 : RegNo) (g : PredNo)
  /-- VFRSQ (R174): VFRSQ writes an approximate reciprocal square root. -/
  | vfrsq (h : Th) (vd : RegNo) (vs1 : RegNo) (g : PredNo)
  /-- VCMP_EQ (R175): VCMP EQ writes a predicate of lane equality. -/
  | vcmpEq (h : Th) (pd : PredNo) (vs1 : RegNo) (form : Imm2) (c : RegNo) (g : PredNo)
  /-- VCMP_NE (R175): VCMP NE writes a predicate of lane inequality. -/
  | vcmpNe (h : Th) (pd : PredNo) (vs1 : RegNo) (form : Imm2) (c : RegNo) (g : PredNo)
  /-- VCMP_LT (R175): VCMP LT writes a predicate of signed less-than. -/
  | vcmpLt (h : Th) (pd : PredNo) (vs1 : RegNo) (form : Imm2) (c : RegNo) (g : PredNo)
  /-- VCMP_LE (R175): VCMP LE writes a predicate of signed less-or-equal. -/
  | vcmpLe (h : Th) (pd : PredNo) (vs1 : RegNo) (form : Imm2) (c : RegNo) (g : PredNo)
  /-- VCMP_LTU (R175): VCMP LTU writes a predicate of unsigned less-than. -/
  | vcmpLtu (h : Th) (pd : PredNo) (vs1 : RegNo) (form : Imm2) (c : RegNo) (g : PredNo)
  /-- VCMP_LEU (R175): VCMP LEU writes a predicate of unsigned less-or-equal. -/
  | vcmpLeu (h : Th) (pd : PredNo) (vs1 : RegNo) (form : Imm2) (c : RegNo) (g : PredNo)
  /-- VCMP_FEQ (R175): VCMP FEQ writes a predicate of F32 equality. -/
  | vcmpFeq (h : Th) (pd : PredNo) (vs1 : RegNo) (form : Imm2) (c : RegNo) (g : PredNo)
  /-- VCMP_FLT (R175): VCMP FLT writes a predicate of F32 less-than. -/
  | vcmpFlt (h : Th) (pd : PredNo) (vs1 : RegNo) (form : Imm2) (c : RegNo) (g : PredNo)
  /-- VCMP_FLE (R175): VCMP FLE writes a predicate of F32 less-or-equal. -/
  | vcmpFle (h : Th) (pd : PredNo) (vs1 : RegNo) (form : Imm2) (c : RegNo) (g : PredNo)
  /-- VCMP_FUNORD (R175): VCMP FUNORD writes a predicate of unordered F32 lanes. -/
  | vcmpFunord (h : Th) (pd : PredNo) (vs1 : RegNo) (form : Imm2) (c : RegNo) (g : PredNo)
  /-- VSPLAT (R176): VSPLAT writes rs1[31:0] into the active lanes. -/
  | vsplat (h : Th) (vd : RegNo) (rs1 : RegNo) (g : PredNo)
  /-- VMVS (R176): VMVS moves one lane to a scalar register, sign-extended. -/
  | vmvs (h : Th) (rd : RegNo) (vs1 : RegNo) (rs2 : RegNo)
  /-- VINS (R176): VINS writes a scalar into one lane. -/
  | vins (h : Th) (vd : RegNo) (rs1 : RegNo) (rs2 : RegNo)
  /-- VSEL (R176): VSEL selects each lane from vs1 or vs2 by the predicate. -/
  | vsel (h : Th) (vd : RegNo) (vs1 : RegNo) (vs2 : RegNo) (g : PredNo)
  /-- VPERM (R176): VPERM permutes lanes by an index vector. -/
  | vperm (h : Th) (vd : RegNo) (vs1 : RegNo) (vs2 : RegNo) (g : PredNo)
  /-- VIOTA (R176): VIOTA writes each lane's index. -/
  | viota (h : Th) (vd : RegNo) (g : PredNo)
  /-- VRSUM (R176): VRSUM writes the signed 64-bit sum of the active lanes. -/
  | vrsum (h : Th) (rd : RegNo) (vs1 : RegNo) (g : PredNo)
  /-- VRMAX (R176): VRMAX writes the signed maximum of the active lanes. -/
  | vrmax (h : Th) (rd : RegNo) (vs1 : RegNo) (g : PredNo)
  /-- VRMIN (R176): VRMIN writes the signed minimum of the active lanes. -/
  | vrmin (h : Th) (rd : RegNo) (vs1 : RegNo) (g : PredNo)
  /-- VRFSUM (R176): VRFSUM writes the F32 pairwise-tree sum. -/
  | vrfsum (h : Th) (rd : RegNo) (vs1 : RegNo) (g : PredNo)
  /-- VRFMAX (R176): VRFMAX writes the F32 maximum. -/
  | vrfmax (h : Th) (rd : RegNo) (vs1 : RegNo) (g : PredNo)
  /-- VFEXPMAX (R176): VFEXPMAX writes the maximum floor(log2|x|) of the active lanes. -/
  | vfexpmax (h : Th) (rd : RegNo) (vs1 : RegNo) (g : PredNo)
  /-- VCVT_F32_I32 (R178): VCVT CONV 0 converts F32 lanes to I32, with saturation. -/
  | vcvtF32I32 (h : Th) (vd : RegNo) (vs1 : RegNo) (trunc : Bool) (part : Imm3) (g : PredNo)
  /-- VCVT_I32_F32 (R178): VCVT CONV 1 converts I32 lanes to F32. -/
  | vcvtI32F32 (h : Th) (vd : RegNo) (vs1 : RegNo) (trunc : Bool) (part : Imm3) (g : PredNo)
  /-- VCVT_F32_T16 (R178): VCVT CONV 2 narrows F32 to T16 elements of a part. -/
  | vcvtF32T16 (h : Th) (vd : RegNo) (vs1 : RegNo) (trunc : Bool) (part : Imm3) (g : PredNo)
  /-- VCVT_T16_F32 (R178): VCVT CONV 3 widens T16 elements to F32. -/
  | vcvtT16F32 (h : Th) (vd : RegNo) (vs1 : RegNo) (trunc : Bool) (part : Imm3) (g : PredNo)
  /-- VCVT_F32_H16 (R178): VCVT CONV 4 narrows F32 to H16 elements. -/
  | vcvtF32H16 (h : Th) (vd : RegNo) (vs1 : RegNo) (trunc : Bool) (part : Imm3) (g : PredNo)
  /-- VCVT_H16_F32 (R178): VCVT CONV 5 widens H16 elements to F32. -/
  | vcvtH16F32 (h : Th) (vd : RegNo) (vs1 : RegNo) (trunc : Bool) (part : Imm3) (g : PredNo)
  /-- VCVT_F32_S8 (R178): VCVT CONV 6 narrows F32 to S8 with a block exponent. -/
  | vcvtF32S8 (h : Th) (vd : RegNo) (vs1 : RegNo) (rs2 : RegNo) (trunc : Bool) (part : Imm3) (g : PredNo)
  /-- VCVT_S8_F32 (R178): VCVT CONV 7 widens S8 to F32 with a block exponent. -/
  | vcvtS8F32 (h : Th) (vd : RegNo) (vs1 : RegNo) (rs2 : RegNo) (trunc : Bool) (part : Imm3) (g : PredNo)
  /-- VCVT_F32_S4 (R178): VCVT CONV 8 narrows F32 to S4 with a block exponent. -/
  | vcvtF32S4 (h : Th) (vd : RegNo) (vs1 : RegNo) (rs2 : RegNo) (trunc : Bool) (part : Imm3) (g : PredNo)
  /-- VCVT_S4_F32 (R178): VCVT CONV 9 widens S4 to F32 with a block exponent. -/
  | vcvtS4F32 (h : Th) (vd : RegNo) (vs1 : RegNo) (rs2 : RegNo) (trunc : Bool) (part : Imm3) (g : PredNo)
  /-- VLD (R179): VLD loads the active lanes at unit stride. -/
  | vld (h : Th) (vd : RegNo) (rs1 : RegNo) (imm : Imm13) (g : PredNo)
  /-- VST (R179): VST stores the active lanes at unit stride. -/
  | vst (h : Th) (vd : RegNo) (rs1 : RegNo) (imm : Imm13) (g : PredNo)
  /-- VLDS (R179): VLDS loads lanes at a signed byte stride. -/
  | vlds (h : Th) (vd : RegNo) (rs1 : RegNo) (c : RegNo) (g : PredNo)
  /-- VSTS (R179): VSTS stores lanes at a signed byte stride. -/
  | vsts (h : Th) (vd : RegNo) (rs1 : RegNo) (c : RegNo) (g : PredNo)
  /-- VLDX (R179): VLDX loads lanes at indexed addresses. -/
  | vldx (h : Th) (vd : RegNo) (rs1 : RegNo) (c : RegNo) (g : PredNo)
  /-- VSTX (R179): VSTX stores lanes at indexed addresses. -/
  | vstx (h : Th) (vd : RegNo) (rs1 : RegNo) (c : RegNo) (g : PredNo)
  /-- PAND (R181): PAND writes pa AND pb. -/
  | pand (h : Th) (pd : PredNo) (pa : PredNo) (pb : PredNo)
  /-- POR (R181): POR writes pa OR pb. -/
  | por (h : Th) (pd : PredNo) (pa : PredNo) (pb : PredNo)
  /-- PXOR (R181): PXOR writes pa XOR pb. -/
  | pxor (h : Th) (pd : PredNo) (pa : PredNo) (pb : PredNo)
  /-- PANDN (R181): PANDN writes pa AND NOT pb. -/
  | pandn (h : Th) (pd : PredNo) (pa : PredNo) (pb : PredNo)
  /-- PNOT (R181): PNOT writes NOT pa. -/
  | pnot (h : Th) (pd : PredNo) (pa : PredNo)
  /-- PSET (R181): PSET writes rs1[31:0] to a predicate. -/
  | pset (h : Th) (pd : PredNo) (rs1 : RegNo)
  /-- PGET (R181): PGET writes a predicate, zero-extended, to a scalar. -/
  | pget (h : Th) (rd : RegNo) (pa : PredNo)
  /-- PCNT (R181): PCNT writes the number of bits set in a predicate. -/
  | pcnt (h : Th) (rd : RegNo) (pa : PredNo)
  /-- PFIRST (R181): PFIRST keeps only the lowest set bit. -/
  | pfirst (h : Th) (pd : PredNo) (pa : PredNo)
  /-- PLT (R181): PLT sets the bits below rs1. -/
  | plt (h : Th) (pd : PredNo) (rs1 : RegNo)
  /-- ACCRD (R182): ACCRD copies an accumulator row into a vector register. -/
  | accrd (h : Th) (vd : RegNo) (acc : Imm2) (row : RegNo)
  /-- ACCWR (R182): ACCWR copies a vector register into an accumulator row. -/
  | accwr (h : Th) (vs1 : RegNo) (acc : Imm2) (row : RegNo)
  /-- ACCZ (R182): ACCZ zeroes an accumulator and clears its poison marks. -/
  | accz (h : Th) (acc : Imm2)
  /-- MESSAGE_ARRIVAL (R111): A message reaches its target's device and is judged against the job bound to the target context. -/
  | messageArrival (idx : Nat)
  /-- MESSAGE_SLOT_FREE_DELIVERY (R109): A message waiting in the network is taken when a slot of the target's queue frees. -/
  | messageSlotFreeDelivery (idx : Nat)
  /-- BOUNCE_ARRIVAL (R110): A bounced message returns to the sender's bounce slots with its credit. -/
  | bounceArrival (idx : Nat)
  /-- MWAIT_DEADLINE (R113): The MWAIT deadline passes with an empty queue, and the thread resumes with s24 equal to 0. -/
  | mwaitDeadline (tile : Nat) (thr : Nat)
  /-- MX_COMMAND (R212): A Matrix command leaves the command buffer, is validated and computes C = A × Bᵀ panel by panel through the epilogue. -/
  | mxCommand (tile : Nat) (stop : Option Nat)
  /-- MX_RESULT (R226): A Matrix command returns its result word, applies its Assay totals and steps its scale record. -/
  | mxResult (tile : Nat) (cycles : Nat) (ns : Nat)
  /-- ATTEND (R251): An ATTEND computes attention rows over a range of KV pages. -/
  | attend (cluster : Nat) (stop : Option Nat)
  /-- APPEND (R258): An APPEND pops slots, writes tokens and commits the sequence STATE by compare-and-swap. -/
  | append (cluster : Nat) (stop : Option Nat) (race : Bool) (lost : Nat)
  /-- MERGE (R255): A MERGE combines partial attention records. -/
  | merge (cluster : Nat) (stop : Option Nat)
  /-- AT_RESULT (R262): An Attention command returns its result word. -/
  | atResult (cluster : Nat) (cycles : Nat) (ns : Nat)
  /-- SCAN (R277): A SCAN dispatches through validation, sequence and residency checks, solves a chunk's recurrence and commits it. -/
  | scan (cluster : Nat) (stop : Option Nat) (race : Bool)
  /-- CONVOLVE (R286): A CONVOLVE evaluates the long-convolution form and optionally installs the state. -/
  | convolve (cluster : Nat) (stop : Option Nat)
  /-- EVICT (R282): An EVICT saves a resident stream state to its save area. -/
  | evict (cluster : Nat) (stop : Bool)
  /-- SC_SET_ASIDE_REEXAMINE (R280): The Scan engine re-examines a set-aside command at least once every microsecond. -/
  | scSetAsideReexamine (cluster : Nat) (idx : Nat)
  /-- SC_ORDER_LIMIT_EXPIRY (R281): A command still ahead of sequence when SC_ORDER_LIMIT expires fails with SEQ_AHEAD. -/
  | scOrderLimitExpiry (cluster : Nat) (idx : Nat)
  /-- SC_STATE_SAVE_DONE (R282): A requested save of a stream state is written at home and WHERE.RESIDENT clears. -/
  | scStateSaveDone (idx : Nat) (fail : Bool)
  /-- SC_STATE_LOAD_DONE (R280): A stream state load completes and WHERE is claimed. -/
  | scStateLoadDone (cluster : Nat) (idx : Nat) (fail : Bool)
  /-- SC_RESULT (R290): A Scan command returns its result word. -/
  | scResult (cluster : Nat) (cycles : Nat) (ns : Nat)
  /-- CONV_COMMAND (R300): A Convolution command is dispatched, reserves halo slots and runs on the named tiles' matrix units. -/
  | convCommand (cluster : Nat) (stop : Option Nat)
  /-- HALO_ROW_ARRIVAL (R313): A halo row arrives in an inbound channel and may make a set-aside command dispatchable. -/
  | haloRowArrival (cluster : Nat) (above : Bool)
  /-- CV_SET_ASIDE_REEXAMINE (R301): The Convolution engine re-examines a set-aside command every microsecond. -/
  | cvSetAsideReexamine (cluster : Nat) (idx : Nat)
  /-- CV_HALO_LIMIT_EXPIRY (R313): A command set aside longer than CV_HALO_LIMIT fails with 0x0D0 and releases its slots. -/
  | cvHaloLimitExpiry (cluster : Nat) (idx : Nat)
  /-- CV_RESULT (R321): A Convolution command retires and returns its result, returning halo credits. -/
  | cvResult (cluster : Nat) (cycles : Nat) (ns : Nat)
  /-- STEM_COMMAND (R324): A Stem command computes a first or last layer from pixels or elements. -/
  | stemCommand (limit : Bool) (stop : Option Nat)
  /-- ST_RESULT (R326): A Stem command returns its result word. -/
  | stResult (cycles : Nat) (ns : Nat)
  /-- PP_COMMAND (R331): A Post-processing command forms candidates, decodes boxes and suppresses overlaps. -/
  | ppCommand (limit : Bool) (stop : Bool)
  /-- PP_RESULT (R333): A Post-processing command returns the count of records written. -/
  | ppResult (cycles : Nat) (ns : Nat)
  /-- DOORBELL (R344): A doorbell write for a ring takes a queue entry, is absorbed, or sets RESCAN. -/
  | doorbell (who : Who) (n : Nat) (ring : Nat)
  /-- HG_SERVE_RING (R345): The Headgate takes a doorbell entry or RESCAN bit and consumes and validates packets of the ring. -/
  | hgServeRing
  /-- PACKET_ACCEPT (R349): Once the journal entry is performed in both copies, ACCEPT_NEXT is published and the packet is owed one completion. -/
  | packetAccept (ring : Nat)
  /-- JOB_DISPATCH (R352): A ready packet is bound to the lowest free context and its journal entry becomes DISPATCHED. -/
  | jobDispatch (part : Nat)
  /-- JOB_START (R379): An admitted bound job starts, releasing thread 0 of each tile at its rank's entry. -/
  | jobStart (part : Nat)
  /-- JOB_END (R105): The last end condition of a job holds, and its outputs are committed. -/
  | jobEnd (ctx : Nat)
  /-- COMPLETION_PUBLISH (R357): Once earlier packets have published, the completion record is written, the counts advance and the context is freed. -/
  | completionPublish (ring : Nat)
  /-- TICK_RELEASE (R354): A tick of a class makes one release for each bound ring allocation entry. -/
  | tickRelease
  /-- HG_RESULT_WRITE (R359): A write of HG_RESULT sets the RESULT of the writer's context. -/
  | hgResultWrite (tile : Nat) (ctx : Nat) (value : Nat)
  /-- HG_CTX_SAVE_WRITE (R368): A write of HG_CTX_SAVE sets SAVE_ADDR of a FREE context, or is refused. -/
  | hgCtxSaveWrite (who : Who) (n : Nat) (addr : Nat)
  /-- ENABLE (R373): Ring command ENABLE sets ENABLED and RESCAN. -/
  | enable (who : Who) (n : Nat)
  /-- DISABLE (R373): Ring command DISABLE stops acceptance and dispatch on the ring. -/
  | disable (who : Who) (n : Nat)
  /-- ABORT_QUEUED (R373): Ring command ABORT_QUEUED completes every ACCEPTED packet with ABORTED. -/
  | abortQueued (who : Who) (n : Nat)
  /-- ABORT_JOBS (R373): Ring command ABORT_JOBS ends the jobs serving the ring's dispatched packets. -/
  | abortJobs (who : Who) (n : Nat)
  /-- SET_RESUME (R373): Ring command SET_RESUME resets the sequence numbers and byte counts of a drained ring. -/
  | setResume (who : Who) (n : Nat)
  /-- REPLY_ARRIVAL (R372): A remote reply for a saved thread lands in its reply slot, or is discarded as late. -/
  | replyArrival (ctx : Nat) (slot : Nat) (tag : Nat) (data : Nat) (code : Nat) (psn : Bool)
  /-- REPLY_SLOT_TIMEOUT (R372): A pending reply slot reaches the link-level timeout and becomes done with REMOTE_TIMEOUT. -/
  | replySlotTimeout (ctx : Nat) (slot : Nat)
  /-- SLICE_END (R381): A slice expires, and the job continues or is stopped for saving. -/
  | sliceEnd (part : Nat)
  /-- JOB_QUIESCENT (R387): A stopping job becomes quiescent, slice debt is charged and the save is written. -/
  | jobQuiescent (part : Nat) (stalled : Nat)
  /-- SAVE_WRITTEN (R390): The save area is written, the context becomes SAVED and the next job starts or restores. -/
  | saveWritten (part : Nat) (fail : Bool)
  /-- RESTORE_DONE (R391): A restore completes, replaying replies, messages and withdrawn commands, and the context becomes RUNNING. -/
  | restoreDone (part : Nat)
  /-- WEAR_COMMIT (R398): COMMIT accepts a pending rank-exchange proposal. -/
  | wearCommit (who : Who) (group : Nat)
  /-- WEAR_DECLINE (R398): DECLINE clears a pending proposal. -/
  | wearDecline (who : Who) (group : Nat)
  /-- WEAR_COUNT_UPDATE (R396): Each millisecond, the wear counts of tiles in On clusters are advanced. -/
  | wearCountUpdate
  /-- AUDIO_SAMPLE (R405): A 16 kHz sample is written to the audio ring and AU_HIST_INDEX advances. -/
  | audioSample (ma : Int) (mb : Int) (bc : Int) (ue : List Nat)
  /-- AUDIO_FRAME_END (R438): At the end of each 10 ms frame, the detector computes energy, updates the floor and writes the energy log. -/
  | audioFrameEnd (e : Nat)
  /-- AU_EVENT_ACK (R410): ACK clears PENDING unless a firing occurs in the same cycle. -/
  | auEventAck (who : Who)
  /-- AU_FETCH (R409): AU_FETCH_CMD starts a copy of history ring entries to memory. -/
  | auFetch (who : Who) (count : Nat) (ring : Nat) (chans : Nat) (wait : Bool)
  /-- AU_FETCH_CANCEL (R409): CANCEL ends a running fetch with ABORTED. -/
  | auFetchCancel (who : Who)
  /-- AU_FETCH_DONE (R409): A fetch completes after copying its last entry. -/
  | auFetchDone (fail : Bool)
  /-- STUCK_DETECT (R432): A channel whose PDM bits stay constant for 1 ms sets its STUCK bit. -/
  | stuckDetect (c : Nat)
  /-- PDM_CLOCK_SWITCH (R428): At the next sample boundary after D3 is ready or leaves On, PDM_CLK0 and the decimator ratios change. -/
  | pdmClockSwitch
  /-- WIDE_CHAIN_SETTLED (R414): The wide chain settles, WIDE_START is latched and wide writing begins. -/
  | wideChainSettled
  /-- WIDE_SAMPLE (R442): A 48 kHz wide sample is written to the tenant ring, or dropped. -/
  | wideSample (xs : List Int)
  /-- WIDE_ENABLE (R441): Setting WIDE_EN checks the wide ring and enables the wide stream, or sets WIDE_ERR. -/
  | wideEnable (who : Who) (width : Bool) (pages : Nat) (mask : Nat)
  /-- DRIFT_WINDOW_END (R436): A drift window ends and posts band-energy differences to AU_DRIFT. -/
  | driftWindowEnd (quiet : Bool) (diff : List Int)
  /-- RUNNEL_WAKE (R412): D1 becomes ready with PENDING set, and Runnel enters LISTENING at the look-back index. -/
  | runnelWake
  /-- RUNNEL_FRAME_EVAL (R413): Runnel evaluates its models on one frame or glance entry. -/
  | runnelFrameEval (glance : Bool) (scores : List Nat) (classes : List Nat) (starts : List Nat)
  /-- RUNNEL_HOLD_EXPIRY (R411): HOLD_FRAMES frames pass without ABOVE or a decision, PENDING is acknowledged and Runnel returns to SLEEP. -/
  | runnelHoldExpiry
  /-- RUNNEL_REFRACTORY_END (R411): REFRACTORY frames after a decision pass, and HOLD returns to LISTENING. -/
  | runnelRefractoryEnd
  /-- RUNNEL_HANDOFF_PLACE (R415): Runnel places a waiting handoff record as a packet on the Leat ring and rings the doorbell. -/
  | runnelHandoffPlace
  /-- LOAD (R422): RN_CMD LOAD starts a check and load of a model image. -/
  | load (who : Who)
  /-- RUNNEL_LOAD_SWAP (R422): A checked image is swapped in at a frame boundary, or an in-place copy completes. -/
  | runnelLoadSwap
  /-- STOP (R411): RN_CMD STOP moves Runnel to STOPPED. -/
  | stop (who : Who)
  /-- LISTEN (R411): RN_CMD LISTEN moves Runnel from STOPPED to SLEEP, or to LISTENING if PENDING is set. -/
  | listen (who : Who)
  /-- TRIGGER (R412): RN_CMD TRIGGER starts LISTENING as if an onset occurred at the write. -/
  | trigger (who : Who)
  /-- RN_PIN_CLEAR (R415): Clearing PIN_ASSERTED drives WAKE_GPIO low. -/
  | rnPinClear (who : Who)
  /-- GLANCE_FRAME_END (R466): At the end of a glance frame, the port writes statistics to the glance ring. -/
  | glanceFrameEnd (lines : List (List Nat)) (ago : Nat) (back : Nat)
  /-- CSI_FRAME_START (R451): A Frame Start packet increments the stream's frame index, applies due parameters and writes the WRITING record. -/
  | csiFrameStart (rx : Nat) (vc : Nat) (num : Nat) (hdr : Nat)
  /-- CSI_LONG_PACKET (R448): A long packet is checked and delivered as a line of its stream, or discarded. -/
  | csiLongPacket (rx : Nat) (vc : Nat) (dt : Nat) (hdr : Nat) (crc : Bool) (sot : Bool) (full : Bool) (data : List Nat)
  /-- CSI_FRAME_END (R451): A Frame End ends the stream's frame. -/
  | csiFrameEnd (rx : Nat) (vc : Nat) (hdr : Nat)
  /-- ISP_FRAME_DONE (R461): Once every buffer and statistics write is performed, the record turns DONE. -/
  | ispFrameDone (n : Nat)
  /-- IS_STREAM_ENABLE (R450): Setting EN checks the stream configuration, and enables it or sets CFG_ERR. -/
  | isStreamEnable (who : Who) (n : Nat)
  /-- IS_STREAM_DISABLE (R450): Clearing EN ends the frame in progress as INCOMPLETE and empties the queue. -/
  | isStreamDisable (who : Who) (n : Nat)
  /-- PUSH (R459): IS_S_PUSH_CMD PUSH queues a parameter block with an apply frame, or is refused. -/
  | push (who : Who) (n : Nat) (abs : Bool)
  /-- CLEAR (R460): IS_S_PUSH_CMD CLEAR empties the parameter queue. -/
  | clear (who : Who) (n : Nat)
  /-- DOMAIN_IDLE_EXPIRY (R473): A domain idle for IDLE_DELAY begins entry to its IDLE_STATE, checking the refusers. -/
  | domainIdleExpiry (d : Nat)
  /-- LK_FORCE (R681): A write of FORCE holds the domain On or forces an entry to Retention or Off. -/
  | lkForce (who : Who) (d : Nat) (force : Nat)
  /-- DOMAIN_ENTRY_COMMIT (R473): After preparation completes, the commit window ends with the domain in its new state. -/
  | domainEntryCommit (d : Nat) (fail : Bool)
  /-- WAKE_SOURCE_ASSERT (R480): An enabled wake source asserts and requests a wake of the domains in its map. -/
  | wakeSourceAssert (idx : Nat) (commit : Bool)
  /-- DOMAIN_WAKE_START (R486): The governor starts the next queued wake when power headroom allows and the previous wake has ended. -/
  | domainWakeStart
  /-- DOMAIN_READY (R471): A waking domain becomes ready, and its stalled accesses resume in arrival order. -/
  | domainReady (d : Nat)
  /-- I2C_ADDRESS_MATCH (R481): A bus header matches the device address, latching a wake of D39. -/
  | i2cAddressMatch (addr : Nat)
  /-- GOVERNOR_SAMPLE (R484): Every 10 µs, power is sampled and caps or vault limits are lowered when over the limit. -/
  | governorSample (rails : List Nat)
  /-- GOVERNOR_RAISE (R484): After 1 ms below 90% of the limit, one cap or vault limit is raised. -/
  | governorRaise
  /-- LEVEL_RAMP_DONE (R483): A voltage ramp reaches its target, and the cluster clock changes to the new level. -/
  | levelRampDone (c : Nat)
  /-- THERMAL_SAMPLE (R489): Every 1 ms, the sensors are sampled and thermal caps and refresh multipliers are updated. -/
  | thermalSample (logic : List Int) (dram : List Int)
  /-- THERMAL_CAP_RAISE (R489): After 10 ms below the threshold, the thermal cap is raised one level. -/
  | thermalCapRaise (c : Nat)
  /-- LK_TRIP_CLR (R649): LK_TRIP_CLR ends the trip hold and starts the boot at step 1. -/
  | lkTripClr (who : Who)
  /-- DRAM_REFRESH (R491): A refresh holds a vault, at a rate scaled by layer temperature. -/
  | dramRefresh (v : Nat)
  /-- PATROL_SCRUB (R613): The scrubber reads a granule, corrects it or writes it back poisoned. -/
  | patrolScrub (kind : Nat) (unit : Nat) (corr : Nat) (bad : List Nat) (step : Bool)
  /-- PMBUS_VOUT_RETRY (R667): An unacknowledged VOUT_COMMAND write is repeated every 1 ms. -/
  | pmbusVoutRetry (ack : Bool)
  /-- TIME_ADVANCE (R502): Each D0 cycle, the time counter advances by the rate-adjusted increment and a pending step is applied. -/
  | timeAdvance (cycles : Nat)
  /-- TU_STEP_WRITE (R504): A write of TU_STEP while armed steps the counter at the next cycle, or is refused. -/
  | tuStepWrite (who : Who) (offset : Nat)
  /-- ARM (R504): ARM sets STEP_ARMED and is recorded as a time re-arm. -/
  | arm (who : Who)
  /-- TC_FIRE (R507): A compare channel fires, setting FIRED, driving its pin, making a tick and rescheduling itself. -/
  | tcFire (n : Nat)
  /-- TC_ENABLE (R508): Setting EN of a compare channel enables it, or is refused with CFG_ERR. -/
  | tcEnable (who : Who) (n : Nat)
  /-- TP_PULSE_END (R510): A time-pulse pin returns to its inactive level WIDTH after the firing. -/
  | tpPulseEnd (n : Nat)
  /-- TI_EDGE (R511): An accepted tick-input edge is stamped and makes ticks and a wake event. -/
  | tiEdge (i : Nat) (falling : Bool) (lasted : Nat)
  /-- TI_STAMP_READ (R511): A read of TU_TI_STAMP marks the stamp read. -/
  | tiStampRead (who : Who) (i : Nat)
  /-- BL_BLOCK_SEND (R517): A port sends the next block, sealed or open, or idle. -/
  | blBlockSend (port : Nat)
  /-- BL_BLOCK_RECEIVE (R519): A received block is checked by FEC, CRC and tag and accepted in order, or discarded with NAK. -/
  | blBlockReceive (port : Nat) (fec : Bool) (corr : List Nat) (bytes : List Nat)
  /-- READ (R530): A READ frame is checked at the target and answered with READ_RSP. -/
  | read (idx : Nat) (limit : Bool)
  /-- WRITE (R530): A WRITE frame is checked and performed at the target and answered with WRITE_ACK. -/
  | write (idx : Nat) (limit : Bool)
  /-- ATOMIC (R530): An ATOMIC frame is performed at home at the target. -/
  | atomic (idx : Nat) (limit : Bool)
  /-- MESSAGE (R533): A MESSAGE frame is placed in the target queue or holding buffer, or bounced. -/
  | message (idx : Nat)
  /-- CARRY (R533): A CARRY frame is delivered after the WRITEs ahead of it, or bounced. -/
  | carry (idx : Nat)
  /-- DOORBELL_FRAME (R534): A DOORBELL frame rings a ring of the sending tenant after earlier WRITEs. -/
  | doorbellFrame (idx : Nat)
  /-- READ_RSP (R531): A READ_RSP completes the request of its TAG, or is discarded as stale. -/
  | readRsp (idx : Nat)
  /-- WRITE_ACK (R531): A WRITE_ACK completes a remote store. -/
  | writeAck (idx : Nat)
  /-- ATOMIC_RSP (R531): An ATOMIC_RSP returns the old value of a remote atomic. -/
  | atomicRsp (idx : Nat)
  /-- MSG_RSP (R533): A MSG_RSP returns the sender's credit or carries a bounce. -/
  | msgRsp (idx : Nat)
  /-- UNDELIVERED (R527): An UNDELIVERED frame ends a request or bounces a message at its source. -/
  | undelivered (idx : Nat)
  /-- LINK (R524): A LINK frame carries identifiers, credits or retention requests. -/
  | link (idx : Nat)
  /-- HELLO (R597): A KEY frame HELLO opens a link key exchange. -/
  | hello (idx : Nat)
  /-- CERT (R597): A KEY frame CERT carries part of the certificate chain. -/
  | cert (idx : Nat)
  /-- SHARE (R597): A KEY frame SHARE carries an ephemeral point. -/
  | share (idx : Nat)
  /-- SIGN (R597): A KEY frame SIGN carries the alias signature over the transcript. -/
  | sign (idx : Nat)
  /-- DONE (R597): A KEY frame DONE completes the exchange, and the port keys are derived and installed. -/
  | done_ (idx : Nat)
  /-- BL_REQUEST_TIMEOUT (R531): A remote request reaches BL_TIMEOUT and ends with REMOTE_TIMEOUT. -/
  | blRequestTimeout (tag : Nat)
  /-- BL_FRAME_AGE_DISCARD (R532): A frame held longer than BL_TIMEOUT ÷ 16 is discarded. -/
  | blFrameAgeDiscard (rx : Bool) (port : Nat) (idx : Nat)
  /-- SLOT_RESERVATION_END (R532): A timed-out access slot is released after 33 × BL_TIMEOUT. -/
  | slotReservationEnd (idx : Nat)
  /-- CARRY_TRACK_EXPIRY (R533): A CARRY refusal-tracking entry clears after BL_TIMEOUT. -/
  | carryTrackExpiry (port : Nat) (idx : Nat)
  /-- BL_LANE_FAULT (R544): A lane fault starts a retrain onto four lanes, or takes the port DOWN. -/
  | blLaneFault (port : Nat) (lane : Nat)
  /-- BL_REPLAY_LIMIT (R544): Excess replays start a retrain at the same width. -/
  | blReplayLimit (port : Nat)
  /-- BL_LOCK_LOST (R544): Loss of lock on every lane returns the port to TRAINING. -/
  | blLockLost (port : Nat)
  /-- BL_RETRAIN_END (R544): A retrain ends, and the port is UP or DEGRADED. -/
  | blRetrainEnd (port : Nat)
  /-- BL_BRINGUP_DONE (R542): Bring-up completes, and the port is UP. -/
  | blBringupDone (port : Nat)
  /-- BL_REKEY_THRESHOLD (R540): COUNTER reaches BL_REKEY_THRESH, and a new key is requested. -/
  | blRekeyThreshold (port : Nat)
  /-- BL_PORT_RESET (R544): BL_CTRL RESET takes the port DOWN and then brings it up. -/
  | blPortReset (who : Who) (port : Nat)
  /-- BL_DB_SEND (R534): A write of BL_DB_SEND sends a DOORBELL frame to a peer. -/
  | blDbSend (who : Who) (n : Nat) (tile : Nat) (thr : Nat) (dev : Nat) (ring : Nat)
  /-- HOST_POSTED_WRITE (R559): A host posted write is performed at home in arrival order, or discarded. -/
  | hostPostedWrite (bar : Nat) (offset : Nat) (bytes : List Nat) (psn : Bool)
  /-- HOST_READ (R555): A host read completes with data, with all ones or with poison. -/
  | hostRead (bar : Nat) (offset : Nat) (len : Nat)
  /-- HOST_IF_RESET (R567): PERST_N, a hot reset, a link down or an FLR resets only the host interface. -/
  | hostIfReset (flr : Bool)
  /-- MSIX_HOLDOFF_EXPIRY (R564): HOLDOFF_US passes since the first pending event, and the vector fires. -/
  | msixHoldoffExpiry (v : Nat)
  /-- MSIX_UNMASK (R564): Unmasking a pending vector sends its message and clears the pending bit. -/
  | msixUnmask (v : Nat)
  /-- INGRESS_RECORD (R570): A bounce ingress record is checked and applied as a packet or export, or stops ingress. -/
  | ingressRecord (n : Nat) (bytes : List Nat)
  /-- EXPORT_DONE (R572): An export read finishes and its egress record is queued. -/
  | exportDone (limit : Option Nat) (data : List Nat) (marks : List Nat)
  /-- EGRESS_RECORD_WRITE (R573): A sealed egress record is written when room allows. -/
  | egressRecordWrite (n : Nat)
  /-- MEASURE (R586): The Notary digests a memory range and extends a TMR. -/
  | measure (n : Nat)
  /-- REPORT (R588): The Notary writes a signed attestation report. -/
  | report (n : Nat)
  /-- SPDM_RELAY (R585): The Notary relays a bare SPDM request and returns the response. -/
  | spdmRelay (n : Nat)
  /-- UNBIND (R596): UNBIND erases a quiesced tenant's state and clears its binding and TMRs. -/
  | unbind
  /-- FLOOR_SET (R581): FLOOR_SET burns a new rollback floor word. -/
  | floorSet
  /-- REVOKE_SLOT (R585): REVOKE_SLOT burns the revoke bit of a plat key slot. -/
  | revokeSlot
  /-- SECURITY_RESET (R607): SECURITY_RESET performs a Notary security reset, erasing keys, plat and memory. -/
  | securityReset
  /-- NOTARY_FW_FAULT (R607): A Notary firmware fault raises a Notary security reset. -/
  | notaryFwFault
  /-- NOTARY_TURN (R584): The Notary moves to the next mailbox turn. -/
  | notaryTurn
  /-- GET_VERSION (R590): SPDM GET_VERSION returns version 1.2. -/
  | getVersion (sess : Option Nat) (req : List Nat)
  /-- GET_CAPABILITIES (R590): SPDM GET_CAPABILITIES returns the responder capabilities. -/
  | getCapabilities (sess : Option Nat) (req : List Nat)
  /-- NEGOTIATE_ALGORITHMS (R590): SPDM NEGOTIATE_ALGORITHMS fixes the algorithms. -/
  | negotiateAlgorithms (sess : Option Nat) (req : List Nat)
  /-- GET_DIGESTS (R590): SPDM GET_DIGESTS returns certificate digests. -/
  | getDigests (sess : Option Nat) (req : List Nat)
  /-- GET_CERTIFICATE (R590): SPDM GET_CERTIFICATE returns the slot 0 chain. -/
  | getCertificate (sess : Option Nat) (req : List Nat)
  /-- CHALLENGE (R590): SPDM CHALLENGE returns a signed challenge response. -/
  | challenge (sess : Option Nat) (req : List Nat)
  /-- GET_MEASUREMENTS (R591): SPDM GET_MEASUREMENTS returns tenant reports as measurement blocks. -/
  | getMeasurements (sess : Option Nat) (req : List Nat)
  /-- KEY_EXCHANGE (R590): SPDM KEY_EXCHANGE starts a mutually authenticated session. -/
  | keyExchange (sess : Option Nat) (req : List Nat)
  /-- FINISH (R590): SPDM FINISH completes session establishment. -/
  | finish (sess : Option Nat) (req : List Nat) (chain : List Nat)
  /-- KEY_UPDATE (R590): SPDM KEY_UPDATE updates session keys. -/
  | keyUpdate (sess : Option Nat) (req : List Nat)
  /-- END_SESSION (R595): SPDM END_SESSION ends a session, and the Notary discards its bounce keys. -/
  | endSession (sess : Option Nat) (req : List Nat)
  /-- RESPOND_IF_READY (R590): SPDM RESPOND_IF_READY returns a deferred response. -/
  | respondIfReady (sess : Option Nat) (req : List Nat)
  /-- BIND_TENANT (R594): The vendor request BIND_TENANT waits for ingress to drain, then binds the tenant and installs bounce keys. -/
  | bindTenant (sess : Option Nat) (req : List Nat)
  /-- BIND_DRAIN_DONE (R594): The ingress ring drains, or the 10 ms wait expires, and the binding completes or is refused. -/
  | bindDrainDone
  /-- STATUS (R592): The vendor request STATUS returns BIND_COUNT, BINDER and SESSION. -/
  | status (sess : Option Nat) (req : List Nat)
  /-- IDCODE (R664): The TAP instruction IDCODE selects the ID register. -/
  | idcode (shift : List Nat)
  /-- SAMPLE_PRELOAD (R664): The TAP instruction SAMPLE/PRELOAD selects boundary scan. -/
  | samplePreload (pins : List Nat) (shift : List Nat)
  /-- EXTEST (R664): The TAP instruction EXTEST drives boundary scan and holds D39 On. -/
  | extest (pins : List Nat) (shift : List Nat)
  /-- CLAMP (R664): The TAP instruction CLAMP holds the pins with bypass. -/
  | clamp (shift : List Nat)
  /-- HIGHZ (R664): The TAP instruction HIGHZ floats the pins with bypass. -/
  | highz (shift : List Nat)
  /-- DB_ACCESS (R664): The TAP instruction DB_ACCESS reads or writes a DB register. -/
  | dbAccess (data : Word) (reg : Nat) (write : Bool)
  /-- BYPASS (R664): The TAP instruction BYPASS selects the bypass register. -/
  | bypass (shift : List Nat)
  /-- TILE_FAULT (R615): A residue or parity check fires on a tile, and its jobs end. -/
  | tileFault (tile : Nat) (cause : Nat) (synd : Nat)
  /-- ENGINE_FAULT (R614): A residue check fires on a cluster engine. -/
  | engineFault (eng : Nat) (cluster : Nat) (synd : Nat)
  /-- FAULT_REPEAT_DONE (R616): The classification repeats finish, and the verdict retires, fences or returns the unit. -/
  | faultRepeatDone (part : Nat) (again : Bool) (equal : Bool) (ref : Bool) (disagree : Bool) (synd : Nat)
  /-- RETIRE (R618): FL_RETIRE_CMD RETIRE retires a tile and re-forms its groups. -/
  | retire (who : Who) (tile : Nat)
  /-- ACK (R618): FL_RETIRE_CMD ACK releases a held group. -/
  | ack (who : Who) (group : Nat)
  /-- LAYER_LOSS (R619): A DRAM layer is lost, and its frames are poisoned and withdrawn. -/
  | layerLoss (l : Nat)
  /-- VAULT_FAULT (R620): A vault controller fails, its frames are lost and a journal held there moves. -/
  | vaultFault (v : Nat) (layer : Option Nat)
  /-- CHANNEL_LOSS (R621): A T2 channel is lost and its frames are poisoned. -/
  | channelLoss (c : Nat)
  /-- JOURNAL_REWRITE (R619): The Headgate rewrites a lost journal copy and clears JOURNAL_SINGLE. -/
  | journalRewrite
  /-- CE_SUMMARY_WINDOW (R630): A 1 ms window ends and summarises a unit's corrections in one ECC_CE record. -/
  | ceSummaryWindow (kind : Nat) (unit : Nat) (corr : Nat)
  /-- FSR_RING_ENABLE (R632): Enabling a fault-ledger ring drains the buffered records into it. -/
  | fsrRingEnable (who : Who) (ring : Nat) (log2 : Nat)
  /-- TL_FEED64 (R623): A write of TL_FEED64 feeds eight bytes to the CRC. -/
  | tlFeed64 (who : Who) (n : Nat) (value : Word)
  /-- TL_FEED32 (R623): A write of TL_FEED32 feeds four bytes to the CRC. -/
  | tlFeed32 (who : Who) (n : Nat) (value : Nat)
  /-- TL_FEED8 (R623): A write of TL_FEED8 feeds one byte to the CRC. -/
  | tlFeed8 (who : Who) (n : Nat) (value : Nat)
  /-- RUN (R623): TL_CMD RUN starts a CRC over a memory range. -/
  | run (who : Who) (n : Nat) (len : Nat)
  /-- TL_RUN_DONE (R623): A Tally RUN completes with its status. -/
  | tlRunDone (n : Nat) (fail : Bool)
  /-- CHECK (R624): TL_CMD CHECK compares or latches the check value and judges the alive value. -/
  | check (who : Who) (n : Nat)
  /-- RESET (R624): TL_CMD RESET sets VALUE to all ones. -/
  | reset (who : Who) (n : Nat)
  /-- SPI_FRAME (R675): A 512-cycle SPI frame is received, judged by the Tally unit and queued, and the outbound frame is sent. -/
  | spiFrame (cycles : Nat) (bytes : List Nat)
  /-- POP (R675): POP removes the head inbound SPI frame. -/
  | pop (who : Who)
  /-- IO_SPI_TX_PUSH (R675): PUSH commits IO_SPI_TX as the next outbound frame. -/
  | ioSpiTxPush (who : Who)
  /-- UART_RX_CHAR (R676): A received UART character enters the receive FIFO, or is lost. -/
  | uartRxChar (ch : Nat) (stop : Bool)
  /-- UART_TX_CHAR (R676): The UART finishes sending a character from its transmit FIFO. -/
  | uartTxChar
  /-- UART_DATA_WRITE (R678): A write of IO_UART_DATA queues a byte for transmit. -/
  | uartDataWrite (who : Who) (ch : Nat)
  /-- UART_DATA_READ (R678): A read of IO_UART_DATA removes a received byte. -/
  | uartDataRead (who : Who)
  /-- AS_SNAPSHOT (R211): AS_SNAP_REQ copies a set's counters to the snapshot registers in one cycle. -/
  | asSnapshot (who : Who) (n : Nat) (set : Nat)
  /-- AS_SNAPSHOT_CLEAR (R211): AS_SNAP_REQ with CLEAR copies the counters and zeroes them in the same cycle. -/
  | asSnapshotClear (who : Who) (n : Nat) (set : Nat)
  /-- POWER_ON_RESET (R639): Power-on reset ends, starting the time base, reading fuses and sampling the straps. -/
  | powerOnReset (sel : Nat) (addr : Nat) (uid : List Nat) (life : Nat) (keys : List (List Nat)) (floors : List Nat) (svnN : Nat) (svnR : Nat) (fwKey : List Nat) (cert : List Nat) (grade : Nat)
  /-- BOOT_SPI_FRAME (R640): A boot image frame arrives through the SPI target and is accepted or discarded. -/
  | bootSpiFrame (bytes : List Nat)
  /-- BOOT_IMAGE_STAGED (R642): The whole boot image is staged and is checked, verified and started. -/
  | bootImageStaged
  /-- RST_N_ASSERT (R645): RST_N low starts a warm reset. -/
  | rstNAssert
  /-- RST_N_RISE (R645): RST_N rises after step 4, and the domains wake, the plat is re-applied and recovery runs. -/
  | rstNRise
  /-- DEVICE (R645): LK_RESET_CMD KIND DEVICE performs a device software reset. -/
  | device (who : Who)
  /-- PARTITION (R647): LK_RESET_CMD KIND PARTITION resets one partition. -/
  | partition (who : Who) (part : Nat)
  /-- TILE (R648): LK_RESET_CMD KIND TILE resets one tile. -/
  | tile (who : Who) (tile : Nat)
  /-- DEVICE_FAULT (R608): An uncorrectable error in Headgate or network-on-chip control state is recovered as a device software reset. -/
  | deviceFault (dom : Nat)
  /-- LOSS_OF_POWER (R637): VDD_AO falls below 0.65 V for 1 µs, or all rails collapse, and the device loses every state as power-on reset begins. -/
  | lossOfPower
  /-- CONFIGURATION_WRITE (R562): A host configuration write changes Bus Master Enable or moves the function between D0 and D3hot. -/
  | configurationWrite (bme : Bool) (d3hot : Bool)
  /-- ASPM_L1_ENTRY (R566): The host link enters ASPM L1, letting D8 count as idle. -/
  | aspmL1Entry
  /-- PME_TURN_OFF (R566): The host sends PME_Turn_Off and the link goes to L2, allowing D7 and D8 to enter Off. -/
  | pmeTurnOff
  /-- LINK_REACHES_L0 (R566): The host link completes training and reaches L0 after PERST_N, a hot reset or a link-down. -/
  | linkReachesL0 (speed : Nat) (width : Nat)
  /-- TENANT_WINDOW_START (R603): In confidential mode a shared engine's wheel moves to the next tenant's 100 µs window, letting that tenant's queued command start. -/
  | tenantWindowStart (eng : Nat) (unit : Nat)
  /-- MR4_TEMPERATURE_POLLING (R92): Every 16 ms the external memory controller polls MR4, updating XM_TEMP and the LPDDR5X refresh rate. -/
  | mr4TemperaturePolling (i : Nat) (code0 : Nat) (code1 : Nat)
  /-- WAKE_SOURCE_DEASSERT (R480): A level wake source driven from outside, such as a GPIO, SPI chip select, signal detect or host electrical idle, returns to its inactive level. -/
  | wakeSourceDeassert (idx : Nat)
  /-- REKEY_KEY_INSTALL (R540): The Notary installs the requested second key in a sealed Brefen port, after which the sender may switch KEYSEL. -/
  | rekeyKeyInstall (port : Nat) (rx : Bool)
  /-- DESKEW_SEQUENCE (R446): A CSI-2 receiver completes an initial or periodic deskew sequence and sets DESKEW_DONE. -/
  | deskewSequence (rx : Nat)
  /-- ULPS_ENTRY_EXIT (R446): The lanes of a CSI-2 receiver enter or leave ULPS, changing CA_STATUS.ULPS. -/
  | ulpsEntryExit (rx : Nat) (enter : Bool)
  /-- ENTDAA (R663): The I3C common command ENTDAA assigns the target a dynamic address. -/
  | entdaa (addr : Nat)
  /-- SETDASA (R663): The I3C common command SETDASA assigns a dynamic address from the static address. -/
  | setdasa (static : Nat) (addr : Nat)
  /-- SETNEWDA (R663): The I3C common command SETNEWDA changes the assigned dynamic address. -/
  | setnewda (cur : Nat) (addr : Nat)
  /-- RSTDAA (R663): The I3C common command RSTDAA clears the dynamic address. -/
  | rstdaa
  deriving DecidableEq, Repr

end Sys2Proof
end

