-- ==== Sys2Proof/Decode.lean ====
section
/-!
DEFINITION. The commands that words spell. The table of operations and events gives no row any bits: thread instructions are named with their operands, and every other command is an event or a register access. The encoding of the thread instructions is `decodeWord` (R142 to R182).
-/
namespace Sys2Proof

/-- The command a word spells by the table's bits: none, for the table gives bits to no row. -/
def decodeTableWord (_nbits _w : Nat) : Option Instr := none

/-! ### The fields of an instruction word (R142) -/

/-- Field A of formats R, I, U, J and M. -/
def fldA (w : BitVec 32) : RegNo := w.extractLsb' 6 5
/-- Field B of formats R, I and M. -/
def fldB (w : BitVec 32) : RegNo := w.extractLsb' 11 5
/-- Field C of format R. -/
def fldC (w : BitVec 32) : RegNo := w.extractLsb' 16 5
/-- Field G of format R. -/
def fldG (w : BitVec 32) : PredNo := w.extractLsb' 21 3
/-- Field FN of format R. -/
def fldFn (w : BitVec 32) : BitVec 8 := w.extractLsb' 24 8
/-- IMM16 of format I. -/
def fldImm16 (w : BitVec 32) : Imm16 := w.extractLsb' 16 16
/-- IMM21 of formats U, J and P. -/
def fldImm21 (w : BitVec 32) : Imm21 := w.extractLsb' 11 21
/-- IMM13 of formats B and M. -/
def fldImm13 (w : BitVec 32) : Imm13 := w.extractLsb' 19 13
/-- G of format M. -/
def fldGM (w : BitVec 32) : PredNo := w.extractLsb' 16 3
/-- The first source register of format B. -/
def fldB1 (w : BitVec 32) : RegNo := w.extractLsb' 9 5
/-- The second source register of format B. -/
def fldB2 (w : BitVec 32) : RegNo := w.extractLsb' 14 5
/-- The low three bits of formats B and P above the opcode: COND of the one, ps of the other. -/
def fldP (w : BitVec 32) : PredNo := w.extractLsb' 6 3

/-- An instruction of which a condition on unused fields holds (R143). -/
def when (b : Bool) (i : Instr) : Option Instr := if b then some i else none

/-- A predicate number in a 5-bit field, whose two high bits must be zero (R142). -/
def predIn (r : RegNo) : Option PredNo := if r.toNat < 8 then some (r.setWidth 3) else none

/-! ### The groups (R144 to R182) -/

/-- OPR (R145). -/
def decodeOpr (h : Th) (a b c : RegNo) (fn : Nat) : Option Instr :=
  match fn with
  | 0x00 => some (.add h a b c) | 0x01 => some (.sub h a b c) | 0x02 => some (.and_ h a b c) | 0x03 => some (.or_ h a b c)
  | 0x04 => some (.xor_ h a b c) | 0x05 => some (.sll h a b c) | 0x06 => some (.srl h a b c) | 0x07 => some (.sra h a b c)
  | 0x08 => some (.slt h a b c) | 0x09 => some (.sltu h a b c) | 0x0A => some (.min h a b c) | 0x0B => some (.max h a b c)
  | 0x0C => some (.minu h a b c) | 0x0D => some (.maxu h a b c) | 0x10 => some (.mul h a b c) | 0x11 => some (.mulh h a b c)
  | 0x12 => some (.mulhu h a b c) | 0x14 => some (.div h a b c) | 0x15 => some (.divu h a b c) | 0x16 => some (.rem h a b c)
  | 0x17 => some (.remu h a b c) | 0x18 => when (c == 0) (.clz h a b) | 0x19 => when (c == 0) (.ctz h a b) | 0x1A => when (c == 0) (.popc h a b)
  | _ => none

/-- SHIFTI (R147): the selector and the amount in IMM16. -/
def decodeShift (h : Th) (a b : RegNo) (imm : Imm16) : Option Instr :=
  let amt : Imm6 := imm.extractLsb' 0 6
  if imm.extractLsb' 8 8 ≠ 0 then none
  else match (imm.extractLsb' 6 2).toNat with
  | 0 => some (.slli h a b amt)
  | 1 => some (.srli h a b amt)
  | 2 => some (.srai h a b amt)
  | _ => none

/-- ORD (R149): the size, LD.ACQ or ST.REL, and sign extension in FN. -/
def decodeOrd (h : Th) (a b c : RegNo) (fn : BitVec 8) : Option Instr :=
  let size : Imm2 := fn.extractLsb' 0 2
  let sx := fn.getLsbD 3
  if 16 ≤ fn.toNat then none
  else if fn.getLsbD 2 then when (a == 0 && !sx) (.stRel h b c size)
  else when (c == 0 && !(sx && size == 3)) (.ldAcq h a b size sx)

/-- AMO (R152): the operation, size and order in FN. -/
def decodeAmo (h : Th) (a b c : RegNo) (fn : BitVec 8) : Option Instr :=
  let d := fn.getLsbD 4
  let o : Imm2 := fn.extractLsb' 5 2
  if fn.getLsbD 7 then none
  else match (fn.extractLsb' 0 4).toNat with
  | 0 => some (.amoAdd h a b c d o) | 1 => some (.amoAnd h a b c d o) | 2 => some (.amoOr h a b c d o) | 3 => some (.amoXor h a b c d o)
  | 4 => some (.amoSmin h a b c d o) | 5 => some (.amoSmax h a b c d o) | 6 => some (.amoUmin h a b c d o) | 7 => some (.amoUmax h a b c d o)
  | 8 => some (.amoSwap h a b c d o) | 9 => some (.amoCas h a b c d o)
  | _ => none

/-- BR (R156): format B. -/
def decodeBr (h : Th) (w : BitVec 32) : Option Instr :=
  let r1 := fldB1 w
  let r2 := fldB2 w
  let i := fldImm13 w
  match (fldP w).toNat with
  | 0 => some (.brEq h r1 r2 i) | 1 => some (.brNe h r1 r2 i) | 2 => some (.brLt h r1 r2 i)
  | 3 => some (.brGe h r1 r2 i) | 4 => some (.brLtu h r1 r2 i) | 5 => some (.brGeu h r1 r2 i)
  | _ => none

/-- BP (R156): format P. -/
def decodeBp (h : Th) (w : BitVec 32) : Instr :=
  let p := fldP w
  let i := fldImm21 w
  match (w.extractLsb' 9 2).toNat with
  | 0 => .bpAny h p i
  | 1 => .bpAll h p i
  | 2 => .bpNone h p i
  | _ => .bpNotall h p i

/-- SYS (R158). -/
def decodeSys (h : Th) (a b c : RegNo) (fn : Nat) : Option Instr :=
  let bare := a == 0 && b == 0 && c == 0
  match fn with
  | 0x00 => when bare (.fenceFull h) | 0x01 => when bare (.fenceSt h) | 0x02 => when bare (.fenceLd h)
  | 0x08 => when (a == 0) (.trap h (c ++ b))
  | 0x09 => when bare (.eret h) | 0x0A => when bare (.tend h)
  | 0x10 => when (b == 0) (.srr h a c) | 0x11 => when (a == 0) (.srw h b c)
  | _ => none

/-- THR (R160): the function in FN[7:5], MSEND's LENGTH in FN[4:2]. The payload registers that R162 reserves are judged by MSEND itself. -/
def decodeThr (h : Th) (a b c : RegNo) (fn : BitVec 8) : Option Instr :=
  let low := fn.extractLsb' 0 5
  match (fn.extractLsb' 5 3).toNat with
  | 0 => when (low == 0) (.tstart h a b c)
  | 1 => when (fn.extractLsb' 0 2 == 0) (.msend h a b c (fn.extractLsb' 2 3))
  | 2 => when (low == 0 && a == 0 && c == 0) (.mwait h b)
  | _ => none

/-- ENG, ENGWAIT and ENGPOLL (R164, R169): the function in FN[7:5], the engine in FN[3:0]. -/
def decodeEng (h : Th) (a b c : RegNo) (fn : Nat) : Option Instr :=
  if c ≠ 0 then none
  else match fn with
  | 0x00 => some (.engMx h a b) | 0x01 => some (.engAt h a b) | 0x02 => some (.engSc h a b)
  | 0x03 => some (.engCv h a b) | 0x04 => some (.engSt h a b) | 0x05 => some (.engPp h a b)
  | 0x20 => some (.engwait h a b) | 0x40 => some (.engpoll h a b)
  | _ => none

/-- CACHE (R171). -/
def decodeCache (h : Th) (a b c : RegNo) (fn : Nat) : Option Instr :=
  if a ≠ 0 then none
  else match fn with
  | 0x00 => some (.cwb h b c)
  | 0x01 => some (.cinv h b c)
  | 0x02 => some (.cwbi h b c)
  | _ => none

/-- VOP (R173): the form in FN[7:6], the operation in FN[5:0]. -/
def decodeVop (h : Th) (a b c : RegNo) (g : PredNo) (f : Imm2) (op : Nat) : Option Instr :=
  if f = 3 then none
  else match op with
  | 0x00 => some (.vadd h a b f c g) | 0x01 => some (.vsub h a b f c g) | 0x02 => some (.vmul h a b f c g) | 0x03 => some (.vmulh h a b f c g)
  | 0x04 => some (.vmin h a b f c g) | 0x05 => some (.vmax h a b f c g) | 0x06 => some (.vminu h a b f c g) | 0x07 => some (.vmaxu h a b f c g)
  | 0x08 => some (.vand h a b f c g) | 0x09 => some (.vor h a b f c g) | 0x0A => some (.vxor h a b f c g) | 0x0B => some (.vsll h a b f c g)
  | 0x0C => some (.vsrl h a b f c g) | 0x0D => some (.vsra h a b f c g) | 0x0E => some (.vadds h a b f c g) | 0x0F => some (.vsubs h a b f c g)
  | 0x10 => when (f == 0 && c == 0) (.vabs h a b g)
  | _ => none

/-- VFOP (R173): the immediate form is VOP's alone. -/
def decodeVfop (h : Th) (a b c : RegNo) (g : PredNo) (f : Imm2) (op : Nat) : Option Instr :=
  let unary := f == 0 && c == 0
  if 2 ≤ f.toNat then none
  else match op with
  | 0x00 => some (.vfadd h a b f c g) | 0x01 => some (.vfsub h a b f c g) | 0x02 => some (.vfmul h a b f c g) | 0x03 => some (.vfma h a b f c g)
  | 0x04 => some (.vfmin h a b f c g) | 0x05 => some (.vfmax h a b f c g) | 0x06 => when unary (.vfabs h a b g) | 0x07 => when unary (.vfneg h a b g)
  | 0x08 => some (.vfscale h a b f c g) | 0x09 => when unary (.vfrcp h a b g) | 0x0A => when unary (.vfrsq h a b g)
  | _ => none

/-- VCMP (R175): the destination is a predicate; the immediate form is for integer lanes. -/
def decodeVcmp (h : Th) (a b c : RegNo) (g : PredNo) (f : Imm2) (op : Nat) : Option Instr :=
  (predIn a).bind fun p =>
    if f = 3 ∨ (f = 2 ∧ 8 ≤ op) then none
    else match op with
    | 0x00 => some (.vcmpEq h p b f c g) | 0x01 => some (.vcmpNe h p b f c g) | 0x02 => some (.vcmpLt h p b f c g) | 0x03 => some (.vcmpLe h p b f c g)
    | 0x04 => some (.vcmpLtu h p b f c g) | 0x05 => some (.vcmpLeu h p b f c g) | 0x08 => some (.vcmpFeq h p b f c g) | 0x09 => some (.vcmpFlt h p b f c g)
    | 0x0A => some (.vcmpFle h p b f c g) | 0x0B => some (.vcmpFunord h p b f c g)
    | _ => none

/-- VMISC (R176). -/
def decodeVmisc (h : Th) (a b c : RegNo) (g : PredNo) (fn : Nat) : Option Instr :=
  match fn with
  | 0x00 => when (c == 0) (.vsplat h a b g) | 0x01 => when (g == 0) (.vmvs h a b c) | 0x02 => when (g == 0) (.vins h a b c)
  | 0x03 => some (.vsel h a b c g) | 0x04 => some (.vperm h a b c g) | 0x05 => when (b == 0 && c == 0) (.viota h a g)
  | 0x08 => when (c == 0) (.vrsum h a b g) | 0x09 => when (c == 0) (.vrmax h a b g) | 0x0A => when (c == 0) (.vrmin h a b g)
  | 0x0B => when (c == 0) (.vrfsum h a b g) | 0x0C => when (c == 0) (.vrfmax h a b g) | 0x0D => when (c == 0) (.vfexpmax h a b g)
  | _ => none

/-- VCVT (R177): CONV in FN[3:0], TRUNC in FN[4], PART in FN[7:5]. -/
def decodeVcvt (h : Th) (a b c : RegNo) (g : PredNo) (fn : BitVec 8) : Option Instr :=
  let t := fn.getLsbD 4
  let p : Imm3 := fn.extractLsb' 5 3
  let n := p.toNat
  match (fn.extractLsb' 0 4).toNat with
  | 0x0 => when (c == 0 && n == 0) (.vcvtF32I32 h a b t p g)
  | 0x1 => when (c == 0 && n == 0) (.vcvtI32F32 h a b t p g)
  | 0x2 => when (c == 0 && decide (n < 2)) (.vcvtF32T16 h a b t p g)
  | 0x3 => when (c == 0 && decide (n < 2)) (.vcvtT16F32 h a b t p g)
  | 0x4 => when (c == 0 && decide (n < 2)) (.vcvtF32H16 h a b t p g)
  | 0x5 => when (c == 0 && decide (n < 2)) (.vcvtH16F32 h a b t p g)
  | 0x6 => when (decide (n < 4)) (.vcvtF32S8 h a b c t p g)
  | 0x7 => when (decide (n < 4)) (.vcvtS8F32 h a b c t p g)
  | 0x8 => some (.vcvtF32S4 h a b c t p g)
  | 0x9 => some (.vcvtS4F32 h a b c t p g)
  | _ => none

/-- VMEM (R179). -/
def decodeVmem (h : Th) (a b c : RegNo) (g : PredNo) (fn : Nat) : Option Instr :=
  match fn with
  | 0x00 => some (.vlds h a b c g)
  | 0x01 => some (.vsts h a b c g)
  | 0x02 => some (.vldx h a b c g)
  | 0x03 => some (.vstx h a b c g)
  | _ => none

/-- POP (R181). -/
def decodePop (h : Th) (a b c : RegNo) (fn : Nat) : Option Instr :=
  let two (f : PredNo → PredNo → PredNo → Instr) : Option Instr := (predIn a).bind fun d => (predIn b).bind fun x => (predIn c).map fun y => f d x y
  let one (f : PredNo → PredNo → Instr) : Option Instr := (predIn a).bind fun d => (predIn b).bind fun x => when (c == 0) (f d x)
  match fn with
  | 0x00 => two (.pand h) | 0x01 => two (.por h) | 0x02 => two (.pxor h) | 0x03 => two (.pandn h) | 0x04 => one (.pnot h)
  | 0x05 => (predIn a).bind fun d => when (c == 0) (.pset h d b)
  | 0x06 => (predIn b).bind fun x => when (c == 0) (.pget h a x)
  | 0x07 => (predIn b).bind fun x => when (c == 0) (.pcnt h a x)
  | 0x08 => one (.pfirst h)
  | 0x09 => (predIn a).bind fun d => when (c == 0) (.plt h d b)
  | _ => none

/-- ACC (R182): the function in FN[7:5], the accumulator in G[22:21]. -/
def decodeAcc (h : Th) (a b c : RegNo) (g : PredNo) (fn : Nat) : Option Instr :=
  let n : Imm2 := g.setWidth 2
  if 4 ≤ g.toNat then none
  else match fn with
  | 0x00 => when (b == 0) (.accrd h a n c)
  | 0x20 => when (a == 0) (.accwr h b n c)
  | 0x40 => when (a == 0 && b == 0 && c == 0) (.accz h n)
  | _ => none

/-- The instruction a word spells for a thread (R142 to R144); none for a reserved encoding (R143). -/
def decodeWord (h : Th) (w : BitVec 32) : Option Instr :=
  let a := fldA w
  let b := fldB w
  let c := fldC w
  let g := fldG w
  let fn := fldFn w
  let form : Imm2 := fn.extractLsb' 6 2
  let op := (fn.extractLsb' 0 6).toNat
  let i := fldImm16 w
  let plain (x : Option Instr) : Option Instr := if g = 0 then x else none
  match (w.extractLsb' 0 6).toNat with
  | 0x01 => plain (decodeOpr h a b c fn.toNat)
  | 0x02 => some (.addi h a b i) | 0x03 => some (.andi h a b i) | 0x04 => some (.ori h a b i) | 0x05 => some (.xori h a b i)
  | 0x06 => some (.slti h a b i) | 0x07 => some (.sltiu h a b i) | 0x08 => decodeShift h a b i
  | 0x09 => some (.lui h a (fldImm21 w)) | 0x0A => some (.shori h a b i) | 0x0B => some (.auipc h a (fldImm21 w))
  | 0x0C => some (.lb h a b i) | 0x0D => some (.lbu h a b i) | 0x0E => some (.lh h a b i) | 0x0F => some (.lhu h a b i)
  | 0x10 => some (.lw h a b i) | 0x11 => some (.lwu h a b i) | 0x12 => some (.ld h a b i)
  | 0x13 => some (.sb h a b i) | 0x14 => some (.sh h a b i) | 0x15 => some (.sw h a b i) | 0x16 => some (.sd h a b i)
  | 0x17 => plain (decodeOrd h a b c fn) | 0x18 => plain (decodeAmo h a b c fn) | 0x19 => decodeBr h w
  | 0x1A => some (.jal h a (fldImm21 w)) | 0x1B => some (.jalr h a b i) | 0x1C => some (decodeBp h w)
  | 0x1D => plain (decodeSys h a b c fn.toNat) | 0x1E => plain (decodeThr h a b c fn) | 0x1F => plain (decodeEng h a b c fn.toNat)
  | 0x20 => plain (decodeCache h a b c fn.toNat)
  | 0x21 => decodeVop h a b c g form op | 0x22 => decodeVfop h a b c g form op | 0x23 => decodeVcmp h a b c g form op
  | 0x24 => decodeVmisc h a b c g fn.toNat | 0x25 => decodeVcvt h a b c g fn
  | 0x26 => some (.vld h a b (fldImm13 w) (fldGM w)) | 0x27 => some (.vst h a b (fldImm13 w) (fldGM w))
  | 0x28 => decodeVmem h a b c g fn.toNat | 0x29 => plain (decodePop h a b c fn.toNat) | 0x2A => decodeAcc h a b c g fn.toNat
  | _ => none

end Sys2Proof
end

