-- ==== Sys2Proof/Config.lean ====
section
/-!
DEFINITION. What an implementation fixes and the values the specification leaves open. Each free value is an opaque constant: nothing can evaluate it or prove a value of it.
-/
namespace Sys2Proof

/-- A value the specification leaves unspecified, drawn with the state's counter `free` (log entry 3). -/
opaque Config.freeValue : Nat → BitVec 64

/-- The implementation's VFRCP of a lane before it is held inside the bound of R174 (log entry 4). -/
opaque Config.vfrcp : BitVec 32 → BitVec 32

/-- The implementation's VFRSQ of a lane before it is held inside the bound of R174 (log entry 4). -/
opaque Config.vfrsq : BitVec 32 → BitVec 32

/-- The Attention engine's exp2 of an F32 value before it is held inside the bound of R251 (log entry 20). -/
opaque Config.exp2 : BitVec 32 → BitVec 32

/-- Does the implementation round the wear of a temperature up (log entry 45)? -/
opaque Config.wearUp : Int → Bool

/-- The alias key's secret number for a firmware digest (R578): derived from the device secret, which never leaves the key engine (log entry 47). -/
opaque Config.aliasKey : List Nat → Nat

/-- The Notary's secret random numbers in order (log entry 47). -/
opaque Config.secret : Nat → Nat

/-- The alias certificate issued for some content (R579): its form is that of its standard (log entry 47). -/
opaque Config.aliasCert : List Nat → List Nat

/-- What a certificate chain that verifies to the root says (R598): the alias public key, the life cycle, the SVN, the confidential mode; none for one that does not verify (log entry 47). -/
opaque Config.chainInfo : List Nat → List Nat → Option (List Nat × Nat × Nat × Bool)

/-- What a firmware image signed by the maker says (R580): its SVN and whether it asks to raise the floor to it; none for one that does not verify under the key whose digest the fuses hold. Its form is the maker's (log entry 56). -/
opaque Config.firmware : List Nat → List Nat → Option (Nat × Bool)

/-- The public key of 96 bytes that a requester's certificate chain ends in (R593); none for a chain the Notary does not take. Certificates have the form of their own standard (log entry 57). -/
opaque Config.requesterKey : List Nat → Option (List Nat)

/-- Numbers the specification does not give that SPDM and the host interface show (log entry 57): 0 CTExponent, 1 DataTransferSize, 2 MaxSPDMmsgSize, 3 the endpoint's Vendor ID. -/
opaque Config.identity : Nat → Nat

end Sys2Proof
end

