-- ==== Sys2Proof/Machine/Tab.lean ====
section
/-!
DEFINITION. Sparse tables and sets: plain lists in one canonical form, sorted by key, that hold no entry equal to the table's default value.
Every sparse part of the state (registers, memory, threads, contexts, rings) is one of these.
-/
namespace Sys2Proof.Machine

/-- A sparse table: pairs of key and value, the keys rising. -/
abbrev Tab (α : Type) := List (Nat × α)

/-- The entry of key `k`, if one is listed. -/
def Tab.get? {α : Type} : Tab α → Nat → Option α
  | [], _ => none
  | (a, v) :: t, k => if a = k then some v else Tab.get? t k

/-- The entry of key `k`, or the default `d`. -/
def Tab.get {α : Type} (t : Tab α) (d : α) (k : Nat) : α :=
  match t.get? k with
  | some v => v
  | none => d

/-- Put an entry at key `k`, keeping the keys rising. -/
def Tab.ins {α : Type} (k : Nat) (v : α) : Tab α → Tab α
  | [] => [(k, v)]
  | (a, w) :: t =>
    if k < a then (k, v) :: (a, w) :: t
    else if a = k then (k, v) :: t
    else (a, w) :: Tab.ins k v t

/-- Remove the entry of key `k`. -/
def Tab.del {α : Type} (k : Nat) (t : Tab α) : Tab α :=
  t.filter fun p => p.1 != k

/-- Write `v` at key `k` of a table whose unlisted entries read as `d`: writing `d` removes the entry. -/
def Tab.set {α : Type} [DecidableEq α] (t : Tab α) (d : α) (k : Nat) (v : α) : Tab α :=
  if v = d then t.del k else t.ins k v

/-- Remove every entry whose key lies in `[lo, lo + n)`. -/
def Tab.clear {α : Type} (t : Tab α) (lo n : Nat) : Tab α :=
  t.filter fun p => decide (p.1 < lo) || decide (lo + n ≤ p.1)

/-- The keys rise strictly from the lower bound `b` on. -/
def Tab.sortedFrom {α : Type} (b : Nat) : Tab α → Bool
  | [] => true
  | (a, _) :: t => decide (b ≤ a) && Tab.sortedFrom (a + 1) t

/-- The canonical form of a table with default `d`. -/
def Tab.wf {α : Type} [DecidableEq α] (t : Tab α) (d : α) : Bool :=
  Tab.sortedFrom 0 t && t.all fun p => decide (p.2 ≠ d)

/-- A set of numbers: a strictly rising list. -/
abbrev NSet := List Nat

/-- Add a member. -/
def NSet.add (k : Nat) : NSet → NSet
  | [] => [k]
  | a :: t => if k < a then k :: a :: t else if a = k then a :: t else a :: NSet.add k t

/-- Remove a member. -/
def NSet.rem (k : Nat) (t : NSet) : NSet := t.filter fun a => a != k

/-- Is `k` a member? -/
def NSet.has (t : NSet) (k : Nat) : Bool := t.any fun a => a == k

/-- Make `k` a member when `b` holds and no member otherwise. -/
def NSet.put (t : NSet) (k : Nat) (b : Bool) : NSet := if b then NSet.add k t else NSet.rem k t

/-- Remove every member in `[lo, lo + n)`. -/
def NSet.clear (t : NSet) (lo n : Nat) : NSet :=
  t.filter fun a => decide (a < lo) || decide (lo + n ≤ a)

/-- Members in `[lo, lo + n)`. -/
def NSet.within (t : NSet) (lo n : Nat) : NSet :=
  t.filter fun a => decide (lo ≤ a) && decide (a < lo + n)

/-- Replace element `i` of a list; a list too short is left alone. -/
def listSet {α : Type} : List α → Nat → α → List α
  | [], _, _ => []
  | _ :: t, 0, v => v :: t
  | a :: t, i + 1, v => a :: listSet t i v

/-- Remove element `i` of a list. -/
def listDel {α : Type} : List α → Nat → List α
  | [], _ => []
  | _ :: t, 0 => t
  | a :: t, i + 1 => a :: listDel t i

end Sys2Proof.Machine
end

