-- ==== Sys2Proof/Machine/Bits.lean ====
section
/-!
DEFINITION. Bit fields, signed readings and byte order: the helpers every register, descriptor and instruction is read with (R4, R5).
-/
namespace Sys2Proof.Machine

/-- Bits `[hi:lo]` of a number. -/
def bits (v hi lo : Nat) : Nat := v / 2 ^ lo % 2 ^ (hi + 1 - lo)

/-- Bit `i` of a number. -/
def bit (v i : Nat) : Bool := v / 2 ^ i % 2 == 1

/-- A number with its bits `[hi:lo]` replaced by the low bits of `x`. -/
def setBits (v hi lo x : Nat) : Nat :=
  v - bits v hi lo * 2 ^ lo + x % 2 ^ (hi + 1 - lo) * 2 ^ lo

/-- The signed reading of the low `w` bits of a number. -/
def sgn (w v : Nat) : Int :=
  let u := v % 2 ^ w
  if u < 2 ^ (w - 1) then (u : Int) else (u : Int) - 2 ^ w

/-- The two's-complement bits, `w` wide, of an integer. -/
def unsgn (w : Nat) (x : Int) : Nat := (x % (2 ^ w : Int)).toNat

/-- An integer held inside `[lo, hi]`. -/
def clampI (lo hi x : Int) : Int := if x < lo then lo else if hi < x then hi else x

/-- A Bool as a bit. -/
def b2n (b : Bool) : Nat := if b then 1 else 0

/-- Round up to a multiple. -/
def ceilDiv (a b : Nat) : Nat := (a + b - 1) / b

/-- A count that saturates at all ones of its width (R9). -/
def satAdd (w a b : Nat) : Nat := min (a + b) (2 ^ w - 1)

/-- Little-endian bytes to a number (R4). -/
def leNat : List Nat → Nat
  | [] => 0
  | b :: t => b % 256 + 256 * leNat t

/-- The low `n` little-endian bytes of a number (R4). -/
def natLe : Nat → Nat → List Nat
  | 0, _ => []
  | n + 1, v => v % 256 :: natLe n (v / 256)

/-- Bytes `[off, off + n)` of a byte string as a little-endian number (R4). -/
def field (bs : List Nat) (off n : Nat) : Nat := leNat ((bs.drop off).take n)

/-- Bytes `[off, off + n)` of a byte string. -/
def slice (bs : List Nat) (off n : Nat) : List Nat := (bs.drop off).take n

/-- Every byte of `[off, off + n)` is zero. -/
def zeroBytes (bs : List Nat) (off n : Nat) : Bool := (slice bs off n).all fun b => b == 0

/-- Replace bytes from `off` on by `xs`. -/
def putBytes (bs : List Nat) (off : Nat) (xs : List Nat) : List Nat :=
  bs.take off ++ xs ++ bs.drop (off + xs.length)

/-- The number of set bits among bits 0 to `n - 1`. -/
def popcount : Nat → Nat → Nat
  | 0, _ => 0
  | n + 1, v => v % 2 + popcount n (v / 2)

/-- The positions of the set bits among bits 0 to `n - 1`, rising. -/
def bitsOf (n v : Nat) : List Nat := (List.range n).filter fun i => bit v i

/-- A number with the given bits set. -/
def maskOf (l : List Nat) : Nat := l.foldl (fun m i => m ||| 2 ^ i) 0

/-- Signed comparison of two 64-bit time values by their difference (R113, R502). -/
def timeReached (now t : Word) : Bool := (now - t).toNat < 2 ^ 63

/-- The index of the first element that a test accepts. -/
def findIdx {α : Type} (p : α → Bool) : List α → Nat → Option Nat
  | [], _ => none
  | a :: t, i => if p a then some i else findIdx p t (i + 1)

end Sys2Proof.Machine
end

