-- ==== Sys2Proof/Machine/RegMap.lean ====
section
/-!
DEFINITION. The register map: every register of every block with its offset, its instances, its width, and of each field the bits, the access code, the reset value and the reserved encodings, as the register tables of the specification give them (R5 to R10, R69 and the tables of R61 to R678).
-/
namespace Sys2Proof.Machine

/-- The access codes of R10. -/
inductive AccCode where
  | rw | ro | wo | w1c | w1s | rwl
  deriving DecidableEq, Repr

/-- A field of a register: name, bits, access code, reset value, reserved encodings. -/
structure Fld where
  name : String
  hi : Nat
  lo : Nat
  acc : AccCode
  reset : Nat
  rsv : List Nat
  deriving DecidableEq, Repr

/-- A register: name, offset in its block, the strides and counts of its repetitions, width in bits, length in bytes when it is a window (R6, else 0), and its fields. -/
structure Reg where
  name : String
  off : Nat
  dims : List (Nat × Nat)
  w : Nat
  win : Nat
  flds : List Fld
  deriving DecidableEq, Repr

/-- A block of R69: prefix, base address, stride and number of instances, and the function that lists its registers is chosen by prefix in `blocks`. -/
structure Blk where
  name : String
  base : Nat
  stride : Nat
  count : Nat
  regs : List Reg
  deriving DecidableEq, Repr

/-- Registers of the LK block, part 1. -/
def regsLK1 : List Reg :=
  [⟨"LK_STATUS", 0x0, [], 32, 0, [⟨"GOV_ACTIVE", 0, 0, .ro, 0, []⟩, ⟨"THERM_ACTIVE", 1, 1, .ro, 0, []⟩, ⟨"TRIP", 2, 2, .w1c, 0, []⟩, ⟨"UNIFORM", 3, 3, .ro, 0, []⟩, ⟨"VAULT_LIMIT", 6, 4, .ro, 0, []⟩]⟩,
   ⟨"LK_PWR_LIMIT", 0x4, [], 32, 0, [⟨"MW", 17, 0, .rwl, 150000, []⟩]⟩,
   ⟨"LK_PWR_NOW", 0x8, [], 32, 0, [⟨"MW", 17, 0, .ro, 0, []⟩]⟩,
   ⟨"LK_ADMIN", 0xC, [], 32, 0, [⟨"TENANT", 2, 0, .rwl, 0, []⟩, ⟨"VALID", 3, 3, .rwl, 0, []⟩]⟩,
   ⟨"LK_THERM_CFG", 0x10, [], 32, 0, [⟨"OFFSET", 3, 0, .rwl, 0, []⟩]⟩,
   ⟨"LK_TRIP_CLR", 0x14, [], 32, 0, [⟨"CLR", 0, 0, .wo, 0, []⟩]⟩,
   ⟨"LK_WAKE_STATUS", 0x18, [], 32, 0, [⟨"DOMAIN", 5, 0, .ro, 0, []⟩, ⟨"BUSY", 6, 6, .ro, 0, []⟩, ⟨"QUEUED", 12, 7, .ro, 0, []⟩]⟩,
   ⟨"LK_GOV_NS", 0x20, [], 64, 0, [⟨"NS", 63, 0, .rw, 0, []⟩]⟩,
   ⟨"LK_THERM_NS", 0x28, [], 64, 0, [⟨"NS", 63, 0, .rw, 0, []⟩]⟩,
   ⟨"LK_GOV_HELD", 0x30, [], 32, 0, [⟨"COUNT", 31, 0, .rw, 0, []⟩]⟩,
   ⟨"LK_D_CTRL", 0x100, [(0x20, 40)], 32, 0, [⟨"FORCE", 1, 0, .rw, 0, []⟩]⟩,
   ⟨"LK_D_STATUS", 0x104, [(0x20, 40)], 32, 0, [⟨"STATE", 1, 0, .ro, 0, []⟩, ⟨"WAKING", 2, 2, .ro, 0, []⟩, ⟨"ENTERING", 3, 3, .ro, 0, []⟩, ⟨"REFUSER", 6, 4, .ro, 0, []⟩, ⟨"IDENT", 23, 8, .ro, 0, []⟩]⟩,
   ⟨"LK_D_ENTRIES", 0x108, [(0x20, 40)], 32, 0, [⟨"COUNT", 31, 0, .rw, 0, []⟩]⟩,
   ⟨"LK_D_REFUSED", 0x10C, [(0x20, 40)], 32, 0, [⟨"COUNT", 31, 0, .rw, 0, []⟩]⟩,
   ⟨"LK_D_ABORTED", 0x110, [(0x20, 40)], 32, 0, [⟨"COUNT", 31, 0, .rw, 0, []⟩]⟩,
   ⟨"LK_D_EDGE_LOST", 0x114, [(0x20, 40)], 32, 0, [⟨"COUNT", 31, 0, .rw, 0, []⟩]⟩,
   ⟨"LK_D_STALL_LIMIT", 0x118, [(0x20, 40)], 32, 0, [⟨"COUNT", 31, 0, .rw, 0, []⟩]⟩,
   ⟨"LK_D_WAKES", 0x11C, [(0x20, 40)], 32, 0, [⟨"COUNT", 31, 0, .rw, 0, []⟩]⟩,
   ⟨"LK_C_LEVEL", 0x800, [(0x10, 16)], 32, 0, [⟨"REQ", 1, 0, .rw, 2, []⟩, ⟨"EFFECTIVE", 3, 2, .ro, 2, []⟩, ⟨"GOV_CAP", 5, 4, .ro, 3, []⟩, ⟨"THERM_CAP", 7, 6, .ro, 3, []⟩, ⟨"MAX", 9, 8, .ro, 2, []⟩]⟩,
   ⟨"LK_C_TEMP", 0x804, [(0x10, 16)], 32, 0, [⟨"LOGIC", 11, 0, .ro, 0, []⟩, ⟨"DRAM", 27, 16, .ro, 0, []⟩, ⟨"REF_MULT", 29, 28, .ro, 1, []⟩]⟩,
   ⟨"LK_C_CAPPED_US", 0x808, [(0x10, 16)], 32, 0, [⟨"US", 31, 0, .rw, 0, []⟩]⟩,
   ⟨"LK_WAKE_CFG", 0x900, [(0x10, 40)], 32, 0, [⟨"EN", 0, 0, .rw, 0, []⟩, ⟨"TYPE", 1, 1, .rw, 0, []⟩, ⟨"POL", 2, 2, .rw, 0, []⟩, ⟨"SEEN", 3, 3, .w1c, 0, []⟩]⟩,
   ⟨"LK_WAKE_MAP", 0x908, [(0x10, 40)], 64, 0, [⟨"DOMAINS", 39, 0, .rw, 0, []⟩]⟩,
   ⟨"LK_RAIL_MW", 0xC00, [(0x10, 11)], 32, 0, [⟨"MW", 17, 0, .ro, 0, []⟩]⟩]

/-- Registers of the LK block, part 2. -/
def regsLK2 : List Reg :=
  [⟨"LK_RAIL_MJ", 0xC08, [(0x10, 11)], 64, 0, [⟨"MJ", 63, 0, .rw, 0, []⟩]⟩,
   ⟨"LK_RESET_CMD", 0x40, [], 32, 0, [⟨"KIND", 1, 0, .wo, 0, [0]⟩, ⟨"PARTITION", 5, 2, .wo, 0, []⟩, ⟨"TILE", 12, 6, .wo, 0, []⟩]⟩,
   ⟨"LK_RESET_STATUS", 0x44, [], 32, 0, [⟨"BUSY", 0, 0, .ro, 0, []⟩, ⟨"REFUSED", 1, 1, .w1c, 0, []⟩, ⟨"LAST_KIND", 3, 2, .ro, 0, []⟩]⟩,
   ⟨"LK_RESET_CAUSE", 0x48, [], 32, 0, [⟨"CAUSE", 2, 0, .ro, 0, []⟩]⟩,
   ⟨"LK_RESET_ABSORBED", 0x4C, [], 32, 0, [⟨"COUNT", 31, 0, .rw, 0, []⟩]⟩,
   ⟨"LK_BOOT_STATUS", 0x50, [], 32, 0, [⟨"STAGE", 2, 0, .ro, 0, []⟩, ⟨"ERROR", 6, 3, .ro, 0, []⟩, ⟨"SOURCE", 8, 7, .ro, 0, []⟩]⟩,
   ⟨"LK_WARM_COUNT", 0x54, [], 32, 0, [⟨"COUNT", 31, 0, .rw, 0, []⟩]⟩]

/-- Registers of the TU block. -/
def regsTU : List Reg :=
  [⟨"TU_TIME", 0x0, [], 64, 0, [⟨"TIME", 63, 0, .ro, 0, []⟩]⟩,
   ⟨"TU_CTRL", 0x8, [], 32, 0, [⟨"STEP_ARMED", 0, 0, .ro, 1, []⟩, ⟨"ARM", 1, 1, .wo, 0, []⟩, ⟨"FINE", 2, 2, .ro, 0, []⟩]⟩,
   ⟨"TU_STEP", 0x10, [], 64, 0, [⟨"OFFSET", 63, 0, .wo, 0, []⟩]⟩,
   ⟨"TU_RATE", 0x18, [], 32, 0, [⟨"RATE", 31, 0, .rw, 0, []⟩]⟩,
   ⟨"TU_STEPS", 0x1C, [], 32, 0, [⟨"COUNT", 31, 0, .rw, 0, []⟩]⟩,
   ⟨"TU_STEP_REFUSED", 0x20, [], 32, 0, [⟨"COUNT", 31, 0, .rw, 0, []⟩]⟩,
   ⟨"TU_LAST_STEP", 0x28, [], 64, 0, [⟨"OFFSET", 63, 0, .ro, 0, []⟩]⟩,
   ⟨"TU_TI_CFG", 0x40, [(0x10, 2)], 32, 0, [⟨"EN", 0, 0, .rw, 0, []⟩, ⟨"EDGE", 1, 1, .rw, 0, []⟩, ⟨"FILTER", 5, 2, .rw, 1, []⟩, ⟨"OVERRUN", 6, 6, .w1c, 0, []⟩]⟩,
   ⟨"TU_TI_COUNT", 0x44, [(0x10, 2)], 32, 0, [⟨"COUNT", 31, 0, .rw, 0, []⟩]⟩,
   ⟨"TU_TI_STAMP", 0x48, [(0x10, 2)], 64, 0, [⟨"TIME", 63, 0, .ro, 0, []⟩]⟩,
   ⟨"TU_TI_REJECT", 0x60, [(0x4, 2)], 32, 0, [⟨"COUNT", 31, 0, .rw, 0, []⟩]⟩,
   ⟨"TU_TC_CTRL", 0x100, [(0x20, 8)], 32, 0, [⟨"EN", 0, 0, .rw, 0, []⟩, ⟨"MODE", 1, 1, .rw, 0, []⟩, ⟨"PIN_EN", 2, 2, .rw, 0, []⟩, ⟨"PIN", 4, 3, .rw, 0, []⟩, ⟨"POL", 5, 5, .rw, 0, []⟩, ⟨"FIRED", 6, 6, .w1c, 0, []⟩, ⟨"CFG_ERR", 7, 7, .w1c, 0, []⟩, ⟨"WIDTH", 31, 16, .rw, 1000, []⟩]⟩,
   ⟨"TU_TC_BIND", 0x104, [(0x20, 8)], 32, 0, [⟨"BOUND", 0, 0, .ro, 0, []⟩, ⟨"CLASS", 3, 1, .ro, 0, []⟩, ⟨"OWNER", 6, 4, .rwl, 0, []⟩, ⟨"OWNER_VALID", 7, 7, .rwl, 0, []⟩, ⟨"MISSED", 31, 8, .rw, 0, []⟩]⟩,
   ⟨"TU_TC_TIME", 0x108, [(0x20, 8)], 64, 0, [⟨"TIME", 63, 0, .rw, 0, []⟩]⟩,
   ⟨"TU_TC_PERIOD", 0x110, [(0x20, 8)], 64, 0, [⟨"PERIOD", 63, 0, .rw, 0, []⟩]⟩]

/-- Registers of the NT block. -/
def regsNT : List Reg :=
  [⟨"NT_MB_CMD", 0x0, [(0x1000, 9)], 32, 0, [⟨"OP", 7, 0, .wo, 0, []⟩]⟩,
   ⟨"NT_MB_ARG0", 0x8, [(0x1000, 9)], 64, 0, [⟨"ARG", 63, 0, .rw, 0, []⟩]⟩,
   ⟨"NT_MB_ARG1", 0x10, [(0x1000, 9)], 64, 0, [⟨"ARG", 63, 0, .rw, 0, []⟩]⟩,
   ⟨"NT_MB_ARG2", 0x18, [(0x1000, 9)], 64, 0, [⟨"ARG", 63, 0, .rw, 0, []⟩]⟩,
   ⟨"NT_MB_STATUS", 0x20, [(0x1000, 9)], 32, 0, [⟨"BUSY", 0, 0, .ro, 0, []⟩, ⟨"OVERRUN", 1, 1, .w1c, 0, []⟩, ⟨"STATUS", 7, 4, .ro, 0, []⟩, ⟨"DETAIL", 15, 8, .ro, 0, []⟩]⟩,
   ⟨"NT_MB_RESULT", 0x28, [(0x1000, 9)], 64, 0, [⟨"VALUE", 63, 0, .ro, 0, []⟩]⟩,
   ⟨"NT_INFO", 0x8040, [], 32, 0, [⟨"LIFECYCLE", 1, 0, .ro, 0, []⟩, ⟨"CONF_ACTIVE", 2, 2, .ro, 0, []⟩, ⟨"SLOT_REVOKED", 6, 3, .ro, 0, []⟩, ⟨"SLOT_WRITTEN", 10, 7, .ro, 0, []⟩]⟩,
   ⟨"NT_FLOOR", 0x8048, [], 64, 0, [⟨"SERIAL", 63, 0, .ro, 0, []⟩]⟩,
   ⟨"NT_SVN", 0x8050, [], 32, 0, [⟨"NOTARY", 15, 0, .ro, 0, []⟩, ⟨"RUNNEL", 31, 16, .ro, 0, []⟩]⟩,
   ⟨"NT_UID", 0x8060, [], 32, 16, []⟩]

/-- Registers of the FL block. -/
def regsFL : List Reg :=
  [⟨"FL_STATUS", 0x0, [], 32, 0, [⟨"CLASSIFYING", 0, 0, .ro, 0, []⟩, ⟨"JOURNAL_SINGLE", 1, 1, .ro, 0, []⟩, ⟨"BUFFERED", 10, 2, .ro, 0, []⟩]⟩,
   ⟨"FL_CFG", 0x4, [], 32, 0, [⟨"TRANSIENT_LIMIT", 7, 0, .rwl, 8, []⟩, ⟨"T1_HOURS", 12, 8, .rwl, 4, []⟩, ⟨"T2_HOURS", 17, 13, .rwl, 8, []⟩]⟩,
   ⟨"FL_RETIRE_CMD", 0x8, [], 32, 0, [⟨"TILE", 6, 0, .wo, 0, []⟩, ⟨"OP", 9, 7, .wo, 0, []⟩, ⟨"GROUP", 17, 10, .wo, 0, []⟩]⟩,
   ⟨"FL_RETIRED", 0x10, [(0x4, 4)], 32, 0, [⟨"TILES", 31, 0, .ro, 0, []⟩]⟩,
   ⟨"FL_DEV_RING_BASE", 0x20, [], 64, 0, [⟨"ADDR", 63, 0, .rw, 0, []⟩]⟩,
   ⟨"FL_DEV_RING_CFG", 0x28, [], 32, 0, [⟨"LOG2", 4, 0, .rw, 10, []⟩, ⟨"EN", 5, 5, .rw, 0, []⟩]⟩,
   ⟨"FL_DEV_PROD", 0x30, [], 64, 0, [⟨"COUNT", 63, 0, .ro, 0, []⟩]⟩,
   ⟨"FL_LOST", 0x38, [], 32, 0, [⟨"COUNT", 31, 0, .rw, 0, []⟩]⟩,
   ⟨"FL_FWD_ERR", 0x3C, [], 32, 0, [⟨"COUNT", 31, 0, .rw, 0, []⟩]⟩,
   ⟨"FL_TILE_FAULTS", 0x40, [], 32, 0, [⟨"COUNT", 31, 0, .rw, 0, []⟩]⟩,
   ⟨"FL_TRANSIENT", 0x44, [], 32, 0, [⟨"COUNT", 31, 0, .rw, 0, []⟩]⟩,
   ⟨"FL_PERMANENT", 0x48, [], 32, 0, [⟨"COUNT", 31, 0, .rw, 0, []⟩]⟩,
   ⟨"FL_UNRESOLVED", 0x4C, [], 32, 0, [⟨"COUNT", 31, 0, .rw, 0, []⟩]⟩,
   ⟨"FL_CE_T1", 0x50, [], 64, 0, [⟨"COUNT", 63, 0, .rw, 0, []⟩]⟩,
   ⟨"FL_UE_T1", 0x58, [], 64, 0, [⟨"COUNT", 63, 0, .rw, 0, []⟩]⟩,
   ⟨"FL_CE_SRAM", 0x60, [], 64, 0, [⟨"COUNT", 63, 0, .rw, 0, []⟩]⟩,
   ⟨"FL_UE_SRAM", 0x68, [], 64, 0, [⟨"COUNT", 63, 0, .rw, 0, []⟩]⟩,
   ⟨"FL_SCRUB_T1", 0x70, [], 32, 0, [⟨"PASSES", 15, 0, .rw, 0, []⟩, ⟨"POS", 31, 16, .ro, 0, []⟩]⟩,
   ⟨"FL_SCRUB_T2", 0x74, [], 32, 0, [⟨"PASSES", 15, 0, .rw, 0, []⟩]⟩,
   ⟨"FL_T_RING_BASE", 0x1000, [(0x100, 8)], 64, 0, [⟨"ADDR", 63, 0, .rw, 0, []⟩]⟩,
   ⟨"FL_T_RING_CFG", 0x1008, [(0x100, 8)], 32, 0, [⟨"LOG2", 4, 0, .rw, 8, []⟩, ⟨"EN", 5, 5, .rw, 0, []⟩]⟩,
   ⟨"FL_T_PROD", 0x1010, [(0x100, 8)], 64, 0, [⟨"COUNT", 63, 0, .ro, 0, []⟩]⟩,
   ⟨"FL_T_LOST", 0x1018, [(0x100, 8)], 32, 0, [⟨"COUNT", 31, 0, .rw, 0, []⟩]⟩]

/-- Registers of the AS block. -/
def regsAS : List Reg :=
  [⟨"AS_SQERR", 0x1000, [(0x20, 256)], 64, 0, [⟨"VALUE", 63, 0, .rw, 0, []⟩]⟩,
   ⟨"AS_COUNT", 0x1008, [(0x20, 256)], 64, 0, [⟨"VALUE", 63, 0, .rw, 0, []⟩]⟩,
   ⟨"AS_MAXERR", 0x1010, [(0x20, 256)], 32, 0, [⟨"VALUE", 23, 0, .rw, 0, []⟩]⟩,
   ⟨"AS_CLIP", 0x1014, [(0x20, 256)], 32, 0, [⟨"VALUE", 31, 0, .rw, 0, []⟩]⟩,
   ⟨"AS_SET_CTRL", 0x1018, [(0x20, 256)], 32, 0, [⟨"ENABLE", 0, 0, .rw, 0, []⟩, ⟨"SATURATED", 1, 1, .w1c, 0, []⟩]⟩,
   ⟨"AS_SNAP_REQ", 0x100, [(0x40, 8)], 32, 0, [⟨"SET", 7, 0, .wo, 0, []⟩, ⟨"CLEAR", 8, 8, .wo, 0, []⟩]⟩,
   ⟨"AS_SNAP_STATUS", 0x104, [(0x40, 8)], 32, 0, [⟨"SET", 7, 0, .ro, 0, []⟩, ⟨"VALID", 8, 8, .ro, 0, []⟩, ⟨"REFUSED", 9, 9, .w1c, 0, []⟩]⟩,
   ⟨"AS_SNAP_SQERR", 0x108, [(0x40, 8)], 64, 0, [⟨"VALUE", 63, 0, .ro, 0, []⟩]⟩,
   ⟨"AS_SNAP_COUNT", 0x110, [(0x40, 8)], 64, 0, [⟨"VALUE", 63, 0, .ro, 0, []⟩]⟩,
   ⟨"AS_SNAP_MAXERR", 0x118, [(0x40, 8)], 32, 0, [⟨"VALUE", 23, 0, .ro, 0, []⟩]⟩,
   ⟨"AS_SNAP_CLIP", 0x11C, [(0x40, 8)], 32, 0, [⟨"VALUE", 31, 0, .ro, 0, []⟩]⟩]

/-- Registers of the TL block. -/
def regsTL : List Reg :=
  [⟨"TL_CFG", 0x0, [], 32, 0, [⟨"OWNER", 2, 0, .rwl, 0, []⟩, ⟨"OWNER_VALID", 3, 3, .rwl, 0, []⟩, ⟨"SOURCE", 5, 4, .rw, 0, [1, 3]⟩, ⟨"ALIVE_EN", 6, 6, .rw, 0, []⟩, ⟨"IRQ_EN", 7, 7, .rw, 0, []⟩, ⟨"VEC", 18, 8, .rw, 0, []⟩]⟩,
   ⟨"TL_STATUS", 0x4, [], 32, 0, [⟨"BUSY", 0, 0, .ro, 0, []⟩, ⟨"OVERRUN", 1, 1, .w1c, 0, []⟩, ⟨"MISMATCH", 2, 2, .w1c, 0, []⟩, ⟨"ALIVE_ERR", 3, 3, .w1c, 0, []⟩, ⟨"CHECKED", 4, 4, .w1c, 0, []⟩, ⟨"LAST_ALIVE", 6, 5, .ro, 0, []⟩, ⟨"LAST_STATUS", 10, 7, .ro, 0, []⟩]⟩,
   ⟨"TL_VALUE", 0x8, [], 32, 0, [⟨"VALUE", 31, 0, .rw, 4294967295, []⟩]⟩,
   ⟨"TL_EXPECT", 0xC, [], 32, 0, [⟨"EXPECT", 31, 0, .rw, 0, []⟩]⟩,
   ⟨"TL_ALIVE", 0x10, [], 32, 0, [⟨"ALIVE", 15, 0, .rw, 0, []⟩, ⟨"ALIVE_TX", 31, 16, .rw, 0, []⟩]⟩,
   ⟨"TL_ALIVE_IN", 0x14, [], 32, 0, [⟨"VALUE", 15, 0, .rw, 0, []⟩]⟩,
   ⟨"TL_FEED64", 0x18, [], 64, 0, [⟨"DATA", 63, 0, .wo, 0, []⟩]⟩,
   ⟨"TL_FEED32", 0x20, [], 32, 0, [⟨"DATA", 31, 0, .wo, 0, []⟩]⟩,
   ⟨"TL_FEED8", 0x24, [], 32, 0, [⟨"DATA", 7, 0, .wo, 0, []⟩]⟩,
   ⟨"TL_ADDR", 0x28, [], 64, 0, [⟨"ADDR", 63, 0, .rw, 0, []⟩]⟩,
   ⟨"TL_CMD", 0x30, [], 32, 0, [⟨"LEN", 23, 0, .wo, 0, []⟩, ⟨"OP", 26, 24, .wo, 0, []⟩]⟩,
   ⟨"TL_RESULT", 0x34, [], 32, 0, [⟨"VALUE", 31, 0, .ro, 0, []⟩]⟩,
   ⟨"TL_CHECKS", 0x38, [], 32, 0, [⟨"COUNT", 31, 0, .rw, 0, []⟩]⟩,
   ⟨"TL_MISMATCHES", 0x3C, [], 32, 0, [⟨"COUNT", 31, 0, .rw, 0, []⟩]⟩,
   ⟨"TL_ALIVE_ERRS", 0x40, [], 32, 0, [⟨"COUNT", 31, 0, .rw, 0, []⟩]⟩]

/-- Registers of the ST block. -/
def regsST : List Reg :=
  [⟨"ST_NP_LIMIT", 0x0, [], 32, 0, [⟨"NS", 15, 0, .rwl, 50000, []⟩]⟩,
   ⟨"ST_STATUS", 0x100, [(0x80, 8)], 32, 0, [⟨"BUSY", 0, 0, .ro, 0, []⟩, ⟨"QUEUED", 5, 1, .ro, 0, []⟩]⟩,
   ⟨"ST_CMD_COUNT", 0x108, [(0x80, 8)], 64, 0, [⟨"COUNT", 63, 0, .rw, 0, []⟩]⟩,
   ⟨"ST_MAC_COUNT", 0x110, [(0x80, 8)], 64, 0, [⟨"COUNT", 63, 0, .rw, 0, []⟩]⟩,
   ⟨"ST_BUSY_CYCLES", 0x118, [(0x80, 8)], 64, 0, [⟨"COUNT", 63, 0, .rw, 0, []⟩]⟩,
   ⟨"ST_NP_OVERRUN", 0x128, [(0x80, 8)], 32, 0, [⟨"COUNT", 31, 0, .rw, 0, []⟩]⟩,
   ⟨"ST_FORMAT_COUNT", 0x12C, [(0x80, 8)], 32, 0, [⟨"COUNT", 31, 0, .rw, 0, []⟩]⟩,
   ⟨"ST_POISON_COUNT", 0x130, [(0x80, 8)], 32, 0, [⟨"COUNT", 31, 0, .rw, 0, []⟩]⟩,
   ⟨"ST_FAULT_COUNT", 0x134, [(0x80, 8)], 32, 0, [⟨"COUNT", 31, 0, .rw, 0, []⟩]⟩,
   ⟨"ST_ACT_CFG", 0x600, [(0x100, 4)], 32, 0, [⟨"SEGS", 0, 0, .rw, 0, []⟩]⟩,
   ⟨"ST_ACT_BP", 0x604, [(0x100, 4), (0x4, 15)], 32, 0, [⟨"BP", 31, 0, .rw, 0, []⟩]⟩,
   ⟨"ST_ACT_SLOPE", 0x640, [(0x100, 4), (0x4, 16)], 32, 0, [⟨"SLOPE", 31, 0, .rw, 0, []⟩]⟩,
   ⟨"ST_ACT_ICPT", 0x680, [(0x100, 4), (0x4, 16)], 32, 0, [⟨"ICPT", 31, 0, .rw, 0, []⟩]⟩]

/-- Registers of the PP block. -/
def regsPP : List Reg :=
  [⟨"PP_NP_LIMIT", 0x0, [], 32, 0, [⟨"NS", 15, 0, .rwl, 50000, []⟩]⟩,
   ⟨"PP_STATUS", 0x100, [(0x80, 8)], 32, 0, [⟨"BUSY", 0, 0, .ro, 0, []⟩, ⟨"QUEUED", 5, 1, .ro, 0, []⟩]⟩,
   ⟨"PP_CMD_COUNT", 0x108, [(0x80, 8)], 64, 0, [⟨"COUNT", 63, 0, .rw, 0, []⟩]⟩,
   ⟨"PP_CAND_IN", 0x110, [(0x80, 8)], 64, 0, [⟨"COUNT", 63, 0, .rw, 0, []⟩]⟩,
   ⟨"PP_BUSY_CYCLES", 0x118, [(0x80, 8)], 64, 0, [⟨"COUNT", 63, 0, .rw, 0, []⟩]⟩,
   ⟨"PP_BOX_OUT", 0x120, [(0x80, 8)], 64, 0, [⟨"COUNT", 63, 0, .rw, 0, []⟩]⟩,
   ⟨"PP_NP_OVERRUN", 0x128, [(0x80, 8)], 32, 0, [⟨"COUNT", 31, 0, .rw, 0, []⟩]⟩,
   ⟨"PP_PRESEL_TRUNC", 0x12C, [(0x80, 8)], 32, 0, [⟨"COUNT", 31, 0, .rw, 0, []⟩]⟩,
   ⟨"PP_POISON_COUNT", 0x130, [(0x80, 8)], 32, 0, [⟨"COUNT", 31, 0, .rw, 0, []⟩]⟩,
   ⟨"PP_FAULT_COUNT", 0x134, [(0x80, 8)], 32, 0, [⟨"COUNT", 31, 0, .rw, 0, []⟩]⟩]

/-- Registers of the XM block. -/
def regsXM : List Reg :=
  [⟨"XM_CFG", 0x0, [], 32, 0, [⟨"CH0_EN", 0, 0, .rwl, 0, []⟩, ⟨"CH1_EN", 1, 1, .rwl, 0, []⟩, ⟨"RATE", 3, 2, .rwl, 2, [3]⟩, ⟨"INLINE_ECC", 4, 4, .rwl, 0, []⟩, ⟨"LINK_ECC", 5, 5, .rwl, 1, []⟩]⟩,
   ⟨"XM_TRAIN", 0x4, [], 32, 0, [⟨"START", 0, 0, .wo, 0, []⟩, ⟨"DONE", 1, 1, .ro, 0, []⟩, ⟨"FAIL", 3, 2, .ro, 0, []⟩]⟩,
   ⟨"XM_CAP", 0x8, [], 32, 0, [⟨"CH0_CAP", 7, 0, .ro, 0, []⟩, ⟨"CH1_CAP", 15, 8, .ro, 0, []⟩]⟩,
   ⟨"XM_STALL_LIMIT", 0xC, [], 32, 0, [⟨"US", 15, 0, .rwl, 0, []⟩]⟩,
   ⟨"XM_ECC_CE", 0x10, [], 32, 0, [⟨"CH0", 15, 0, .ro, 0, []⟩, ⟨"CH1", 31, 16, .ro, 0, []⟩]⟩,
   ⟨"XM_ECC_UE", 0x14, [], 32, 0, [⟨"CH0", 15, 0, .ro, 0, []⟩, ⟨"CH1", 31, 16, .ro, 0, []⟩]⟩,
   ⟨"XM_TEMP", 0x18, [], 32, 0, [⟨"CH0", 2, 0, .ro, 0, []⟩, ⟨"CH1", 10, 8, .ro, 0, []⟩]⟩,
   ⟨"XM_BYTES_CH0", 0x20, [], 64, 0, [⟨"BYTES", 63, 0, .ro, 0, []⟩]⟩,
   ⟨"XM_BYTES_CH1", 0x28, [], 64, 0, [⟨"BYTES", 63, 0, .ro, 0, []⟩]⟩,
   ⟨"XM_QMAX", 0x30, [], 32, 0, [⟨"DEPTH", 6, 0, .ro, 0, []⟩]⟩]

/-- Registers of the AU block, part 1. -/
def regsAU1 : List Reg :=
  [⟨"AU_HIST_INDEX", 0xC000, [], 64, 0, [⟨"INDEX", 63, 0, .ro, 0, []⟩]⟩,
   ⟨"AU_HIST_TENANT", 0xC008, [], 32, 0, [⟨"TENANT", 2, 0, .rwl, 0, []⟩, ⟨"VALID", 3, 3, .rwl, 0, []⟩]⟩,
   ⟨"AU_EVENT_ONSET", 0xC010, [], 64, 0, [⟨"INDEX", 63, 0, .ro, 0, []⟩]⟩,
   ⟨"AU_EVENT_FIRE", 0xC018, [], 64, 0, [⟨"INDEX", 63, 0, .ro, 0, []⟩]⟩,
   ⟨"AU_EVENT_CTRL", 0xC020, [], 32, 0, [⟨"PENDING", 0, 0, .ro, 0, []⟩, ⟨"ACK", 1, 1, .wo, 0, []⟩]⟩,
   ⟨"AU_EVENT_COUNT", 0xC024, [], 32, 0, [⟨"COUNT", 31, 0, .rw, 0, []⟩]⟩,
   ⟨"AU_EVENT_MERGED", 0xC028, [], 32, 0, [⟨"COUNT", 31, 0, .rw, 0, []⟩]⟩,
   ⟨"AU_WIDE_START", 0xC030, [], 64, 0, [⟨"INDEX", 63, 0, .ro, 18446744073709551615, []⟩]⟩,
   ⟨"AU_GLANCE_INDEX", 0xC038, [], 64, 0, [⟨"INDEX", 63, 0, .ro, 0, []⟩]⟩,
   ⟨"AU_FETCH_SRC", 0xC040, [], 64, 0, [⟨"INDEX", 63, 0, .rw, 0, []⟩]⟩,
   ⟨"AU_FETCH_DST", 0xC048, [], 64, 0, [⟨"ADDR", 63, 0, .rw, 0, []⟩]⟩,
   ⟨"AU_FETCH_CMD", 0xC050, [], 32, 0, [⟨"COUNT", 16, 0, .wo, 0, []⟩, ⟨"RING", 18, 17, .wo, 0, [3]⟩, ⟨"CHANNELS", 21, 19, .wo, 0, []⟩, ⟨"WAIT", 22, 22, .wo, 0, []⟩, ⟨"CANCEL", 23, 23, .wo, 0, []⟩]⟩,
   ⟨"AU_FETCH_STATUS", 0xC054, [], 32, 0, [⟨"BUSY", 0, 0, .ro, 0, []⟩, ⟨"OVERRUN", 1, 1, .w1c, 0, []⟩, ⟨"STATUS", 5, 2, .ro, 0, []⟩, ⟨"DETAIL", 13, 6, .ro, 0, []⟩, ⟨"LOST", 30, 14, .ro, 0, []⟩]⟩,
   ⟨"AU_CLK_CFG", 0x0, [], 32, 0, [⟨"LISTEN_RATE", 1, 0, .rwl, 0, [2, 3]⟩, ⟨"LISTEN_MICS", 2, 2, .rwl, 0, []⟩, ⟨"BC_EN", 3, 3, .rwl, 1, []⟩, ⟨"ALIGN_MODE", 4, 4, .rwl, 0, []⟩, ⟨"HPF", 6, 5, .rwl, 0, [3]⟩]⟩,
   ⟨"AU_STATUS", 0x4, [], 32, 0, [⟨"CLK0_RATE", 1, 0, .ro, 0, []⟩, ⟨"WIDE_ON", 2, 2, .ro, 0, []⟩, ⟨"WIDE_ERR", 3, 3, .w1c, 0, []⟩, ⟨"STUCK", 12, 4, .w1c, 0, []⟩]⟩,
   ⟨"AU_MUTE", 0x8, [], 32, 0, [⟨"MUTE", 0, 0, .rw, 0, []⟩]⟩,
   ⟨"AU_DET_CFG", 0x10, [], 32, 0, [⟨"SRC", 2, 0, .rw, 2, [5, 6, 7]⟩, ⟨"ON_FRAMES", 6, 3, .rw, 3, []⟩, ⟨"DOWN_SHIFT", 10, 7, .rw, 3, []⟩, ⟨"RISE_STEP", 18, 11, .rw, 2, []⟩]⟩,
   ⟨"AU_DET_MARGIN", 0x14, [], 32, 0, [⟨"MARGIN", 14, 0, .rw, 2560, []⟩]⟩,
   ⟨"AU_FLOOR", 0x18, [], 32, 0, [⟨"FLOOR", 14, 0, .rw, 12800, []⟩]⟩,
   ⟨"AU_FLOOR_MIN", 0x1C, [], 32, 0, [⟨"FLOOR_MIN", 14, 0, .rw, 2560, []⟩]⟩,
   ⟨"AU_ENERGY", 0x20, [], 32, 0, [⟨"E", 14, 0, .ro, 0, []⟩, ⟨"ABOVE", 15, 15, .ro, 0, []⟩]⟩,
   ⟨"AU_NARROW_CLIP", 0x24, [], 32, 0, [⟨"COUNT", 31, 0, .rw, 0, []⟩]⟩,
   ⟨"AU_CAL_FUSE", 0x100, [(0x4, 9)], 32, 0, [⟨"GAIN", 15, 0, .ro, 0, []⟩, ⟨"DELAY", 31, 16, .ro, 0, []⟩]⟩,
   ⟨"AU_CAL_DELTA", 0x140, [(0x4, 9)], 32, 0, [⟨"GAIN", 15, 0, .rw, 0, []⟩, ⟨"DELAY", 31, 16, .rw, 0, []⟩]⟩]

/-- Registers of the AU block, part 2. -/
def regsAU2 : List Reg :=
  [⟨"AU_CAL_EFF", 0x180, [(0x4, 9)], 32, 0, [⟨"GAIN", 15, 0, .ro, 0, []⟩, ⟨"DELAY", 30, 16, .ro, 0, []⟩, ⟨"CLAMPED", 31, 31, .ro, 0, []⟩]⟩,
   ⟨"AU_WIDE_CTRL", 0x200, [], 32, 0, [⟨"WIDE_EN", 0, 0, .rw, 0, []⟩, ⟨"WIDTH", 1, 1, .rw, 0, []⟩, ⟨"PAGES", 4, 2, .rw, 0, [7]⟩, ⟨"CH_MASK", 15, 8, .rw, 255, []⟩]⟩,
   ⟨"AU_WIDE_BASE", 0x208, [], 64, 0, [⟨"ADDR", 63, 0, .rw, 0, []⟩]⟩,
   ⟨"AU_WIDE_INDEX", 0x210, [], 64, 0, [⟨"INDEX", 63, 0, .ro, 0, []⟩]⟩,
   ⟨"AU_WIDE_DROP", 0x218, [], 32, 0, [⟨"COUNT", 31, 0, .rw, 0, []⟩]⟩,
   ⟨"AU_WIDE_DROP_INDEX", 0x220, [], 64, 0, [⟨"INDEX", 63, 0, .ro, 0, []⟩]⟩,
   ⟨"AU_RECAL_CTRL", 0x300, [], 32, 0, [⟨"RECAL_EN", 0, 0, .rw, 0, []⟩, ⟨"WINDOW_S", 15, 8, .rw, 60, []⟩]⟩,
   ⟨"AU_DRIFT", 0x304, [(0x4, 7)], 32, 0, [⟨"DRIFT", 15, 0, .ro, 0, []⟩, ⟨"VALID", 16, 16, .w1c, 0, []⟩]⟩,
   ⟨"AU_MF_COEF", 0x400, [(0x80, 8), (0x4, 32)], 32, 0, [⟨"COEF", 15, 0, .rw, 0, []⟩]⟩]

/-- Registers of the RN block. -/
def regsRN : List Reg :=
  [⟨"RN_STATUS", 0x0, [], 32, 0, [⟨"STATE", 2, 0, .ro, 5, []⟩, ⟨"MODELS", 6, 3, .ro, 0, []⟩, ⟨"PIN_ASSERTED", 7, 7, .w1c, 0, []⟩, ⟨"CMD_REFUSED", 8, 8, .w1c, 0, []⟩]⟩,
   ⟨"RN_CASCADE_CFG", 0x4, [], 32, 0, [⟨"TARGET", 0, 0, .rwl, 0, []⟩, ⟨"D3_ON", 2, 1, .rwl, 0, [3]⟩, ⟨"WAKE_GPIO", 7, 3, .rwl, 0, [24, 25, 26, 27, 28, 29, 30, 31]⟩]⟩,
   ⟨"RN_LEAT_RING", 0x8, [], 32, 0, [⟨"RING", 15, 0, .rwl, 0, []⟩]⟩,
   ⟨"RN_LEAT_PROG", 0x10, [], 64, 0, [⟨"ADDR", 63, 0, .rwl, 0, []⟩]⟩,
   ⟨"RN_LOOKBACK", 0x18, [], 32, 0, [⟨"SAMPLES", 15, 0, .rw, 8000, []⟩]⟩,
   ⟨"RN_HOLD", 0x1C, [], 32, 0, [⟨"HOLD_FRAMES", 15, 0, .rw, 200, []⟩, ⟨"REFRACTORY", 31, 16, .rw, 100, []⟩]⟩,
   ⟨"RN_CMD", 0x20, [], 32, 0, [⟨"OP", 2, 0, .wo, 0, [0, 5, 6, 7]⟩]⟩,
   ⟨"RN_LOAD_ADDR", 0x28, [], 64, 0, [⟨"ADDR", 63, 0, .rw, 0, []⟩]⟩,
   ⟨"RN_LOAD_STATUS", 0x30, [], 32, 0, [⟨"STATUS", 3, 0, .ro, 0, []⟩, ⟨"OFFSET", 24, 4, .ro, 0, []⟩]⟩,
   ⟨"RN_SWAP_INDEX", 0x38, [], 64, 0, [⟨"INDEX", 63, 0, .ro, 0, []⟩]⟩,
   ⟨"RN_THRESH", 0x40, [(0x4, 8)], 32, 0, [⟨"ON", 15, 0, .rw, 0, []⟩, ⟨"CONFIRM", 23, 16, .rw, 0, []⟩]⟩,
   ⟨"RN_WAKES", 0x80, [], 32, 0, [⟨"COUNT", 31, 0, .rw, 0, []⟩]⟩,
   ⟨"RN_DECISIONS", 0x84, [], 32, 0, [⟨"COUNT", 31, 0, .rw, 0, []⟩]⟩,
   ⟨"RN_DECISIONS_MERGED", 0x88, [], 32, 0, [⟨"COUNT", 31, 0, .rw, 0, []⟩]⟩,
   ⟨"RN_HANDOFF_HELD", 0x8C, [], 32, 0, [⟨"COUNT", 31, 0, .rw, 0, []⟩]⟩,
   ⟨"RN_HANDOFF_DROPPED", 0x90, [], 32, 0, [⟨"COUNT", 31, 0, .rw, 0, []⟩]⟩,
   ⟨"RN_EVENTS_UNSERVED", 0x94, [], 32, 0, [⟨"COUNT", 31, 0, .rw, 0, []⟩]⟩,
   ⟨"RN_LATE", 0x98, [], 32, 0, [⟨"COUNT", 31, 0, .rw, 0, []⟩]⟩,
   ⟨"RN_POISON_FRAMES", 0x9C, [], 32, 0, [⟨"COUNT", 31, 0, .rw, 0, []⟩]⟩,
   ⟨"RN_LOAD_FAIL", 0xA0, [], 32, 0, [⟨"COUNT", 31, 0, .rw, 0, []⟩]⟩,
   ⟨"RN_LAST_RECORD", 0x200, [], 32, 128, []⟩]

/-- Registers of the GP block. -/
def regsGP : List Reg :=
  [⟨"GP_CTRL", 0x0, [], 32, 0, [⟨"EN", 0, 0, .rw, 0, []⟩, ⟨"PIXFMT", 2, 1, .rw, 0, []⟩, ⟨"VS_POL", 3, 3, .rw, 0, []⟩, ⟨"HS_POL", 4, 4, .rw, 0, []⟩, ⟨"PCLK_EDGE", 5, 5, .rw, 0, []⟩, ⟨"YUV_ORDER", 6, 6, .rw, 0, []⟩]⟩,
   ⟨"GP_SIZE", 0x4, [], 32, 0, [⟨"WIDTH", 9, 0, .rw, 160, []⟩, ⟨"HEIGHT", 24, 16, .rw, 120, []⟩]⟩,
   ⟨"GP_MOTION", 0x8, [], 32, 0, [⟨"MOTION_THRESH", 7, 0, .rw, 8, []⟩]⟩,
   ⟨"GP_STATUS", 0xC, [], 32, 0, [⟨"ACTIVE", 0, 0, .ro, 0, []⟩, ⟨"SIZE_ERR", 1, 1, .w1c, 0, []⟩]⟩,
   ⟨"GP_FRAMES", 0x10, [], 32, 0, [⟨"COUNT", 31, 0, .rw, 0, []⟩]⟩,
   ⟨"GP_INCOMPLETE", 0x14, [], 32, 0, [⟨"COUNT", 31, 0, .rw, 0, []⟩]⟩]

/-- Registers of the IS block. -/
def regsIS : List Reg :=
  [⟨"IS_STATUS", 0x0, [], 32, 0, [⟨"ENABLED", 15, 0, .ro, 0, []⟩]⟩,
   ⟨"IS_PIXELS", 0x8, [], 64, 0, [⟨"COUNT", 63, 0, .rw, 0, []⟩]⟩,
   ⟨"IS_S_CFG", 0x1000, [(0x100, 16)], 32, 0, [⟨"EN", 0, 0, .rw, 0, []⟩, ⟨"RX", 2, 1, .rw, 0, []⟩, ⟨"VC", 6, 3, .rw, 0, []⟩, ⟨"DT", 12, 7, .rw, 44, []⟩, ⟨"CFA", 14, 13, .rw, 0, []⟩, ⟨"OUT_FMT", 16, 15, .rw, 0, []⟩, ⟨"POISON_BAD", 17, 17, .rw, 0, []⟩, ⟨"DELAY", 20, 18, .rw, 0, []⟩, ⟨"CFG_ERR", 21, 21, .w1c, 0, []⟩]⟩,
   ⟨"IS_S_SIZE", 0x1004, [(0x100, 16)], 32, 0, [⟨"WIDTH", 13, 0, .rw, 0, []⟩, ⟨"HEIGHT", 29, 16, .rw, 0, []⟩]⟩,
   ⟨"IS_S_NBUF", 0x1008, [(0x100, 16)], 32, 0, [⟨"NBUF", 4, 0, .rw, 1, []⟩]⟩,
   ⟨"IS_S_TENANT", 0x100C, [(0x100, 16)], 32, 0, [⟨"TENANT", 2, 0, .rwl, 0, []⟩, ⟨"VALID", 3, 3, .rwl, 0, []⟩]⟩,
   ⟨"IS_S_BUF_BASE", 0x1010, [(0x100, 16)], 64, 0, [⟨"ADDR", 63, 0, .rw, 0, []⟩]⟩,
   ⟨"IS_S_REC_BASE", 0x1018, [(0x100, 16)], 64, 0, [⟨"ADDR", 63, 0, .rw, 0, []⟩]⟩,
   ⟨"IS_S_STATS_BASE", 0x1020, [(0x100, 16)], 64, 0, [⟨"ADDR", 63, 0, .rw, 0, []⟩]⟩,
   ⟨"IS_S_FRAME_INDEX", 0x1028, [(0x100, 16)], 64, 0, [⟨"INDEX", 63, 0, .ro, 18446744073709551615, []⟩]⟩,
   ⟨"IS_S_PUSH_ADDR", 0x1030, [(0x100, 16)], 64, 0, [⟨"ADDR", 63, 0, .rw, 0, []⟩]⟩,
   ⟨"IS_S_PUSH_FRAME", 0x1038, [(0x100, 16)], 64, 0, [⟨"FRAME", 63, 0, .rw, 0, []⟩]⟩,
   ⟨"IS_S_PUSH_CMD", 0x1040, [(0x100, 16)], 32, 0, [⟨"PUSH", 0, 0, .wo, 0, []⟩, ⟨"ABS", 1, 1, .wo, 0, []⟩, ⟨"CLEAR", 2, 2, .wo, 0, []⟩]⟩,
   ⟨"IS_S_QSTATUS", 0x1044, [(0x100, 16)], 32, 0, [⟨"DEPTH", 3, 0, .ro, 0, []⟩, ⟨"REFUSED", 4, 4, .w1c, 0, []⟩, ⟨"REASON", 6, 5, .ro, 0, []⟩]⟩,
   ⟨"IS_S_LAST_APPLY", 0x1048, [(0x100, 16)], 64, 0, [⟨"FRAME", 63, 0, .ro, 0, []⟩]⟩,
   ⟨"IS_S_FRAMES", 0x1050, [(0x100, 16)], 32, 0, [⟨"COUNT", 31, 0, .rw, 0, []⟩]⟩,
   ⟨"IS_S_INCOMPLETE", 0x1054, [(0x100, 16)], 32, 0, [⟨"COUNT", 31, 0, .rw, 0, []⟩]⟩,
   ⟨"IS_S_LINES_DROPPED", 0x1058, [(0x100, 16)], 32, 0, [⟨"COUNT", 31, 0, .rw, 0, []⟩]⟩,
   ⟨"IS_S_CRC_LINES", 0x105C, [(0x100, 16)], 32, 0, [⟨"COUNT", 31, 0, .rw, 0, []⟩]⟩,
   ⟨"IS_S_PARAM_ERR", 0x1060, [(0x100, 16)], 32, 0, [⟨"COUNT", 31, 0, .rw, 0, []⟩]⟩,
   ⟨"IS_S_SUPERSEDED", 0x1064, [(0x100, 16)], 32, 0, [⟨"COUNT", 31, 0, .rw, 0, []⟩]⟩,
   ⟨"IS_S_LATE", 0x1068, [(0x100, 16)], 32, 0, [⟨"COUNT", 31, 0, .rw, 0, []⟩]⟩,
   ⟨"IS_S_PUSH_FULL", 0x106C, [(0x100, 16)], 32, 0, [⟨"COUNT", 31, 0, .rw, 0, []⟩]⟩]

/-- Registers of the CA block. -/
def regsCA : List Reg :=
  [⟨"CA_CTRL", 0x0, [], 32, 0, [⟨"EN", 0, 0, .rw, 0, []⟩, ⟨"LANES", 2, 1, .rw, 2, [3]⟩, ⟨"LANE_MAP", 11, 4, .rw, 228, []⟩, ⟨"POL", 15, 12, .rw, 0, []⟩, ⟨"CLK_POL", 16, 16, .rw, 0, []⟩]⟩,
   ⟨"CA_RATE", 0x4, [], 32, 0, [⟨"MBPS", 12, 0, .rw, 1500, []⟩]⟩,
   ⟨"CA_TENANT", 0x8, [], 32, 0, [⟨"TENANT", 2, 0, .rwl, 0, []⟩, ⟨"VALID", 3, 3, .rwl, 0, []⟩]⟩,
   ⟨"CA_STATUS", 0xC, [], 32, 0, [⟨"ACTIVE", 0, 0, .ro, 0, []⟩, ⟨"ULPS", 1, 1, .ro, 0, []⟩, ⟨"DESKEW_DONE", 2, 2, .ro, 0, []⟩, ⟨"SYNC_ERR", 3, 3, .w1c, 0, []⟩]⟩,
   ⟨"CA_ECC_CORR", 0x10, [], 32, 0, [⟨"COUNT", 31, 0, .rw, 0, []⟩]⟩,
   ⟨"CA_ECC_UNCORR", 0x14, [], 32, 0, [⟨"COUNT", 31, 0, .rw, 0, []⟩]⟩,
   ⟨"CA_CRC_ERR", 0x18, [], 32, 0, [⟨"COUNT", 31, 0, .rw, 0, []⟩]⟩,
   ⟨"CA_SOT_ERR", 0x1C, [], 32, 0, [⟨"COUNT", 31, 0, .rw, 0, []⟩]⟩,
   ⟨"CA_UNMATCHED", 0x20, [], 32, 0, [⟨"COUNT", 31, 0, .rw, 0, []⟩]⟩]

/-- Registers of the IO block. -/
def regsIO : List Reg :=
  [⟨"IO_ADDR", 0x0, [], 32, 0, [⟨"STATIC_ADDR", 6, 0, .ro, 0, []⟩, ⟨"DYN_ADDR", 14, 8, .ro, 0, []⟩, ⟨"DYN_VALID", 15, 15, .ro, 0, []⟩]⟩,
   ⟨"IO_SPI_CTRL", 0x4, [], 32, 0, [⟨"EN", 0, 0, .rw, 0, []⟩]⟩,
   ⟨"IO_SPI_STATUS", 0x8, [], 32, 0, [⟨"RX_COUNT", 3, 0, .ro, 0, []⟩, ⟨"RX_OVERFLOW", 4, 4, .w1c, 0, []⟩]⟩,
   ⟨"IO_SPI_LEN_ERR", 0xC, [], 32, 0, [⟨"COUNT", 31, 0, .rw, 0, []⟩]⟩,
   ⟨"IO_SPI_RX", 0x100, [], 32, 64, []⟩,
   ⟨"IO_SPI_RX_INFO", 0x140, [], 32, 0, [⟨"ALIVE", 1, 0, .ro, 0, []⟩, ⟨"CRC_OK", 2, 2, .ro, 0, []⟩, ⟨"POP", 3, 3, .wo, 0, []⟩]⟩,
   ⟨"IO_SPI_TX", 0x180, [], 32, 58, []⟩,
   ⟨"IO_SPI_TX_PUSH", 0x1C0, [], 32, 0, [⟨"PUSH", 0, 0, .wo, 0, []⟩]⟩,
   ⟨"IO_UART_CFG", 0x200, [], 32, 0, [⟨"DIV", 15, 0, .rw, 213, []⟩, ⟨"EN", 16, 16, .rw, 0, []⟩]⟩,
   ⟨"IO_UART_STATUS", 0x204, [], 32, 0, [⟨"RX_COUNT", 4, 0, .ro, 0, []⟩, ⟨"TX_FREE", 9, 5, .ro, 16, []⟩, ⟨"FRAME_ERR", 10, 10, .w1c, 0, []⟩, ⟨"RX_OVERFLOW", 11, 11, .w1c, 0, []⟩]⟩,
   ⟨"IO_UART_DATA", 0x208, [], 32, 0, [⟨"DATA", 7, 0, .rw, 0, []⟩]⟩,
   ⟨"IO_GPIO_DIR", 0x300, [], 32, 0, [⟨"OUT", 23, 0, .rw, 0, []⟩]⟩,
   ⟨"IO_GPIO_OUT", 0x304, [], 32, 0, [⟨"LEVEL", 23, 0, .rw, 0, []⟩]⟩,
   ⟨"IO_GPIO_IN", 0x308, [], 32, 0, [⟨"LEVEL", 23, 0, .ro, 0, []⟩]⟩,
   ⟨"IO_GPIO_PULL", 0x30C, [], 32, 0, [⟨"DOWN", 23, 0, .rw, 16777215, []⟩]⟩,
   ⟨"IO_GPIO_DRIVE", 0x310, [], 32, 0, [⟨"HIGH", 23, 0, .rw, 0, []⟩]⟩]

/-- Registers of the DB block. -/
def regsDB : List Reg :=
  [⟨"DB_STATUS", 0x0, [], 32, 0, [⟨"TAP_RESTRICTED", 0, 0, .ro, 0, []⟩]⟩,
   ⟨"DB_HOLD", 0x8, [], 64, 0, [⟨"DOMAINS", 39, 0, .rw, 0, []⟩]⟩,
   ⟨"DB_TRACE_CTRL", 0x10, [], 32, 0, [⟨"EN", 0, 0, .rw, 0, []⟩, ⟨"TENANT", 3, 1, .rw, 0, []⟩]⟩,
   ⟨"DB_TRACE_BASE", 0x18, [], 64, 0, [⟨"ADDR", 63, 0, .rw, 0, []⟩]⟩,
   ⟨"DB_REFUSED", 0x20, [], 32, 0, [⟨"COUNT", 31, 0, .rw, 0, []⟩]⟩]

/-- Registers of the HI block, part 1. -/
def regsHI1 : List Reg :=
  [⟨"HI_LINK_STATUS", 0x0, [], 32, 0, [⟨"SPEED", 2, 0, .ro, 0, []⟩, ⟨"WIDTH", 6, 3, .ro, 0, []⟩, ⟨"BME", 7, 7, .ro, 0, []⟩, ⟨"D3HOT", 8, 8, .ro, 0, []⟩]⟩,
   ⟨"HI_BAD_ACCESS", 0x4, [], 32, 0, [⟨"COUNT", 31, 0, .rw, 0, []⟩]⟩,
   ⟨"HI_MIRROR_DROP", 0x8, [], 32, 0, [⟨"COUNT", 31, 0, .rw, 0, []⟩]⟩,
   ⟨"HI_POISON_READ", 0xC, [], 32, 0, [⟨"COUNT", 31, 0, .rw, 0, []⟩]⟩,
   ⟨"HI_CORR_ERR", 0x10, [], 32, 0, [⟨"COUNT", 31, 0, .rw, 0, []⟩]⟩,
   ⟨"HI_CONF_REKEY", 0x18, [], 64, 0, [⟨"COUNT", 63, 0, .rwl, 68719476736, []⟩]⟩,
   ⟨"HI_RX_BYTES", 0x20, [], 64, 0, [⟨"COUNT", 63, 0, .rw, 0, []⟩]⟩,
   ⟨"HI_VEC_MOD", 0x2000, [(0x4, 2048)], 32, 0, [⟨"COUNT", 7, 0, .rw, 1, []⟩, ⟨"HOLDOFF_US", 23, 8, .rw, 0, []⟩]⟩,
   ⟨"HI_T_RING_SEL", 0x4000, [(0x1000, 8)], 32, 0, [⟨"RING", 15, 0, .rw, 0, []⟩]⟩,
   ⟨"HI_T_RING_CFG", 0x4004, [(0x1000, 8)], 32, 0, [⟨"CQ_LOG2", 4, 0, .rw, 6, []⟩, ⟨"CQ_EN", 5, 5, .rw, 0, []⟩, ⟨"VEC", 18, 8, .rw, 0, []⟩, ⟨"VEC_EN", 19, 19, .rw, 0, []⟩]⟩,
   ⟨"HI_T_RING_CQ", 0x4008, [(0x1000, 8)], 64, 0, [⟨"ADDR", 63, 0, .rw, 0, []⟩]⟩,
   ⟨"HI_T_RING_WIN", 0x4010, [(0x1000, 8)], 64, 0, [⟨"OFFSET", 63, 0, .ro, 18446744073709551615, []⟩]⟩,
   ⟨"HI_T_OBJ_BASE", 0x4018, [(0x1000, 8)], 32, 0, [⟨"PAGE", 18, 0, .rw, 0, []⟩]⟩,
   ⟨"HI_T_EVENT", 0x4020, [(0x1000, 8)], 32, 0, [⟨"REFUSED", 0, 0, .w1c, 0, []⟩, ⟨"MIRROR_DROP", 1, 1, .w1c, 0, []⟩, ⟨"CONF_STOP", 2, 2, .w1c, 0, []⟩, ⟨"REKEY", 3, 3, .w1c, 0, []⟩, ⟨"EGRESS_WAIT", 4, 4, .w1c, 0, []⟩]⟩,
   ⟨"HI_T_EVT_CFG", 0x4024, [(0x1000, 8)], 32, 0, [⟨"EVT_VEC", 10, 0, .rw, 0, []⟩, ⟨"EVT_EN", 11, 11, .rw, 0, []⟩]⟩,
   ⟨"HI_T_LAST_REFUSED", 0x4028, [(0x1000, 8)], 32, 0, [⟨"RING", 15, 0, .ro, 0, []⟩]⟩,
   ⟨"HI_T_WIN_MISS", 0x402C, [(0x1000, 8)], 32, 0, [⟨"COUNT", 31, 0, .rw, 0, []⟩]⟩,
   ⟨"HI_T_IN_BASE", 0x4040, [(0x1000, 8)], 64, 0, [⟨"ADDR", 63, 0, .rw, 0, []⟩]⟩,
   ⟨"HI_T_IN_CFG", 0x4048, [(0x1000, 8)], 32, 0, [⟨"LOG2", 4, 0, .rw, 16, []⟩, ⟨"EN", 5, 5, .rw, 0, []⟩, ⟨"IN_STOPPED", 6, 6, .ro, 0, []⟩, ⟨"CAUSE", 9, 7, .ro, 0, []⟩]⟩,
   ⟨"HI_T_IN_PROD", 0x4050, [(0x1000, 8)], 64, 0, [⟨"COUNT", 63, 0, .rw, 0, []⟩]⟩,
   ⟨"HI_T_IN_CONS", 0x4058, [(0x1000, 8)], 64, 0, [⟨"COUNT", 63, 0, .ro, 0, []⟩]⟩,
   ⟨"HI_T_OUT_BASE", 0x4060, [(0x1000, 8)], 64, 0, [⟨"ADDR", 63, 0, .rw, 0, []⟩]⟩,
   ⟨"HI_T_OUT_CFG", 0x4068, [(0x1000, 8)], 32, 0, [⟨"LOG2", 4, 0, .rw, 16, []⟩, ⟨"EN", 5, 5, .rw, 0, []⟩]⟩,
   ⟨"HI_T_OUT_PROD", 0x4070, [(0x1000, 8)], 64, 0, [⟨"COUNT", 63, 0, .ro, 0, []⟩]⟩]

/-- Registers of the HI block, part 2. -/
def regsHI2 : List Reg :=
  [⟨"HI_T_OUT_CONS", 0x4078, [(0x1000, 8)], 64, 0, [⟨"COUNT", 63, 0, .rw, 0, []⟩]⟩,
   ⟨"HI_T_IN_COUNTER", 0x4080, [(0x1000, 8)], 64, 0, [⟨"COUNTER", 63, 0, .ro, 0, []⟩]⟩,
   ⟨"HI_T_OUT_COUNTER", 0x4088, [(0x1000, 8)], 64, 0, [⟨"COUNTER", 63, 0, .ro, 0, []⟩]⟩,
   ⟨"HI_T_IN_WAIT_NS", 0x4090, [(0x1000, 8)], 64, 0, [⟨"NS", 63, 0, .rw, 0, []⟩]⟩]

/-- Registers of the BL block. -/
def regsBL : List Reg :=
  [⟨"BL_CFG", 0x0, [], 32, 0, [⟨"SEAL", 0, 0, .rwl, 0, []⟩, ⟨"DATELINE", 1, 1, .rwl, 0, []⟩, ⟨"DIM", 2, 2, .rwl, 0, []⟩, ⟨"EXPECT_EN", 3, 3, .rwl, 0, []⟩, ⟨"EXPECT_ID", 17, 4, .rwl, 0, []⟩, ⟨"DEGRADE_EN", 18, 18, .rwl, 1, []⟩]⟩,
   ⟨"BL_CTRL", 0x4, [], 32, 0, [⟨"RESET", 0, 0, .wo, 0, []⟩]⟩,
   ⟨"BL_STATUS", 0x8, [], 32, 0, [⟨"STATE", 2, 0, .ro, 0, []⟩, ⟨"HALF", 3, 3, .ro, 0, []⟩, ⟨"DOWN_CAUSE", 6, 4, .ro, 0, []⟩, ⟨"SEALED", 7, 7, .ro, 0, []⟩, ⟨"PARTNER_ID", 21, 8, .ro, 0, []⟩, ⟨"PARTNER_VALID", 22, 22, .ro, 0, []⟩]⟩,
   ⟨"BL_TX_BYTES", 0x10, [], 64, 0, [⟨"COUNT", 63, 0, .rw, 0, []⟩]⟩,
   ⟨"BL_RX_BYTES", 0x18, [], 64, 0, [⟨"COUNT", 63, 0, .rw, 0, []⟩]⟩,
   ⟨"BL_FWD_FRAMES", 0x20, [], 64, 0, [⟨"COUNT", 63, 0, .rw, 0, []⟩]⟩,
   ⟨"BL_FEC_CORR", 0x28, [], 64, 0, [⟨"COUNT", 63, 0, .rw, 0, []⟩]⟩,
   ⟨"BL_CREDIT_WAIT_NS", 0x30, [], 64, 0, [⟨"NS", 63, 0, .rw, 0, []⟩]⟩,
   ⟨"BL_REPLAY", 0x38, [], 32, 0, [⟨"COUNT", 31, 0, .rw, 0, []⟩]⟩,
   ⟨"BL_CRC_ERR", 0x3C, [], 32, 0, [⟨"COUNT", 31, 0, .rw, 0, []⟩]⟩,
   ⟨"BL_TAG_FAIL", 0x40, [], 32, 0, [⟨"COUNT", 31, 0, .rw, 0, []⟩]⟩,
   ⟨"BL_LANE_FAULT", 0x44, [], 32, 0, [⟨"COUNT", 31, 0, .rw, 0, []⟩]⟩,
   ⟨"BL_RETRAIN", 0x48, [], 32, 0, [⟨"COUNT", 31, 0, .rw, 0, []⟩]⟩,
   ⟨"BL_UNDELIVERED", 0x4C, [], 32, 0, [⟨"COUNT", 31, 0, .rw, 0, []⟩]⟩,
   ⟨"BL_PROTO_ERR", 0x50, [], 32, 0, [⟨"COUNT", 31, 0, .rw, 0, []⟩]⟩,
   ⟨"BL_PORT_TIMEOUT", 0x54, [], 32, 0, [⟨"COUNT", 31, 0, .rw, 0, []⟩]⟩,
   ⟨"BL_SEAL_TX_SESSION", 0x60, [], 32, 0, [⟨"SESSION", 31, 0, .ro, 0, []⟩]⟩,
   ⟨"BL_SEAL_RX_SESSION", 0x64, [], 32, 0, [⟨"SESSION", 31, 0, .ro, 0, []⟩]⟩,
   ⟨"BL_SEAL_COUNTER", 0x68, [], 64, 0, [⟨"COUNTER", 63, 0, .ro, 0, []⟩]⟩,
   ⟨"BL_REKEY_THRESH", 0x70, [], 64, 0, [⟨"COUNT", 63, 0, .rwl, 17592186044416, []⟩]⟩,
   ⟨"BL_REKEYS", 0x78, [], 32, 0, [⟨"COUNT", 31, 0, .rw, 0, []⟩]⟩,
   ⟨"BL_LANE_STATUS", 0x100, [(0x4, 8)], 32, 0, [⟨"LOCK", 0, 0, .ro, 0, []⟩, ⟨"FAULT", 1, 1, .ro, 0, []⟩, ⟨"EYE", 9, 2, .ro, 0, []⟩]⟩,
   ⟨"BL_LANE_CORR", 0x120, [(0x4, 8)], 32, 0, [⟨"COUNT", 31, 0, .rw, 0, []⟩]⟩]

/-- Registers of the device-wide BL block. -/
def regsBLD : List Reg :=
  [⟨"BL_TIMEOUT", 0x2000, [], 32, 0, [⟨"US", 15, 0, .rwl, 200, []⟩]⟩,
   ⟨"BL_NO_ROUTE", 0x2004, [], 32, 0, [⟨"COUNT", 31, 0, .rw, 0, []⟩]⟩,
   ⟨"BL_STALE_RSP", 0x2008, [], 32, 0, [⟨"COUNT", 31, 0, .rw, 0, []⟩]⟩,
   ⟨"BL_DB_SEND", 0x2100, [(0x10, 8)], 64, 0, [⟨"DEVICE", 13, 0, .wo, 0, []⟩, ⟨"RING", 31, 16, .wo, 0, []⟩]⟩,
   ⟨"BL_DB_SENT", 0x2108, [(0x10, 8)], 32, 0, [⟨"COUNT", 31, 0, .rw, 0, []⟩]⟩]

/-- Registers of the VC block. -/
def regsVC : List Reg :=
  [⟨"VC_MIG_CFG", 0x0, [], 32, 0, [⟨"T2_SHARE", 3, 0, .rwl, 8, []⟩, ⟨"T3_SHARE", 7, 4, .rwl, 4, []⟩, ⟨"TENANT_RR", 8, 8, .rwl, 1, []⟩]⟩,
   ⟨"VC_MIG_STATUS", 0x4, [], 32, 0, [⟨"QUEUED", 6, 0, .ro, 0, []⟩, ⟨"ACTIVE", 9, 7, .ro, 0, []⟩]⟩,
   ⟨"VC_T1_FREE", 0x8, [], 32, 0, [⟨"FRAMES", 15, 0, .ro, 49152, []⟩]⟩,
   ⟨"VC_T2_FREE", 0xC, [], 32, 0, [⟨"FRAMES", 15, 0, .ro, 0, []⟩]⟩,
   ⟨"VC_QUOTA_T1", 0x1000, [(0x40, 8)], 32, 0, [⟨"PAGES", 31, 0, .ro, 0, []⟩]⟩,
   ⟨"VC_QUOTA_T2", 0x1004, [(0x40, 8)], 32, 0, [⟨"PAGES", 31, 0, .ro, 0, []⟩]⟩,
   ⟨"VC_QUOTA_T3", 0x1008, [(0x40, 8)], 32, 0, [⟨"PAGES", 31, 0, .ro, 0, []⟩]⟩,
   ⟨"VC_USED_T1", 0x1010, [(0x40, 8)], 32, 0, [⟨"PAGES", 31, 0, .ro, 0, []⟩]⟩,
   ⟨"VC_USED_T2", 0x1014, [(0x40, 8)], 32, 0, [⟨"PAGES", 31, 0, .ro, 0, []⟩]⟩,
   ⟨"VC_USED_T3", 0x1018, [(0x40, 8)], 32, 0, [⟨"PAGES", 31, 0, .ro, 0, []⟩]⟩,
   ⟨"VC_QUOTA_REFUSED", 0x1020, [(0x40, 8)], 32, 0, [⟨"COUNT", 31, 0, .rw, 0, []⟩]⟩,
   ⟨"VC_STALL", 0x4000, [(0x100, 16), (0x40, 3), (0x8, 8)], 64, 0, [⟨"VALUE", 63, 0, .rw, 0, []⟩]⟩,
   ⟨"VC_CMD", 0x8000, [(0x1000, 8)], 64, 0, [⟨"OBJ_PAGE", 18, 0, .wo, 0, []⟩, ⟨"OP", 21, 19, .wo, 0, [0, 6, 7]⟩, ⟨"TIER", 23, 22, .wo, 0, []⟩, ⟨"CLASS", 26, 24, .wo, 0, []⟩, ⟨"WRITABLE", 27, 27, .wo, 0, []⟩, ⟨"PINNED", 28, 28, .wo, 0, []⟩, ⟨"STRICT", 29, 29, .wo, 0, []⟩, ⟨"LOCATION", 47, 32, .wo, 0, []⟩, ⟨"PEER_DEVICE", 61, 48, .wo, 0, []⟩]⟩,
   ⟨"VC_CMD_STATUS", 0x8008, [(0x1000, 8)], 32, 0, [⟨"BUSY", 0, 0, .ro, 0, []⟩, ⟨"OVERRUN", 1, 1, .w1c, 0, []⟩, ⟨"STATUS", 7, 4, .ro, 0, []⟩, ⟨"DETAIL", 15, 8, .ro, 0, []⟩]⟩,
   ⟨"VC_CMD_ENTRY", 0x8010, [(0x1000, 8)], 64, 0, [⟨"ENTRY", 63, 0, .ro, 0, []⟩]⟩,
   ⟨"VC_MIG_RESULT", 0x8018, [(0x1000, 8)], 64, 0, [⟨"VALID", 0, 0, .ro, 0, []⟩, ⟨"STATUS", 7, 4, .ro, 0, []⟩, ⟨"DETAIL", 15, 8, .ro, 0, []⟩, ⟨"OBJ_PAGE", 34, 16, .ro, 0, []⟩]⟩]

/-- Registers of the HG block, part 1. -/
def regsHG1 : List Reg :=
  [⟨"HG_PLAT_STATUS", 0xF00, [], 32, 0, [⟨"STATE", 1, 0, .ro, 0, []⟩, ⟨"LAST_FAILED", 2, 2, .w1c, 0, []⟩, ⟨"VAULT_FILL", 3, 3, .ro, 0, []⟩]⟩,
   ⟨"HG_PLAT_ERROR", 0xF04, [], 32, 0, [⟨"DETAIL", 7, 0, .ro, 0, []⟩, ⟨"SECTION", 11, 8, .ro, 0, []⟩, ⟨"ENTRY", 27, 12, .ro, 0, []⟩]⟩,
   ⟨"HG_PLAT_SERIAL", 0xF08, [], 64, 0, [⟨"SERIAL", 63, 0, .ro, 0, []⟩]⟩,
   ⟨"HG_PLAT_INFO", 0xF10, [], 32, 0, [⟨"DEVICE_ID", 13, 0, .ro, 0, []⟩, ⟨"CONFIG_CLASS", 14, 14, .ro, 0, []⟩, ⟨"CONFIDENTIAL", 15, 15, .ro, 0, []⟩]⟩,
   ⟨"HG_DOORBELL", 0x10000, [(0x1000, 8)], 32, 0, [⟨"RING", 15, 0, .wo, 0, []⟩]⟩,
   ⟨"HG_RESULT", 0x10008, [(0x1000, 8)], 64, 0, [⟨"CONTEXT", 9, 0, .wo, 0, []⟩, ⟨"VALUE", 63, 32, .wo, 0, []⟩]⟩,
   ⟨"HG_RING_SEL", 0x10010, [(0x1000, 8)], 32, 0, [⟨"RING", 15, 0, .rw, 0, []⟩]⟩,
   ⟨"HG_RING_CMD", 0x10014, [(0x1000, 8)], 32, 0, [⟨"OP", 2, 0, .wo, 0, []⟩]⟩,
   ⟨"HG_RING_CMD_VALUE", 0x10018, [(0x1000, 8)], 32, 0, [⟨"VALUE", 31, 0, .rw, 0, []⟩]⟩,
   ⟨"HG_RING_STATUS", 0x1001C, [(0x1000, 8)], 32, 0, [⟨"ALLOCATED", 0, 0, .ro, 0, []⟩, ⟨"ENABLED", 1, 1, .ro, 0, []⟩, ⟨"DRAINED", 2, 2, .ro, 0, []⟩, ⟨"STOPPED", 3, 3, .ro, 0, []⟩, ⟨"RESCAN", 4, 4, .ro, 0, []⟩, ⟨"CMD_REFUSED", 5, 5, .w1c, 0, []⟩, ⟨"GROUP", 15, 8, .ro, 0, []⟩, ⟨"PARTITION", 19, 16, .ro, 0, []⟩]⟩,
   ⟨"HG_RING_BASE", 0x10020, [(0x1000, 8)], 64, 0, [⟨"ADDR", 63, 0, .ro, 0, []⟩]⟩,
   ⟨"HG_RING_SEQ", 0x10028, [(0x1000, 8)], 64, 0, [⟨"ACCEPT_NEXT", 31, 0, .ro, 0, []⟩, ⟨"COMPLETE_NEXT", 63, 32, .ro, 0, []⟩]⟩,
   ⟨"HG_RING_WAITING", 0x10030, [(0x1000, 8)], 32, 0, [⟨"COUNT", 19, 0, .ro, 0, []⟩]⟩,
   ⟨"HG_RING_TICK_PROG", 0x10038, [(0x1000, 8)], 64, 0, [⟨"ADDR", 63, 0, .rw, 0, []⟩]⟩,
   ⟨"HG_DB_REFUSED", 0x10040, [(0x1000, 8)], 32, 0, [⟨"COUNT", 31, 0, .rw, 0, []⟩]⟩,
   ⟨"HG_CTX_SEL", 0x10044, [(0x1000, 8)], 32, 0, [⟨"CONTEXT", 9, 0, .rw, 0, []⟩]⟩,
   ⟨"HG_CTX_SAVE", 0x10048, [(0x1000, 8)], 64, 0, [⟨"ADDR", 63, 0, .rw, 0, []⟩]⟩,
   ⟨"HG_CTX_VIEW", 0x10100, [(0x1000, 8)], 32, 256, []⟩,
   ⟨"HG_CTX_REPLY", 0x10200, [(0x1000, 8)], 32, 1024, []⟩,
   ⟨"HG_STATUS", 0x0, [], 32, 0, [⟨"RECOVERING", 0, 0, .ro, 0, []⟩, ⟨"ACCEPTING", 1, 1, .ro, 0, []⟩]⟩,
   ⟨"HG_DBQ_STATUS", 0x4, [], 32, 0, [⟨"DEPTH", 12, 0, .ro, 0, []⟩, ⟨"HIGH_WATER", 28, 16, .ro, 0, []⟩]⟩,
   ⟨"HG_DBQ_OVERFLOW", 0x8, [], 32, 0, [⟨"COUNT", 31, 0, .rw, 0, []⟩]⟩,
   ⟨"HG_RESCAN_COUNT", 0xC, [], 32, 0, [⟨"COUNT", 16, 0, .ro, 0, []⟩]⟩,
   ⟨"HG_LATE_REPLY", 0x10, [], 32, 0, [⟨"COUNT", 31, 0, .rw, 0, []⟩]⟩]

/-- Registers of the HG block, part 2. -/
def regsHG2 : List Reg :=
  [⟨"HG_P_ACCEPTED", 0x20000, [(0x100, 16)], 64, 0, [⟨"COUNT", 63, 0, .rw, 0, []⟩]⟩,
   ⟨"HG_P_COMPLETED", 0x20008, [(0x100, 16)], 64, 0, [⟨"COUNT", 63, 0, .rw, 0, []⟩]⟩,
   ⟨"HG_P_REFUSED", 0x20010, [(0x100, 16)], 32, 0, [⟨"COUNT", 31, 0, .rw, 0, []⟩]⟩,
   ⟨"HG_P_ABORTED", 0x20014, [(0x100, 16)], 32, 0, [⟨"COUNT", 31, 0, .rw, 0, []⟩]⟩,
   ⟨"HG_P_FAULTED", 0x20018, [(0x100, 16)], 32, 0, [⟨"COUNT", 31, 0, .rw, 0, []⟩]⟩,
   ⟨"HG_P_RETRIED", 0x2001C, [(0x100, 16)], 32, 0, [⟨"COUNT", 31, 0, .rw, 0, []⟩]⟩,
   ⟨"HG_P_JOURNAL_USED", 0x20020, [(0x100, 16)], 32, 0, [⟨"ENTRIES", 15, 0, .ro, 0, []⟩]⟩,
   ⟨"HG_P_JOURNAL_FULL", 0x20024, [(0x100, 16)], 32, 0, [⟨"COUNT", 31, 0, .rw, 0, []⟩]⟩,
   ⟨"HG_P_TICK_RELEASE", 0x20028, [(0x100, 16)], 32, 0, [⟨"COUNT", 31, 0, .rw, 0, []⟩]⟩,
   ⟨"HG_P_REPLY_WAIT", 0x2002C, [(0x100, 16)], 32, 0, [⟨"COUNT", 31, 0, .rw, 0, []⟩]⟩,
   ⟨"HG_P_TICK_FAIL", 0x20030, [(0x100, 16)], 32, 0, [⟨"COUNT", 31, 0, .rw, 0, []⟩]⟩,
   ⟨"HG_SCH_STATUS", 0x30000, [(0x100, 16)], 32, 0, [⟨"RUNNING_CTX", 9, 0, .ro, 0, []⟩, ⟨"RUNNING_VALID", 10, 10, .ro, 0, []⟩, ⟨"BOUND", 21, 11, .ro, 0, []⟩, ⟨"SAVING", 22, 22, .ro, 0, []⟩]⟩,
   ⟨"HG_SCH_SLICES", 0x30008, [(0x100, 16)], 64, 0, [⟨"COUNT", 63, 0, .rw, 0, []⟩]⟩,
   ⟨"HG_SCH_SAVES", 0x30010, [(0x100, 16)], 64, 0, [⟨"COUNT", 63, 0, .rw, 0, []⟩]⟩,
   ⟨"HG_SCH_SAVE_NS", 0x30018, [(0x100, 16)], 64, 0, [⟨"NS", 63, 0, .rw, 0, []⟩]⟩,
   ⟨"HG_SCH_DEBT_NS", 0x30020, [(0x100, 16)], 64, 0, [⟨"NS", 63, 0, .rw, 0, []⟩]⟩,
   ⟨"HG_SCH_SLICE_OVERRUN", 0x30028, [(0x100, 16)], 32, 0, [⟨"COUNT", 31, 0, .rw, 0, []⟩]⟩,
   ⟨"HG_SCH_NOSAVE", 0x3002C, [(0x100, 16)], 32, 0, [⟨"COUNT", 31, 0, .rw, 0, []⟩]⟩,
   ⟨"HG_SCH_WITHDRAWN", 0x30030, [(0x100, 16)], 32, 0, [⟨"COUNT", 31, 0, .rw, 0, []⟩]⟩,
   ⟨"HG_SCH_TICK_SKIPPED", 0x30034, [(0x100, 16)], 32, 0, [⟨"COUNT", 31, 0, .rw, 0, []⟩]⟩,
   ⟨"HG_SCH_THROTTLED_OVERRUN", 0x30038, [(0x100, 16)], 32, 0, [⟨"COUNT", 31, 0, .rw, 0, []⟩]⟩,
   ⟨"HG_SCH_MAX_DEBT_NS", 0x3003C, [(0x100, 16)], 32, 0, [⟨"NS", 31, 0, .rw, 0, []⟩]⟩,
   ⟨"HG_SCH_TICK_OVERRUN", 0x30040, [(0x100, 16), (0x4, 8)], 32, 0, [⟨"COUNT", 31, 0, .rw, 0, []⟩]⟩,
   ⟨"HG_SCH_LAST_OVERRUN", 0x30060, [(0x100, 16)], 64, 0, [⟨"SEQ", 31, 0, .ro, 0, []⟩, ⟨"RING", 47, 32, .ro, 0, []⟩, ⟨"CLASS", 50, 48, .ro, 0, []⟩, ⟨"VALID", 51, 51, .w1c, 0, []⟩]⟩]

/-- Registers of the HG block, part 3. -/
def regsHG3 : List Reg :=
  [⟨"HG_SCH_LAST_OVERRUN_TIME", 0x30068, [(0x100, 16)], 64, 0, [⟨"TIME", 63, 0, .ro, 0, []⟩]⟩,
   ⟨"HG_SCH_WEAR_CTRL", 0x40000, [(0x100, 255)], 32, 0, [⟨"PROPOSED", 0, 0, .ro, 0, []⟩, ⟨"COMMIT", 1, 1, .w1s, 0, []⟩, ⟨"DECLINE", 2, 2, .w1s, 0, []⟩, ⟨"APPLIED", 3, 3, .w1c, 0, []⟩]⟩,
   ⟨"HG_SCH_WEAR_SWAP", 0x40004, [(0x100, 255)], 32, 0, [⟨"RANK_A", 6, 0, .ro, 0, []⟩, ⟨"RANK_B", 14, 8, .ro, 0, []⟩]⟩,
   ⟨"HG_SCH_RANK_MAP", 0x40080, [(0x100, 255), (0x4, 32)], 32, 0, [⟨"TILES", 31, 0, .ro, 0, []⟩]⟩,
   ⟨"HG_WEAR_GAP", 0x4FF00, [], 32, 0, [⟨"HOURS", 15, 0, .rwl, 24, []⟩]⟩,
   ⟨"HG_SCH_TILE_WEAR", 0x50000, [(0x8, 128)], 64, 0, [⟨"MS", 63, 0, .rwl, 0, []⟩]⟩,
   ⟨"HG_PLAT_DIGEST", 0xF20, [(0x4, 12)], 32, 0, [⟨"DIGEST", 31, 0, .ro, 0, []⟩]⟩]

/-- Registers of the AT block. -/
def regsAT : List Reg :=
  [⟨"AT_NP_LIMIT", 0x0, [], 32, 0, [⟨"NS", 15, 0, .rwl, 50000, []⟩]⟩,
   ⟨"AT_STATUS", 0x100, [(0x80, 8)], 32, 0, [⟨"BUSY", 0, 0, .ro, 0, []⟩, ⟨"QUEUED", 5, 1, .ro, 0, []⟩]⟩,
   ⟨"AT_CMD_COUNT", 0x108, [(0x80, 8)], 64, 0, [⟨"COUNT", 63, 0, .rw, 0, []⟩]⟩,
   ⟨"AT_MAC_COUNT", 0x110, [(0x80, 8)], 64, 0, [⟨"COUNT", 63, 0, .rw, 0, []⟩]⟩,
   ⟨"AT_KV_BYTES", 0x118, [(0x80, 8)], 64, 0, [⟨"COUNT", 63, 0, .rw, 0, []⟩]⟩,
   ⟨"AT_BUSY_CYCLES", 0x120, [(0x80, 8)], 64, 0, [⟨"COUNT", 63, 0, .rw, 0, []⟩]⟩,
   ⟨"AT_NP_OVERRUN", 0x128, [(0x80, 8)], 32, 0, [⟨"COUNT", 31, 0, .rw, 0, []⟩]⟩,
   ⟨"AT_FORMAT_COUNT", 0x12C, [(0x80, 8)], 32, 0, [⟨"COUNT", 31, 0, .rw, 0, []⟩]⟩,
   ⟨"AT_POISON_COUNT", 0x130, [(0x80, 8)], 32, 0, [⟨"COUNT", 31, 0, .rw, 0, []⟩]⟩,
   ⟨"AT_FAULT_COUNT", 0x134, [(0x80, 8)], 32, 0, [⟨"COUNT", 31, 0, .rw, 0, []⟩]⟩,
   ⟨"AT_EMPTY_ROWS", 0x138, [(0x80, 8)], 32, 0, [⟨"COUNT", 31, 0, .rw, 0, []⟩]⟩,
   ⟨"AT_POOL_EMPTY", 0x13C, [(0x80, 8)], 32, 0, [⟨"COUNT", 31, 0, .rw, 0, []⟩]⟩,
   ⟨"AT_SLOT_LOST", 0x140, [(0x80, 8)], 32, 0, [⟨"COUNT", 31, 0, .rw, 0, []⟩]⟩,
   ⟨"AT_APPEND_RACE", 0x144, [(0x80, 8)], 32, 0, [⟨"COUNT", 31, 0, .rw, 0, []⟩]⟩]

/-- Registers of the SC block. -/
def regsSC : List Reg :=
  [⟨"SC_NP_LIMIT", 0x0, [], 32, 0, [⟨"NS", 15, 0, .rwl, 50000, []⟩]⟩,
   ⟨"SC_ORDER_LIMIT", 0x4, [], 32, 0, [⟨"US", 15, 0, .rwl, 1000, []⟩]⟩,
   ⟨"SC_EPOCH", 0x8, [], 32, 0, [⟨"EPOCH", 26, 0, .ro, 0, []⟩]⟩,
   ⟨"SC_STATUS", 0x100, [(0x80, 8)], 32, 0, [⟨"BUSY", 0, 0, .ro, 0, []⟩, ⟨"QUEUED", 5, 1, .ro, 0, []⟩, ⟨"ASIDE", 10, 6, .ro, 0, []⟩, ⟨"STORE_KIB", 20, 11, .ro, 0, []⟩]⟩,
   ⟨"SC_CMD_COUNT", 0x108, [(0x80, 8)], 64, 0, [⟨"COUNT", 63, 0, .rw, 0, []⟩]⟩,
   ⟨"SC_ELEM_STEPS", 0x110, [(0x80, 8)], 64, 0, [⟨"COUNT", 63, 0, .rw, 0, []⟩]⟩,
   ⟨"SC_BUSY_CYCLES", 0x118, [(0x80, 8)], 64, 0, [⟨"COUNT", 63, 0, .rw, 0, []⟩]⟩,
   ⟨"SC_STATE_WAIT", 0x120, [(0x80, 8)], 64, 0, [⟨"NS", 63, 0, .rw, 0, []⟩]⟩,
   ⟨"SC_NP_OVERRUN", 0x128, [(0x80, 8)], 32, 0, [⟨"COUNT", 31, 0, .rw, 0, []⟩]⟩,
   ⟨"SC_STATE_FAULT", 0x12C, [(0x80, 8)], 32, 0, [⟨"COUNT", 31, 0, .rw, 0, []⟩]⟩,
   ⟨"SC_STATE_EVICT", 0x130, [(0x80, 8)], 32, 0, [⟨"COUNT", 31, 0, .rw, 0, []⟩]⟩,
   ⟨"SC_STATE_LOST", 0x134, [(0x80, 8)], 32, 0, [⟨"COUNT", 31, 0, .rw, 0, []⟩]⟩,
   ⟨"SC_ORDER_WAIT", 0x138, [(0x80, 8)], 32, 0, [⟨"COUNT", 31, 0, .rw, 0, []⟩]⟩,
   ⟨"SC_SEQ_REJECT", 0x13C, [(0x80, 8)], 32, 0, [⟨"COUNT", 31, 0, .rw, 0, []⟩]⟩,
   ⟨"SC_RESET_MARKS", 0x140, [(0x80, 8)], 32, 0, [⟨"COUNT", 31, 0, .rw, 0, []⟩]⟩,
   ⟨"SC_FORMAT_COUNT", 0x144, [(0x80, 8)], 32, 0, [⟨"COUNT", 31, 0, .rw, 0, []⟩]⟩,
   ⟨"SC_POISON_COUNT", 0x148, [(0x80, 8)], 32, 0, [⟨"COUNT", 31, 0, .rw, 0, []⟩]⟩,
   ⟨"SC_FAULT_COUNT", 0x14C, [(0x80, 8)], 32, 0, [⟨"COUNT", 31, 0, .rw, 0, []⟩]⟩,
   ⟨"SC_WINDOW_SHORT", 0x150, [(0x80, 8)], 32, 0, [⟨"COUNT", 31, 0, .rw, 0, []⟩]⟩]

/-- Registers of the CV block. -/
def regsCV : List Reg :=
  [⟨"CV_NP_LIMIT", 0x0, [], 32, 0, [⟨"NS", 15, 0, .rwl, 50000, []⟩]⟩,
   ⟨"CV_HALO_LIMIT", 0x4, [], 32, 0, [⟨"US", 15, 0, .rwl, 1000, []⟩]⟩,
   ⟨"CV_HALO_STATUS", 0x8, [], 32, 0, [⟨"ABOVE_USED", 4, 0, .ro, 0, []⟩, ⟨"BELOW_USED", 9, 5, .ro, 0, []⟩]⟩,
   ⟨"CV_STATUS", 0x100, [(0x80, 8)], 32, 0, [⟨"BUSY", 0, 0, .ro, 0, []⟩, ⟨"QUEUED", 5, 1, .ro, 0, []⟩, ⟨"ASIDE", 10, 6, .ro, 0, []⟩]⟩,
   ⟨"CV_CMD_COUNT", 0x108, [(0x80, 8)], 64, 0, [⟨"COUNT", 63, 0, .rw, 0, []⟩]⟩,
   ⟨"CV_MAC_COUNT", 0x110, [(0x80, 8)], 64, 0, [⟨"COUNT", 63, 0, .rw, 0, []⟩]⟩,
   ⟨"CV_BUSY_CYCLES", 0x118, [(0x80, 8)], 64, 0, [⟨"COUNT", 63, 0, .rw, 0, []⟩]⟩,
   ⟨"CV_HALO_WAIT", 0x120, [(0x80, 8)], 64, 0, [⟨"NS", 63, 0, .rw, 0, []⟩]⟩,
   ⟨"CV_NP_OVERRUN", 0x128, [(0x80, 8)], 32, 0, [⟨"COUNT", 31, 0, .rw, 0, []⟩]⟩,
   ⟨"CV_POINTWISE", 0x12C, [(0x80, 8)], 32, 0, [⟨"COUNT", 31, 0, .rw, 0, []⟩]⟩,
   ⟨"CV_FORMAT_COUNT", 0x130, [(0x80, 8)], 32, 0, [⟨"COUNT", 31, 0, .rw, 0, []⟩]⟩,
   ⟨"CV_POISON_COUNT", 0x134, [(0x80, 8)], 32, 0, [⟨"COUNT", 31, 0, .rw, 0, []⟩]⟩,
   ⟨"CV_FAULT_COUNT", 0x138, [(0x80, 8)], 32, 0, [⟨"COUNT", 31, 0, .rw, 0, []⟩]⟩,
   ⟨"CV_HALO_TIMEOUT", 0x13C, [(0x80, 8)], 32, 0, [⟨"COUNT", 31, 0, .rw, 0, []⟩]⟩,
   ⟨"CV_HALO_DISCARD", 0x140, [(0x80, 8)], 32, 0, [⟨"COUNT", 31, 0, .rw, 0, []⟩]⟩]

/-- Registers of the TI block. -/
def regsTI : List Reg :=
  [⟨"TI_EXC_COUNT", 0x0, [], 32, 0, [⟨"COUNT", 31, 0, .rw, 0, []⟩]⟩,
   ⟨"TI_MSG_DISCARD", 0x4, [], 32, 0, [⟨"COUNT", 31, 0, .rw, 0, []⟩]⟩,
   ⟨"TI_MSG_BOUNCE", 0x8, [], 32, 0, [⟨"COUNT", 31, 0, .rw, 0, []⟩]⟩,
   ⟨"TI_THR_STATE", 0x100, [(0x40, 16)], 32, 0, [⟨"STATE", 2, 0, .ro, 0, []⟩, ⟨"HANDLER", 3, 3, .ro, 0, []⟩, ⟨"CONTEXT", 13, 4, .ro, 0, []⟩, ⟨"RANK", 20, 14, .ro, 0, []⟩]⟩,
   ⟨"TI_THR_PC", 0x108, [(0x40, 16)], 64, 0, [⟨"PC", 63, 0, .ro, 0, []⟩]⟩,
   ⟨"TI_EXC_PC", 0x110, [(0x40, 16)], 64, 0, [⟨"EPC", 63, 0, .ro, 0, []⟩]⟩,
   ⟨"TI_EXC_ADDR", 0x118, [(0x40, 16)], 64, 0, [⟨"EADDR", 63, 0, .ro, 0, []⟩]⟩,
   ⟨"TI_EXC_CAUSE", 0x120, [(0x40, 16)], 32, 0, [⟨"CAUSE", 3, 0, .ro, 0, []⟩, ⟨"SUBCAUSE", 7, 4, .ro, 0, []⟩, ⟨"STATUS", 11, 8, .ro, 0, []⟩]⟩,
   ⟨"TI_MSG_STATUS", 0x124, [(0x40, 16)], 32, 0, [⟨"QUEUED", 3, 0, .ro, 0, []⟩, ⟨"BOUNCES", 6, 4, .ro, 0, []⟩, ⟨"CREDITS", 9, 7, .ro, 4, []⟩]⟩]

/-- Registers of the MX block. -/
def regsMX : List Reg :=
  [⟨"MX_STATUS", 0x0, [], 32, 0, [⟨"BUSY", 0, 0, .ro, 0, []⟩, ⟨"QUEUED", 6, 1, .ro, 0, []⟩]⟩,
   ⟨"MX_CMD_COUNT", 0x8, [], 64, 0, [⟨"COUNT", 63, 0, .rw, 0, []⟩]⟩,
   ⟨"MX_MAC_COUNT", 0x10, [], 64, 0, [⟨"COUNT", 63, 0, .rw, 0, []⟩]⟩,
   ⟨"MX_BUSY_CYCLES", 0x18, [], 64, 0, [⟨"COUNT", 63, 0, .rw, 0, []⟩]⟩,
   ⟨"MX_ACC_SAT", 0x20, [], 32, 0, [⟨"COUNT", 31, 0, .rw, 0, []⟩]⟩,
   ⟨"MX_NP_OVERRUN", 0x24, [], 32, 0, [⟨"COUNT", 31, 0, .rw, 0, []⟩]⟩,
   ⟨"MX_NP_LIMIT", 0x28, [], 32, 0, [⟨"NS", 15, 0, .rwl, 50000, []⟩]⟩,
   ⟨"MX_FORMAT_COUNT", 0x2C, [], 32, 0, [⟨"COUNT", 31, 0, .rw, 0, []⟩]⟩,
   ⟨"MX_POISON_COUNT", 0x30, [], 32, 0, [⟨"COUNT", 31, 0, .rw, 0, []⟩]⟩,
   ⟨"MX_FAULT_COUNT", 0x34, [], 32, 0, [⟨"COUNT", 31, 0, .rw, 0, []⟩]⟩,
   ⟨"MX_ACT_CFG", 0x100, [(0x100, 4)], 32, 0, [⟨"SEGS", 0, 0, .rw, 0, []⟩]⟩,
   ⟨"MX_ACT_BP", 0x104, [(0x100, 4), (0x4, 15)], 32, 0, [⟨"BP", 31, 0, .rw, 0, []⟩]⟩,
   ⟨"MX_ACT_SLOPE", 0x140, [(0x100, 4), (0x4, 16)], 32, 0, [⟨"SLOPE", 31, 0, .rw, 0, []⟩]⟩,
   ⟨"MX_ACT_ICPT", 0x180, [(0x100, 4), (0x4, 16)], 32, 0, [⟨"ICPT", 31, 0, .rw, 0, []⟩]⟩]

/-- Registers of the vault controller block. -/
def regsVCV : List Reg :=
  [⟨"VC_V_STATUS", 0x0, [], 32, 0, [⟨"LAYER_READY", 3, 0, .ro, 0, []⟩, ⟨"LAYER_POISONED", 7, 4, .ro, 0, []⟩, ⟨"FREE_FRAMES", 15, 8, .ro, 0, []⟩]⟩,
   ⟨"VC_V_BYTES", 0x10, [(0x8, 5)], 64, 0, [⟨"BYTES", 63, 0, .ro, 0, []⟩]⟩,
   ⟨"VC_V_WAIT", 0x40, [(0x8, 5)], 64, 0, [⟨"NS", 63, 0, .ro, 0, []⟩]⟩]

/-- The blocks of R69 that hold registers. The device-wide registers of the Brefen link lie in the block of port 0 (R548). -/
def blocks : List Blk :=
  [⟨"LK", 0x7000000000, 0x0, 1, regsLK1 ++ regsLK2⟩,
   ⟨"TU", 0x7000010000, 0x0, 1, regsTU⟩,
   ⟨"NT", 0x7000020000, 0x0, 1, regsNT⟩,
   ⟨"FL", 0x7000030000, 0x0, 1, regsFL⟩,
   ⟨"AS", 0x7000040000, 0x0, 1, regsAS⟩,
   ⟨"TL", 0x7000050000, 0x1000, 16, regsTL⟩,
   ⟨"ST", 0x7000060000, 0x0, 1, regsST⟩,
   ⟨"PP", 0x7000070000, 0x0, 1, regsPP⟩,
   ⟨"XM", 0x7000080000, 0x8000, 2, regsXM⟩,
   ⟨"AU", 0x7000090000, 0x0, 1, regsAU1 ++ regsAU2⟩,
   ⟨"RN", 0x70000A0000, 0x0, 1, regsRN⟩,
   ⟨"GP", 0x70000B0000, 0x0, 1, regsGP⟩,
   ⟨"IS", 0x70000C0000, 0x0, 1, regsIS⟩,
   ⟨"CA", 0x70000D0000, 0x4000, 4, regsCA⟩,
   ⟨"IO", 0x70000E0000, 0x0, 1, regsIO⟩,
   ⟨"DB", 0x70000F0000, 0x0, 1, regsDB⟩,
   ⟨"HI", 0x7000100000, 0x0, 1, regsHI1 ++ regsHI2⟩,
   ⟨"BL", 0x7000110000, 0x4000, 4, regsBL⟩,
   ⟨"BLD", 0x7000110000, 0x0, 1, regsBLD⟩,
   ⟨"VC", 0x7000120000, 0x0, 1, regsVC⟩,
   ⟨"HG", 0x7000200000, 0x0, 1, regsHG1 ++ regsHG2 ++ regsHG3⟩,
   ⟨"AT", 0x7001100000, 0x10000, 16, regsAT⟩,
   ⟨"SC", 0x7001200000, 0x10000, 16, regsSC⟩,
   ⟨"CV", 0x7001300000, 0x10000, 16, regsCV⟩,
   ⟨"TI", 0x7002000000, 0x10000, 128, regsTI⟩,
   ⟨"MX", 0x7002800000, 0x4000, 128, regsMX⟩,
   ⟨"VCV", 0x7002A00000, 0x1000, 128, regsVCV⟩]

/-- Match an offset against the repetitions of a register: the indices when it is one of its places. -/
def dimIdx : Nat → List (Nat × Nat) → Option (List Nat)
  | r, [] => if r = 0 then some [] else none
  | r, (st, ct) :: ds =>
    if r / st < ct then
      match dimIdx (r % st) ds with
      | some is => some (r / st :: is)
      | none => none
    else none

/-- Where an address meets a register: the register, the block instance, the repetition indices, and for a window the byte offset. -/
structure RegHit where
  blk : String
  inst : Nat
  reg : Reg
  idx : List Nat
  woff : Nat
  deriving DecidableEq, Repr

/-- Does offset `o` fall on register `r`? -/
def Reg.hit (r : Reg) (o : Nat) : Option (List Nat × Nat) :=
  if o < r.off then none
  else if r.win = 0 then (dimIdx (o - r.off) r.dims).map fun is => (is, 0)
  else
    match r.dims with
    | [] => if o - r.off < r.win then some ([], o - r.off) else none
    | (st, ct) :: _ =>
      if (o - r.off) / st < ct ∧ (o - r.off) % st < r.win then some ([(o - r.off) / st], (o - r.off) % st) else none

/-- The first register of a list that an offset falls on. -/
def hitIn (o : Nat) : List Reg → Option (Reg × List Nat × Nat)
  | [] => none
  | r :: rs =>
    match r.hit o with
    | some (is, w) => some (r, is, w)
    | none => hitIn o rs

/-- The register at an address among some blocks. -/
def findReg (a : Nat) : List Blk → Option RegHit
  | [] => none
  | b :: bs =>
    if a < b.base then findReg a bs
    else
      let i := if b.stride = 0 then 0 else (a - b.base) / b.stride
      if b.count ≤ i then findReg a bs
      else
        match hitIn (a - b.base - i * b.stride) b.regs with
        | some (r, is, w) => some ⟨b.name, i, r, is, w⟩
        | none => findReg a bs

/-- The register at a local address of the control space; none at a reserved or unlisted offset (R7, R66). -/
def regAt (a : Nat) : Option RegHit := findReg a blocks

/-- The default wake map of source `s` (R480). -/
def wakeMapReset (s : Nat) : Nat :=
  if s = 0 ∨ s = 36 ∨ s = 37 then 2 ^ 39
  else if s = 1 then 2 ^ 1
  else if s = 38 then maskOf [9, 10, 11, 12, 13]
  else if s = 39 then maskOf [7, 8, 13]
  else 0

/-- The reset value of the register at an address: its fields at their reset values, the two registers whose reset depends on the index by R480 and R500; an address that holds none reads 0. -/
def regReset (a : Nat) : Word :=
  match regAt a with
  | none => 0
  | some h =>
    if h.reg.name = "LK_WAKE_MAP" then BitVec.ofNat 64 (wakeMapReset (h.idx.headD 0))
    else if h.reg.name = "LK_WAKE_CFG" then
      (if [0, 1, 38, 39].contains (h.idx.headD 0) then 1 else if [26, 27, 37].contains (h.idx.headD 0) then 2 else 0)
    else BitVec.ofNat 64 (h.reg.flds.foldl (fun v f => v + f.reset * 2 ^ f.lo) 0)

end Sys2Proof.Machine
end

