-- ==== Sys2Proof/Machine/RegNames.lean ====
section
/-!
DEFINITION. Names for the registers of the map: `A.<register>` is its address for a block instance and repetition indices, `F.<register>_<field>` the bits of a field.
-/
namespace Sys2Proof.Machine

/-- Address of HG_PLAT_STATUS. -/
def A.HG_PLAT_STATUS : Nat := 0x7000200F00
/-- STATE of HG_PLAT_STATUS. -/
def F.HG_PLAT_STATUS_STATE : Nat × Nat := (1, 0)
/-- LAST_FAILED of HG_PLAT_STATUS. -/
def F.HG_PLAT_STATUS_LAST_FAILED : Nat × Nat := (2, 2)
/-- VAULT_FILL of HG_PLAT_STATUS. -/
def F.HG_PLAT_STATUS_VAULT_FILL : Nat × Nat := (3, 3)
/-- Address of HG_PLAT_ERROR. -/
def A.HG_PLAT_ERROR : Nat := 0x7000200F04
/-- DETAIL of HG_PLAT_ERROR. -/
def F.HG_PLAT_ERROR_DETAIL : Nat × Nat := (7, 0)
/-- SECTION of HG_PLAT_ERROR. -/
def F.HG_PLAT_ERROR_SECTION : Nat × Nat := (11, 8)
/-- ENTRY of HG_PLAT_ERROR. -/
def F.HG_PLAT_ERROR_ENTRY : Nat × Nat := (27, 12)
/-- Address of HG_PLAT_SERIAL. -/
def A.HG_PLAT_SERIAL : Nat := 0x7000200F08
/-- SERIAL of HG_PLAT_SERIAL. -/
def F.HG_PLAT_SERIAL_SERIAL : Nat × Nat := (63, 0)
/-- Address of HG_PLAT_INFO. -/
def A.HG_PLAT_INFO : Nat := 0x7000200F10
/-- DEVICE_ID of HG_PLAT_INFO. -/
def F.HG_PLAT_INFO_DEVICE_ID : Nat × Nat := (13, 0)
/-- CONFIG_CLASS of HG_PLAT_INFO. -/
def F.HG_PLAT_INFO_CONFIG_CLASS : Nat × Nat := (14, 14)
/-- CONFIDENTIAL of HG_PLAT_INFO. -/
def F.HG_PLAT_INFO_CONFIDENTIAL : Nat × Nat := (15, 15)
/-- Address of VC_MIG_CFG. -/
def A.VC_MIG_CFG : Nat := 0x7000120000
/-- T2_SHARE of VC_MIG_CFG. -/
def F.VC_MIG_CFG_T2_SHARE : Nat × Nat := (3, 0)
/-- T3_SHARE of VC_MIG_CFG. -/
def F.VC_MIG_CFG_T3_SHARE : Nat × Nat := (7, 4)
/-- TENANT_RR of VC_MIG_CFG. -/
def F.VC_MIG_CFG_TENANT_RR : Nat × Nat := (8, 8)
/-- Address of VC_MIG_STATUS. -/
def A.VC_MIG_STATUS : Nat := 0x7000120004
/-- QUEUED of VC_MIG_STATUS. -/
def F.VC_MIG_STATUS_QUEUED : Nat × Nat := (6, 0)
/-- ACTIVE of VC_MIG_STATUS. -/
def F.VC_MIG_STATUS_ACTIVE : Nat × Nat := (9, 7)
/-- Address of VC_T1_FREE. -/
def A.VC_T1_FREE : Nat := 0x7000120008
/-- FRAMES of VC_T1_FREE. -/
def F.VC_T1_FREE_FRAMES : Nat × Nat := (15, 0)
/-- Address of VC_T2_FREE. -/
def A.VC_T2_FREE : Nat := 0x700012000C
/-- FRAMES of VC_T2_FREE. -/
def F.VC_T2_FREE_FRAMES : Nat × Nat := (15, 0)
/-- Address of VC_QUOTA_T1. -/
def A.VC_QUOTA_T1 (i : Nat) : Nat := 0x7000121000 + 0x40 * i
/-- PAGES of VC_QUOTA_T1. -/
def F.VC_QUOTA_T1_PAGES : Nat × Nat := (31, 0)
/-- Address of VC_QUOTA_T2. -/
def A.VC_QUOTA_T2 (i : Nat) : Nat := 0x7000121004 + 0x40 * i
/-- PAGES of VC_QUOTA_T2. -/
def F.VC_QUOTA_T2_PAGES : Nat × Nat := (31, 0)
/-- Address of VC_QUOTA_T3. -/
def A.VC_QUOTA_T3 (i : Nat) : Nat := 0x7000121008 + 0x40 * i
/-- PAGES of VC_QUOTA_T3. -/
def F.VC_QUOTA_T3_PAGES : Nat × Nat := (31, 0)
/-- Address of VC_USED_T1. -/
def A.VC_USED_T1 (i : Nat) : Nat := 0x7000121010 + 0x40 * i
/-- PAGES of VC_USED_T1. -/
def F.VC_USED_T1_PAGES : Nat × Nat := (31, 0)
/-- Address of VC_USED_T2. -/
def A.VC_USED_T2 (i : Nat) : Nat := 0x7000121014 + 0x40 * i
/-- PAGES of VC_USED_T2. -/
def F.VC_USED_T2_PAGES : Nat × Nat := (31, 0)
/-- Address of VC_USED_T3. -/
def A.VC_USED_T3 (i : Nat) : Nat := 0x7000121018 + 0x40 * i
/-- PAGES of VC_USED_T3. -/
def F.VC_USED_T3_PAGES : Nat × Nat := (31, 0)
/-- Address of VC_QUOTA_REFUSED. -/
def A.VC_QUOTA_REFUSED (i : Nat) : Nat := 0x7000121020 + 0x40 * i
/-- COUNT of VC_QUOTA_REFUSED. -/
def F.VC_QUOTA_REFUSED_COUNT : Nat × Nat := (31, 0)
/-- Address of VC_STALL. -/
def A.VC_STALL (i j k : Nat) : Nat := 0x7000124000 + 0x100 * i + 0x40 * j + 0x8 * k
/-- VALUE of VC_STALL. -/
def F.VC_STALL_VALUE : Nat × Nat := (63, 0)
/-- Address of VC_CMD. -/
def A.VC_CMD (i : Nat) : Nat := 0x7000128000 + 0x1000 * i
/-- OBJ_PAGE of VC_CMD. -/
def F.VC_CMD_OBJ_PAGE : Nat × Nat := (18, 0)
/-- OP of VC_CMD. -/
def F.VC_CMD_OP : Nat × Nat := (21, 19)
/-- TIER of VC_CMD. -/
def F.VC_CMD_TIER : Nat × Nat := (23, 22)
/-- CLASS of VC_CMD. -/
def F.VC_CMD_CLASS : Nat × Nat := (26, 24)
/-- WRITABLE of VC_CMD. -/
def F.VC_CMD_WRITABLE : Nat × Nat := (27, 27)
/-- PINNED of VC_CMD. -/
def F.VC_CMD_PINNED : Nat × Nat := (28, 28)
/-- STRICT of VC_CMD. -/
def F.VC_CMD_STRICT : Nat × Nat := (29, 29)
/-- LOCATION of VC_CMD. -/
def F.VC_CMD_LOCATION : Nat × Nat := (47, 32)
/-- PEER_DEVICE of VC_CMD. -/
def F.VC_CMD_PEER_DEVICE : Nat × Nat := (61, 48)
/-- Address of VC_CMD_STATUS. -/
def A.VC_CMD_STATUS (i : Nat) : Nat := 0x7000128008 + 0x1000 * i
/-- BUSY of VC_CMD_STATUS. -/
def F.VC_CMD_STATUS_BUSY : Nat × Nat := (0, 0)
/-- OVERRUN of VC_CMD_STATUS. -/
def F.VC_CMD_STATUS_OVERRUN : Nat × Nat := (1, 1)
/-- STATUS of VC_CMD_STATUS. -/
def F.VC_CMD_STATUS_STATUS : Nat × Nat := (7, 4)
/-- DETAIL of VC_CMD_STATUS. -/
def F.VC_CMD_STATUS_DETAIL : Nat × Nat := (15, 8)
/-- Address of VC_CMD_ENTRY. -/
def A.VC_CMD_ENTRY (i : Nat) : Nat := 0x7000128010 + 0x1000 * i
/-- ENTRY of VC_CMD_ENTRY. -/
def F.VC_CMD_ENTRY_ENTRY : Nat × Nat := (63, 0)
/-- Address of VC_MIG_RESULT. -/
def A.VC_MIG_RESULT (i : Nat) : Nat := 0x7000128018 + 0x1000 * i
/-- VALID of VC_MIG_RESULT. -/
def F.VC_MIG_RESULT_VALID : Nat × Nat := (0, 0)
/-- STATUS of VC_MIG_RESULT. -/
def F.VC_MIG_RESULT_STATUS : Nat × Nat := (7, 4)
/-- DETAIL of VC_MIG_RESULT. -/
def F.VC_MIG_RESULT_DETAIL : Nat × Nat := (15, 8)
/-- OBJ_PAGE of VC_MIG_RESULT. -/
def F.VC_MIG_RESULT_OBJ_PAGE : Nat × Nat := (34, 16)
/-- Address of VC_V_STATUS. -/
def A.VC_V_STATUS (b : Nat) : Nat := 0x7002A00000 + 0x1000 * b
/-- LAYER_READY of VC_V_STATUS. -/
def F.VC_V_STATUS_LAYER_READY : Nat × Nat := (3, 0)
/-- LAYER_POISONED of VC_V_STATUS. -/
def F.VC_V_STATUS_LAYER_POISONED : Nat × Nat := (7, 4)
/-- FREE_FRAMES of VC_V_STATUS. -/
def F.VC_V_STATUS_FREE_FRAMES : Nat × Nat := (15, 8)
/-- Address of VC_V_BYTES. -/
def A.VC_V_BYTES (b i : Nat) : Nat := 0x7002A00010 + 0x1000 * b + 0x8 * i
/-- BYTES of VC_V_BYTES. -/
def F.VC_V_BYTES_BYTES : Nat × Nat := (63, 0)
/-- Address of VC_V_WAIT. -/
def A.VC_V_WAIT (b i : Nat) : Nat := 0x7002A00040 + 0x1000 * b + 0x8 * i
/-- NS of VC_V_WAIT. -/
def F.VC_V_WAIT_NS : Nat × Nat := (63, 0)
/-- Address of XM_CFG. -/
def A.XM_CFG (b : Nat) : Nat := 0x7000080000 + 0x8000 * b
/-- CH0_EN of XM_CFG. -/
def F.XM_CFG_CH0_EN : Nat × Nat := (0, 0)
/-- CH1_EN of XM_CFG. -/
def F.XM_CFG_CH1_EN : Nat × Nat := (1, 1)
/-- RATE of XM_CFG. -/
def F.XM_CFG_RATE : Nat × Nat := (3, 2)
/-- INLINE_ECC of XM_CFG. -/
def F.XM_CFG_INLINE_ECC : Nat × Nat := (4, 4)
/-- LINK_ECC of XM_CFG. -/
def F.XM_CFG_LINK_ECC : Nat × Nat := (5, 5)
/-- Address of XM_TRAIN. -/
def A.XM_TRAIN (b : Nat) : Nat := 0x7000080004 + 0x8000 * b
/-- START of XM_TRAIN. -/
def F.XM_TRAIN_START : Nat × Nat := (0, 0)
/-- DONE of XM_TRAIN. -/
def F.XM_TRAIN_DONE : Nat × Nat := (1, 1)
/-- FAIL of XM_TRAIN. -/
def F.XM_TRAIN_FAIL : Nat × Nat := (3, 2)
/-- Address of XM_CAP. -/
def A.XM_CAP (b : Nat) : Nat := 0x7000080008 + 0x8000 * b
/-- CH0_CAP of XM_CAP. -/
def F.XM_CAP_CH0_CAP : Nat × Nat := (7, 0)
/-- CH1_CAP of XM_CAP. -/
def F.XM_CAP_CH1_CAP : Nat × Nat := (15, 8)
/-- Address of XM_STALL_LIMIT. -/
def A.XM_STALL_LIMIT (b : Nat) : Nat := 0x700008000C + 0x8000 * b
/-- US of XM_STALL_LIMIT. -/
def F.XM_STALL_LIMIT_US : Nat × Nat := (15, 0)
/-- Address of XM_ECC_CE. -/
def A.XM_ECC_CE (b : Nat) : Nat := 0x7000080010 + 0x8000 * b
/-- CH0 of XM_ECC_CE. -/
def F.XM_ECC_CE_CH0 : Nat × Nat := (15, 0)
/-- CH1 of XM_ECC_CE. -/
def F.XM_ECC_CE_CH1 : Nat × Nat := (31, 16)
/-- Address of XM_ECC_UE. -/
def A.XM_ECC_UE (b : Nat) : Nat := 0x7000080014 + 0x8000 * b
/-- CH0 of XM_ECC_UE. -/
def F.XM_ECC_UE_CH0 : Nat × Nat := (15, 0)
/-- CH1 of XM_ECC_UE. -/
def F.XM_ECC_UE_CH1 : Nat × Nat := (31, 16)
/-- Address of XM_TEMP. -/
def A.XM_TEMP (b : Nat) : Nat := 0x7000080018 + 0x8000 * b
/-- CH0 of XM_TEMP. -/
def F.XM_TEMP_CH0 : Nat × Nat := (2, 0)
/-- CH1 of XM_TEMP. -/
def F.XM_TEMP_CH1 : Nat × Nat := (10, 8)
/-- Address of XM_BYTES_CH0. -/
def A.XM_BYTES_CH0 (b : Nat) : Nat := 0x7000080020 + 0x8000 * b
/-- BYTES of XM_BYTES_CH0. -/
def F.XM_BYTES_CH0_BYTES : Nat × Nat := (63, 0)
/-- Address of XM_BYTES_CH1. -/
def A.XM_BYTES_CH1 (b : Nat) : Nat := 0x7000080028 + 0x8000 * b
/-- BYTES of XM_BYTES_CH1. -/
def F.XM_BYTES_CH1_BYTES : Nat × Nat := (63, 0)
/-- Address of XM_QMAX. -/
def A.XM_QMAX (b : Nat) : Nat := 0x7000080030 + 0x8000 * b
/-- DEPTH of XM_QMAX. -/
def F.XM_QMAX_DEPTH : Nat × Nat := (6, 0)
/-- Address of TI_EXC_COUNT. -/
def A.TI_EXC_COUNT (b : Nat) : Nat := 0x7002000000 + 0x10000 * b
/-- COUNT of TI_EXC_COUNT. -/
def F.TI_EXC_COUNT_COUNT : Nat × Nat := (31, 0)
/-- Address of TI_MSG_DISCARD. -/
def A.TI_MSG_DISCARD (b : Nat) : Nat := 0x7002000004 + 0x10000 * b
/-- COUNT of TI_MSG_DISCARD. -/
def F.TI_MSG_DISCARD_COUNT : Nat × Nat := (31, 0)
/-- Address of TI_MSG_BOUNCE. -/
def A.TI_MSG_BOUNCE (b : Nat) : Nat := 0x7002000008 + 0x10000 * b
/-- COUNT of TI_MSG_BOUNCE. -/
def F.TI_MSG_BOUNCE_COUNT : Nat × Nat := (31, 0)
/-- Address of TI_THR_STATE. -/
def A.TI_THR_STATE (b i : Nat) : Nat := 0x7002000100 + 0x10000 * b + 0x40 * i
/-- STATE of TI_THR_STATE. -/
def F.TI_THR_STATE_STATE : Nat × Nat := (2, 0)
/-- HANDLER of TI_THR_STATE. -/
def F.TI_THR_STATE_HANDLER : Nat × Nat := (3, 3)
/-- CONTEXT of TI_THR_STATE. -/
def F.TI_THR_STATE_CONTEXT : Nat × Nat := (13, 4)
/-- RANK of TI_THR_STATE. -/
def F.TI_THR_STATE_RANK : Nat × Nat := (20, 14)
/-- Address of TI_THR_PC. -/
def A.TI_THR_PC (b i : Nat) : Nat := 0x7002000108 + 0x10000 * b + 0x40 * i
/-- PC of TI_THR_PC. -/
def F.TI_THR_PC_PC : Nat × Nat := (63, 0)
/-- Address of TI_EXC_PC. -/
def A.TI_EXC_PC (b i : Nat) : Nat := 0x7002000110 + 0x10000 * b + 0x40 * i
/-- EPC of TI_EXC_PC. -/
def F.TI_EXC_PC_EPC : Nat × Nat := (63, 0)
/-- Address of TI_EXC_ADDR. -/
def A.TI_EXC_ADDR (b i : Nat) : Nat := 0x7002000118 + 0x10000 * b + 0x40 * i
/-- EADDR of TI_EXC_ADDR. -/
def F.TI_EXC_ADDR_EADDR : Nat × Nat := (63, 0)
/-- Address of TI_EXC_CAUSE. -/
def A.TI_EXC_CAUSE (b i : Nat) : Nat := 0x7002000120 + 0x10000 * b + 0x40 * i
/-- CAUSE of TI_EXC_CAUSE. -/
def F.TI_EXC_CAUSE_CAUSE : Nat × Nat := (3, 0)
/-- SUBCAUSE of TI_EXC_CAUSE. -/
def F.TI_EXC_CAUSE_SUBCAUSE : Nat × Nat := (7, 4)
/-- STATUS of TI_EXC_CAUSE. -/
def F.TI_EXC_CAUSE_STATUS : Nat × Nat := (11, 8)
/-- Address of TI_MSG_STATUS. -/
def A.TI_MSG_STATUS (b i : Nat) : Nat := 0x7002000124 + 0x10000 * b + 0x40 * i
/-- QUEUED of TI_MSG_STATUS. -/
def F.TI_MSG_STATUS_QUEUED : Nat × Nat := (3, 0)
/-- BOUNCES of TI_MSG_STATUS. -/
def F.TI_MSG_STATUS_BOUNCES : Nat × Nat := (6, 4)
/-- CREDITS of TI_MSG_STATUS. -/
def F.TI_MSG_STATUS_CREDITS : Nat × Nat := (9, 7)
/-- Address of AS_SQERR. -/
def A.AS_SQERR (i : Nat) : Nat := 0x7000041000 + 0x20 * i
/-- VALUE of AS_SQERR. -/
def F.AS_SQERR_VALUE : Nat × Nat := (63, 0)
/-- Address of AS_COUNT. -/
def A.AS_COUNT (i : Nat) : Nat := 0x7000041008 + 0x20 * i
/-- VALUE of AS_COUNT. -/
def F.AS_COUNT_VALUE : Nat × Nat := (63, 0)
/-- Address of AS_MAXERR. -/
def A.AS_MAXERR (i : Nat) : Nat := 0x7000041010 + 0x20 * i
/-- VALUE of AS_MAXERR. -/
def F.AS_MAXERR_VALUE : Nat × Nat := (23, 0)
/-- Address of AS_CLIP. -/
def A.AS_CLIP (i : Nat) : Nat := 0x7000041014 + 0x20 * i
/-- VALUE of AS_CLIP. -/
def F.AS_CLIP_VALUE : Nat × Nat := (31, 0)
/-- Address of AS_SET_CTRL. -/
def A.AS_SET_CTRL (i : Nat) : Nat := 0x7000041018 + 0x20 * i
/-- ENABLE of AS_SET_CTRL. -/
def F.AS_SET_CTRL_ENABLE : Nat × Nat := (0, 0)
/-- SATURATED of AS_SET_CTRL. -/
def F.AS_SET_CTRL_SATURATED : Nat × Nat := (1, 1)
/-- Address of AS_SNAP_REQ. -/
def A.AS_SNAP_REQ (i : Nat) : Nat := 0x7000040100 + 0x40 * i
/-- SET of AS_SNAP_REQ. -/
def F.AS_SNAP_REQ_SET : Nat × Nat := (7, 0)
/-- CLEAR of AS_SNAP_REQ. -/
def F.AS_SNAP_REQ_CLEAR : Nat × Nat := (8, 8)
/-- Address of AS_SNAP_STATUS. -/
def A.AS_SNAP_STATUS (i : Nat) : Nat := 0x7000040104 + 0x40 * i
/-- SET of AS_SNAP_STATUS. -/
def F.AS_SNAP_STATUS_SET : Nat × Nat := (7, 0)
/-- VALID of AS_SNAP_STATUS. -/
def F.AS_SNAP_STATUS_VALID : Nat × Nat := (8, 8)
/-- REFUSED of AS_SNAP_STATUS. -/
def F.AS_SNAP_STATUS_REFUSED : Nat × Nat := (9, 9)
/-- Address of AS_SNAP_SQERR. -/
def A.AS_SNAP_SQERR (i : Nat) : Nat := 0x7000040108 + 0x40 * i
/-- VALUE of AS_SNAP_SQERR. -/
def F.AS_SNAP_SQERR_VALUE : Nat × Nat := (63, 0)
/-- Address of AS_SNAP_COUNT. -/
def A.AS_SNAP_COUNT (i : Nat) : Nat := 0x7000040110 + 0x40 * i
/-- VALUE of AS_SNAP_COUNT. -/
def F.AS_SNAP_COUNT_VALUE : Nat × Nat := (63, 0)
/-- Address of AS_SNAP_MAXERR. -/
def A.AS_SNAP_MAXERR (i : Nat) : Nat := 0x7000040118 + 0x40 * i
/-- VALUE of AS_SNAP_MAXERR. -/
def F.AS_SNAP_MAXERR_VALUE : Nat × Nat := (23, 0)
/-- Address of AS_SNAP_CLIP. -/
def A.AS_SNAP_CLIP (i : Nat) : Nat := 0x700004011C + 0x40 * i
/-- VALUE of AS_SNAP_CLIP. -/
def F.AS_SNAP_CLIP_VALUE : Nat × Nat := (31, 0)
/-- Address of MX_STATUS. -/
def A.MX_STATUS (b : Nat) : Nat := 0x7002800000 + 0x4000 * b
/-- BUSY of MX_STATUS. -/
def F.MX_STATUS_BUSY : Nat × Nat := (0, 0)
/-- QUEUED of MX_STATUS. -/
def F.MX_STATUS_QUEUED : Nat × Nat := (6, 1)
/-- Address of MX_CMD_COUNT. -/
def A.MX_CMD_COUNT (b : Nat) : Nat := 0x7002800008 + 0x4000 * b
/-- COUNT of MX_CMD_COUNT. -/
def F.MX_CMD_COUNT_COUNT : Nat × Nat := (63, 0)
/-- Address of MX_MAC_COUNT. -/
def A.MX_MAC_COUNT (b : Nat) : Nat := 0x7002800010 + 0x4000 * b
/-- COUNT of MX_MAC_COUNT. -/
def F.MX_MAC_COUNT_COUNT : Nat × Nat := (63, 0)
/-- Address of MX_BUSY_CYCLES. -/
def A.MX_BUSY_CYCLES (b : Nat) : Nat := 0x7002800018 + 0x4000 * b
/-- COUNT of MX_BUSY_CYCLES. -/
def F.MX_BUSY_CYCLES_COUNT : Nat × Nat := (63, 0)
/-- Address of MX_ACC_SAT. -/
def A.MX_ACC_SAT (b : Nat) : Nat := 0x7002800020 + 0x4000 * b
/-- COUNT of MX_ACC_SAT. -/
def F.MX_ACC_SAT_COUNT : Nat × Nat := (31, 0)
/-- Address of MX_NP_OVERRUN. -/
def A.MX_NP_OVERRUN (b : Nat) : Nat := 0x7002800024 + 0x4000 * b
/-- COUNT of MX_NP_OVERRUN. -/
def F.MX_NP_OVERRUN_COUNT : Nat × Nat := (31, 0)
/-- Address of MX_NP_LIMIT. -/
def A.MX_NP_LIMIT (b : Nat) : Nat := 0x7002800028 + 0x4000 * b
/-- NS of MX_NP_LIMIT. -/
def F.MX_NP_LIMIT_NS : Nat × Nat := (15, 0)
/-- Address of MX_FORMAT_COUNT. -/
def A.MX_FORMAT_COUNT (b : Nat) : Nat := 0x700280002C + 0x4000 * b
/-- COUNT of MX_FORMAT_COUNT. -/
def F.MX_FORMAT_COUNT_COUNT : Nat × Nat := (31, 0)
/-- Address of MX_POISON_COUNT. -/
def A.MX_POISON_COUNT (b : Nat) : Nat := 0x7002800030 + 0x4000 * b
/-- COUNT of MX_POISON_COUNT. -/
def F.MX_POISON_COUNT_COUNT : Nat × Nat := (31, 0)
/-- Address of MX_FAULT_COUNT. -/
def A.MX_FAULT_COUNT (b : Nat) : Nat := 0x7002800034 + 0x4000 * b
/-- COUNT of MX_FAULT_COUNT. -/
def F.MX_FAULT_COUNT_COUNT : Nat × Nat := (31, 0)
/-- Address of MX_ACT_CFG. -/
def A.MX_ACT_CFG (b i : Nat) : Nat := 0x7002800100 + 0x4000 * b + 0x100 * i
/-- SEGS of MX_ACT_CFG. -/
def F.MX_ACT_CFG_SEGS : Nat × Nat := (0, 0)
/-- Address of MX_ACT_BP. -/
def A.MX_ACT_BP (b i j : Nat) : Nat := 0x7002800104 + 0x4000 * b + 0x100 * i + 0x4 * j
/-- BP of MX_ACT_BP. -/
def F.MX_ACT_BP_BP : Nat × Nat := (31, 0)
/-- Address of MX_ACT_SLOPE. -/
def A.MX_ACT_SLOPE (b i j : Nat) : Nat := 0x7002800140 + 0x4000 * b + 0x100 * i + 0x4 * j
/-- SLOPE of MX_ACT_SLOPE. -/
def F.MX_ACT_SLOPE_SLOPE : Nat × Nat := (31, 0)
/-- Address of MX_ACT_ICPT. -/
def A.MX_ACT_ICPT (b i j : Nat) : Nat := 0x7002800180 + 0x4000 * b + 0x100 * i + 0x4 * j
/-- ICPT of MX_ACT_ICPT. -/
def F.MX_ACT_ICPT_ICPT : Nat × Nat := (31, 0)
/-- Address of AT_NP_LIMIT. -/
def A.AT_NP_LIMIT (b : Nat) : Nat := 0x7001100000 + 0x10000 * b
/-- NS of AT_NP_LIMIT. -/
def F.AT_NP_LIMIT_NS : Nat × Nat := (15, 0)
/-- Address of AT_STATUS. -/
def A.AT_STATUS (b i : Nat) : Nat := 0x7001100100 + 0x10000 * b + 0x80 * i
/-- BUSY of AT_STATUS. -/
def F.AT_STATUS_BUSY : Nat × Nat := (0, 0)
/-- QUEUED of AT_STATUS. -/
def F.AT_STATUS_QUEUED : Nat × Nat := (5, 1)
/-- Address of AT_CMD_COUNT. -/
def A.AT_CMD_COUNT (b i : Nat) : Nat := 0x7001100108 + 0x10000 * b + 0x80 * i
/-- COUNT of AT_CMD_COUNT. -/
def F.AT_CMD_COUNT_COUNT : Nat × Nat := (63, 0)
/-- Address of AT_MAC_COUNT. -/
def A.AT_MAC_COUNT (b i : Nat) : Nat := 0x7001100110 + 0x10000 * b + 0x80 * i
/-- COUNT of AT_MAC_COUNT. -/
def F.AT_MAC_COUNT_COUNT : Nat × Nat := (63, 0)
/-- Address of AT_KV_BYTES. -/
def A.AT_KV_BYTES (b i : Nat) : Nat := 0x7001100118 + 0x10000 * b + 0x80 * i
/-- COUNT of AT_KV_BYTES. -/
def F.AT_KV_BYTES_COUNT : Nat × Nat := (63, 0)
/-- Address of AT_BUSY_CYCLES. -/
def A.AT_BUSY_CYCLES (b i : Nat) : Nat := 0x7001100120 + 0x10000 * b + 0x80 * i
/-- COUNT of AT_BUSY_CYCLES. -/
def F.AT_BUSY_CYCLES_COUNT : Nat × Nat := (63, 0)
/-- Address of AT_NP_OVERRUN. -/
def A.AT_NP_OVERRUN (b i : Nat) : Nat := 0x7001100128 + 0x10000 * b + 0x80 * i
/-- COUNT of AT_NP_OVERRUN. -/
def F.AT_NP_OVERRUN_COUNT : Nat × Nat := (31, 0)
/-- Address of AT_FORMAT_COUNT. -/
def A.AT_FORMAT_COUNT (b i : Nat) : Nat := 0x700110012C + 0x10000 * b + 0x80 * i
/-- COUNT of AT_FORMAT_COUNT. -/
def F.AT_FORMAT_COUNT_COUNT : Nat × Nat := (31, 0)
/-- Address of AT_POISON_COUNT. -/
def A.AT_POISON_COUNT (b i : Nat) : Nat := 0x7001100130 + 0x10000 * b + 0x80 * i
/-- COUNT of AT_POISON_COUNT. -/
def F.AT_POISON_COUNT_COUNT : Nat × Nat := (31, 0)
/-- Address of AT_FAULT_COUNT. -/
def A.AT_FAULT_COUNT (b i : Nat) : Nat := 0x7001100134 + 0x10000 * b + 0x80 * i
/-- COUNT of AT_FAULT_COUNT. -/
def F.AT_FAULT_COUNT_COUNT : Nat × Nat := (31, 0)
/-- Address of AT_EMPTY_ROWS. -/
def A.AT_EMPTY_ROWS (b i : Nat) : Nat := 0x7001100138 + 0x10000 * b + 0x80 * i
/-- COUNT of AT_EMPTY_ROWS. -/
def F.AT_EMPTY_ROWS_COUNT : Nat × Nat := (31, 0)
/-- Address of AT_POOL_EMPTY. -/
def A.AT_POOL_EMPTY (b i : Nat) : Nat := 0x700110013C + 0x10000 * b + 0x80 * i
/-- COUNT of AT_POOL_EMPTY. -/
def F.AT_POOL_EMPTY_COUNT : Nat × Nat := (31, 0)
/-- Address of AT_SLOT_LOST. -/
def A.AT_SLOT_LOST (b i : Nat) : Nat := 0x7001100140 + 0x10000 * b + 0x80 * i
/-- COUNT of AT_SLOT_LOST. -/
def F.AT_SLOT_LOST_COUNT : Nat × Nat := (31, 0)
/-- Address of AT_APPEND_RACE. -/
def A.AT_APPEND_RACE (b i : Nat) : Nat := 0x7001100144 + 0x10000 * b + 0x80 * i
/-- COUNT of AT_APPEND_RACE. -/
def F.AT_APPEND_RACE_COUNT : Nat × Nat := (31, 0)
/-- Address of SC_NP_LIMIT. -/
def A.SC_NP_LIMIT (b : Nat) : Nat := 0x7001200000 + 0x10000 * b
/-- NS of SC_NP_LIMIT. -/
def F.SC_NP_LIMIT_NS : Nat × Nat := (15, 0)
/-- Address of SC_ORDER_LIMIT. -/
def A.SC_ORDER_LIMIT (b : Nat) : Nat := 0x7001200004 + 0x10000 * b
/-- US of SC_ORDER_LIMIT. -/
def F.SC_ORDER_LIMIT_US : Nat × Nat := (15, 0)
/-- Address of SC_EPOCH. -/
def A.SC_EPOCH (b : Nat) : Nat := 0x7001200008 + 0x10000 * b
/-- EPOCH of SC_EPOCH. -/
def F.SC_EPOCH_EPOCH : Nat × Nat := (26, 0)
/-- Address of SC_STATUS. -/
def A.SC_STATUS (b i : Nat) : Nat := 0x7001200100 + 0x10000 * b + 0x80 * i
/-- BUSY of SC_STATUS. -/
def F.SC_STATUS_BUSY : Nat × Nat := (0, 0)
/-- QUEUED of SC_STATUS. -/
def F.SC_STATUS_QUEUED : Nat × Nat := (5, 1)
/-- ASIDE of SC_STATUS. -/
def F.SC_STATUS_ASIDE : Nat × Nat := (10, 6)
/-- STORE_KIB of SC_STATUS. -/
def F.SC_STATUS_STORE_KIB : Nat × Nat := (20, 11)
/-- Address of SC_CMD_COUNT. -/
def A.SC_CMD_COUNT (b i : Nat) : Nat := 0x7001200108 + 0x10000 * b + 0x80 * i
/-- COUNT of SC_CMD_COUNT. -/
def F.SC_CMD_COUNT_COUNT : Nat × Nat := (63, 0)
/-- Address of SC_ELEM_STEPS. -/
def A.SC_ELEM_STEPS (b i : Nat) : Nat := 0x7001200110 + 0x10000 * b + 0x80 * i
/-- COUNT of SC_ELEM_STEPS. -/
def F.SC_ELEM_STEPS_COUNT : Nat × Nat := (63, 0)
/-- Address of SC_BUSY_CYCLES. -/
def A.SC_BUSY_CYCLES (b i : Nat) : Nat := 0x7001200118 + 0x10000 * b + 0x80 * i
/-- COUNT of SC_BUSY_CYCLES. -/
def F.SC_BUSY_CYCLES_COUNT : Nat × Nat := (63, 0)
/-- Address of SC_STATE_WAIT. -/
def A.SC_STATE_WAIT (b i : Nat) : Nat := 0x7001200120 + 0x10000 * b + 0x80 * i
/-- NS of SC_STATE_WAIT. -/
def F.SC_STATE_WAIT_NS : Nat × Nat := (63, 0)
/-- Address of SC_NP_OVERRUN. -/
def A.SC_NP_OVERRUN (b i : Nat) : Nat := 0x7001200128 + 0x10000 * b + 0x80 * i
/-- COUNT of SC_NP_OVERRUN. -/
def F.SC_NP_OVERRUN_COUNT : Nat × Nat := (31, 0)
/-- Address of SC_STATE_FAULT. -/
def A.SC_STATE_FAULT (b i : Nat) : Nat := 0x700120012C + 0x10000 * b + 0x80 * i
/-- COUNT of SC_STATE_FAULT. -/
def F.SC_STATE_FAULT_COUNT : Nat × Nat := (31, 0)
/-- Address of SC_STATE_EVICT. -/
def A.SC_STATE_EVICT (b i : Nat) : Nat := 0x7001200130 + 0x10000 * b + 0x80 * i
/-- COUNT of SC_STATE_EVICT. -/
def F.SC_STATE_EVICT_COUNT : Nat × Nat := (31, 0)
/-- Address of SC_STATE_LOST. -/
def A.SC_STATE_LOST (b i : Nat) : Nat := 0x7001200134 + 0x10000 * b + 0x80 * i
/-- COUNT of SC_STATE_LOST. -/
def F.SC_STATE_LOST_COUNT : Nat × Nat := (31, 0)
/-- Address of SC_ORDER_WAIT. -/
def A.SC_ORDER_WAIT (b i : Nat) : Nat := 0x7001200138 + 0x10000 * b + 0x80 * i
/-- COUNT of SC_ORDER_WAIT. -/
def F.SC_ORDER_WAIT_COUNT : Nat × Nat := (31, 0)
/-- Address of SC_SEQ_REJECT. -/
def A.SC_SEQ_REJECT (b i : Nat) : Nat := 0x700120013C + 0x10000 * b + 0x80 * i
/-- COUNT of SC_SEQ_REJECT. -/
def F.SC_SEQ_REJECT_COUNT : Nat × Nat := (31, 0)
/-- Address of SC_RESET_MARKS. -/
def A.SC_RESET_MARKS (b i : Nat) : Nat := 0x7001200140 + 0x10000 * b + 0x80 * i
/-- COUNT of SC_RESET_MARKS. -/
def F.SC_RESET_MARKS_COUNT : Nat × Nat := (31, 0)
/-- Address of SC_FORMAT_COUNT. -/
def A.SC_FORMAT_COUNT (b i : Nat) : Nat := 0x7001200144 + 0x10000 * b + 0x80 * i
/-- COUNT of SC_FORMAT_COUNT. -/
def F.SC_FORMAT_COUNT_COUNT : Nat × Nat := (31, 0)
/-- Address of SC_POISON_COUNT. -/
def A.SC_POISON_COUNT (b i : Nat) : Nat := 0x7001200148 + 0x10000 * b + 0x80 * i
/-- COUNT of SC_POISON_COUNT. -/
def F.SC_POISON_COUNT_COUNT : Nat × Nat := (31, 0)
/-- Address of SC_FAULT_COUNT. -/
def A.SC_FAULT_COUNT (b i : Nat) : Nat := 0x700120014C + 0x10000 * b + 0x80 * i
/-- COUNT of SC_FAULT_COUNT. -/
def F.SC_FAULT_COUNT_COUNT : Nat × Nat := (31, 0)
/-- Address of SC_WINDOW_SHORT. -/
def A.SC_WINDOW_SHORT (b i : Nat) : Nat := 0x7001200150 + 0x10000 * b + 0x80 * i
/-- COUNT of SC_WINDOW_SHORT. -/
def F.SC_WINDOW_SHORT_COUNT : Nat × Nat := (31, 0)
/-- Address of CV_NP_LIMIT. -/
def A.CV_NP_LIMIT (b : Nat) : Nat := 0x7001300000 + 0x10000 * b
/-- NS of CV_NP_LIMIT. -/
def F.CV_NP_LIMIT_NS : Nat × Nat := (15, 0)
/-- Address of CV_HALO_LIMIT. -/
def A.CV_HALO_LIMIT (b : Nat) : Nat := 0x7001300004 + 0x10000 * b
/-- US of CV_HALO_LIMIT. -/
def F.CV_HALO_LIMIT_US : Nat × Nat := (15, 0)
/-- Address of CV_HALO_STATUS. -/
def A.CV_HALO_STATUS (b : Nat) : Nat := 0x7001300008 + 0x10000 * b
/-- ABOVE_USED of CV_HALO_STATUS. -/
def F.CV_HALO_STATUS_ABOVE_USED : Nat × Nat := (4, 0)
/-- BELOW_USED of CV_HALO_STATUS. -/
def F.CV_HALO_STATUS_BELOW_USED : Nat × Nat := (9, 5)
/-- Address of CV_STATUS. -/
def A.CV_STATUS (b i : Nat) : Nat := 0x7001300100 + 0x10000 * b + 0x80 * i
/-- BUSY of CV_STATUS. -/
def F.CV_STATUS_BUSY : Nat × Nat := (0, 0)
/-- QUEUED of CV_STATUS. -/
def F.CV_STATUS_QUEUED : Nat × Nat := (5, 1)
/-- ASIDE of CV_STATUS. -/
def F.CV_STATUS_ASIDE : Nat × Nat := (10, 6)
/-- Address of CV_CMD_COUNT. -/
def A.CV_CMD_COUNT (b i : Nat) : Nat := 0x7001300108 + 0x10000 * b + 0x80 * i
/-- COUNT of CV_CMD_COUNT. -/
def F.CV_CMD_COUNT_COUNT : Nat × Nat := (63, 0)
/-- Address of CV_MAC_COUNT. -/
def A.CV_MAC_COUNT (b i : Nat) : Nat := 0x7001300110 + 0x10000 * b + 0x80 * i
/-- COUNT of CV_MAC_COUNT. -/
def F.CV_MAC_COUNT_COUNT : Nat × Nat := (63, 0)
/-- Address of CV_BUSY_CYCLES. -/
def A.CV_BUSY_CYCLES (b i : Nat) : Nat := 0x7001300118 + 0x10000 * b + 0x80 * i
/-- COUNT of CV_BUSY_CYCLES. -/
def F.CV_BUSY_CYCLES_COUNT : Nat × Nat := (63, 0)
/-- Address of CV_HALO_WAIT. -/
def A.CV_HALO_WAIT (b i : Nat) : Nat := 0x7001300120 + 0x10000 * b + 0x80 * i
/-- NS of CV_HALO_WAIT. -/
def F.CV_HALO_WAIT_NS : Nat × Nat := (63, 0)
/-- Address of CV_NP_OVERRUN. -/
def A.CV_NP_OVERRUN (b i : Nat) : Nat := 0x7001300128 + 0x10000 * b + 0x80 * i
/-- COUNT of CV_NP_OVERRUN. -/
def F.CV_NP_OVERRUN_COUNT : Nat × Nat := (31, 0)
/-- Address of CV_POINTWISE. -/
def A.CV_POINTWISE (b i : Nat) : Nat := 0x700130012C + 0x10000 * b + 0x80 * i
/-- COUNT of CV_POINTWISE. -/
def F.CV_POINTWISE_COUNT : Nat × Nat := (31, 0)
/-- Address of CV_FORMAT_COUNT. -/
def A.CV_FORMAT_COUNT (b i : Nat) : Nat := 0x7001300130 + 0x10000 * b + 0x80 * i
/-- COUNT of CV_FORMAT_COUNT. -/
def F.CV_FORMAT_COUNT_COUNT : Nat × Nat := (31, 0)
/-- Address of CV_POISON_COUNT. -/
def A.CV_POISON_COUNT (b i : Nat) : Nat := 0x7001300134 + 0x10000 * b + 0x80 * i
/-- COUNT of CV_POISON_COUNT. -/
def F.CV_POISON_COUNT_COUNT : Nat × Nat := (31, 0)
/-- Address of CV_FAULT_COUNT. -/
def A.CV_FAULT_COUNT (b i : Nat) : Nat := 0x7001300138 + 0x10000 * b + 0x80 * i
/-- COUNT of CV_FAULT_COUNT. -/
def F.CV_FAULT_COUNT_COUNT : Nat × Nat := (31, 0)
/-- Address of CV_HALO_TIMEOUT. -/
def A.CV_HALO_TIMEOUT (b i : Nat) : Nat := 0x700130013C + 0x10000 * b + 0x80 * i
/-- COUNT of CV_HALO_TIMEOUT. -/
def F.CV_HALO_TIMEOUT_COUNT : Nat × Nat := (31, 0)
/-- Address of CV_HALO_DISCARD. -/
def A.CV_HALO_DISCARD (b i : Nat) : Nat := 0x7001300140 + 0x10000 * b + 0x80 * i
/-- COUNT of CV_HALO_DISCARD. -/
def F.CV_HALO_DISCARD_COUNT : Nat × Nat := (31, 0)
/-- Address of ST_NP_LIMIT. -/
def A.ST_NP_LIMIT : Nat := 0x7000060000
/-- NS of ST_NP_LIMIT. -/
def F.ST_NP_LIMIT_NS : Nat × Nat := (15, 0)
/-- Address of PP_NP_LIMIT. -/
def A.PP_NP_LIMIT : Nat := 0x7000070000
/-- NS of PP_NP_LIMIT. -/
def F.PP_NP_LIMIT_NS : Nat × Nat := (15, 0)
/-- Address of ST_STATUS. -/
def A.ST_STATUS (i : Nat) : Nat := 0x7000060100 + 0x80 * i
/-- BUSY of ST_STATUS. -/
def F.ST_STATUS_BUSY : Nat × Nat := (0, 0)
/-- QUEUED of ST_STATUS. -/
def F.ST_STATUS_QUEUED : Nat × Nat := (5, 1)
/-- Address of PP_STATUS. -/
def A.PP_STATUS (i : Nat) : Nat := 0x7000070100 + 0x80 * i
/-- BUSY of PP_STATUS. -/
def F.PP_STATUS_BUSY : Nat × Nat := (0, 0)
/-- QUEUED of PP_STATUS. -/
def F.PP_STATUS_QUEUED : Nat × Nat := (5, 1)
/-- Address of ST_CMD_COUNT. -/
def A.ST_CMD_COUNT (i : Nat) : Nat := 0x7000060108 + 0x80 * i
/-- COUNT of ST_CMD_COUNT. -/
def F.ST_CMD_COUNT_COUNT : Nat × Nat := (63, 0)
/-- Address of PP_CMD_COUNT. -/
def A.PP_CMD_COUNT (i : Nat) : Nat := 0x7000070108 + 0x80 * i
/-- COUNT of PP_CMD_COUNT. -/
def F.PP_CMD_COUNT_COUNT : Nat × Nat := (63, 0)
/-- Address of ST_MAC_COUNT. -/
def A.ST_MAC_COUNT (i : Nat) : Nat := 0x7000060110 + 0x80 * i
/-- COUNT of ST_MAC_COUNT. -/
def F.ST_MAC_COUNT_COUNT : Nat × Nat := (63, 0)
/-- Address of PP_CAND_IN. -/
def A.PP_CAND_IN (i : Nat) : Nat := 0x7000070110 + 0x80 * i
/-- COUNT of PP_CAND_IN. -/
def F.PP_CAND_IN_COUNT : Nat × Nat := (63, 0)
/-- Address of ST_BUSY_CYCLES. -/
def A.ST_BUSY_CYCLES (i : Nat) : Nat := 0x7000060118 + 0x80 * i
/-- COUNT of ST_BUSY_CYCLES. -/
def F.ST_BUSY_CYCLES_COUNT : Nat × Nat := (63, 0)
/-- Address of PP_BUSY_CYCLES. -/
def A.PP_BUSY_CYCLES (i : Nat) : Nat := 0x7000070118 + 0x80 * i
/-- COUNT of PP_BUSY_CYCLES. -/
def F.PP_BUSY_CYCLES_COUNT : Nat × Nat := (63, 0)
/-- Address of PP_BOX_OUT. -/
def A.PP_BOX_OUT (i : Nat) : Nat := 0x7000070120 + 0x80 * i
/-- COUNT of PP_BOX_OUT. -/
def F.PP_BOX_OUT_COUNT : Nat × Nat := (63, 0)
/-- Address of ST_NP_OVERRUN. -/
def A.ST_NP_OVERRUN (i : Nat) : Nat := 0x7000060128 + 0x80 * i
/-- COUNT of ST_NP_OVERRUN. -/
def F.ST_NP_OVERRUN_COUNT : Nat × Nat := (31, 0)
/-- Address of PP_NP_OVERRUN. -/
def A.PP_NP_OVERRUN (i : Nat) : Nat := 0x7000070128 + 0x80 * i
/-- COUNT of PP_NP_OVERRUN. -/
def F.PP_NP_OVERRUN_COUNT : Nat × Nat := (31, 0)
/-- Address of ST_FORMAT_COUNT. -/
def A.ST_FORMAT_COUNT (i : Nat) : Nat := 0x700006012C + 0x80 * i
/-- COUNT of ST_FORMAT_COUNT. -/
def F.ST_FORMAT_COUNT_COUNT : Nat × Nat := (31, 0)
/-- Address of PP_PRESEL_TRUNC. -/
def A.PP_PRESEL_TRUNC (i : Nat) : Nat := 0x700007012C + 0x80 * i
/-- COUNT of PP_PRESEL_TRUNC. -/
def F.PP_PRESEL_TRUNC_COUNT : Nat × Nat := (31, 0)
/-- Address of ST_POISON_COUNT. -/
def A.ST_POISON_COUNT (i : Nat) : Nat := 0x7000060130 + 0x80 * i
/-- COUNT of ST_POISON_COUNT. -/
def F.ST_POISON_COUNT_COUNT : Nat × Nat := (31, 0)
/-- Address of PP_POISON_COUNT. -/
def A.PP_POISON_COUNT (i : Nat) : Nat := 0x7000070130 + 0x80 * i
/-- COUNT of PP_POISON_COUNT. -/
def F.PP_POISON_COUNT_COUNT : Nat × Nat := (31, 0)
/-- Address of ST_FAULT_COUNT. -/
def A.ST_FAULT_COUNT (i : Nat) : Nat := 0x7000060134 + 0x80 * i
/-- COUNT of ST_FAULT_COUNT. -/
def F.ST_FAULT_COUNT_COUNT : Nat × Nat := (31, 0)
/-- Address of PP_FAULT_COUNT. -/
def A.PP_FAULT_COUNT (i : Nat) : Nat := 0x7000070134 + 0x80 * i
/-- COUNT of PP_FAULT_COUNT. -/
def F.PP_FAULT_COUNT_COUNT : Nat × Nat := (31, 0)
/-- Address of HG_DOORBELL. -/
def A.HG_DOORBELL (i : Nat) : Nat := 0x7000210000 + 0x1000 * i
/-- RING of HG_DOORBELL. -/
def F.HG_DOORBELL_RING : Nat × Nat := (15, 0)
/-- Address of HG_RESULT. -/
def A.HG_RESULT (i : Nat) : Nat := 0x7000210008 + 0x1000 * i
/-- CONTEXT of HG_RESULT. -/
def F.HG_RESULT_CONTEXT : Nat × Nat := (9, 0)
/-- VALUE of HG_RESULT. -/
def F.HG_RESULT_VALUE : Nat × Nat := (63, 32)
/-- Address of HG_RING_SEL. -/
def A.HG_RING_SEL (i : Nat) : Nat := 0x7000210010 + 0x1000 * i
/-- RING of HG_RING_SEL. -/
def F.HG_RING_SEL_RING : Nat × Nat := (15, 0)
/-- Address of HG_RING_CMD. -/
def A.HG_RING_CMD (i : Nat) : Nat := 0x7000210014 + 0x1000 * i
/-- OP of HG_RING_CMD. -/
def F.HG_RING_CMD_OP : Nat × Nat := (2, 0)
/-- Address of HG_RING_CMD_VALUE. -/
def A.HG_RING_CMD_VALUE (i : Nat) : Nat := 0x7000210018 + 0x1000 * i
/-- VALUE of HG_RING_CMD_VALUE. -/
def F.HG_RING_CMD_VALUE_VALUE : Nat × Nat := (31, 0)
/-- Address of HG_RING_STATUS. -/
def A.HG_RING_STATUS (i : Nat) : Nat := 0x700021001C + 0x1000 * i
/-- ALLOCATED of HG_RING_STATUS. -/
def F.HG_RING_STATUS_ALLOCATED : Nat × Nat := (0, 0)
/-- ENABLED of HG_RING_STATUS. -/
def F.HG_RING_STATUS_ENABLED : Nat × Nat := (1, 1)
/-- DRAINED of HG_RING_STATUS. -/
def F.HG_RING_STATUS_DRAINED : Nat × Nat := (2, 2)
/-- STOPPED of HG_RING_STATUS. -/
def F.HG_RING_STATUS_STOPPED : Nat × Nat := (3, 3)
/-- RESCAN of HG_RING_STATUS. -/
def F.HG_RING_STATUS_RESCAN : Nat × Nat := (4, 4)
/-- CMD_REFUSED of HG_RING_STATUS. -/
def F.HG_RING_STATUS_CMD_REFUSED : Nat × Nat := (5, 5)
/-- GROUP of HG_RING_STATUS. -/
def F.HG_RING_STATUS_GROUP : Nat × Nat := (15, 8)
/-- PARTITION of HG_RING_STATUS. -/
def F.HG_RING_STATUS_PARTITION : Nat × Nat := (19, 16)
/-- Address of HG_RING_BASE. -/
def A.HG_RING_BASE (i : Nat) : Nat := 0x7000210020 + 0x1000 * i
/-- ADDR of HG_RING_BASE. -/
def F.HG_RING_BASE_ADDR : Nat × Nat := (63, 0)
/-- Address of HG_RING_SEQ. -/
def A.HG_RING_SEQ (i : Nat) : Nat := 0x7000210028 + 0x1000 * i
/-- ACCEPT_NEXT of HG_RING_SEQ. -/
def F.HG_RING_SEQ_ACCEPT_NEXT : Nat × Nat := (31, 0)
/-- COMPLETE_NEXT of HG_RING_SEQ. -/
def F.HG_RING_SEQ_COMPLETE_NEXT : Nat × Nat := (63, 32)
/-- Address of HG_RING_WAITING. -/
def A.HG_RING_WAITING (i : Nat) : Nat := 0x7000210030 + 0x1000 * i
/-- COUNT of HG_RING_WAITING. -/
def F.HG_RING_WAITING_COUNT : Nat × Nat := (19, 0)
/-- Address of HG_RING_TICK_PROG. -/
def A.HG_RING_TICK_PROG (i : Nat) : Nat := 0x7000210038 + 0x1000 * i
/-- ADDR of HG_RING_TICK_PROG. -/
def F.HG_RING_TICK_PROG_ADDR : Nat × Nat := (63, 0)
/-- Address of HG_DB_REFUSED. -/
def A.HG_DB_REFUSED (i : Nat) : Nat := 0x7000210040 + 0x1000 * i
/-- COUNT of HG_DB_REFUSED. -/
def F.HG_DB_REFUSED_COUNT : Nat × Nat := (31, 0)
/-- Address of HG_CTX_SEL. -/
def A.HG_CTX_SEL (i : Nat) : Nat := 0x7000210044 + 0x1000 * i
/-- CONTEXT of HG_CTX_SEL. -/
def F.HG_CTX_SEL_CONTEXT : Nat × Nat := (9, 0)
/-- Address of HG_CTX_SAVE. -/
def A.HG_CTX_SAVE (i : Nat) : Nat := 0x7000210048 + 0x1000 * i
/-- ADDR of HG_CTX_SAVE. -/
def F.HG_CTX_SAVE_ADDR : Nat × Nat := (63, 0)
/-- Address of HG_CTX_VIEW. -/
def A.HG_CTX_VIEW (i : Nat) : Nat := 0x7000210100 + 0x1000 * i
/-- Address of HG_CTX_REPLY. -/
def A.HG_CTX_REPLY (i : Nat) : Nat := 0x7000210200 + 0x1000 * i
/-- Address of HG_STATUS. -/
def A.HG_STATUS : Nat := 0x7000200000
/-- RECOVERING of HG_STATUS. -/
def F.HG_STATUS_RECOVERING : Nat × Nat := (0, 0)
/-- ACCEPTING of HG_STATUS. -/
def F.HG_STATUS_ACCEPTING : Nat × Nat := (1, 1)
/-- Address of HG_DBQ_STATUS. -/
def A.HG_DBQ_STATUS : Nat := 0x7000200004
/-- DEPTH of HG_DBQ_STATUS. -/
def F.HG_DBQ_STATUS_DEPTH : Nat × Nat := (12, 0)
/-- HIGH_WATER of HG_DBQ_STATUS. -/
def F.HG_DBQ_STATUS_HIGH_WATER : Nat × Nat := (28, 16)
/-- Address of HG_DBQ_OVERFLOW. -/
def A.HG_DBQ_OVERFLOW : Nat := 0x7000200008
/-- COUNT of HG_DBQ_OVERFLOW. -/
def F.HG_DBQ_OVERFLOW_COUNT : Nat × Nat := (31, 0)
/-- Address of HG_RESCAN_COUNT. -/
def A.HG_RESCAN_COUNT : Nat := 0x700020000C
/-- COUNT of HG_RESCAN_COUNT. -/
def F.HG_RESCAN_COUNT_COUNT : Nat × Nat := (16, 0)
/-- Address of HG_LATE_REPLY. -/
def A.HG_LATE_REPLY : Nat := 0x7000200010
/-- COUNT of HG_LATE_REPLY. -/
def F.HG_LATE_REPLY_COUNT : Nat × Nat := (31, 0)
/-- Address of HG_P_ACCEPTED. -/
def A.HG_P_ACCEPTED (i : Nat) : Nat := 0x7000220000 + 0x100 * i
/-- COUNT of HG_P_ACCEPTED. -/
def F.HG_P_ACCEPTED_COUNT : Nat × Nat := (63, 0)
/-- Address of HG_P_COMPLETED. -/
def A.HG_P_COMPLETED (i : Nat) : Nat := 0x7000220008 + 0x100 * i
/-- COUNT of HG_P_COMPLETED. -/
def F.HG_P_COMPLETED_COUNT : Nat × Nat := (63, 0)
/-- Address of HG_P_REFUSED. -/
def A.HG_P_REFUSED (i : Nat) : Nat := 0x7000220010 + 0x100 * i
/-- COUNT of HG_P_REFUSED. -/
def F.HG_P_REFUSED_COUNT : Nat × Nat := (31, 0)
/-- Address of HG_P_ABORTED. -/
def A.HG_P_ABORTED (i : Nat) : Nat := 0x7000220014 + 0x100 * i
/-- COUNT of HG_P_ABORTED. -/
def F.HG_P_ABORTED_COUNT : Nat × Nat := (31, 0)
/-- Address of HG_P_FAULTED. -/
def A.HG_P_FAULTED (i : Nat) : Nat := 0x7000220018 + 0x100 * i
/-- COUNT of HG_P_FAULTED. -/
def F.HG_P_FAULTED_COUNT : Nat × Nat := (31, 0)
/-- Address of HG_P_RETRIED. -/
def A.HG_P_RETRIED (i : Nat) : Nat := 0x700022001C + 0x100 * i
/-- COUNT of HG_P_RETRIED. -/
def F.HG_P_RETRIED_COUNT : Nat × Nat := (31, 0)
/-- Address of HG_P_JOURNAL_USED. -/
def A.HG_P_JOURNAL_USED (i : Nat) : Nat := 0x7000220020 + 0x100 * i
/-- ENTRIES of HG_P_JOURNAL_USED. -/
def F.HG_P_JOURNAL_USED_ENTRIES : Nat × Nat := (15, 0)
/-- Address of HG_P_JOURNAL_FULL. -/
def A.HG_P_JOURNAL_FULL (i : Nat) : Nat := 0x7000220024 + 0x100 * i
/-- COUNT of HG_P_JOURNAL_FULL. -/
def F.HG_P_JOURNAL_FULL_COUNT : Nat × Nat := (31, 0)
/-- Address of HG_P_TICK_RELEASE. -/
def A.HG_P_TICK_RELEASE (i : Nat) : Nat := 0x7000220028 + 0x100 * i
/-- COUNT of HG_P_TICK_RELEASE. -/
def F.HG_P_TICK_RELEASE_COUNT : Nat × Nat := (31, 0)
/-- Address of HG_P_REPLY_WAIT. -/
def A.HG_P_REPLY_WAIT (i : Nat) : Nat := 0x700022002C + 0x100 * i
/-- COUNT of HG_P_REPLY_WAIT. -/
def F.HG_P_REPLY_WAIT_COUNT : Nat × Nat := (31, 0)
/-- Address of HG_P_TICK_FAIL. -/
def A.HG_P_TICK_FAIL (i : Nat) : Nat := 0x7000220030 + 0x100 * i
/-- COUNT of HG_P_TICK_FAIL. -/
def F.HG_P_TICK_FAIL_COUNT : Nat × Nat := (31, 0)
/-- Address of HG_SCH_STATUS. -/
def A.HG_SCH_STATUS (i : Nat) : Nat := 0x7000230000 + 0x100 * i
/-- RUNNING_CTX of HG_SCH_STATUS. -/
def F.HG_SCH_STATUS_RUNNING_CTX : Nat × Nat := (9, 0)
/-- RUNNING_VALID of HG_SCH_STATUS. -/
def F.HG_SCH_STATUS_RUNNING_VALID : Nat × Nat := (10, 10)
/-- BOUND of HG_SCH_STATUS. -/
def F.HG_SCH_STATUS_BOUND : Nat × Nat := (21, 11)
/-- SAVING of HG_SCH_STATUS. -/
def F.HG_SCH_STATUS_SAVING : Nat × Nat := (22, 22)
/-- Address of HG_SCH_SLICES. -/
def A.HG_SCH_SLICES (i : Nat) : Nat := 0x7000230008 + 0x100 * i
/-- COUNT of HG_SCH_SLICES. -/
def F.HG_SCH_SLICES_COUNT : Nat × Nat := (63, 0)
/-- Address of HG_SCH_SAVES. -/
def A.HG_SCH_SAVES (i : Nat) : Nat := 0x7000230010 + 0x100 * i
/-- COUNT of HG_SCH_SAVES. -/
def F.HG_SCH_SAVES_COUNT : Nat × Nat := (63, 0)
/-- Address of HG_SCH_SAVE_NS. -/
def A.HG_SCH_SAVE_NS (i : Nat) : Nat := 0x7000230018 + 0x100 * i
/-- NS of HG_SCH_SAVE_NS. -/
def F.HG_SCH_SAVE_NS_NS : Nat × Nat := (63, 0)
/-- Address of HG_SCH_DEBT_NS. -/
def A.HG_SCH_DEBT_NS (i : Nat) : Nat := 0x7000230020 + 0x100 * i
/-- NS of HG_SCH_DEBT_NS. -/
def F.HG_SCH_DEBT_NS_NS : Nat × Nat := (63, 0)
/-- Address of HG_SCH_SLICE_OVERRUN. -/
def A.HG_SCH_SLICE_OVERRUN (i : Nat) : Nat := 0x7000230028 + 0x100 * i
/-- COUNT of HG_SCH_SLICE_OVERRUN. -/
def F.HG_SCH_SLICE_OVERRUN_COUNT : Nat × Nat := (31, 0)
/-- Address of HG_SCH_NOSAVE. -/
def A.HG_SCH_NOSAVE (i : Nat) : Nat := 0x700023002C + 0x100 * i
/-- COUNT of HG_SCH_NOSAVE. -/
def F.HG_SCH_NOSAVE_COUNT : Nat × Nat := (31, 0)
/-- Address of HG_SCH_WITHDRAWN. -/
def A.HG_SCH_WITHDRAWN (i : Nat) : Nat := 0x7000230030 + 0x100 * i
/-- COUNT of HG_SCH_WITHDRAWN. -/
def F.HG_SCH_WITHDRAWN_COUNT : Nat × Nat := (31, 0)
/-- Address of HG_SCH_TICK_SKIPPED. -/
def A.HG_SCH_TICK_SKIPPED (i : Nat) : Nat := 0x7000230034 + 0x100 * i
/-- COUNT of HG_SCH_TICK_SKIPPED. -/
def F.HG_SCH_TICK_SKIPPED_COUNT : Nat × Nat := (31, 0)
/-- Address of HG_SCH_THROTTLED_OVERRUN. -/
def A.HG_SCH_THROTTLED_OVERRUN (i : Nat) : Nat := 0x7000230038 + 0x100 * i
/-- COUNT of HG_SCH_THROTTLED_OVERRUN. -/
def F.HG_SCH_THROTTLED_OVERRUN_COUNT : Nat × Nat := (31, 0)
/-- Address of HG_SCH_MAX_DEBT_NS. -/
def A.HG_SCH_MAX_DEBT_NS (i : Nat) : Nat := 0x700023003C + 0x100 * i
/-- NS of HG_SCH_MAX_DEBT_NS. -/
def F.HG_SCH_MAX_DEBT_NS_NS : Nat × Nat := (31, 0)
/-- Address of HG_SCH_TICK_OVERRUN. -/
def A.HG_SCH_TICK_OVERRUN (i j : Nat) : Nat := 0x7000230040 + 0x100 * i + 0x4 * j
/-- COUNT of HG_SCH_TICK_OVERRUN. -/
def F.HG_SCH_TICK_OVERRUN_COUNT : Nat × Nat := (31, 0)
/-- Address of HG_SCH_LAST_OVERRUN. -/
def A.HG_SCH_LAST_OVERRUN (i : Nat) : Nat := 0x7000230060 + 0x100 * i
/-- SEQ of HG_SCH_LAST_OVERRUN. -/
def F.HG_SCH_LAST_OVERRUN_SEQ : Nat × Nat := (31, 0)
/-- RING of HG_SCH_LAST_OVERRUN. -/
def F.HG_SCH_LAST_OVERRUN_RING : Nat × Nat := (47, 32)
/-- CLASS of HG_SCH_LAST_OVERRUN. -/
def F.HG_SCH_LAST_OVERRUN_CLASS : Nat × Nat := (50, 48)
/-- VALID of HG_SCH_LAST_OVERRUN. -/
def F.HG_SCH_LAST_OVERRUN_VALID : Nat × Nat := (51, 51)
/-- Address of HG_SCH_LAST_OVERRUN_TIME. -/
def A.HG_SCH_LAST_OVERRUN_TIME (i : Nat) : Nat := 0x7000230068 + 0x100 * i
/-- TIME of HG_SCH_LAST_OVERRUN_TIME. -/
def F.HG_SCH_LAST_OVERRUN_TIME_TIME : Nat × Nat := (63, 0)
/-- Address of HG_SCH_WEAR_CTRL. -/
def A.HG_SCH_WEAR_CTRL (i : Nat) : Nat := 0x7000240000 + 0x100 * i
/-- PROPOSED of HG_SCH_WEAR_CTRL. -/
def F.HG_SCH_WEAR_CTRL_PROPOSED : Nat × Nat := (0, 0)
/-- COMMIT of HG_SCH_WEAR_CTRL. -/
def F.HG_SCH_WEAR_CTRL_COMMIT : Nat × Nat := (1, 1)
/-- DECLINE of HG_SCH_WEAR_CTRL. -/
def F.HG_SCH_WEAR_CTRL_DECLINE : Nat × Nat := (2, 2)
/-- APPLIED of HG_SCH_WEAR_CTRL. -/
def F.HG_SCH_WEAR_CTRL_APPLIED : Nat × Nat := (3, 3)
/-- Address of HG_SCH_WEAR_SWAP. -/
def A.HG_SCH_WEAR_SWAP (i : Nat) : Nat := 0x7000240004 + 0x100 * i
/-- RANK_A of HG_SCH_WEAR_SWAP. -/
def F.HG_SCH_WEAR_SWAP_RANK_A : Nat × Nat := (6, 0)
/-- RANK_B of HG_SCH_WEAR_SWAP. -/
def F.HG_SCH_WEAR_SWAP_RANK_B : Nat × Nat := (14, 8)
/-- Address of HG_SCH_RANK_MAP. -/
def A.HG_SCH_RANK_MAP (i j : Nat) : Nat := 0x7000240080 + 0x100 * i + 0x4 * j
/-- TILES of HG_SCH_RANK_MAP. -/
def F.HG_SCH_RANK_MAP_TILES : Nat × Nat := (31, 0)
/-- Address of HG_WEAR_GAP. -/
def A.HG_WEAR_GAP : Nat := 0x700024FF00
/-- HOURS of HG_WEAR_GAP. -/
def F.HG_WEAR_GAP_HOURS : Nat × Nat := (15, 0)
/-- Address of HG_SCH_TILE_WEAR. -/
def A.HG_SCH_TILE_WEAR (i : Nat) : Nat := 0x7000250000 + 0x8 * i
/-- MS of HG_SCH_TILE_WEAR. -/
def F.HG_SCH_TILE_WEAR_MS : Nat × Nat := (63, 0)
/-- Address of AU_HIST_INDEX. -/
def A.AU_HIST_INDEX : Nat := 0x700009C000
/-- INDEX of AU_HIST_INDEX. -/
def F.AU_HIST_INDEX_INDEX : Nat × Nat := (63, 0)
/-- Address of AU_HIST_TENANT. -/
def A.AU_HIST_TENANT : Nat := 0x700009C008
/-- TENANT of AU_HIST_TENANT. -/
def F.AU_HIST_TENANT_TENANT : Nat × Nat := (2, 0)
/-- VALID of AU_HIST_TENANT. -/
def F.AU_HIST_TENANT_VALID : Nat × Nat := (3, 3)
/-- Address of AU_EVENT_ONSET. -/
def A.AU_EVENT_ONSET : Nat := 0x700009C010
/-- INDEX of AU_EVENT_ONSET. -/
def F.AU_EVENT_ONSET_INDEX : Nat × Nat := (63, 0)
/-- Address of AU_EVENT_FIRE. -/
def A.AU_EVENT_FIRE : Nat := 0x700009C018
/-- INDEX of AU_EVENT_FIRE. -/
def F.AU_EVENT_FIRE_INDEX : Nat × Nat := (63, 0)
/-- Address of AU_EVENT_CTRL. -/
def A.AU_EVENT_CTRL : Nat := 0x700009C020
/-- PENDING of AU_EVENT_CTRL. -/
def F.AU_EVENT_CTRL_PENDING : Nat × Nat := (0, 0)
/-- ACK of AU_EVENT_CTRL. -/
def F.AU_EVENT_CTRL_ACK : Nat × Nat := (1, 1)
/-- Address of AU_EVENT_COUNT. -/
def A.AU_EVENT_COUNT : Nat := 0x700009C024
/-- COUNT of AU_EVENT_COUNT. -/
def F.AU_EVENT_COUNT_COUNT : Nat × Nat := (31, 0)
/-- Address of AU_EVENT_MERGED. -/
def A.AU_EVENT_MERGED : Nat := 0x700009C028
/-- COUNT of AU_EVENT_MERGED. -/
def F.AU_EVENT_MERGED_COUNT : Nat × Nat := (31, 0)
/-- Address of AU_WIDE_START. -/
def A.AU_WIDE_START : Nat := 0x700009C030
/-- INDEX of AU_WIDE_START. -/
def F.AU_WIDE_START_INDEX : Nat × Nat := (63, 0)
/-- Address of AU_GLANCE_INDEX. -/
def A.AU_GLANCE_INDEX : Nat := 0x700009C038
/-- INDEX of AU_GLANCE_INDEX. -/
def F.AU_GLANCE_INDEX_INDEX : Nat × Nat := (63, 0)
/-- Address of AU_FETCH_SRC. -/
def A.AU_FETCH_SRC : Nat := 0x700009C040
/-- INDEX of AU_FETCH_SRC. -/
def F.AU_FETCH_SRC_INDEX : Nat × Nat := (63, 0)
/-- Address of AU_FETCH_DST. -/
def A.AU_FETCH_DST : Nat := 0x700009C048
/-- ADDR of AU_FETCH_DST. -/
def F.AU_FETCH_DST_ADDR : Nat × Nat := (63, 0)
/-- Address of AU_FETCH_CMD. -/
def A.AU_FETCH_CMD : Nat := 0x700009C050
/-- COUNT of AU_FETCH_CMD. -/
def F.AU_FETCH_CMD_COUNT : Nat × Nat := (16, 0)
/-- RING of AU_FETCH_CMD. -/
def F.AU_FETCH_CMD_RING : Nat × Nat := (18, 17)
/-- CHANNELS of AU_FETCH_CMD. -/
def F.AU_FETCH_CMD_CHANNELS : Nat × Nat := (21, 19)
/-- WAIT of AU_FETCH_CMD. -/
def F.AU_FETCH_CMD_WAIT : Nat × Nat := (22, 22)
/-- CANCEL of AU_FETCH_CMD. -/
def F.AU_FETCH_CMD_CANCEL : Nat × Nat := (23, 23)
/-- Address of AU_FETCH_STATUS. -/
def A.AU_FETCH_STATUS : Nat := 0x700009C054
/-- BUSY of AU_FETCH_STATUS. -/
def F.AU_FETCH_STATUS_BUSY : Nat × Nat := (0, 0)
/-- OVERRUN of AU_FETCH_STATUS. -/
def F.AU_FETCH_STATUS_OVERRUN : Nat × Nat := (1, 1)
/-- STATUS of AU_FETCH_STATUS. -/
def F.AU_FETCH_STATUS_STATUS : Nat × Nat := (5, 2)
/-- DETAIL of AU_FETCH_STATUS. -/
def F.AU_FETCH_STATUS_DETAIL : Nat × Nat := (13, 6)
/-- LOST of AU_FETCH_STATUS. -/
def F.AU_FETCH_STATUS_LOST : Nat × Nat := (30, 14)
/-- Address of RN_STATUS. -/
def A.RN_STATUS : Nat := 0x70000A0000
/-- STATE of RN_STATUS. -/
def F.RN_STATUS_STATE : Nat × Nat := (2, 0)
/-- MODELS of RN_STATUS. -/
def F.RN_STATUS_MODELS : Nat × Nat := (6, 3)
/-- PIN_ASSERTED of RN_STATUS. -/
def F.RN_STATUS_PIN_ASSERTED : Nat × Nat := (7, 7)
/-- CMD_REFUSED of RN_STATUS. -/
def F.RN_STATUS_CMD_REFUSED : Nat × Nat := (8, 8)
/-- Address of RN_CASCADE_CFG. -/
def A.RN_CASCADE_CFG : Nat := 0x70000A0004
/-- TARGET of RN_CASCADE_CFG. -/
def F.RN_CASCADE_CFG_TARGET : Nat × Nat := (0, 0)
/-- D3_ON of RN_CASCADE_CFG. -/
def F.RN_CASCADE_CFG_D3_ON : Nat × Nat := (2, 1)
/-- WAKE_GPIO of RN_CASCADE_CFG. -/
def F.RN_CASCADE_CFG_WAKE_GPIO : Nat × Nat := (7, 3)
/-- Address of RN_LEAT_RING. -/
def A.RN_LEAT_RING : Nat := 0x70000A0008
/-- RING of RN_LEAT_RING. -/
def F.RN_LEAT_RING_RING : Nat × Nat := (15, 0)
/-- Address of RN_LEAT_PROG. -/
def A.RN_LEAT_PROG : Nat := 0x70000A0010
/-- ADDR of RN_LEAT_PROG. -/
def F.RN_LEAT_PROG_ADDR : Nat × Nat := (63, 0)
/-- Address of RN_LOOKBACK. -/
def A.RN_LOOKBACK : Nat := 0x70000A0018
/-- SAMPLES of RN_LOOKBACK. -/
def F.RN_LOOKBACK_SAMPLES : Nat × Nat := (15, 0)
/-- Address of RN_HOLD. -/
def A.RN_HOLD : Nat := 0x70000A001C
/-- HOLD_FRAMES of RN_HOLD. -/
def F.RN_HOLD_HOLD_FRAMES : Nat × Nat := (15, 0)
/-- REFRACTORY of RN_HOLD. -/
def F.RN_HOLD_REFRACTORY : Nat × Nat := (31, 16)
/-- Address of RN_CMD. -/
def A.RN_CMD : Nat := 0x70000A0020
/-- OP of RN_CMD. -/
def F.RN_CMD_OP : Nat × Nat := (2, 0)
/-- Address of RN_LOAD_ADDR. -/
def A.RN_LOAD_ADDR : Nat := 0x70000A0028
/-- ADDR of RN_LOAD_ADDR. -/
def F.RN_LOAD_ADDR_ADDR : Nat × Nat := (63, 0)
/-- Address of RN_LOAD_STATUS. -/
def A.RN_LOAD_STATUS : Nat := 0x70000A0030
/-- STATUS of RN_LOAD_STATUS. -/
def F.RN_LOAD_STATUS_STATUS : Nat × Nat := (3, 0)
/-- OFFSET of RN_LOAD_STATUS. -/
def F.RN_LOAD_STATUS_OFFSET : Nat × Nat := (24, 4)
/-- Address of RN_SWAP_INDEX. -/
def A.RN_SWAP_INDEX : Nat := 0x70000A0038
/-- INDEX of RN_SWAP_INDEX. -/
def F.RN_SWAP_INDEX_INDEX : Nat × Nat := (63, 0)
/-- Address of RN_THRESH. -/
def A.RN_THRESH (i : Nat) : Nat := 0x70000A0040 + 0x4 * i
/-- ON of RN_THRESH. -/
def F.RN_THRESH_ON : Nat × Nat := (15, 0)
/-- CONFIRM of RN_THRESH. -/
def F.RN_THRESH_CONFIRM : Nat × Nat := (23, 16)
/-- Address of RN_WAKES. -/
def A.RN_WAKES : Nat := 0x70000A0080
/-- COUNT of RN_WAKES. -/
def F.RN_WAKES_COUNT : Nat × Nat := (31, 0)
/-- Address of RN_DECISIONS. -/
def A.RN_DECISIONS : Nat := 0x70000A0084
/-- COUNT of RN_DECISIONS. -/
def F.RN_DECISIONS_COUNT : Nat × Nat := (31, 0)
/-- Address of RN_DECISIONS_MERGED. -/
def A.RN_DECISIONS_MERGED : Nat := 0x70000A0088
/-- COUNT of RN_DECISIONS_MERGED. -/
def F.RN_DECISIONS_MERGED_COUNT : Nat × Nat := (31, 0)
/-- Address of RN_HANDOFF_HELD. -/
def A.RN_HANDOFF_HELD : Nat := 0x70000A008C
/-- COUNT of RN_HANDOFF_HELD. -/
def F.RN_HANDOFF_HELD_COUNT : Nat × Nat := (31, 0)
/-- Address of RN_HANDOFF_DROPPED. -/
def A.RN_HANDOFF_DROPPED : Nat := 0x70000A0090
/-- COUNT of RN_HANDOFF_DROPPED. -/
def F.RN_HANDOFF_DROPPED_COUNT : Nat × Nat := (31, 0)
/-- Address of RN_EVENTS_UNSERVED. -/
def A.RN_EVENTS_UNSERVED : Nat := 0x70000A0094
/-- COUNT of RN_EVENTS_UNSERVED. -/
def F.RN_EVENTS_UNSERVED_COUNT : Nat × Nat := (31, 0)
/-- Address of RN_LATE. -/
def A.RN_LATE : Nat := 0x70000A0098
/-- COUNT of RN_LATE. -/
def F.RN_LATE_COUNT : Nat × Nat := (31, 0)
/-- Address of RN_POISON_FRAMES. -/
def A.RN_POISON_FRAMES : Nat := 0x70000A009C
/-- COUNT of RN_POISON_FRAMES. -/
def F.RN_POISON_FRAMES_COUNT : Nat × Nat := (31, 0)
/-- Address of RN_LOAD_FAIL. -/
def A.RN_LOAD_FAIL : Nat := 0x70000A00A0
/-- COUNT of RN_LOAD_FAIL. -/
def F.RN_LOAD_FAIL_COUNT : Nat × Nat := (31, 0)
/-- Address of RN_LAST_RECORD. -/
def A.RN_LAST_RECORD : Nat := 0x70000A0200
/-- Address of AU_CLK_CFG. -/
def A.AU_CLK_CFG : Nat := 0x7000090000
/-- LISTEN_RATE of AU_CLK_CFG. -/
def F.AU_CLK_CFG_LISTEN_RATE : Nat × Nat := (1, 0)
/-- LISTEN_MICS of AU_CLK_CFG. -/
def F.AU_CLK_CFG_LISTEN_MICS : Nat × Nat := (2, 2)
/-- BC_EN of AU_CLK_CFG. -/
def F.AU_CLK_CFG_BC_EN : Nat × Nat := (3, 3)
/-- ALIGN_MODE of AU_CLK_CFG. -/
def F.AU_CLK_CFG_ALIGN_MODE : Nat × Nat := (4, 4)
/-- HPF of AU_CLK_CFG. -/
def F.AU_CLK_CFG_HPF : Nat × Nat := (6, 5)
/-- Address of AU_STATUS. -/
def A.AU_STATUS : Nat := 0x7000090004
/-- CLK0_RATE of AU_STATUS. -/
def F.AU_STATUS_CLK0_RATE : Nat × Nat := (1, 0)
/-- WIDE_ON of AU_STATUS. -/
def F.AU_STATUS_WIDE_ON : Nat × Nat := (2, 2)
/-- WIDE_ERR of AU_STATUS. -/
def F.AU_STATUS_WIDE_ERR : Nat × Nat := (3, 3)
/-- STUCK of AU_STATUS. -/
def F.AU_STATUS_STUCK : Nat × Nat := (12, 4)
/-- Address of AU_MUTE. -/
def A.AU_MUTE : Nat := 0x7000090008
/-- MUTE of AU_MUTE. -/
def F.AU_MUTE_MUTE : Nat × Nat := (0, 0)
/-- Address of AU_DET_CFG. -/
def A.AU_DET_CFG : Nat := 0x7000090010
/-- SRC of AU_DET_CFG. -/
def F.AU_DET_CFG_SRC : Nat × Nat := (2, 0)
/-- ON_FRAMES of AU_DET_CFG. -/
def F.AU_DET_CFG_ON_FRAMES : Nat × Nat := (6, 3)
/-- DOWN_SHIFT of AU_DET_CFG. -/
def F.AU_DET_CFG_DOWN_SHIFT : Nat × Nat := (10, 7)
/-- RISE_STEP of AU_DET_CFG. -/
def F.AU_DET_CFG_RISE_STEP : Nat × Nat := (18, 11)
/-- Address of AU_DET_MARGIN. -/
def A.AU_DET_MARGIN : Nat := 0x7000090014
/-- MARGIN of AU_DET_MARGIN. -/
def F.AU_DET_MARGIN_MARGIN : Nat × Nat := (14, 0)
/-- Address of AU_FLOOR. -/
def A.AU_FLOOR : Nat := 0x7000090018
/-- FLOOR of AU_FLOOR. -/
def F.AU_FLOOR_FLOOR : Nat × Nat := (14, 0)
/-- Address of AU_FLOOR_MIN. -/
def A.AU_FLOOR_MIN : Nat := 0x700009001C
/-- FLOOR_MIN of AU_FLOOR_MIN. -/
def F.AU_FLOOR_MIN_FLOOR_MIN : Nat × Nat := (14, 0)
/-- Address of AU_ENERGY. -/
def A.AU_ENERGY : Nat := 0x7000090020
/-- E of AU_ENERGY. -/
def F.AU_ENERGY_E : Nat × Nat := (14, 0)
/-- ABOVE of AU_ENERGY. -/
def F.AU_ENERGY_ABOVE : Nat × Nat := (15, 15)
/-- Address of AU_NARROW_CLIP. -/
def A.AU_NARROW_CLIP : Nat := 0x7000090024
/-- COUNT of AU_NARROW_CLIP. -/
def F.AU_NARROW_CLIP_COUNT : Nat × Nat := (31, 0)
/-- Address of AU_CAL_FUSE. -/
def A.AU_CAL_FUSE (i : Nat) : Nat := 0x7000090100 + 0x4 * i
/-- GAIN of AU_CAL_FUSE. -/
def F.AU_CAL_FUSE_GAIN : Nat × Nat := (15, 0)
/-- DELAY of AU_CAL_FUSE. -/
def F.AU_CAL_FUSE_DELAY : Nat × Nat := (31, 16)
/-- Address of AU_CAL_DELTA. -/
def A.AU_CAL_DELTA (i : Nat) : Nat := 0x7000090140 + 0x4 * i
/-- GAIN of AU_CAL_DELTA. -/
def F.AU_CAL_DELTA_GAIN : Nat × Nat := (15, 0)
/-- DELAY of AU_CAL_DELTA. -/
def F.AU_CAL_DELTA_DELAY : Nat × Nat := (31, 16)
/-- Address of AU_CAL_EFF. -/
def A.AU_CAL_EFF (i : Nat) : Nat := 0x7000090180 + 0x4 * i
/-- GAIN of AU_CAL_EFF. -/
def F.AU_CAL_EFF_GAIN : Nat × Nat := (15, 0)
/-- DELAY of AU_CAL_EFF. -/
def F.AU_CAL_EFF_DELAY : Nat × Nat := (30, 16)
/-- CLAMPED of AU_CAL_EFF. -/
def F.AU_CAL_EFF_CLAMPED : Nat × Nat := (31, 31)
/-- Address of AU_WIDE_CTRL. -/
def A.AU_WIDE_CTRL : Nat := 0x7000090200
/-- WIDE_EN of AU_WIDE_CTRL. -/
def F.AU_WIDE_CTRL_WIDE_EN : Nat × Nat := (0, 0)
/-- WIDTH of AU_WIDE_CTRL. -/
def F.AU_WIDE_CTRL_WIDTH : Nat × Nat := (1, 1)
/-- PAGES of AU_WIDE_CTRL. -/
def F.AU_WIDE_CTRL_PAGES : Nat × Nat := (4, 2)
/-- CH_MASK of AU_WIDE_CTRL. -/
def F.AU_WIDE_CTRL_CH_MASK : Nat × Nat := (15, 8)
/-- Address of AU_WIDE_BASE. -/
def A.AU_WIDE_BASE : Nat := 0x7000090208
/-- ADDR of AU_WIDE_BASE. -/
def F.AU_WIDE_BASE_ADDR : Nat × Nat := (63, 0)
/-- Address of AU_WIDE_INDEX. -/
def A.AU_WIDE_INDEX : Nat := 0x7000090210
/-- INDEX of AU_WIDE_INDEX. -/
def F.AU_WIDE_INDEX_INDEX : Nat × Nat := (63, 0)
/-- Address of AU_WIDE_DROP. -/
def A.AU_WIDE_DROP : Nat := 0x7000090218
/-- COUNT of AU_WIDE_DROP. -/
def F.AU_WIDE_DROP_COUNT : Nat × Nat := (31, 0)
/-- Address of AU_WIDE_DROP_INDEX. -/
def A.AU_WIDE_DROP_INDEX : Nat := 0x7000090220
/-- INDEX of AU_WIDE_DROP_INDEX. -/
def F.AU_WIDE_DROP_INDEX_INDEX : Nat × Nat := (63, 0)
/-- Address of AU_RECAL_CTRL. -/
def A.AU_RECAL_CTRL : Nat := 0x7000090300
/-- RECAL_EN of AU_RECAL_CTRL. -/
def F.AU_RECAL_CTRL_RECAL_EN : Nat × Nat := (0, 0)
/-- WINDOW_S of AU_RECAL_CTRL. -/
def F.AU_RECAL_CTRL_WINDOW_S : Nat × Nat := (15, 8)
/-- Address of AU_DRIFT. -/
def A.AU_DRIFT (i : Nat) : Nat := 0x7000090304 + 0x4 * i
/-- DRIFT of AU_DRIFT. -/
def F.AU_DRIFT_DRIFT : Nat × Nat := (15, 0)
/-- VALID of AU_DRIFT. -/
def F.AU_DRIFT_VALID : Nat × Nat := (16, 16)
/-- Address of AU_MF_COEF. -/
def A.AU_MF_COEF (i j : Nat) : Nat := 0x7000090400 + 0x80 * i + 0x4 * j
/-- COEF of AU_MF_COEF. -/
def F.AU_MF_COEF_COEF : Nat × Nat := (15, 0)
/-- Address of CA_CTRL. -/
def A.CA_CTRL (b : Nat) : Nat := 0x70000D0000 + 0x4000 * b
/-- EN of CA_CTRL. -/
def F.CA_CTRL_EN : Nat × Nat := (0, 0)
/-- LANES of CA_CTRL. -/
def F.CA_CTRL_LANES : Nat × Nat := (2, 1)
/-- LANE_MAP of CA_CTRL. -/
def F.CA_CTRL_LANE_MAP : Nat × Nat := (11, 4)
/-- POL of CA_CTRL. -/
def F.CA_CTRL_POL : Nat × Nat := (15, 12)
/-- CLK_POL of CA_CTRL. -/
def F.CA_CTRL_CLK_POL : Nat × Nat := (16, 16)
/-- Address of CA_RATE. -/
def A.CA_RATE (b : Nat) : Nat := 0x70000D0004 + 0x4000 * b
/-- MBPS of CA_RATE. -/
def F.CA_RATE_MBPS : Nat × Nat := (12, 0)
/-- Address of CA_TENANT. -/
def A.CA_TENANT (b : Nat) : Nat := 0x70000D0008 + 0x4000 * b
/-- TENANT of CA_TENANT. -/
def F.CA_TENANT_TENANT : Nat × Nat := (2, 0)
/-- VALID of CA_TENANT. -/
def F.CA_TENANT_VALID : Nat × Nat := (3, 3)
/-- Address of CA_STATUS. -/
def A.CA_STATUS (b : Nat) : Nat := 0x70000D000C + 0x4000 * b
/-- ACTIVE of CA_STATUS. -/
def F.CA_STATUS_ACTIVE : Nat × Nat := (0, 0)
/-- ULPS of CA_STATUS. -/
def F.CA_STATUS_ULPS : Nat × Nat := (1, 1)
/-- DESKEW_DONE of CA_STATUS. -/
def F.CA_STATUS_DESKEW_DONE : Nat × Nat := (2, 2)
/-- SYNC_ERR of CA_STATUS. -/
def F.CA_STATUS_SYNC_ERR : Nat × Nat := (3, 3)
/-- Address of CA_ECC_CORR. -/
def A.CA_ECC_CORR (b : Nat) : Nat := 0x70000D0010 + 0x4000 * b
/-- COUNT of CA_ECC_CORR. -/
def F.CA_ECC_CORR_COUNT : Nat × Nat := (31, 0)
/-- Address of CA_ECC_UNCORR. -/
def A.CA_ECC_UNCORR (b : Nat) : Nat := 0x70000D0014 + 0x4000 * b
/-- COUNT of CA_ECC_UNCORR. -/
def F.CA_ECC_UNCORR_COUNT : Nat × Nat := (31, 0)
/-- Address of CA_CRC_ERR. -/
def A.CA_CRC_ERR (b : Nat) : Nat := 0x70000D0018 + 0x4000 * b
/-- COUNT of CA_CRC_ERR. -/
def F.CA_CRC_ERR_COUNT : Nat × Nat := (31, 0)
/-- Address of CA_SOT_ERR. -/
def A.CA_SOT_ERR (b : Nat) : Nat := 0x70000D001C + 0x4000 * b
/-- COUNT of CA_SOT_ERR. -/
def F.CA_SOT_ERR_COUNT : Nat × Nat := (31, 0)
/-- Address of CA_UNMATCHED. -/
def A.CA_UNMATCHED (b : Nat) : Nat := 0x70000D0020 + 0x4000 * b
/-- COUNT of CA_UNMATCHED. -/
def F.CA_UNMATCHED_COUNT : Nat × Nat := (31, 0)
/-- Address of IS_STATUS. -/
def A.IS_STATUS : Nat := 0x70000C0000
/-- ENABLED of IS_STATUS. -/
def F.IS_STATUS_ENABLED : Nat × Nat := (15, 0)
/-- Address of IS_PIXELS. -/
def A.IS_PIXELS : Nat := 0x70000C0008
/-- COUNT of IS_PIXELS. -/
def F.IS_PIXELS_COUNT : Nat × Nat := (63, 0)
/-- Address of IS_S_CFG. -/
def A.IS_S_CFG (i : Nat) : Nat := 0x70000C1000 + 0x100 * i
/-- EN of IS_S_CFG. -/
def F.IS_S_CFG_EN : Nat × Nat := (0, 0)
/-- RX of IS_S_CFG. -/
def F.IS_S_CFG_RX : Nat × Nat := (2, 1)
/-- VC of IS_S_CFG. -/
def F.IS_S_CFG_VC : Nat × Nat := (6, 3)
/-- DT of IS_S_CFG. -/
def F.IS_S_CFG_DT : Nat × Nat := (12, 7)
/-- CFA of IS_S_CFG. -/
def F.IS_S_CFG_CFA : Nat × Nat := (14, 13)
/-- OUT_FMT of IS_S_CFG. -/
def F.IS_S_CFG_OUT_FMT : Nat × Nat := (16, 15)
/-- POISON_BAD of IS_S_CFG. -/
def F.IS_S_CFG_POISON_BAD : Nat × Nat := (17, 17)
/-- DELAY of IS_S_CFG. -/
def F.IS_S_CFG_DELAY : Nat × Nat := (20, 18)
/-- CFG_ERR of IS_S_CFG. -/
def F.IS_S_CFG_CFG_ERR : Nat × Nat := (21, 21)
/-- Address of IS_S_SIZE. -/
def A.IS_S_SIZE (i : Nat) : Nat := 0x70000C1004 + 0x100 * i
/-- WIDTH of IS_S_SIZE. -/
def F.IS_S_SIZE_WIDTH : Nat × Nat := (13, 0)
/-- HEIGHT of IS_S_SIZE. -/
def F.IS_S_SIZE_HEIGHT : Nat × Nat := (29, 16)
/-- Address of IS_S_NBUF. -/
def A.IS_S_NBUF (i : Nat) : Nat := 0x70000C1008 + 0x100 * i
/-- NBUF of IS_S_NBUF. -/
def F.IS_S_NBUF_NBUF : Nat × Nat := (4, 0)
/-- Address of IS_S_TENANT. -/
def A.IS_S_TENANT (i : Nat) : Nat := 0x70000C100C + 0x100 * i
/-- TENANT of IS_S_TENANT. -/
def F.IS_S_TENANT_TENANT : Nat × Nat := (2, 0)
/-- VALID of IS_S_TENANT. -/
def F.IS_S_TENANT_VALID : Nat × Nat := (3, 3)
/-- Address of IS_S_BUF_BASE. -/
def A.IS_S_BUF_BASE (i : Nat) : Nat := 0x70000C1010 + 0x100 * i
/-- ADDR of IS_S_BUF_BASE. -/
def F.IS_S_BUF_BASE_ADDR : Nat × Nat := (63, 0)
/-- Address of IS_S_REC_BASE. -/
def A.IS_S_REC_BASE (i : Nat) : Nat := 0x70000C1018 + 0x100 * i
/-- ADDR of IS_S_REC_BASE. -/
def F.IS_S_REC_BASE_ADDR : Nat × Nat := (63, 0)
/-- Address of IS_S_STATS_BASE. -/
def A.IS_S_STATS_BASE (i : Nat) : Nat := 0x70000C1020 + 0x100 * i
/-- ADDR of IS_S_STATS_BASE. -/
def F.IS_S_STATS_BASE_ADDR : Nat × Nat := (63, 0)
/-- Address of IS_S_FRAME_INDEX. -/
def A.IS_S_FRAME_INDEX (i : Nat) : Nat := 0x70000C1028 + 0x100 * i
/-- INDEX of IS_S_FRAME_INDEX. -/
def F.IS_S_FRAME_INDEX_INDEX : Nat × Nat := (63, 0)
/-- Address of IS_S_PUSH_ADDR. -/
def A.IS_S_PUSH_ADDR (i : Nat) : Nat := 0x70000C1030 + 0x100 * i
/-- ADDR of IS_S_PUSH_ADDR. -/
def F.IS_S_PUSH_ADDR_ADDR : Nat × Nat := (63, 0)
/-- Address of IS_S_PUSH_FRAME. -/
def A.IS_S_PUSH_FRAME (i : Nat) : Nat := 0x70000C1038 + 0x100 * i
/-- FRAME of IS_S_PUSH_FRAME. -/
def F.IS_S_PUSH_FRAME_FRAME : Nat × Nat := (63, 0)
/-- Address of IS_S_PUSH_CMD. -/
def A.IS_S_PUSH_CMD (i : Nat) : Nat := 0x70000C1040 + 0x100 * i
/-- PUSH of IS_S_PUSH_CMD. -/
def F.IS_S_PUSH_CMD_PUSH : Nat × Nat := (0, 0)
/-- ABS of IS_S_PUSH_CMD. -/
def F.IS_S_PUSH_CMD_ABS : Nat × Nat := (1, 1)
/-- CLEAR of IS_S_PUSH_CMD. -/
def F.IS_S_PUSH_CMD_CLEAR : Nat × Nat := (2, 2)
/-- Address of IS_S_QSTATUS. -/
def A.IS_S_QSTATUS (i : Nat) : Nat := 0x70000C1044 + 0x100 * i
/-- DEPTH of IS_S_QSTATUS. -/
def F.IS_S_QSTATUS_DEPTH : Nat × Nat := (3, 0)
/-- REFUSED of IS_S_QSTATUS. -/
def F.IS_S_QSTATUS_REFUSED : Nat × Nat := (4, 4)
/-- REASON of IS_S_QSTATUS. -/
def F.IS_S_QSTATUS_REASON : Nat × Nat := (6, 5)
/-- Address of IS_S_LAST_APPLY. -/
def A.IS_S_LAST_APPLY (i : Nat) : Nat := 0x70000C1048 + 0x100 * i
/-- FRAME of IS_S_LAST_APPLY. -/
def F.IS_S_LAST_APPLY_FRAME : Nat × Nat := (63, 0)
/-- Address of IS_S_FRAMES. -/
def A.IS_S_FRAMES (i : Nat) : Nat := 0x70000C1050 + 0x100 * i
/-- COUNT of IS_S_FRAMES. -/
def F.IS_S_FRAMES_COUNT : Nat × Nat := (31, 0)
/-- Address of IS_S_INCOMPLETE. -/
def A.IS_S_INCOMPLETE (i : Nat) : Nat := 0x70000C1054 + 0x100 * i
/-- COUNT of IS_S_INCOMPLETE. -/
def F.IS_S_INCOMPLETE_COUNT : Nat × Nat := (31, 0)
/-- Address of IS_S_LINES_DROPPED. -/
def A.IS_S_LINES_DROPPED (i : Nat) : Nat := 0x70000C1058 + 0x100 * i
/-- COUNT of IS_S_LINES_DROPPED. -/
def F.IS_S_LINES_DROPPED_COUNT : Nat × Nat := (31, 0)
/-- Address of IS_S_CRC_LINES. -/
def A.IS_S_CRC_LINES (i : Nat) : Nat := 0x70000C105C + 0x100 * i
/-- COUNT of IS_S_CRC_LINES. -/
def F.IS_S_CRC_LINES_COUNT : Nat × Nat := (31, 0)
/-- Address of IS_S_PARAM_ERR. -/
def A.IS_S_PARAM_ERR (i : Nat) : Nat := 0x70000C1060 + 0x100 * i
/-- COUNT of IS_S_PARAM_ERR. -/
def F.IS_S_PARAM_ERR_COUNT : Nat × Nat := (31, 0)
/-- Address of IS_S_SUPERSEDED. -/
def A.IS_S_SUPERSEDED (i : Nat) : Nat := 0x70000C1064 + 0x100 * i
/-- COUNT of IS_S_SUPERSEDED. -/
def F.IS_S_SUPERSEDED_COUNT : Nat × Nat := (31, 0)
/-- Address of IS_S_LATE. -/
def A.IS_S_LATE (i : Nat) : Nat := 0x70000C1068 + 0x100 * i
/-- COUNT of IS_S_LATE. -/
def F.IS_S_LATE_COUNT : Nat × Nat := (31, 0)
/-- Address of IS_S_PUSH_FULL. -/
def A.IS_S_PUSH_FULL (i : Nat) : Nat := 0x70000C106C + 0x100 * i
/-- COUNT of IS_S_PUSH_FULL. -/
def F.IS_S_PUSH_FULL_COUNT : Nat × Nat := (31, 0)
/-- Address of GP_CTRL. -/
def A.GP_CTRL : Nat := 0x70000B0000
/-- EN of GP_CTRL. -/
def F.GP_CTRL_EN : Nat × Nat := (0, 0)
/-- PIXFMT of GP_CTRL. -/
def F.GP_CTRL_PIXFMT : Nat × Nat := (2, 1)
/-- VS_POL of GP_CTRL. -/
def F.GP_CTRL_VS_POL : Nat × Nat := (3, 3)
/-- HS_POL of GP_CTRL. -/
def F.GP_CTRL_HS_POL : Nat × Nat := (4, 4)
/-- PCLK_EDGE of GP_CTRL. -/
def F.GP_CTRL_PCLK_EDGE : Nat × Nat := (5, 5)
/-- YUV_ORDER of GP_CTRL. -/
def F.GP_CTRL_YUV_ORDER : Nat × Nat := (6, 6)
/-- Address of GP_SIZE. -/
def A.GP_SIZE : Nat := 0x70000B0004
/-- WIDTH of GP_SIZE. -/
def F.GP_SIZE_WIDTH : Nat × Nat := (9, 0)
/-- HEIGHT of GP_SIZE. -/
def F.GP_SIZE_HEIGHT : Nat × Nat := (24, 16)
/-- Address of GP_MOTION. -/
def A.GP_MOTION : Nat := 0x70000B0008
/-- MOTION_THRESH of GP_MOTION. -/
def F.GP_MOTION_MOTION_THRESH : Nat × Nat := (7, 0)
/-- Address of GP_STATUS. -/
def A.GP_STATUS : Nat := 0x70000B000C
/-- ACTIVE of GP_STATUS. -/
def F.GP_STATUS_ACTIVE : Nat × Nat := (0, 0)
/-- SIZE_ERR of GP_STATUS. -/
def F.GP_STATUS_SIZE_ERR : Nat × Nat := (1, 1)
/-- Address of GP_FRAMES. -/
def A.GP_FRAMES : Nat := 0x70000B0010
/-- COUNT of GP_FRAMES. -/
def F.GP_FRAMES_COUNT : Nat × Nat := (31, 0)
/-- Address of GP_INCOMPLETE. -/
def A.GP_INCOMPLETE : Nat := 0x70000B0014
/-- COUNT of GP_INCOMPLETE. -/
def F.GP_INCOMPLETE_COUNT : Nat × Nat := (31, 0)
/-- Address of LK_STATUS. -/
def A.LK_STATUS : Nat := 0x7000000000
/-- GOV_ACTIVE of LK_STATUS. -/
def F.LK_STATUS_GOV_ACTIVE : Nat × Nat := (0, 0)
/-- THERM_ACTIVE of LK_STATUS. -/
def F.LK_STATUS_THERM_ACTIVE : Nat × Nat := (1, 1)
/-- TRIP of LK_STATUS. -/
def F.LK_STATUS_TRIP : Nat × Nat := (2, 2)
/-- UNIFORM of LK_STATUS. -/
def F.LK_STATUS_UNIFORM : Nat × Nat := (3, 3)
/-- VAULT_LIMIT of LK_STATUS. -/
def F.LK_STATUS_VAULT_LIMIT : Nat × Nat := (6, 4)
/-- Address of LK_PWR_LIMIT. -/
def A.LK_PWR_LIMIT : Nat := 0x7000000004
/-- MW of LK_PWR_LIMIT. -/
def F.LK_PWR_LIMIT_MW : Nat × Nat := (17, 0)
/-- Address of LK_PWR_NOW. -/
def A.LK_PWR_NOW : Nat := 0x7000000008
/-- MW of LK_PWR_NOW. -/
def F.LK_PWR_NOW_MW : Nat × Nat := (17, 0)
/-- Address of LK_ADMIN. -/
def A.LK_ADMIN : Nat := 0x700000000C
/-- TENANT of LK_ADMIN. -/
def F.LK_ADMIN_TENANT : Nat × Nat := (2, 0)
/-- VALID of LK_ADMIN. -/
def F.LK_ADMIN_VALID : Nat × Nat := (3, 3)
/-- Address of LK_THERM_CFG. -/
def A.LK_THERM_CFG : Nat := 0x7000000010
/-- OFFSET of LK_THERM_CFG. -/
def F.LK_THERM_CFG_OFFSET : Nat × Nat := (3, 0)
/-- Address of LK_TRIP_CLR. -/
def A.LK_TRIP_CLR : Nat := 0x7000000014
/-- CLR of LK_TRIP_CLR. -/
def F.LK_TRIP_CLR_CLR : Nat × Nat := (0, 0)
/-- Address of LK_WAKE_STATUS. -/
def A.LK_WAKE_STATUS : Nat := 0x7000000018
/-- DOMAIN of LK_WAKE_STATUS. -/
def F.LK_WAKE_STATUS_DOMAIN : Nat × Nat := (5, 0)
/-- BUSY of LK_WAKE_STATUS. -/
def F.LK_WAKE_STATUS_BUSY : Nat × Nat := (6, 6)
/-- QUEUED of LK_WAKE_STATUS. -/
def F.LK_WAKE_STATUS_QUEUED : Nat × Nat := (12, 7)
/-- Address of LK_GOV_NS. -/
def A.LK_GOV_NS : Nat := 0x7000000020
/-- NS of LK_GOV_NS. -/
def F.LK_GOV_NS_NS : Nat × Nat := (63, 0)
/-- Address of LK_THERM_NS. -/
def A.LK_THERM_NS : Nat := 0x7000000028
/-- NS of LK_THERM_NS. -/
def F.LK_THERM_NS_NS : Nat × Nat := (63, 0)
/-- Address of LK_GOV_HELD. -/
def A.LK_GOV_HELD : Nat := 0x7000000030
/-- COUNT of LK_GOV_HELD. -/
def F.LK_GOV_HELD_COUNT : Nat × Nat := (31, 0)
/-- Address of LK_D_CTRL. -/
def A.LK_D_CTRL (i : Nat) : Nat := 0x7000000100 + 0x20 * i
/-- FORCE of LK_D_CTRL. -/
def F.LK_D_CTRL_FORCE : Nat × Nat := (1, 0)
/-- Address of LK_D_STATUS. -/
def A.LK_D_STATUS (i : Nat) : Nat := 0x7000000104 + 0x20 * i
/-- STATE of LK_D_STATUS. -/
def F.LK_D_STATUS_STATE : Nat × Nat := (1, 0)
/-- WAKING of LK_D_STATUS. -/
def F.LK_D_STATUS_WAKING : Nat × Nat := (2, 2)
/-- ENTERING of LK_D_STATUS. -/
def F.LK_D_STATUS_ENTERING : Nat × Nat := (3, 3)
/-- REFUSER of LK_D_STATUS. -/
def F.LK_D_STATUS_REFUSER : Nat × Nat := (6, 4)
/-- IDENT of LK_D_STATUS. -/
def F.LK_D_STATUS_IDENT : Nat × Nat := (23, 8)
/-- Address of LK_D_ENTRIES. -/
def A.LK_D_ENTRIES (i : Nat) : Nat := 0x7000000108 + 0x20 * i
/-- COUNT of LK_D_ENTRIES. -/
def F.LK_D_ENTRIES_COUNT : Nat × Nat := (31, 0)
/-- Address of LK_D_REFUSED. -/
def A.LK_D_REFUSED (i : Nat) : Nat := 0x700000010C + 0x20 * i
/-- COUNT of LK_D_REFUSED. -/
def F.LK_D_REFUSED_COUNT : Nat × Nat := (31, 0)
/-- Address of LK_D_ABORTED. -/
def A.LK_D_ABORTED (i : Nat) : Nat := 0x7000000110 + 0x20 * i
/-- COUNT of LK_D_ABORTED. -/
def F.LK_D_ABORTED_COUNT : Nat × Nat := (31, 0)
/-- Address of LK_D_EDGE_LOST. -/
def A.LK_D_EDGE_LOST (i : Nat) : Nat := 0x7000000114 + 0x20 * i
/-- COUNT of LK_D_EDGE_LOST. -/
def F.LK_D_EDGE_LOST_COUNT : Nat × Nat := (31, 0)
/-- Address of LK_D_STALL_LIMIT. -/
def A.LK_D_STALL_LIMIT (i : Nat) : Nat := 0x7000000118 + 0x20 * i
/-- COUNT of LK_D_STALL_LIMIT. -/
def F.LK_D_STALL_LIMIT_COUNT : Nat × Nat := (31, 0)
/-- Address of LK_D_WAKES. -/
def A.LK_D_WAKES (i : Nat) : Nat := 0x700000011C + 0x20 * i
/-- COUNT of LK_D_WAKES. -/
def F.LK_D_WAKES_COUNT : Nat × Nat := (31, 0)
/-- Address of LK_C_LEVEL. -/
def A.LK_C_LEVEL (i : Nat) : Nat := 0x7000000800 + 0x10 * i
/-- REQ of LK_C_LEVEL. -/
def F.LK_C_LEVEL_REQ : Nat × Nat := (1, 0)
/-- EFFECTIVE of LK_C_LEVEL. -/
def F.LK_C_LEVEL_EFFECTIVE : Nat × Nat := (3, 2)
/-- GOV_CAP of LK_C_LEVEL. -/
def F.LK_C_LEVEL_GOV_CAP : Nat × Nat := (5, 4)
/-- THERM_CAP of LK_C_LEVEL. -/
def F.LK_C_LEVEL_THERM_CAP : Nat × Nat := (7, 6)
/-- MAX of LK_C_LEVEL. -/
def F.LK_C_LEVEL_MAX : Nat × Nat := (9, 8)
/-- Address of LK_C_TEMP. -/
def A.LK_C_TEMP (i : Nat) : Nat := 0x7000000804 + 0x10 * i
/-- LOGIC of LK_C_TEMP. -/
def F.LK_C_TEMP_LOGIC : Nat × Nat := (11, 0)
/-- DRAM of LK_C_TEMP. -/
def F.LK_C_TEMP_DRAM : Nat × Nat := (27, 16)
/-- REF_MULT of LK_C_TEMP. -/
def F.LK_C_TEMP_REF_MULT : Nat × Nat := (29, 28)
/-- Address of LK_C_CAPPED_US. -/
def A.LK_C_CAPPED_US (i : Nat) : Nat := 0x7000000808 + 0x10 * i
/-- US of LK_C_CAPPED_US. -/
def F.LK_C_CAPPED_US_US : Nat × Nat := (31, 0)
/-- Address of LK_WAKE_CFG. -/
def A.LK_WAKE_CFG (i : Nat) : Nat := 0x7000000900 + 0x10 * i
/-- EN of LK_WAKE_CFG. -/
def F.LK_WAKE_CFG_EN : Nat × Nat := (0, 0)
/-- TYPE of LK_WAKE_CFG. -/
def F.LK_WAKE_CFG_TYPE : Nat × Nat := (1, 1)
/-- POL of LK_WAKE_CFG. -/
def F.LK_WAKE_CFG_POL : Nat × Nat := (2, 2)
/-- SEEN of LK_WAKE_CFG. -/
def F.LK_WAKE_CFG_SEEN : Nat × Nat := (3, 3)
/-- Address of LK_WAKE_MAP. -/
def A.LK_WAKE_MAP (i : Nat) : Nat := 0x7000000908 + 0x10 * i
/-- DOMAINS of LK_WAKE_MAP. -/
def F.LK_WAKE_MAP_DOMAINS : Nat × Nat := (39, 0)
/-- Address of LK_RAIL_MW. -/
def A.LK_RAIL_MW (i : Nat) : Nat := 0x7000000C00 + 0x10 * i
/-- MW of LK_RAIL_MW. -/
def F.LK_RAIL_MW_MW : Nat × Nat := (17, 0)
/-- Address of LK_RAIL_MJ. -/
def A.LK_RAIL_MJ (i : Nat) : Nat := 0x7000000C08 + 0x10 * i
/-- MJ of LK_RAIL_MJ. -/
def F.LK_RAIL_MJ_MJ : Nat × Nat := (63, 0)
/-- Address of TU_TIME. -/
def A.TU_TIME : Nat := 0x7000010000
/-- TIME of TU_TIME. -/
def F.TU_TIME_TIME : Nat × Nat := (63, 0)
/-- Address of TU_CTRL. -/
def A.TU_CTRL : Nat := 0x7000010008
/-- STEP_ARMED of TU_CTRL. -/
def F.TU_CTRL_STEP_ARMED : Nat × Nat := (0, 0)
/-- ARM of TU_CTRL. -/
def F.TU_CTRL_ARM : Nat × Nat := (1, 1)
/-- FINE of TU_CTRL. -/
def F.TU_CTRL_FINE : Nat × Nat := (2, 2)
/-- Address of TU_STEP. -/
def A.TU_STEP : Nat := 0x7000010010
/-- OFFSET of TU_STEP. -/
def F.TU_STEP_OFFSET : Nat × Nat := (63, 0)
/-- Address of TU_RATE. -/
def A.TU_RATE : Nat := 0x7000010018
/-- RATE of TU_RATE. -/
def F.TU_RATE_RATE : Nat × Nat := (31, 0)
/-- Address of TU_STEPS. -/
def A.TU_STEPS : Nat := 0x700001001C
/-- COUNT of TU_STEPS. -/
def F.TU_STEPS_COUNT : Nat × Nat := (31, 0)
/-- Address of TU_STEP_REFUSED. -/
def A.TU_STEP_REFUSED : Nat := 0x7000010020
/-- COUNT of TU_STEP_REFUSED. -/
def F.TU_STEP_REFUSED_COUNT : Nat × Nat := (31, 0)
/-- Address of TU_LAST_STEP. -/
def A.TU_LAST_STEP : Nat := 0x7000010028
/-- OFFSET of TU_LAST_STEP. -/
def F.TU_LAST_STEP_OFFSET : Nat × Nat := (63, 0)
/-- Address of TU_TI_CFG. -/
def A.TU_TI_CFG (i : Nat) : Nat := 0x7000010040 + 0x10 * i
/-- EN of TU_TI_CFG. -/
def F.TU_TI_CFG_EN : Nat × Nat := (0, 0)
/-- EDGE of TU_TI_CFG. -/
def F.TU_TI_CFG_EDGE : Nat × Nat := (1, 1)
/-- FILTER of TU_TI_CFG. -/
def F.TU_TI_CFG_FILTER : Nat × Nat := (5, 2)
/-- OVERRUN of TU_TI_CFG. -/
def F.TU_TI_CFG_OVERRUN : Nat × Nat := (6, 6)
/-- Address of TU_TI_COUNT. -/
def A.TU_TI_COUNT (i : Nat) : Nat := 0x7000010044 + 0x10 * i
/-- COUNT of TU_TI_COUNT. -/
def F.TU_TI_COUNT_COUNT : Nat × Nat := (31, 0)
/-- Address of TU_TI_STAMP. -/
def A.TU_TI_STAMP (i : Nat) : Nat := 0x7000010048 + 0x10 * i
/-- TIME of TU_TI_STAMP. -/
def F.TU_TI_STAMP_TIME : Nat × Nat := (63, 0)
/-- Address of TU_TI_REJECT. -/
def A.TU_TI_REJECT (i : Nat) : Nat := 0x7000010060 + 0x4 * i
/-- COUNT of TU_TI_REJECT. -/
def F.TU_TI_REJECT_COUNT : Nat × Nat := (31, 0)
/-- Address of TU_TC_CTRL. -/
def A.TU_TC_CTRL (i : Nat) : Nat := 0x7000010100 + 0x20 * i
/-- EN of TU_TC_CTRL. -/
def F.TU_TC_CTRL_EN : Nat × Nat := (0, 0)
/-- MODE of TU_TC_CTRL. -/
def F.TU_TC_CTRL_MODE : Nat × Nat := (1, 1)
/-- PIN_EN of TU_TC_CTRL. -/
def F.TU_TC_CTRL_PIN_EN : Nat × Nat := (2, 2)
/-- PIN of TU_TC_CTRL. -/
def F.TU_TC_CTRL_PIN : Nat × Nat := (4, 3)
/-- POL of TU_TC_CTRL. -/
def F.TU_TC_CTRL_POL : Nat × Nat := (5, 5)
/-- FIRED of TU_TC_CTRL. -/
def F.TU_TC_CTRL_FIRED : Nat × Nat := (6, 6)
/-- CFG_ERR of TU_TC_CTRL. -/
def F.TU_TC_CTRL_CFG_ERR : Nat × Nat := (7, 7)
/-- WIDTH of TU_TC_CTRL. -/
def F.TU_TC_CTRL_WIDTH : Nat × Nat := (31, 16)
/-- Address of TU_TC_BIND. -/
def A.TU_TC_BIND (i : Nat) : Nat := 0x7000010104 + 0x20 * i
/-- BOUND of TU_TC_BIND. -/
def F.TU_TC_BIND_BOUND : Nat × Nat := (0, 0)
/-- CLASS of TU_TC_BIND. -/
def F.TU_TC_BIND_CLASS : Nat × Nat := (3, 1)
/-- OWNER of TU_TC_BIND. -/
def F.TU_TC_BIND_OWNER : Nat × Nat := (6, 4)
/-- OWNER_VALID of TU_TC_BIND. -/
def F.TU_TC_BIND_OWNER_VALID : Nat × Nat := (7, 7)
/-- MISSED of TU_TC_BIND. -/
def F.TU_TC_BIND_MISSED : Nat × Nat := (31, 8)
/-- Address of TU_TC_TIME. -/
def A.TU_TC_TIME (i : Nat) : Nat := 0x7000010108 + 0x20 * i
/-- TIME of TU_TC_TIME. -/
def F.TU_TC_TIME_TIME : Nat × Nat := (63, 0)
/-- Address of TU_TC_PERIOD. -/
def A.TU_TC_PERIOD (i : Nat) : Nat := 0x7000010110 + 0x20 * i
/-- PERIOD of TU_TC_PERIOD. -/
def F.TU_TC_PERIOD_PERIOD : Nat × Nat := (63, 0)
/-- Address of BL_TIMEOUT. -/
def A.BL_TIMEOUT : Nat := 0x7000112000
/-- US of BL_TIMEOUT. -/
def F.BL_TIMEOUT_US : Nat × Nat := (15, 0)
/-- Address of BL_NO_ROUTE. -/
def A.BL_NO_ROUTE : Nat := 0x7000112004
/-- COUNT of BL_NO_ROUTE. -/
def F.BL_NO_ROUTE_COUNT : Nat × Nat := (31, 0)
/-- Address of BL_STALE_RSP. -/
def A.BL_STALE_RSP : Nat := 0x7000112008
/-- COUNT of BL_STALE_RSP. -/
def F.BL_STALE_RSP_COUNT : Nat × Nat := (31, 0)
/-- Address of BL_DB_SEND. -/
def A.BL_DB_SEND (i : Nat) : Nat := 0x7000112100 + 0x10 * i
/-- DEVICE of BL_DB_SEND. -/
def F.BL_DB_SEND_DEVICE : Nat × Nat := (13, 0)
/-- RING of BL_DB_SEND. -/
def F.BL_DB_SEND_RING : Nat × Nat := (31, 16)
/-- Address of BL_DB_SENT. -/
def A.BL_DB_SENT (i : Nat) : Nat := 0x7000112108 + 0x10 * i
/-- COUNT of BL_DB_SENT. -/
def F.BL_DB_SENT_COUNT : Nat × Nat := (31, 0)
/-- Address of BL_CFG. -/
def A.BL_CFG (b : Nat) : Nat := 0x7000110000 + 0x4000 * b
/-- SEAL of BL_CFG. -/
def F.BL_CFG_SEAL : Nat × Nat := (0, 0)
/-- DATELINE of BL_CFG. -/
def F.BL_CFG_DATELINE : Nat × Nat := (1, 1)
/-- DIM of BL_CFG. -/
def F.BL_CFG_DIM : Nat × Nat := (2, 2)
/-- EXPECT_EN of BL_CFG. -/
def F.BL_CFG_EXPECT_EN : Nat × Nat := (3, 3)
/-- EXPECT_ID of BL_CFG. -/
def F.BL_CFG_EXPECT_ID : Nat × Nat := (17, 4)
/-- DEGRADE_EN of BL_CFG. -/
def F.BL_CFG_DEGRADE_EN : Nat × Nat := (18, 18)
/-- Address of BL_CTRL. -/
def A.BL_CTRL (b : Nat) : Nat := 0x7000110004 + 0x4000 * b
/-- RESET of BL_CTRL. -/
def F.BL_CTRL_RESET : Nat × Nat := (0, 0)
/-- Address of BL_STATUS. -/
def A.BL_STATUS (b : Nat) : Nat := 0x7000110008 + 0x4000 * b
/-- STATE of BL_STATUS. -/
def F.BL_STATUS_STATE : Nat × Nat := (2, 0)
/-- HALF of BL_STATUS. -/
def F.BL_STATUS_HALF : Nat × Nat := (3, 3)
/-- DOWN_CAUSE of BL_STATUS. -/
def F.BL_STATUS_DOWN_CAUSE : Nat × Nat := (6, 4)
/-- SEALED of BL_STATUS. -/
def F.BL_STATUS_SEALED : Nat × Nat := (7, 7)
/-- PARTNER_ID of BL_STATUS. -/
def F.BL_STATUS_PARTNER_ID : Nat × Nat := (21, 8)
/-- PARTNER_VALID of BL_STATUS. -/
def F.BL_STATUS_PARTNER_VALID : Nat × Nat := (22, 22)
/-- Address of BL_TX_BYTES. -/
def A.BL_TX_BYTES (b : Nat) : Nat := 0x7000110010 + 0x4000 * b
/-- COUNT of BL_TX_BYTES. -/
def F.BL_TX_BYTES_COUNT : Nat × Nat := (63, 0)
/-- Address of BL_RX_BYTES. -/
def A.BL_RX_BYTES (b : Nat) : Nat := 0x7000110018 + 0x4000 * b
/-- COUNT of BL_RX_BYTES. -/
def F.BL_RX_BYTES_COUNT : Nat × Nat := (63, 0)
/-- Address of BL_FWD_FRAMES. -/
def A.BL_FWD_FRAMES (b : Nat) : Nat := 0x7000110020 + 0x4000 * b
/-- COUNT of BL_FWD_FRAMES. -/
def F.BL_FWD_FRAMES_COUNT : Nat × Nat := (63, 0)
/-- Address of BL_FEC_CORR. -/
def A.BL_FEC_CORR (b : Nat) : Nat := 0x7000110028 + 0x4000 * b
/-- COUNT of BL_FEC_CORR. -/
def F.BL_FEC_CORR_COUNT : Nat × Nat := (63, 0)
/-- Address of BL_CREDIT_WAIT_NS. -/
def A.BL_CREDIT_WAIT_NS (b : Nat) : Nat := 0x7000110030 + 0x4000 * b
/-- NS of BL_CREDIT_WAIT_NS. -/
def F.BL_CREDIT_WAIT_NS_NS : Nat × Nat := (63, 0)
/-- Address of BL_REPLAY. -/
def A.BL_REPLAY (b : Nat) : Nat := 0x7000110038 + 0x4000 * b
/-- COUNT of BL_REPLAY. -/
def F.BL_REPLAY_COUNT : Nat × Nat := (31, 0)
/-- Address of BL_CRC_ERR. -/
def A.BL_CRC_ERR (b : Nat) : Nat := 0x700011003C + 0x4000 * b
/-- COUNT of BL_CRC_ERR. -/
def F.BL_CRC_ERR_COUNT : Nat × Nat := (31, 0)
/-- Address of BL_TAG_FAIL. -/
def A.BL_TAG_FAIL (b : Nat) : Nat := 0x7000110040 + 0x4000 * b
/-- COUNT of BL_TAG_FAIL. -/
def F.BL_TAG_FAIL_COUNT : Nat × Nat := (31, 0)
/-- Address of BL_LANE_FAULT. -/
def A.BL_LANE_FAULT (b : Nat) : Nat := 0x7000110044 + 0x4000 * b
/-- COUNT of BL_LANE_FAULT. -/
def F.BL_LANE_FAULT_COUNT : Nat × Nat := (31, 0)
/-- Address of BL_RETRAIN. -/
def A.BL_RETRAIN (b : Nat) : Nat := 0x7000110048 + 0x4000 * b
/-- COUNT of BL_RETRAIN. -/
def F.BL_RETRAIN_COUNT : Nat × Nat := (31, 0)
/-- Address of BL_UNDELIVERED. -/
def A.BL_UNDELIVERED (b : Nat) : Nat := 0x700011004C + 0x4000 * b
/-- COUNT of BL_UNDELIVERED. -/
def F.BL_UNDELIVERED_COUNT : Nat × Nat := (31, 0)
/-- Address of BL_PROTO_ERR. -/
def A.BL_PROTO_ERR (b : Nat) : Nat := 0x7000110050 + 0x4000 * b
/-- COUNT of BL_PROTO_ERR. -/
def F.BL_PROTO_ERR_COUNT : Nat × Nat := (31, 0)
/-- Address of BL_PORT_TIMEOUT. -/
def A.BL_PORT_TIMEOUT (b : Nat) : Nat := 0x7000110054 + 0x4000 * b
/-- COUNT of BL_PORT_TIMEOUT. -/
def F.BL_PORT_TIMEOUT_COUNT : Nat × Nat := (31, 0)
/-- Address of BL_SEAL_TX_SESSION. -/
def A.BL_SEAL_TX_SESSION (b : Nat) : Nat := 0x7000110060 + 0x4000 * b
/-- SESSION of BL_SEAL_TX_SESSION. -/
def F.BL_SEAL_TX_SESSION_SESSION : Nat × Nat := (31, 0)
/-- Address of BL_SEAL_RX_SESSION. -/
def A.BL_SEAL_RX_SESSION (b : Nat) : Nat := 0x7000110064 + 0x4000 * b
/-- SESSION of BL_SEAL_RX_SESSION. -/
def F.BL_SEAL_RX_SESSION_SESSION : Nat × Nat := (31, 0)
/-- Address of BL_SEAL_COUNTER. -/
def A.BL_SEAL_COUNTER (b : Nat) : Nat := 0x7000110068 + 0x4000 * b
/-- COUNTER of BL_SEAL_COUNTER. -/
def F.BL_SEAL_COUNTER_COUNTER : Nat × Nat := (63, 0)
/-- Address of BL_REKEY_THRESH. -/
def A.BL_REKEY_THRESH (b : Nat) : Nat := 0x7000110070 + 0x4000 * b
/-- COUNT of BL_REKEY_THRESH. -/
def F.BL_REKEY_THRESH_COUNT : Nat × Nat := (63, 0)
/-- Address of BL_REKEYS. -/
def A.BL_REKEYS (b : Nat) : Nat := 0x7000110078 + 0x4000 * b
/-- COUNT of BL_REKEYS. -/
def F.BL_REKEYS_COUNT : Nat × Nat := (31, 0)
/-- Address of BL_LANE_STATUS. -/
def A.BL_LANE_STATUS (b i : Nat) : Nat := 0x7000110100 + 0x4000 * b + 0x4 * i
/-- LOCK of BL_LANE_STATUS. -/
def F.BL_LANE_STATUS_LOCK : Nat × Nat := (0, 0)
/-- FAULT of BL_LANE_STATUS. -/
def F.BL_LANE_STATUS_FAULT : Nat × Nat := (1, 1)
/-- EYE of BL_LANE_STATUS. -/
def F.BL_LANE_STATUS_EYE : Nat × Nat := (9, 2)
/-- Address of BL_LANE_CORR. -/
def A.BL_LANE_CORR (b i : Nat) : Nat := 0x7000110120 + 0x4000 * b + 0x4 * i
/-- COUNT of BL_LANE_CORR. -/
def F.BL_LANE_CORR_COUNT : Nat × Nat := (31, 0)
/-- Address of HI_LINK_STATUS. -/
def A.HI_LINK_STATUS : Nat := 0x7000100000
/-- SPEED of HI_LINK_STATUS. -/
def F.HI_LINK_STATUS_SPEED : Nat × Nat := (2, 0)
/-- WIDTH of HI_LINK_STATUS. -/
def F.HI_LINK_STATUS_WIDTH : Nat × Nat := (6, 3)
/-- BME of HI_LINK_STATUS. -/
def F.HI_LINK_STATUS_BME : Nat × Nat := (7, 7)
/-- D3HOT of HI_LINK_STATUS. -/
def F.HI_LINK_STATUS_D3HOT : Nat × Nat := (8, 8)
/-- Address of HI_BAD_ACCESS. -/
def A.HI_BAD_ACCESS : Nat := 0x7000100004
/-- COUNT of HI_BAD_ACCESS. -/
def F.HI_BAD_ACCESS_COUNT : Nat × Nat := (31, 0)
/-- Address of HI_MIRROR_DROP. -/
def A.HI_MIRROR_DROP : Nat := 0x7000100008
/-- COUNT of HI_MIRROR_DROP. -/
def F.HI_MIRROR_DROP_COUNT : Nat × Nat := (31, 0)
/-- Address of HI_POISON_READ. -/
def A.HI_POISON_READ : Nat := 0x700010000C
/-- COUNT of HI_POISON_READ. -/
def F.HI_POISON_READ_COUNT : Nat × Nat := (31, 0)
/-- Address of HI_CORR_ERR. -/
def A.HI_CORR_ERR : Nat := 0x7000100010
/-- COUNT of HI_CORR_ERR. -/
def F.HI_CORR_ERR_COUNT : Nat × Nat := (31, 0)
/-- Address of HI_CONF_REKEY. -/
def A.HI_CONF_REKEY : Nat := 0x7000100018
/-- COUNT of HI_CONF_REKEY. -/
def F.HI_CONF_REKEY_COUNT : Nat × Nat := (63, 0)
/-- Address of HI_RX_BYTES. -/
def A.HI_RX_BYTES : Nat := 0x7000100020
/-- COUNT of HI_RX_BYTES. -/
def F.HI_RX_BYTES_COUNT : Nat × Nat := (63, 0)
/-- Address of HI_VEC_MOD. -/
def A.HI_VEC_MOD (i : Nat) : Nat := 0x7000102000 + 0x4 * i
/-- COUNT of HI_VEC_MOD. -/
def F.HI_VEC_MOD_COUNT : Nat × Nat := (7, 0)
/-- HOLDOFF_US of HI_VEC_MOD. -/
def F.HI_VEC_MOD_HOLDOFF_US : Nat × Nat := (23, 8)
/-- Address of HI_T_RING_SEL. -/
def A.HI_T_RING_SEL (i : Nat) : Nat := 0x7000104000 + 0x1000 * i
/-- RING of HI_T_RING_SEL. -/
def F.HI_T_RING_SEL_RING : Nat × Nat := (15, 0)
/-- Address of HI_T_RING_CFG. -/
def A.HI_T_RING_CFG (i : Nat) : Nat := 0x7000104004 + 0x1000 * i
/-- CQ_LOG2 of HI_T_RING_CFG. -/
def F.HI_T_RING_CFG_CQ_LOG2 : Nat × Nat := (4, 0)
/-- CQ_EN of HI_T_RING_CFG. -/
def F.HI_T_RING_CFG_CQ_EN : Nat × Nat := (5, 5)
/-- VEC of HI_T_RING_CFG. -/
def F.HI_T_RING_CFG_VEC : Nat × Nat := (18, 8)
/-- VEC_EN of HI_T_RING_CFG. -/
def F.HI_T_RING_CFG_VEC_EN : Nat × Nat := (19, 19)
/-- Address of HI_T_RING_CQ. -/
def A.HI_T_RING_CQ (i : Nat) : Nat := 0x7000104008 + 0x1000 * i
/-- ADDR of HI_T_RING_CQ. -/
def F.HI_T_RING_CQ_ADDR : Nat × Nat := (63, 0)
/-- Address of HI_T_RING_WIN. -/
def A.HI_T_RING_WIN (i : Nat) : Nat := 0x7000104010 + 0x1000 * i
/-- OFFSET of HI_T_RING_WIN. -/
def F.HI_T_RING_WIN_OFFSET : Nat × Nat := (63, 0)
/-- Address of HI_T_OBJ_BASE. -/
def A.HI_T_OBJ_BASE (i : Nat) : Nat := 0x7000104018 + 0x1000 * i
/-- PAGE of HI_T_OBJ_BASE. -/
def F.HI_T_OBJ_BASE_PAGE : Nat × Nat := (18, 0)
/-- Address of HI_T_EVENT. -/
def A.HI_T_EVENT (i : Nat) : Nat := 0x7000104020 + 0x1000 * i
/-- REFUSED of HI_T_EVENT. -/
def F.HI_T_EVENT_REFUSED : Nat × Nat := (0, 0)
/-- MIRROR_DROP of HI_T_EVENT. -/
def F.HI_T_EVENT_MIRROR_DROP : Nat × Nat := (1, 1)
/-- CONF_STOP of HI_T_EVENT. -/
def F.HI_T_EVENT_CONF_STOP : Nat × Nat := (2, 2)
/-- REKEY of HI_T_EVENT. -/
def F.HI_T_EVENT_REKEY : Nat × Nat := (3, 3)
/-- EGRESS_WAIT of HI_T_EVENT. -/
def F.HI_T_EVENT_EGRESS_WAIT : Nat × Nat := (4, 4)
/-- Address of HI_T_EVT_CFG. -/
def A.HI_T_EVT_CFG (i : Nat) : Nat := 0x7000104024 + 0x1000 * i
/-- EVT_VEC of HI_T_EVT_CFG. -/
def F.HI_T_EVT_CFG_EVT_VEC : Nat × Nat := (10, 0)
/-- EVT_EN of HI_T_EVT_CFG. -/
def F.HI_T_EVT_CFG_EVT_EN : Nat × Nat := (11, 11)
/-- Address of HI_T_LAST_REFUSED. -/
def A.HI_T_LAST_REFUSED (i : Nat) : Nat := 0x7000104028 + 0x1000 * i
/-- RING of HI_T_LAST_REFUSED. -/
def F.HI_T_LAST_REFUSED_RING : Nat × Nat := (15, 0)
/-- Address of HI_T_WIN_MISS. -/
def A.HI_T_WIN_MISS (i : Nat) : Nat := 0x700010402C + 0x1000 * i
/-- COUNT of HI_T_WIN_MISS. -/
def F.HI_T_WIN_MISS_COUNT : Nat × Nat := (31, 0)
/-- Address of HI_T_IN_BASE. -/
def A.HI_T_IN_BASE (i : Nat) : Nat := 0x7000104040 + 0x1000 * i
/-- ADDR of HI_T_IN_BASE. -/
def F.HI_T_IN_BASE_ADDR : Nat × Nat := (63, 0)
/-- Address of HI_T_IN_CFG. -/
def A.HI_T_IN_CFG (i : Nat) : Nat := 0x7000104048 + 0x1000 * i
/-- LOG2 of HI_T_IN_CFG. -/
def F.HI_T_IN_CFG_LOG2 : Nat × Nat := (4, 0)
/-- EN of HI_T_IN_CFG. -/
def F.HI_T_IN_CFG_EN : Nat × Nat := (5, 5)
/-- IN_STOPPED of HI_T_IN_CFG. -/
def F.HI_T_IN_CFG_IN_STOPPED : Nat × Nat := (6, 6)
/-- CAUSE of HI_T_IN_CFG. -/
def F.HI_T_IN_CFG_CAUSE : Nat × Nat := (9, 7)
/-- Address of HI_T_IN_PROD. -/
def A.HI_T_IN_PROD (i : Nat) : Nat := 0x7000104050 + 0x1000 * i
/-- COUNT of HI_T_IN_PROD. -/
def F.HI_T_IN_PROD_COUNT : Nat × Nat := (63, 0)
/-- Address of HI_T_IN_CONS. -/
def A.HI_T_IN_CONS (i : Nat) : Nat := 0x7000104058 + 0x1000 * i
/-- COUNT of HI_T_IN_CONS. -/
def F.HI_T_IN_CONS_COUNT : Nat × Nat := (63, 0)
/-- Address of HI_T_OUT_BASE. -/
def A.HI_T_OUT_BASE (i : Nat) : Nat := 0x7000104060 + 0x1000 * i
/-- ADDR of HI_T_OUT_BASE. -/
def F.HI_T_OUT_BASE_ADDR : Nat × Nat := (63, 0)
/-- Address of HI_T_OUT_CFG. -/
def A.HI_T_OUT_CFG (i : Nat) : Nat := 0x7000104068 + 0x1000 * i
/-- LOG2 of HI_T_OUT_CFG. -/
def F.HI_T_OUT_CFG_LOG2 : Nat × Nat := (4, 0)
/-- EN of HI_T_OUT_CFG. -/
def F.HI_T_OUT_CFG_EN : Nat × Nat := (5, 5)
/-- Address of HI_T_OUT_PROD. -/
def A.HI_T_OUT_PROD (i : Nat) : Nat := 0x7000104070 + 0x1000 * i
/-- COUNT of HI_T_OUT_PROD. -/
def F.HI_T_OUT_PROD_COUNT : Nat × Nat := (63, 0)
/-- Address of HI_T_OUT_CONS. -/
def A.HI_T_OUT_CONS (i : Nat) : Nat := 0x7000104078 + 0x1000 * i
/-- COUNT of HI_T_OUT_CONS. -/
def F.HI_T_OUT_CONS_COUNT : Nat × Nat := (63, 0)
/-- Address of HI_T_IN_COUNTER. -/
def A.HI_T_IN_COUNTER (i : Nat) : Nat := 0x7000104080 + 0x1000 * i
/-- COUNTER of HI_T_IN_COUNTER. -/
def F.HI_T_IN_COUNTER_COUNTER : Nat × Nat := (63, 0)
/-- Address of HI_T_OUT_COUNTER. -/
def A.HI_T_OUT_COUNTER (i : Nat) : Nat := 0x7000104088 + 0x1000 * i
/-- COUNTER of HI_T_OUT_COUNTER. -/
def F.HI_T_OUT_COUNTER_COUNTER : Nat × Nat := (63, 0)
/-- Address of HI_T_IN_WAIT_NS. -/
def A.HI_T_IN_WAIT_NS (i : Nat) : Nat := 0x7000104090 + 0x1000 * i
/-- NS of HI_T_IN_WAIT_NS. -/
def F.HI_T_IN_WAIT_NS_NS : Nat × Nat := (63, 0)
/-- Address of NT_MB_CMD. -/
def A.NT_MB_CMD (i : Nat) : Nat := 0x7000020000 + 0x1000 * i
/-- OP of NT_MB_CMD. -/
def F.NT_MB_CMD_OP : Nat × Nat := (7, 0)
/-- Address of NT_MB_ARG0. -/
def A.NT_MB_ARG0 (i : Nat) : Nat := 0x7000020008 + 0x1000 * i
/-- ARG of NT_MB_ARG0. -/
def F.NT_MB_ARG0_ARG : Nat × Nat := (63, 0)
/-- Address of NT_MB_ARG1. -/
def A.NT_MB_ARG1 (i : Nat) : Nat := 0x7000020010 + 0x1000 * i
/-- ARG of NT_MB_ARG1. -/
def F.NT_MB_ARG1_ARG : Nat × Nat := (63, 0)
/-- Address of NT_MB_ARG2. -/
def A.NT_MB_ARG2 (i : Nat) : Nat := 0x7000020018 + 0x1000 * i
/-- ARG of NT_MB_ARG2. -/
def F.NT_MB_ARG2_ARG : Nat × Nat := (63, 0)
/-- Address of NT_MB_STATUS. -/
def A.NT_MB_STATUS (i : Nat) : Nat := 0x7000020020 + 0x1000 * i
/-- BUSY of NT_MB_STATUS. -/
def F.NT_MB_STATUS_BUSY : Nat × Nat := (0, 0)
/-- OVERRUN of NT_MB_STATUS. -/
def F.NT_MB_STATUS_OVERRUN : Nat × Nat := (1, 1)
/-- STATUS of NT_MB_STATUS. -/
def F.NT_MB_STATUS_STATUS : Nat × Nat := (7, 4)
/-- DETAIL of NT_MB_STATUS. -/
def F.NT_MB_STATUS_DETAIL : Nat × Nat := (15, 8)
/-- Address of NT_MB_RESULT. -/
def A.NT_MB_RESULT (i : Nat) : Nat := 0x7000020028 + 0x1000 * i
/-- VALUE of NT_MB_RESULT. -/
def F.NT_MB_RESULT_VALUE : Nat × Nat := (63, 0)
/-- Address of NT_INFO. -/
def A.NT_INFO : Nat := 0x7000028040
/-- LIFECYCLE of NT_INFO. -/
def F.NT_INFO_LIFECYCLE : Nat × Nat := (1, 0)
/-- CONF_ACTIVE of NT_INFO. -/
def F.NT_INFO_CONF_ACTIVE : Nat × Nat := (2, 2)
/-- SLOT_REVOKED of NT_INFO. -/
def F.NT_INFO_SLOT_REVOKED : Nat × Nat := (6, 3)
/-- SLOT_WRITTEN of NT_INFO. -/
def F.NT_INFO_SLOT_WRITTEN : Nat × Nat := (10, 7)
/-- Address of NT_FLOOR. -/
def A.NT_FLOOR : Nat := 0x7000028048
/-- SERIAL of NT_FLOOR. -/
def F.NT_FLOOR_SERIAL : Nat × Nat := (63, 0)
/-- Address of NT_SVN. -/
def A.NT_SVN : Nat := 0x7000028050
/-- NOTARY of NT_SVN. -/
def F.NT_SVN_NOTARY : Nat × Nat := (15, 0)
/-- RUNNEL of NT_SVN. -/
def F.NT_SVN_RUNNEL : Nat × Nat := (31, 16)
/-- Address of NT_UID. -/
def A.NT_UID (i : Nat) : Nat := 0x7000028060 + 0x4 * i
/-- UID of NT_UID. -/
def F.NT_UID_UID : Nat × Nat := (31, 0)
/-- Address of DB_STATUS. -/
def A.DB_STATUS : Nat := 0x70000F0000
/-- TAP_RESTRICTED of DB_STATUS. -/
def F.DB_STATUS_TAP_RESTRICTED : Nat × Nat := (0, 0)
/-- Address of DB_HOLD. -/
def A.DB_HOLD : Nat := 0x70000F0008
/-- DOMAINS of DB_HOLD. -/
def F.DB_HOLD_DOMAINS : Nat × Nat := (39, 0)
/-- Address of DB_TRACE_CTRL. -/
def A.DB_TRACE_CTRL : Nat := 0x70000F0010
/-- EN of DB_TRACE_CTRL. -/
def F.DB_TRACE_CTRL_EN : Nat × Nat := (0, 0)
/-- TENANT of DB_TRACE_CTRL. -/
def F.DB_TRACE_CTRL_TENANT : Nat × Nat := (3, 1)
/-- Address of DB_TRACE_BASE. -/
def A.DB_TRACE_BASE : Nat := 0x70000F0018
/-- ADDR of DB_TRACE_BASE. -/
def F.DB_TRACE_BASE_ADDR : Nat × Nat := (63, 0)
/-- Address of DB_REFUSED. -/
def A.DB_REFUSED : Nat := 0x70000F0020
/-- COUNT of DB_REFUSED. -/
def F.DB_REFUSED_COUNT : Nat × Nat := (31, 0)
/-- Address of FL_STATUS. -/
def A.FL_STATUS : Nat := 0x7000030000
/-- CLASSIFYING of FL_STATUS. -/
def F.FL_STATUS_CLASSIFYING : Nat × Nat := (0, 0)
/-- JOURNAL_SINGLE of FL_STATUS. -/
def F.FL_STATUS_JOURNAL_SINGLE : Nat × Nat := (1, 1)
/-- BUFFERED of FL_STATUS. -/
def F.FL_STATUS_BUFFERED : Nat × Nat := (10, 2)
/-- Address of FL_CFG. -/
def A.FL_CFG : Nat := 0x7000030004
/-- TRANSIENT_LIMIT of FL_CFG. -/
def F.FL_CFG_TRANSIENT_LIMIT : Nat × Nat := (7, 0)
/-- T1_HOURS of FL_CFG. -/
def F.FL_CFG_T1_HOURS : Nat × Nat := (12, 8)
/-- T2_HOURS of FL_CFG. -/
def F.FL_CFG_T2_HOURS : Nat × Nat := (17, 13)
/-- Address of FL_RETIRE_CMD. -/
def A.FL_RETIRE_CMD : Nat := 0x7000030008
/-- TILE of FL_RETIRE_CMD. -/
def F.FL_RETIRE_CMD_TILE : Nat × Nat := (6, 0)
/-- OP of FL_RETIRE_CMD. -/
def F.FL_RETIRE_CMD_OP : Nat × Nat := (9, 7)
/-- GROUP of FL_RETIRE_CMD. -/
def F.FL_RETIRE_CMD_GROUP : Nat × Nat := (17, 10)
/-- Address of FL_RETIRED. -/
def A.FL_RETIRED (i : Nat) : Nat := 0x7000030010 + 0x4 * i
/-- TILES of FL_RETIRED. -/
def F.FL_RETIRED_TILES : Nat × Nat := (31, 0)
/-- Address of FL_DEV_RING_BASE. -/
def A.FL_DEV_RING_BASE : Nat := 0x7000030020
/-- ADDR of FL_DEV_RING_BASE. -/
def F.FL_DEV_RING_BASE_ADDR : Nat × Nat := (63, 0)
/-- Address of FL_DEV_RING_CFG. -/
def A.FL_DEV_RING_CFG : Nat := 0x7000030028
/-- LOG2 of FL_DEV_RING_CFG. -/
def F.FL_DEV_RING_CFG_LOG2 : Nat × Nat := (4, 0)
/-- EN of FL_DEV_RING_CFG. -/
def F.FL_DEV_RING_CFG_EN : Nat × Nat := (5, 5)
/-- Address of FL_DEV_PROD. -/
def A.FL_DEV_PROD : Nat := 0x7000030030
/-- COUNT of FL_DEV_PROD. -/
def F.FL_DEV_PROD_COUNT : Nat × Nat := (63, 0)
/-- Address of FL_LOST. -/
def A.FL_LOST : Nat := 0x7000030038
/-- COUNT of FL_LOST. -/
def F.FL_LOST_COUNT : Nat × Nat := (31, 0)
/-- Address of FL_FWD_ERR. -/
def A.FL_FWD_ERR : Nat := 0x700003003C
/-- COUNT of FL_FWD_ERR. -/
def F.FL_FWD_ERR_COUNT : Nat × Nat := (31, 0)
/-- Address of FL_TILE_FAULTS. -/
def A.FL_TILE_FAULTS : Nat := 0x7000030040
/-- COUNT of FL_TILE_FAULTS. -/
def F.FL_TILE_FAULTS_COUNT : Nat × Nat := (31, 0)
/-- Address of FL_TRANSIENT. -/
def A.FL_TRANSIENT : Nat := 0x7000030044
/-- COUNT of FL_TRANSIENT. -/
def F.FL_TRANSIENT_COUNT : Nat × Nat := (31, 0)
/-- Address of FL_PERMANENT. -/
def A.FL_PERMANENT : Nat := 0x7000030048
/-- COUNT of FL_PERMANENT. -/
def F.FL_PERMANENT_COUNT : Nat × Nat := (31, 0)
/-- Address of FL_UNRESOLVED. -/
def A.FL_UNRESOLVED : Nat := 0x700003004C
/-- COUNT of FL_UNRESOLVED. -/
def F.FL_UNRESOLVED_COUNT : Nat × Nat := (31, 0)
/-- Address of FL_CE_T1. -/
def A.FL_CE_T1 : Nat := 0x7000030050
/-- COUNT of FL_CE_T1. -/
def F.FL_CE_T1_COUNT : Nat × Nat := (63, 0)
/-- Address of FL_UE_T1. -/
def A.FL_UE_T1 : Nat := 0x7000030058
/-- COUNT of FL_UE_T1. -/
def F.FL_UE_T1_COUNT : Nat × Nat := (63, 0)
/-- Address of FL_CE_SRAM. -/
def A.FL_CE_SRAM : Nat := 0x7000030060
/-- COUNT of FL_CE_SRAM. -/
def F.FL_CE_SRAM_COUNT : Nat × Nat := (63, 0)
/-- Address of FL_UE_SRAM. -/
def A.FL_UE_SRAM : Nat := 0x7000030068
/-- COUNT of FL_UE_SRAM. -/
def F.FL_UE_SRAM_COUNT : Nat × Nat := (63, 0)
/-- Address of FL_SCRUB_T1. -/
def A.FL_SCRUB_T1 : Nat := 0x7000030070
/-- PASSES of FL_SCRUB_T1. -/
def F.FL_SCRUB_T1_PASSES : Nat × Nat := (15, 0)
/-- POS of FL_SCRUB_T1. -/
def F.FL_SCRUB_T1_POS : Nat × Nat := (31, 16)
/-- Address of FL_SCRUB_T2. -/
def A.FL_SCRUB_T2 : Nat := 0x7000030074
/-- PASSES of FL_SCRUB_T2. -/
def F.FL_SCRUB_T2_PASSES : Nat × Nat := (15, 0)
/-- Address of FL_T_RING_BASE. -/
def A.FL_T_RING_BASE (i : Nat) : Nat := 0x7000031000 + 0x100 * i
/-- ADDR of FL_T_RING_BASE. -/
def F.FL_T_RING_BASE_ADDR : Nat × Nat := (63, 0)
/-- Address of FL_T_RING_CFG. -/
def A.FL_T_RING_CFG (i : Nat) : Nat := 0x7000031008 + 0x100 * i
/-- LOG2 of FL_T_RING_CFG. -/
def F.FL_T_RING_CFG_LOG2 : Nat × Nat := (4, 0)
/-- EN of FL_T_RING_CFG. -/
def F.FL_T_RING_CFG_EN : Nat × Nat := (5, 5)
/-- Address of FL_T_PROD. -/
def A.FL_T_PROD (i : Nat) : Nat := 0x7000031010 + 0x100 * i
/-- COUNT of FL_T_PROD. -/
def F.FL_T_PROD_COUNT : Nat × Nat := (63, 0)
/-- Address of FL_T_LOST. -/
def A.FL_T_LOST (i : Nat) : Nat := 0x7000031018 + 0x100 * i
/-- COUNT of FL_T_LOST. -/
def F.FL_T_LOST_COUNT : Nat × Nat := (31, 0)
/-- Address of TL_CFG. -/
def A.TL_CFG (b : Nat) : Nat := 0x7000050000 + 0x1000 * b
/-- OWNER of TL_CFG. -/
def F.TL_CFG_OWNER : Nat × Nat := (2, 0)
/-- OWNER_VALID of TL_CFG. -/
def F.TL_CFG_OWNER_VALID : Nat × Nat := (3, 3)
/-- SOURCE of TL_CFG. -/
def F.TL_CFG_SOURCE : Nat × Nat := (5, 4)
/-- ALIVE_EN of TL_CFG. -/
def F.TL_CFG_ALIVE_EN : Nat × Nat := (6, 6)
/-- IRQ_EN of TL_CFG. -/
def F.TL_CFG_IRQ_EN : Nat × Nat := (7, 7)
/-- VEC of TL_CFG. -/
def F.TL_CFG_VEC : Nat × Nat := (18, 8)
/-- Address of TL_STATUS. -/
def A.TL_STATUS (b : Nat) : Nat := 0x7000050004 + 0x1000 * b
/-- BUSY of TL_STATUS. -/
def F.TL_STATUS_BUSY : Nat × Nat := (0, 0)
/-- OVERRUN of TL_STATUS. -/
def F.TL_STATUS_OVERRUN : Nat × Nat := (1, 1)
/-- MISMATCH of TL_STATUS. -/
def F.TL_STATUS_MISMATCH : Nat × Nat := (2, 2)
/-- ALIVE_ERR of TL_STATUS. -/
def F.TL_STATUS_ALIVE_ERR : Nat × Nat := (3, 3)
/-- CHECKED of TL_STATUS. -/
def F.TL_STATUS_CHECKED : Nat × Nat := (4, 4)
/-- LAST_ALIVE of TL_STATUS. -/
def F.TL_STATUS_LAST_ALIVE : Nat × Nat := (6, 5)
/-- LAST_STATUS of TL_STATUS. -/
def F.TL_STATUS_LAST_STATUS : Nat × Nat := (10, 7)
/-- Address of TL_VALUE. -/
def A.TL_VALUE (b : Nat) : Nat := 0x7000050008 + 0x1000 * b
/-- VALUE of TL_VALUE. -/
def F.TL_VALUE_VALUE : Nat × Nat := (31, 0)
/-- Address of TL_EXPECT. -/
def A.TL_EXPECT (b : Nat) : Nat := 0x700005000C + 0x1000 * b
/-- EXPECT of TL_EXPECT. -/
def F.TL_EXPECT_EXPECT : Nat × Nat := (31, 0)
/-- Address of TL_ALIVE. -/
def A.TL_ALIVE (b : Nat) : Nat := 0x7000050010 + 0x1000 * b
/-- ALIVE of TL_ALIVE. -/
def F.TL_ALIVE_ALIVE : Nat × Nat := (15, 0)
/-- ALIVE_TX of TL_ALIVE. -/
def F.TL_ALIVE_ALIVE_TX : Nat × Nat := (31, 16)
/-- Address of TL_ALIVE_IN. -/
def A.TL_ALIVE_IN (b : Nat) : Nat := 0x7000050014 + 0x1000 * b
/-- VALUE of TL_ALIVE_IN. -/
def F.TL_ALIVE_IN_VALUE : Nat × Nat := (15, 0)
/-- Address of TL_FEED64. -/
def A.TL_FEED64 (b : Nat) : Nat := 0x7000050018 + 0x1000 * b
/-- DATA of TL_FEED64. -/
def F.TL_FEED64_DATA : Nat × Nat := (63, 0)
/-- Address of TL_FEED32. -/
def A.TL_FEED32 (b : Nat) : Nat := 0x7000050020 + 0x1000 * b
/-- DATA of TL_FEED32. -/
def F.TL_FEED32_DATA : Nat × Nat := (31, 0)
/-- Address of TL_FEED8. -/
def A.TL_FEED8 (b : Nat) : Nat := 0x7000050024 + 0x1000 * b
/-- DATA of TL_FEED8. -/
def F.TL_FEED8_DATA : Nat × Nat := (7, 0)
/-- Address of TL_ADDR. -/
def A.TL_ADDR (b : Nat) : Nat := 0x7000050028 + 0x1000 * b
/-- ADDR of TL_ADDR. -/
def F.TL_ADDR_ADDR : Nat × Nat := (63, 0)
/-- Address of TL_CMD. -/
def A.TL_CMD (b : Nat) : Nat := 0x7000050030 + 0x1000 * b
/-- LEN of TL_CMD. -/
def F.TL_CMD_LEN : Nat × Nat := (23, 0)
/-- OP of TL_CMD. -/
def F.TL_CMD_OP : Nat × Nat := (26, 24)
/-- Address of TL_RESULT. -/
def A.TL_RESULT (b : Nat) : Nat := 0x7000050034 + 0x1000 * b
/-- VALUE of TL_RESULT. -/
def F.TL_RESULT_VALUE : Nat × Nat := (31, 0)
/-- Address of TL_CHECKS. -/
def A.TL_CHECKS (b : Nat) : Nat := 0x7000050038 + 0x1000 * b
/-- COUNT of TL_CHECKS. -/
def F.TL_CHECKS_COUNT : Nat × Nat := (31, 0)
/-- Address of TL_MISMATCHES. -/
def A.TL_MISMATCHES (b : Nat) : Nat := 0x700005003C + 0x1000 * b
/-- COUNT of TL_MISMATCHES. -/
def F.TL_MISMATCHES_COUNT : Nat × Nat := (31, 0)
/-- Address of TL_ALIVE_ERRS. -/
def A.TL_ALIVE_ERRS (b : Nat) : Nat := 0x7000050040 + 0x1000 * b
/-- COUNT of TL_ALIVE_ERRS. -/
def F.TL_ALIVE_ERRS_COUNT : Nat × Nat := (31, 0)
/-- Address of LK_RESET_CMD. -/
def A.LK_RESET_CMD : Nat := 0x7000000040
/-- KIND of LK_RESET_CMD. -/
def F.LK_RESET_CMD_KIND : Nat × Nat := (1, 0)
/-- PARTITION of LK_RESET_CMD. -/
def F.LK_RESET_CMD_PARTITION : Nat × Nat := (5, 2)
/-- TILE of LK_RESET_CMD. -/
def F.LK_RESET_CMD_TILE : Nat × Nat := (12, 6)
/-- Address of LK_RESET_STATUS. -/
def A.LK_RESET_STATUS : Nat := 0x7000000044
/-- BUSY of LK_RESET_STATUS. -/
def F.LK_RESET_STATUS_BUSY : Nat × Nat := (0, 0)
/-- REFUSED of LK_RESET_STATUS. -/
def F.LK_RESET_STATUS_REFUSED : Nat × Nat := (1, 1)
/-- LAST_KIND of LK_RESET_STATUS. -/
def F.LK_RESET_STATUS_LAST_KIND : Nat × Nat := (3, 2)
/-- Address of LK_RESET_CAUSE. -/
def A.LK_RESET_CAUSE : Nat := 0x7000000048
/-- CAUSE of LK_RESET_CAUSE. -/
def F.LK_RESET_CAUSE_CAUSE : Nat × Nat := (2, 0)
/-- Address of LK_RESET_ABSORBED. -/
def A.LK_RESET_ABSORBED : Nat := 0x700000004C
/-- COUNT of LK_RESET_ABSORBED. -/
def F.LK_RESET_ABSORBED_COUNT : Nat × Nat := (31, 0)
/-- Address of LK_BOOT_STATUS. -/
def A.LK_BOOT_STATUS : Nat := 0x7000000050
/-- STAGE of LK_BOOT_STATUS. -/
def F.LK_BOOT_STATUS_STAGE : Nat × Nat := (2, 0)
/-- ERROR of LK_BOOT_STATUS. -/
def F.LK_BOOT_STATUS_ERROR : Nat × Nat := (6, 3)
/-- SOURCE of LK_BOOT_STATUS. -/
def F.LK_BOOT_STATUS_SOURCE : Nat × Nat := (8, 7)
/-- Address of LK_WARM_COUNT. -/
def A.LK_WARM_COUNT : Nat := 0x7000000054
/-- COUNT of LK_WARM_COUNT. -/
def F.LK_WARM_COUNT_COUNT : Nat × Nat := (31, 0)
/-- Address of IO_ADDR. -/
def A.IO_ADDR : Nat := 0x70000E0000
/-- STATIC_ADDR of IO_ADDR. -/
def F.IO_ADDR_STATIC_ADDR : Nat × Nat := (6, 0)
/-- DYN_ADDR of IO_ADDR. -/
def F.IO_ADDR_DYN_ADDR : Nat × Nat := (14, 8)
/-- DYN_VALID of IO_ADDR. -/
def F.IO_ADDR_DYN_VALID : Nat × Nat := (15, 15)
/-- Address of IO_SPI_CTRL. -/
def A.IO_SPI_CTRL : Nat := 0x70000E0004
/-- EN of IO_SPI_CTRL. -/
def F.IO_SPI_CTRL_EN : Nat × Nat := (0, 0)
/-- Address of IO_SPI_STATUS. -/
def A.IO_SPI_STATUS : Nat := 0x70000E0008
/-- RX_COUNT of IO_SPI_STATUS. -/
def F.IO_SPI_STATUS_RX_COUNT : Nat × Nat := (3, 0)
/-- RX_OVERFLOW of IO_SPI_STATUS. -/
def F.IO_SPI_STATUS_RX_OVERFLOW : Nat × Nat := (4, 4)
/-- Address of IO_SPI_LEN_ERR. -/
def A.IO_SPI_LEN_ERR : Nat := 0x70000E000C
/-- COUNT of IO_SPI_LEN_ERR. -/
def F.IO_SPI_LEN_ERR_COUNT : Nat × Nat := (31, 0)
/-- Address of IO_SPI_RX. -/
def A.IO_SPI_RX : Nat := 0x70000E0100
/-- Address of IO_SPI_RX_INFO. -/
def A.IO_SPI_RX_INFO : Nat := 0x70000E0140
/-- ALIVE of IO_SPI_RX_INFO. -/
def F.IO_SPI_RX_INFO_ALIVE : Nat × Nat := (1, 0)
/-- CRC_OK of IO_SPI_RX_INFO. -/
def F.IO_SPI_RX_INFO_CRC_OK : Nat × Nat := (2, 2)
/-- POP of IO_SPI_RX_INFO. -/
def F.IO_SPI_RX_INFO_POP : Nat × Nat := (3, 3)
/-- Address of IO_SPI_TX. -/
def A.IO_SPI_TX : Nat := 0x70000E0180
/-- Address of IO_SPI_TX_PUSH. -/
def A.IO_SPI_TX_PUSH : Nat := 0x70000E01C0
/-- PUSH of IO_SPI_TX_PUSH. -/
def F.IO_SPI_TX_PUSH_PUSH : Nat × Nat := (0, 0)
/-- Address of IO_UART_CFG. -/
def A.IO_UART_CFG : Nat := 0x70000E0200
/-- DIV of IO_UART_CFG. -/
def F.IO_UART_CFG_DIV : Nat × Nat := (15, 0)
/-- EN of IO_UART_CFG. -/
def F.IO_UART_CFG_EN : Nat × Nat := (16, 16)
/-- Address of IO_UART_STATUS. -/
def A.IO_UART_STATUS : Nat := 0x70000E0204
/-- RX_COUNT of IO_UART_STATUS. -/
def F.IO_UART_STATUS_RX_COUNT : Nat × Nat := (4, 0)
/-- TX_FREE of IO_UART_STATUS. -/
def F.IO_UART_STATUS_TX_FREE : Nat × Nat := (9, 5)
/-- FRAME_ERR of IO_UART_STATUS. -/
def F.IO_UART_STATUS_FRAME_ERR : Nat × Nat := (10, 10)
/-- RX_OVERFLOW of IO_UART_STATUS. -/
def F.IO_UART_STATUS_RX_OVERFLOW : Nat × Nat := (11, 11)
/-- Address of IO_UART_DATA. -/
def A.IO_UART_DATA : Nat := 0x70000E0208
/-- DATA of IO_UART_DATA. -/
def F.IO_UART_DATA_DATA : Nat × Nat := (7, 0)
/-- Address of IO_GPIO_DIR. -/
def A.IO_GPIO_DIR : Nat := 0x70000E0300
/-- OUT of IO_GPIO_DIR. -/
def F.IO_GPIO_DIR_OUT : Nat × Nat := (23, 0)
/-- Address of IO_GPIO_OUT. -/
def A.IO_GPIO_OUT : Nat := 0x70000E0304
/-- LEVEL of IO_GPIO_OUT. -/
def F.IO_GPIO_OUT_LEVEL : Nat × Nat := (23, 0)
/-- Address of IO_GPIO_IN. -/
def A.IO_GPIO_IN : Nat := 0x70000E0308
/-- LEVEL of IO_GPIO_IN. -/
def F.IO_GPIO_IN_LEVEL : Nat × Nat := (23, 0)
/-- Address of IO_GPIO_PULL. -/
def A.IO_GPIO_PULL : Nat := 0x70000E030C
/-- DOWN of IO_GPIO_PULL. -/
def F.IO_GPIO_PULL_DOWN : Nat × Nat := (23, 0)
/-- Address of IO_GPIO_DRIVE. -/
def A.IO_GPIO_DRIVE : Nat := 0x70000E0310
/-- HIGH of IO_GPIO_DRIVE. -/
def F.IO_GPIO_DRIVE_HIGH : Nat × Nat := (23, 0)
/-- Address of HG_PLAT_DIGEST. -/
def A.HG_PLAT_DIGEST (i : Nat) : Nat := 0x7000200F20 + 0x4 * i
/-- DIGEST of HG_PLAT_DIGEST. -/
def F.HG_PLAT_DIGEST_DIGEST : Nat × Nat := (31, 0)
/-- Address of ST_ACT_CFG. -/
def A.ST_ACT_CFG (i : Nat) : Nat := 0x7000060600 + 0x100 * i
/-- SEGS of ST_ACT_CFG. -/
def F.ST_ACT_CFG_SEGS : Nat × Nat := (0, 0)
/-- Address of ST_ACT_BP. -/
def A.ST_ACT_BP (i j : Nat) : Nat := 0x7000060604 + 0x100 * i + 0x4 * j
/-- BP of ST_ACT_BP. -/
def F.ST_ACT_BP_BP : Nat × Nat := (31, 0)
/-- Address of ST_ACT_SLOPE. -/
def A.ST_ACT_SLOPE (i j : Nat) : Nat := 0x7000060640 + 0x100 * i + 0x4 * j
/-- SLOPE of ST_ACT_SLOPE. -/
def F.ST_ACT_SLOPE_SLOPE : Nat × Nat := (31, 0)
/-- Address of ST_ACT_ICPT. -/
def A.ST_ACT_ICPT (i j : Nat) : Nat := 0x7000060680 + 0x100 * i + 0x4 * j
/-- ICPT of ST_ACT_ICPT. -/
def F.ST_ACT_ICPT_ICPT : Nat × Nat := (31, 0)

end Sys2Proof.Machine
end

