-- ==== Sys2Proof/Machine/State.lean ====
section
/-!
DEFINITION. The state of the LM9 as plain data, the reasons a step can stop, and the machine right after reset.
-/
namespace Sys2Proof.Machine

/-- Reasons the machine stops with a fault. -/
inductive Fault where
  /-- The command names a tile or a thread the device does not have (R15). Raised by the shared issue operation of the thread instructions. Safe: no such command can reach the device. -/
  | noSuchUnit
  deriving DecidableEq, Repr

/-- Reasons a command is refused. -/
inductive Refusal where
  /-- The command has no meaning in this model yet. Raised by the dispatch alone. Safe. -/
  | notModelled (mnemonic : String)
  deriving DecidableEq, Repr

/-! ### Threads (R99 to R131, R133 to R137, R166) -/

/-- The states of a thread (R101). -/
inductive TState where
  | idle | ready | waitMsg | waitEng | stalled | saved | halted
  deriving DecidableEq, Repr

/-- A message: header, seven payload words, and the poison marks of the header (from TAG, R162) and of each payload word (R107, R108). -/
structure Msg where
  hdr : Word
  pay : List Word
  hpsn : Bool
  ppsn : List Bool
  deriving DecidableEq, Repr

/-- A message on its way (R109): the sender's tile and thread on this device when it is local, the target, the tenant it carries, whether it waits at a full queue, and for one from a peer what its MSG_RSP must carry (SRC, TAG, GEN), for a bounce the context and rank of its sender (R109, R111). -/
structure NetMsg where
  srcTile : Nat
  srcThr : Nat
  srcLocal : Bool
  target : Word
  tenant : Nat
  msg : Msg
  bounce : Bool
  waiting : Bool
  via : Option (List Nat)
  deriving DecidableEq, Repr

/-- A store error that has arrived and has not been raised: subcause and failed address (R129). -/
structure SErr where
  sub : Nat
  addr : Word
  deriving DecidableEq, Repr

/-- Why a thread's access is held (R88, R101): for domains to wake or for a page move, with the tier the wait is charged to (R90), for a reply over the link, or for a send credit. A range operation (R122) is held with its operands, because its stall limit ends the write-backs it waits for and not the instruction (R129). -/
inductive Hold where
  | none
  | wake (doms : List Nat) (tier : Nat)
  | range (doms : List Nat) (tier op : Nat) (va : Word) (len : Nat)
  | move (tenant page tier : Nat)
  | link
  | credit
  deriving DecidableEq, Repr

/-- Where a part of an access lies once it is translated: this device's memory, lost memory of a tier (R77 POISONED, R619), a peer's T1, or a register. -/
inductive Loc where
  | mem (a : Nat)
  | lost (tier : Nat)
  | peer (dev a : Nat)
  | reg (a : Nat)
  deriving DecidableEq, Repr

/-- One part of an access: the lane it serves, its location and virtual address, its size, for a store its bytes and poison mark, and for a peer the tag of its request. -/
structure Part where
  lane : Nat
  loc : Loc
  va : Word
  n : Nat
  data : Nat
  psn : Bool
  tag : Nat
  deriving DecidableEq, Repr

/-- What an outstanding access does: a load into a scalar (size, sign-extended), a load into a vector, a store, an atomic at a peer. -/
inductive AccKind where
  | load (rd n : Nat) (sx : Bool)
  | vload (vd : Nat)
  | store (rel : Bool)
  | amo (op rd n : Nat)
  deriving DecidableEq, Repr

/-- An outstanding access of a thread (R100): its number, kind, the parts still to be performed in groups of one aligned 8 bytes (R116), the lanes already loaded, the domains a store waits for (R478) and the tier charged, the error response that will come for a posted store (0 none, else the subcause of R129), the PC of the TEND that left it behind (R129), the number in the order of arrival by which vaults and channels serve it (R76, R94), when it was posted, and for a load the address of its instruction and INSTRET behind it (R141). -/
structure Acc where
  id : Nat
  kind : AccKind
  todo : List (List Part)
  got : List (Nat × Nat × Bool)
  wake : List Nat
  tier : Nat
  bad : Nat
  tend : Option Word
  stamp : Nat
  since : Nat
  back : Option (Word × Nat)
  deriving DecidableEq, Repr

/-- A command slot of a thread (R166): the engine, the sequence number, and the result word once returned. -/
structure Slot where
  eng : Nat
  seq : Nat
  res : Option Word
  deriving DecidableEq, Repr

/-- An accumulator instruction that waits for MX commands (R183): the accumulator, the instruction's address, and the commands issued before it that have not returned (issuing thread, sequence number); with none left it goes on. -/
structure AccWait where
  acc : Nat
  pc : Word
  cmds : List (Nat × Nat)
  deriving DecidableEq, Repr

/-- A hardware thread (R99): registers with their poison marks, the exception registers, counters, message queues and credits, command slots, outstanding accesses, arrived store errors, what holds it, and the accumulator instruction that waits (R183). -/
structure Thread where
  st : TState
  pc : Word
  x : Tab Word
  xp : NSet
  v : Tab Lane
  vp : NSet
  p : Tab Lane
  handler : Word
  epc : Word
  cause : Nat
  sub : Nat
  eaddr : Word
  hmode : Bool
  cyc0 : Nat
  instret : Nat
  credits : Nat
  mq : List Msg
  bq : List Msg
  deadline : Word
  slots : Tab (Option Slot)
  seq : Nat
  acc : List Acc
  accId : Nat
  serr : List SErr
  hold : Hold
  holdVa : Word
  waitAcc : Option AccWait
  deriving DecidableEq, Repr

/-- A thread that holds no work (R101, R132): all registers zero, four send credits. -/
def Thread.idle : Thread :=
  ⟨.idle, 0, [], [], [], [], [], 0, 0, 0, 0, 0, false, 0, 0, 4, [], [], 0, [], 0, [], 0, [], .none, 0, none⟩

/-- An engine command as issued (R165 to R168): who issued it, its slot and sequence number, the context and tenant of its job, the engine, and the copied descriptor. -/
structure Cmd where
  tile : Nat
  thr : Nat
  slot : Nat
  seq : Nat
  ctx : Nat
  tenant : Nat
  part : Nat
  eng : Nat
  desc : List Nat
  deriving DecidableEq, Repr

/-- The part of a tile its threads share (R99, R166): the context of its job, the four accumulators with poison marks, and what the command its matrix unit has started waits for (R220). The command-buffer entries in use are the commands of `ebuf`. -/
structure Tile where
  job : Option Nat
  acc : Tab Lane
  accp : NSet
  mxHold : Hold
  deriving DecidableEq, Repr

/-- A tile at reset. -/
def Tile.idle : Tile := ⟨none, [], [], .none⟩

/-! ### Memory, translation and caches (R71 to R95) -/

/-- A frame-table entry (R74): allocated, owning tenant, pinned, lost (R610, R619). -/
structure Frame where
  alloc : Bool
  owner : Nat
  pinned : Bool
  lost : Bool
  deriving DecidableEq, Repr

/-- A free frame. -/
def Frame.free : Frame := ⟨false, 0, false, false⟩

/-- A line of a cluster cache (R91): its line address (local, or with the peer's identifier above bit 43), way, 128 data bytes, dirty mark per byte, poison mark per 16-byte granule (R609). -/
structure Line where
  addr : Nat
  way : Nat
  data : List Nat
  dirty : Nat
  psn : Nat
  deriving DecidableEq, Repr

/-- A queued or running move (R84): tenant, page, destination tier and frame, whether a lane runs it, and by T2 channel the bursts granted to partitions when the lane began (R95). -/
structure Move where
  tenant : Nat
  page : Nat
  tier : Nat
  frame : Nat
  lane : Bool
  began : Tab Nat
  deriving DecidableEq, Repr

/-- A posted result of a move (R85, R96). -/
structure MoveRes where
  status : Nat
  detail : Nat
  page : Nat
  deriving DecidableEq, Repr

/-- Translation, frames, migration and allocator state. `ents` is keyed by tenant × 2^19 + page, `frames` by T1 frame and by 2^16 + T2 frame, `unmapWait` holds the UNMAPs that wait for a move (R79), `rr` the tenant last granted a lane. -/
structure VcSt where
  ents : Tab Word
  frames : Tab Frame
  moves : List Move
  results : Tab (List MoveRes)
  unmapWait : List (Nat × Nat)
  rr : Nat
  lostLayers : NSet
  fill : List Nat
  deriving DecidableEq, Repr

/-- Arbitration at the vault controllers and the memory channels (R76, R90, R94, R95, R97, R98): the number the next access to arrive takes; by vault the class whose turn it is and the transfers it has had in it; by channel the partition granted last (plus one) and the bursts granted to partitions; what VC_V_BYTES and VC_V_WAIT (by vault × 8 + class), XM_BYTES_CH0 and XM_BYTES_CH1 (by channel) and XM_QMAX (by controller) read as; and by partition × 32 + tier × 8 + cause the nanoseconds that translation misses and background holds still stall accesses for (R88). -/
structure ArbSt where
  stamp : Nat
  turn : Tab (Nat × Nat)
  last : Tab Nat
  grants : Tab Nat
  bytes : Tab Nat
  wait : Tab Nat
  chBytes : Tab Nat
  qmax : Tab Nat
  due : Tab Nat
  deriving DecidableEq, Repr

/-- Arbitration at reset: no access has arrived, and class 0 has the first turn (log entry 66). -/
def ArbSt.reset : ArbSt := ⟨0, [], [], [], [], [], [], [], []⟩

/-! ### The plat (R29 to R64) -/

/-- A partition entry (R34). -/
structure PartE where
  id : Nat
  tenant : Nat
  policy : Nat
  sliceUs : Nat
  tiles : Nat
  extra : Nat
  ways : List Nat
  chans : Nat
  deriving DecidableEq, Repr

/-- A tenant entry (R37). -/
structure TenE where
  id : Nat
  debug : Bool
  q1 : Nat
  q2 : Nat
  q3 : Nat
  msixBase : Nat
  msixCount : Nat
  deriving DecidableEq, Repr

/-- A group entry (R40). -/
structure GrpE where
  id : Nat
  part : Nat
  rotate : Bool
  tiles : Nat
  members : List Nat
  deriving DecidableEq, Repr

/-- A ring allocation entry (R43). -/
structure RingE where
  first : Nat
  count : Nat
  part : Nat
  group : Nat
  tick : Nat
  prio : Nat
  size : Nat
  ctx0 : Nat
  ctxN : Nat
  deriving DecidableEq, Repr

/-- A domain policy entry (R45). -/
structure DomE where
  id : Nat
  idle : Nat
  delay : Nat
  maxLevel : Nat
  wakeAcc : Bool
  prio : Nat
  limit : Nat
  deriving DecidableEq, Repr

/-- A link route entry (R47). -/
structure RouteE where
  first : Nat
  last : Nat
  ports : Nat
  spread : Bool
  deriving DecidableEq, Repr

/-- A tick class entry (R48). -/
structure TickE where
  id : Nat
  source : Nat
  chan : Nat
  period : Nat
  deriving DecidableEq, Repr

/-- A calibration entry (R49). -/
structure CalE where
  item : Nat
  delta : Int
  deriving DecidableEq, Repr

/-- A plat as its image says it (R29 to R49), with its digest (R33). -/
structure Plat where
  serial : Nat
  devId : Nat
  confClass : Nat
  conf : Bool
  grade : Nat
  slot : Nat
  uid : List Nat
  parts : List PartE
  tenants : List TenE
  groups : List GrpE
  rings : List RingE
  doms : List DomE
  routes : List RouteE
  ticks : List TickE
  cals : List CalE
  digest : List Nat
  deriving DecidableEq, Repr

/-- Plat state: the applied plat, the shadow copies of a plat being applied (R57), the identifiers whose routes drain (R55), the ring-storage frames of each ring entry (keyed by FIRST_RING) and the journal frames of each partition (R38). `locked` is set from step 3 of the first apply (R10). Of a plat being applied: whether the route drain has ended, its ring-storage and journal frames, and whether the boot image brought it. -/
structure PlatSt where
  cur : Option Plat
  shadow : Option Plat
  drain : List (Nat × Nat)
  ringFrames : Tab (List Nat)
  journal : Tab (List Nat)
  locked : Bool
  drained : Bool
  shRings : Tab (List Nat)
  shJournal : Tab (List Nat)
  boot : Bool
  deriving DecidableEq, Repr

/-! ### Power (R470 to R487) -/

/-- The three states of a domain (R470). -/
inductive DState where
  | on | ret | off
  deriving DecidableEq, Repr

/-- A power domain: its state, whether it is waking, the state it is entering when an entry runs, and the forced state that is waiting (R473, R681). -/
structure Dom where
  st : DState
  waking : Bool
  entering : Option DState
  force : Nat
  deriving DecidableEq, Repr

/-! ### Remote requests (R530 to R533) -/

/-- What a remote request of this device does. -/
inductive RKind where
  | read | write | atomic | message | carry
  deriving DecidableEq, Repr

/-- A request sent to a peer and not yet answered (R531): its tag, the peer, the address, the length, the tenant, the thread access it serves, when it was issued, the reply slot (context, slot) that has taken its place (R370), once its frame has been formed the TAG, GEN and port it travels with, and of a READ whether its line was written or invalidated in the cluster meanwhile, so that the answer fills no cache (R117). -/
structure RReq where
  tag : Nat
  kind : RKind
  dev : Nat
  addr : Nat
  len : Nat
  data : List Nat
  tenant : Nat
  tile : Nat
  thr : Nat
  acc : Nat
  since : Nat
  slot : Option (Nat × Nat)
  wire : Option (Nat × Nat × Nat)
  stale : Bool
  deriving DecidableEq, Repr

/-! ### Jobs (R99 to R131, R343) -/

/-- The job bound to a context: the tiles of its group by rank, its tenant and partition, whether it runs, whether it is being ended, the statuses its threads ended with, each with a cause, and while it is saved the messages, bounces and returned credits held for its threads (R111), keyed by rank × 16 + thread, with the number of messages its save area holds for each. -/
structure Job where
  tiles : List Nat
  tenant : Nat
  part : Nat
  running : Bool
  saved : Bool
  ending : Bool
  stats : List (Nat × Nat)
  held : Tab (List Msg)
  heldB : Tab (List Msg)
  credBack : Tab Nat
  savedMq : Tab Nat
  deriving DecidableEq, Repr

/-! ### Engines (R164 to R170, R202 to R208) -/

/-- What a command adds to its Assay set when it returns (R207, R208): the set, elements, clips, the sum of squared error units and the largest error. -/
structure AssayAdd where
  set : Nat
  count : Nat
  clip : Nat
  sq : Nat
  max : Nat
  deriving DecidableEq, Repr

/-- The write of a step to its scale record when its command ends (R204, R205): the record's address, the bytes to write by offset, and with SHARED the observation merged into PENDING. -/
structure ScaleEnd where
  va : Nat
  bytes : List (Nat × Nat)
  merge : Option Int
  deriving DecidableEq, Repr

/-- What a SCAN or CONVOLVE commits when it ends (R279, R287): the tenant, the stream record, the NEXT_SEQ it raises (none leaves it), and the new elements of the resident state (none leaves them). -/
structure ScEnd where
  tenant : Nat
  va : Nat
  next : Option Nat
  els : Option (List (Nat × Bool))
  deriving DecidableEq, Repr

/-- An engine command that has left its command buffer and has not returned its result (R166, R183): the engine instance, the fields of its result word, and what its return applies: the scale records, the Assay totals, the engine's counters (register and amount) and a Scan command's commit. `tiles` are the tiles whose matrix units it uses, `link` an engine's own number for what the command holds. -/
structure Run where
  cmd : Cmd
  unit : Nat
  status : Nat
  detail : Nat
  value : Nat
  scale : List ScaleEnd
  assay : Option AssayAdd
  bumps : List (Nat × Nat)
  tiles : List Nat
  link : Nat
  commit : Option ScEnd
  deriving DecidableEq, Repr

/-- A command in an engine's queue of 16 (R237): why it is set aside (0 it is not, 1 ahead of sequence, 2 waiting for a save, 3 loading its state, 4 halo rows or credit), the time it was last set aside (plus one), whether a state fault was met (R282), the halo slots it holds reserved, the time it was first set aside as ahead of sequence (plus one, R281), what its start waits for (R88), and the convolution record it has read (R307). -/
structure QCmd where
  cmd : Cmd
  aside : Nat
  since : Nat
  fault : Bool
  slots : Nat
  first : Nat
  hold : Hold
  conv : List (Nat × Bool)
  deriving DecidableEq, Repr

/-- Engine queues (R237): `turn` is the tenant an engine took a command from last, plus one; `wheel` the tenant whose window is open in confidential mode with its start (R603). Both are keyed by engine × 16 + instance. -/
structure EngQ where
  q : List QCmd
  turn : Tab Nat
  wheel : Tab (Option (Nat × Nat))
  deriving DecidableEq, Repr

/-- A stream state resident in a Scan engine's store (R271, R272): the engine, the stream record's tenant and address, its partition, the units it holds in each region, and its elements with their marks. -/
structure ScSt where
  cluster : Nat
  tenant : Nat
  va : Nat
  part : Nat
  place : List (Nat × Nat)
  els : List (Nat × Bool)
  deriving DecidableEq, Repr

/-- The Scan engines' stores, most recently used first, and the saves that other engines have asked for (R280, R282): the owning cluster, the tenant and the record. -/
structure ScStore where
  st : List ScSt
  saves : List (Nat × Nat × Nat)
  deriving DecidableEq, Repr

/-- A row in an inbound halo channel of a Convolution engine (R311 to R314): the target cluster and channel (ABOVE_IN or BELOW_IN), the sender's context and sequence, the row's index and form (format, compression, row length), its stored bytes, its stage (0 a reserved slot, 1 pushed, 2 present), and the command that holds the reservation or will return the slot. -/
structure HaloRow where
  cluster : Nat
  above : Bool
  ctx : Nat
  seq : Nat
  idx : Nat
  fmt : Nat
  comp : Nat
  len : Nat
  data : List (Nat × Bool)
  stage : Nat
  by_ : Option Cmd
  deriving DecidableEq, Repr


/-! ### The Headgate (R337 to R401) -/

/-- A ring's state as the Headgate holds it (R338, R373, R682). -/
structure RingSt where
  enabled : Bool
  stopped : Bool
  acceptNext : Nat
  completeNext : Nat
  cons : Nat
  release : Nat
  acceptTime : Nat
  refused : Nat
  refuseSeq : Nat
  refuseInfo : Nat
  tickProg : Nat
  deriving DecidableEq, Repr

/-- A ring at reset. -/
def RingSt.reset : RingSt := ⟨false, false, 0, 0, 0, 0, 0, 0, 0, 0, 0⟩

/-- The state of a journal entry (R361): `writing` until both copies hold it (R349). -/
inductive JState where
  | writing | accepted | dispatched | done
  deriving DecidableEq, Repr

/-- A journal entry (R349, R360, R361): its partition, ring and sequence number, where the packet lies, what its header said, and what has become of it. `ctx` is 0xFFFF while no job serves it; an entry still being written may already have a job, which is gated (R350). -/
structure JEnt where
  part : Nat
  ring : Nat
  seq : Nat
  count : Nat
  len : Nat
  plen : Nat
  flags : Nat
  program : Nat
  acceptTime : Nat
  st : JState
  ctx : Nat
  status : Nat
  cause : Nat
  result : Nat
  retried : Bool
  endTime : Nat
  deriving DecidableEq, Repr

/-- A reply slot (R371): SLOT_STATE, KIND, RANK, THREAD, REG, the result code, poison, size, sign extension and data; with the tag of its request, when that was issued, the thread access it serves after a resumption, and for a store that a TEND left behind the PC of the TEND (R129). -/
structure RSlot where
  st : Nat
  kind : Nat
  rank : Nat
  thr : Nat
  reg : Nat
  code : Nat
  psn : Bool
  size : Nat
  sx : Bool
  data : Nat
  tag : Nat
  since : Nat
  acc : Nat
  tend : Option Word
  deriving DecidableEq, Repr

/-- A free reply slot. -/
def RSlot.free : RSlot := ⟨0, 0, 0, 0, 0, 0, false, 0, false, 0, 0, 0, 0, none⟩

/-- A context record (R367 to R369) with what the Headgate knows of its job: the header's address and the payload length, the time value of s6, RELEASE_TIME and the elapsed time at release (less what it has spent SAVED; while SAVED, the time it has spent RUNNING), the tick class that bound it and whether that job has overrun, whether it has started, the abort that ends it, and its reply slots. STATE is 0 FREE, 1 RUNNING, 2 SAVED, 3 ENDING. -/
structure Ctx where
  st : Nat
  tick : Bool
  retried : Bool
  grp : Nat
  part : Nat
  ring : Nat
  seq : Nat
  result : Nat
  release : Nat
  since : Nat
  debt : Nat
  save : Nat
  program : Nat
  hdr : Nat
  plen : Nat
  tval : Nat
  cls : Option Nat
  overran : Bool
  started : Bool
  kill : Option (Nat × Nat)
  status : Nat
  cause : Nat
  endTime : Nat
  slots : Tab RSlot
  deriving DecidableEq, Repr

/-- A free context. -/
def Ctx.free : Ctx := ⟨0, false, false, 0, 0, 0, 0, 0, 0, 0, 0, 0, 0, 0, 0, 0, none, false, false, none, 0, 0, 0, []⟩

/-- What a partition's tiles do (R378 to R391): run, stop for a save, write the save, restore. -/
inductive Phase where
  | run | stop | save | restore
  deriving DecidableEq, Repr

/-- A partition's schedule: the job that holds its tiles, the phase, when the slice began and how long it lasts (ns), when the slice ended (R387), and the bound jobs that wait, longest first. -/
structure PartS where
  cur : Option Nat
  phase : Phase
  t0 : Nat
  slice : Nat
  tEnd : Nat
  waiting : List Nat
  deriving DecidableEq, Repr

/-- An idle partition. -/
def PartS.idle : PartS := ⟨none, .run, 0, 0, 0, []⟩

/-- An engine command withdrawn from a job that is being saved (R390): ORDER is its position in an engine queue. -/
structure Wdrawn where
  cmd : Cmd
  order : Option Nat
  deriving DecidableEq, Repr

/-- The Headgate: ring states, the doorbell queue (its entries are the PENDING rings), the RESCAN bits, the ring last served by a rescan (65,535 before any, so that ring 0 comes first, R345) and the entries served since, the journal in order of acceptance, contexts, schedules, ticks made and not yet taken (class, time), rank maps where they differ from ascending order, committed exchanges, groups held by a retirement, tiles under classification, rings' placement in the host windows, and the withdrawn commands of saved jobs. -/
structure HgSt where
  rings : Tab RingSt
  dbq : List Nat
  rescan : NSet
  last : Nat
  served : Nat
  jr : List JEnt
  ctx : Tab Ctx
  parts : Tab PartS
  ticks : List (Nat × Nat)
  maps : Tab (List Nat)
  held : NSet
  unsure : NSet
  wdrawn : List Wdrawn
  deriving DecidableEq, Repr

/-! ### The host interface (R551 to R577) -/

/-- States of the host link (R566). -/
inductive HLink where
  | down | l0 | l1 | l2
  deriving DecidableEq, Repr

/-- A sealed record that waits to be written to an egress ring (R573): tenant, KIND, RING, plaintext. -/
structure Egress where
  tenant : Nat
  kind : Nat
  ring : Nat
  data : List Nat
  deriving DecidableEq, Repr

/-- An export that is being read (R572). -/
structure Export where
  tenant : Nat
  addr : Nat
  len : Nat
  req : List Nat
  deriving DecidableEq, Repr

/-- The completion of a host read (R555, R558): its bytes with their poison marks, and for lines still to come from a peer the request's tag, where the bytes go, where they lie in the line, and how many. -/
structure HCpl where
  data : List (Nat × Bool)
  wait : List (Nat × Nat × Nat × Nat)
  deriving DecidableEq, Repr

/-- The host interface: per ring the CFG and CQ registers and the window offset, the MSI-X table by 32-bit word with the pending bits, per vector the pending events and the time of the first, the link and power state of the function, the posted writes sent to the host in order (bus address, bytes), egress records waiting, exports in progress, the keys of the bounce rings with their SESSION, the keys (ingress n, egress n + 8) for which REKEY was raised, since when ingress waits (plus one), and the completions of host reads in order. -/
structure HostSt where
  ringCfg : Tab Nat
  ringCq : Tab Nat
  win : Tab Nat
  msix : Tab Nat
  pba : NSet
  vec : Tab (Nat × Nat)
  link : HLink
  d3hot : Bool
  bme : Bool
  out : List (Nat × List Nat)
  egress : List Egress
  exports : List Export
  inKey : Tab (List Nat)
  outKey : Tab (List Nat)
  sess : Tab Nat
  rekeyed : NSet
  inWait : Tab Nat
  cpl : List HCpl
  deriving DecidableEq, Repr

/-- The host interface at reset: no queue, every vector masked, link down. -/
def HostSt.reset : HostSt := ⟨[], [], [], [], [], [], .down, false, false, [], [], [], [], [], [], [], [], []⟩

/-! ### Audio, Runnel and the cameras (R402 to R469) -/

/-- A fetch that runs (R408, R409): the history ring, the tenant, the next index, the entries left, the destination of the next entry, the selected channels, and whether an entry carried poison. -/
structure AuFetch where
  ring : Nat
  tenant : Nat
  next : Nat
  left : Nat
  dst : Nat
  chans : Nat
  psn : Bool
  deriving DecidableEq, Repr

/-- The D0 SRAM's rings and the acoustic front end: the audio ring by slot (MA, MB and BC packed as the 6 bytes of R405), the slots whose SRAM word has an uncorrectable error, the energy log and the glance ring by entry; of the frame that runs, whether a sample was muted and when it began; the frames judged; the length of the run of ABOVE frames; the detector settings in force during the frame (AU_DET_CFG, MARGIN, FLOOR_MIN, FLOOR) and whether AU_FLOOR has been written in it; the running fetch; whether the wide chain is settled, the next wide index, the wide samples that wait in the buffer of R442, consecutive write errors, and the last inputs of each wide channel's filter, newest first (R435). -/
structure AuSt where
  ring : Tab Nat
  bad : NSet
  elog : Tab (List Nat)
  glance : Tab (List Nat)
  muted : Bool
  judged : Nat
  t0 : Nat
  run : Nat
  cfg : Nat
  margin : Nat
  floorMin : Nat
  floor : Nat
  floorW : Bool
  fetch : Option AuFetch
  settled : Bool
  wm : Nat
  wbuf : List (Nat × List Int)
  werr : Nat
  wx : List (List Int)
  deriving DecidableEq, Repr

/-- The front end at reset, with the reset settings of the detector (R443). -/
def AuSt.reset : AuSt := ⟨[], [], [], [], false, 0, 0, 0, 4506, 2560, 2560, 12800, false, none, false, 0, [], 0, []⟩

/-- A model of a Runnel image (R421). -/
structure RnModel where
  kind : Nat
  input : Nat
  classes : Nat
  params : Nat
  on : Nat
  confirm : Nat
  deriving DecidableEq, Repr

/-- A Runnel image (R421): its models, MODEL_SERIAL and bytes. -/
structure RnImage where
  models : List RnModel
  serial : Nat
  bytes : List Nat
  deriving DecidableEq, Repr

/-- The Runnel core (R411 to R422): its state (the one held before LOADING while a load runs), the image in use, the address and the checked image of a running load, whether CONS_BYTES has been seen to equal PROD_BYTES since D1 was reset, the next sample index and glance entry to evaluate, the last glance frame evaluated, how often in a row each model met its threshold, the frames since one was ABOVE or a decision was made, for each model that decided the frames since its decision, the onset, whether a TRIGGER started the listening, whether a frame was lost, earlier threshold words with the first frame each no longer holds for, the last scores, the count of decisions, and the records that wait. -/
structure RnSt where
  st : Nat
  image : Option RnImage
  load : Option (Nat × Option RnImage)
  synced : Bool
  next : Nat
  gnext : Nat
  lastG : Option Nat
  conf : Tab Nat
  quiet : Nat
  decided : Tab Nat
  onset : Nat
  trig : Bool
  late : Bool
  old : Tab (List (Nat × Nat))
  scores : List Nat
  seq : Nat
  held : List (List Nat)
  deriving DecidableEq, Repr

/-- Runnel after D1 leaves Off (R411): NO_MODEL. -/
def RnSt.reset : RnSt := ⟨5, none, none, false, 0, 0, none, [], 0, [], 0, false, false, [], [], 0, []⟩

/-- A parameter set of a stream (R458): the tone curves lie behind one another. -/
structure IsParam where
  tag : Nat
  wb : List Nat
  dgain : Nat
  black : List Nat
  sat : Nat
  ccm : List Int
  off : List Int
  tone : List Nat
  deriving DecidableEq, Repr

/-- A line of a frame: pixels as received (bytes with YUV), whether its CRC failed, whether it was dropped. -/
structure IsLine where
  px : List Nat
  bad : Bool
  dropped : Bool
  deriving DecidableEq, Repr

/-- A frame of a stream (R451, R461): its index and frame number, its stamps, the parameter set in force and whether a set failed, its lines, the lines of wrong length, the rows given to memory, and whether it has ended and how. -/
structure IsFrame where
  idx : Nat
  num : Nat
  fs : Nat
  fe : Nat
  audio : Nat
  par : IsParam
  parErr : Bool
  lines : List IsLine
  recv : Nat
  lenErr : Nat
  rows : Nat
  ended : Bool
  incomplete : Bool
  poisoned : Bool
  deriving DecidableEq, Repr

/-- A stream of the ISP (R449 to R460): the frame that runs, ended frames whose record is not DONE, the set in force, and the queued sets in the order they were pushed (address, apply frame). -/
structure IsSt where
  cur : Option IsFrame
  ended : List IsFrame
  par : Option IsParam
  queue : List (Nat × Nat)
  deriving DecidableEq, Repr

/-- A stream at reset. -/
def IsSt.idle : IsSt := ⟨none, [], none, []⟩

/-- The cameras: the streams, the ISP's writes that wait for their domains in order (stream, frame index, address, bytes), when each receiver last saw high-speed data (plus one), the previous zone means of the glance port, and whether it is within a frame. -/
structure CamSt where
  streams : Tab IsSt
  out : List (Nat × Nat × Nat × List (Nat × Bool))
  seen : Tab Nat
  means : Option (List Nat)
  deriving DecidableEq, Repr

/-- The cameras at reset. -/
def CamSt.reset : CamSt := ⟨[], [], [], none⟩


/-! ### The Lock-keeper and the Time unit (R470 to R513) -/

/-- The Lock-keeper: consecutive power samples above the limit, since when the power has been below 90% of it, the time of the last sample, energy below a millijoule by rail, the waiting wake already counted as held, per cluster the clock level in force, the voltage a ramp began from with its time, the cluster's own thermal cap and since when it has been cool, the external wake sources asserted, the address match latch, whether a thermal trip holds the device, the last sensor readings (16 logic, 64 DRAM, quarter degrees), the VDD_CORE value in millivolts last commanded and whether its write is unacknowledged, wear below a millisecond by tile the domains On when a warm reset began, and the registers shown to tenants in confidential mode as they stood at the last 1 ms boundary (R605). -/
structure PwSt where
  overran : Nat
  low : Option Nat
  last : Nat
  mj : Tab Nat
  held : Option Nat
  clk : Tab Nat
  volt : Tab (Nat × Nat)
  tcap : Tab Nat
  cool : Tab (Option Nat)
  src : NSet
  i2c : Bool
  trip : Bool
  logic : List Int
  dram : List Int
  vout : Nat
  unacked : Bool
  wear : Tab Nat
  wasOn : NSet
  shown : Tab Word
  deriving DecidableEq, Repr

/-- The Lock-keeper at reset: VDD_CORE stands at the regulator's starting value (R667). -/
def PwSt.reset : PwSt := ⟨0, none, 0, [], none, [], [], [], [], [], false, false, [], [], 800, false, [], [], []⟩

/-- The Time unit beside its registers: the 104-bit accumulator (R502), steps accepted and not yet taken, tick inputs whose stamp is unread, the time of the last accepted edge by input, by compare channel the pin and the end of its pulse, pins that WIDTH 0 has toggled, and the thirds of a unit of elapsed time not yet counted. -/
structure TuSt where
  acc : Nat
  steps : List Nat
  unread : NSet
  edge : Tab (Option Nat)
  pulse : Tab (Option (Nat × Nat))
  toggled : NSet
  frac : Nat
  deriving DecidableEq, Repr

/-- The Time unit at reset. -/
def TuSt.reset : TuSt := ⟨0, [], [], [], [], [], 0⟩

/-! ### The Brefen link (R514 to R550) -/

/-- A frame (R521): TYPE, VC, DST, SRC, TENANT, HOPS, TAG, ADDR, POISON, OP, GEN and the payload bytes (16 × LEN). -/
structure LFrame where
  ty : Nat
  vc : Nat
  dst : Nat
  src : Nat
  tenant : Nat
  hops : Nat
  tag : Nat
  addr : Nat
  poison : Nat
  op : Nat
  gen : Nat
  pay : List Nat
  deriving DecidableEq, Repr

/-- A frame queued at a port: the input it came by (arrival port × 2 + VC, or 8 for local issue), the frame, since when the device has held it, and the tag of the local request it carries. Among the frames that have not reached a port's queue the input is the port whose request a response answers, or 8. -/
structure QFrame where
  inp : Nat
  fr : LFrame
  since : Nat
  req : Option Nat
  deriving DecidableEq, Repr

/-- A block kept for replay (R519): BSEQ, the 160 bytes as stored, how often it was resent, and the tags of the local requests whose frames it carried any byte of. -/
structure RBlock where
  seq : Nat
  bytes : List Nat
  sent : Nat
  deriving DecidableEq, Repr

/-- A sealing key of one direction (R539, R540): key bytes, SESSION, COUNTER. -/
structure LKey where
  key : List Nat
  session : Nat
  counter : Nat
  deriving DecidableEq, Repr

/-- The key exchange of a port (R597): the next message it expects, its own nonce and the partner's, the partner's identifier, the chain it receives, the points, and the transcript so far. -/
structure Kx where
  stage : Nat
  seq : Nat
  nonce : List Nat
  theirs : List Nat
  peer : Nat
  chainLen : Nat
  chain : List Nat
  point : List Nat
  trans : List Nat
  master : List Nat
  deriving DecidableEq, Repr

/-- A Brefen port (R517 to R544) beside its registers: the BSEQ the next non-idle block takes, the replay buffer, where a resend stands, the ACK of the last NAK acted on, the BSEQ expected, whether its next block carries NAK, received stream bytes of an unfinished frame, the frame being sent by tenant (bytes left, and the request), the queue, the input last served by class, credits held for the partner's buffers and owed to it, blocks sent in order, the keys in use and the second keys, KEYSEL in each direction, whether a rekey is requested, the times of tag failures and replays within 1 ms, the key exchange, the held master secret, the retention handshake, whether its LINK identification has been queued, and the refusal tracking of R533 (VC, source thread, time). -/
structure BlPort where
  txSeq : Nat
  replay : List RBlock
  resend : Option Nat
  lastNak : Option Nat
  rxSeq : Nat
  nak : Bool
  rxBuf : Tab (List Nat)
  cur : Tab (List Nat × Option Nat)
  q : List QFrame
  rr : Nat
  credit : Tab Nat
  ret : Tab Nat
  out : List (List Nat)
  txKey : Option LKey
  rxKey : Option LKey
  txNew : Option LKey
  rxNew : Option LKey
  txSel : Bool
  rxSel : Bool
  rekey : Bool
  tagFails : List Nat
  replays : List Nat
  kx : Option Kx
  master : Option (List Nat)
  keying : Bool
  retAsk : Bool
  ident : Bool
  refused : List (Nat × Nat × Nat)
  deriving DecidableEq, Repr

/-- A port after its domain left Off. -/
def BlPort.reset : BlPort :=
  ⟨0, [], none, none, 0, false, [], [], [], 0, [], [], [], none, none, none, none, false, false, false, [], [], none, none, false, false, false, []⟩

/-- The Brefen link: its ports, frames that have reached their destination here and wait to be served (port, frame, time) in order, responses and doorbells that wait for a port, GEN by TAG, reserved access slots with the issue time of their request (R532), and installs by port and direction (R540). -/
structure BlSt where
  ports : Tab BlPort
  inbox : List (Nat × LFrame × Nat)
  outq : List QFrame
  gens : Tab Nat
  reserved : List (Nat × Nat)
  deriving DecidableEq, Repr

/-! ### The Notary (R578 to R607) -/

/-- Fuses (R578 to R582): UID, LIFECYCLE, plat keys by slot, revoked slots, floor words burned, SVN floors, the digest of the Evcor firmware key, the certificate area (root, CA and DIK certificates), the grade, and factory calibration (R650). -/
structure Fuses where
  uid : List Nat
  life : Nat
  keys : Tab (List Nat)
  revoked : NSet
  floors : List Nat
  svnN : Nat
  svnR : Nat
  fwKey : List Nat
  cert : List Nat
  grade : Nat
  deriving DecidableEq, Repr

/-- Fuses of a part with nothing written. -/
def Fuses.blank : Fuses := ⟨[], 0, [], [], [], 0, 0, [], [], 0⟩

/-- A mailbox page's command (R583): OP, whether boot firmware wrote it, and how far a MEASURE has come: bytes read, the SHA-384 state, whether poison was met. -/
structure NtCmd where
  op : Nat
  boot : Bool
  off : Nat
  hash : List Nat
  psn : Bool
  deriving DecidableEq, Repr

/-- A tenant at the Notary (R586, R593, R594): its binder, BIND_COUNT, SESSION, and each TMR with its count of extensions. -/
structure NtTen where
  binder : Option (List Nat)
  count : Nat
  session : Nat
  tmr : Tab (List Nat)
  ext : Tab Nat
  deriving DecidableEq, Repr

/-- A tenant after power-on. -/
def NtTen.reset : NtTen := ⟨none, 0, 0, [], []⟩

/-- An SPDM session (R590): its identifier, the requester's chain received by the encapsulated flow, the transcript, the handshake secret, the export master secret once FINISH has been taken, the tenants bound in it, and the encapsulated flow's stage. -/
structure Sess where
  id : Nat
  chain : List Nat
  key : List Nat
  trans : List Nat
  hs : List Nat
  ems : List Nat
  open_ : Bool
  bound : List Nat
  stage : Nat
  deriving DecidableEq, Repr

/-- The SPDM connection: how far negotiation has come (0 none, 1 version, 2 capabilities, 3 algorithms), the bytes exchanged so far, and the messages of signed flows. -/
structure Conn where
  stage : Nat
  vca : List Nat
  msgs : List Nat
  last : List Nat
  deriving DecidableEq, Repr

/-- The Notary: fuses, mailbox pages, the page served last and since when its turn runs, tenants, the SPDM connection and sessions, responses sent (session or 0, bytes), a BIND_TENANT that waits for the ingress ring (session, tenant, since), digests and SVNs of the running firmware, whether a time re-arm has occurred since the plat (R588), ephemeral draws, and whether the Notary runs. -/
structure NtSt where
  fuse : Fuses
  pages : Tab (Option NtCmd)
  turn : Nat
  since : Nat
  tens : Tab NtTen
  conn : Conn
  sess : List Sess
  out : List (Nat × List Nat)
  bind : Option (Nat × Nat × Nat)
  fwN : List Nat
  fwR : List Nat
  svnN : Nat
  svnR : Nat
  rearmed : Bool
  draw : Nat
  deriving DecidableEq, Repr

/-- The Notary at reset. -/
def NtSt.reset : NtSt := ⟨.blank, [], 0, 0, [], ⟨0, [], [], []⟩, [], [], none, [], [], 0, 0, false, 0⟩

/-! ### The Fault ledger (R614 to R621, R630) -/

/-- A fault under classification (R615, R616): the tile, or a cluster engine (kind 1 to 3 with its cluster); its partition; whether it runs or waits; the syndrome; the job's context, ring and sequence number. -/
structure ClsE where
  eng : Nat
  unit : Nat
  part : Nat
  running : Bool
  synd : Nat
  ctx : Nat
  ring : Nat
  seq : Nat
  deriving DecidableEq, Repr

/-- The Fault ledger beside its registers: faults under classification, the times of transient verdicts by unit, fenced engines (kind × 16 + cluster), corrections not yet reported by unit with the time of its last record, running Tally RUNs (VALUE before, bytes left), and retirements by software that wait for a job to end or for a plat apply (R59, R618). -/
structure FlSt where
  cls : List ClsE
  trans : Tab (List Nat)
  fenced : NSet
  ce : Tab (Nat × Nat)
  run : Tab (Option (Nat × Nat))
  retiring : List ClsE
  deriving DecidableEq, Repr

/-- The Fault ledger at reset. -/
def FlSt.reset : FlSt := ⟨[], [], [], [], [], []⟩

/-! ### Boot and reset (R637 to R652) and low-speed I/O (R653 to R678) -/

/-- Boot and reset: whether power-on reset has ended, the SPI boot frames accepted, BOOT_LENGTH as the host wrote it, whether boot firmware runs on tile 0, the cause of the warm reset that runs, and whether RST_N is low. -/
structure RsSt where
  up : Bool
  frame : Nat
  bootLen : Nat
  boot : Bool
  warm : Option Nat
  rstLow : Bool
  deriving DecidableEq, Repr

/-- Before power-on reset has ended. -/
def RsSt.reset : RsSt := ⟨false, 0, 0, false, none, false⟩

/-- The low-speed I/O beside its registers: inbound SPI frames with verdict and CRC result, the outbound frame and a pushed one that waits, frames and characters sent, the UART FIFOs, GPIO input levels, the TAP instruction, its boundary register, the data its DB_ACCESS last captured, and what it has shifted out. -/
structure IoSt where
  rx : List (List Nat × Nat × Bool)
  tx : List Nat
  sent : List (List Nat)
  urx : List Nat
  utx : List Nat
  uart : List Nat
  gpio : Nat
  tap : Nat
  bsr : List Nat
  dr : Nat
  tdo : List (List Nat)
  deriving DecidableEq, Repr

/-- Low-speed I/O at reset: TRST_N holds the TAP in reset, which selects IDCODE. -/
def IoSt.reset : IoSt := ⟨[], [], [], [], [], [], 0, 1, [], 0, []⟩

/-- An access from outside the tiles that stalls for a domain or a moving page (R70, R478): a register write, a host write or read, or an access of the TAP. -/
inductive ExtAcc where
  | reg (who : Who) (addr size value : Nat)
  | hostWrite (bar offset : Nat) (bytes : List Nat) (psn : Bool)
  | hostRead (bar offset len : Nat)
  | debug (data reg : Nat) (write : Bool)
  deriving DecidableEq, Repr

/-- The state of the block. `tlb` holds the translation caches (R78): the entries of tile t under t and those of cluster c under 128 + c, as tenant × 2^19 + page, most recently used first. -/
structure State where
  pending : List Instr
  regs : Tab Word
  mem : List Host.Cell
  psn : NSet
  caches : Tab (List Line)
  tlb : Tab (List Nat)
  arb : ArbSt
  vc : VcSt
  plat : PlatSt
  threads : Tab Thread
  tiles : Tab Tile
  jobs : Tab (Option Job)
  net : List NetMsg
  ebuf : List Cmd
  runs : List Run
  eng : EngQ
  sc : ScStore
  halo : List HaloRow
  hg : HgSt
  host : HostSt
  au : AuSt
  rn : RnSt
  cam : CamSt
  pw : PwSt
  tu : TuSt
  bl : BlSt
  nt : NtSt
  fl : FlSt
  rs : RsSt
  io : IoSt
  doms : Tab Dom
  wakeq : List Nat
  stallq : List (Nat × Nat)
  extq : List ExtAcc
  resumeq : List (Nat × Nat × Nat)
  reqs : List RReq
  tagNext : Nat
  fsrBuf : List (Nat × List Nat)
  now : Nat
  ticks : Tab Nat
  retired : NSet
  free : Nat
  deriving DecidableEq, Repr

/-- A power domain at reset (R498): Off; D0 is always On and has no entry. -/
def Dom.reset : Dom := ⟨.off, false, none, 0⟩

/-- The machine right after reset. -/
def State.reset : State :=
  { pending := [], regs := [], mem := [], psn := [], caches := [], tlb := [], arb := ArbSt.reset, vc := ⟨[], [], [], [], [], 0, [], []⟩,
    plat := ⟨none, none, [], [], [], false, false, [], [], false⟩, threads := [], tiles := [], jobs := [], net := [], ebuf := [], runs := [], eng := ⟨[], [], []⟩, sc := ⟨[], []⟩, halo := [],
    hg := ⟨[], [], [], 65535, 0, [], [], [], [], [], [], [], []⟩, host := HostSt.reset, au := AuSt.reset, rn := RnSt.reset, cam := CamSt.reset, pw := PwSt.reset, tu := TuSt.reset,
    bl := ⟨[], [], [], [], []⟩, nt := NtSt.reset, fl := FlSt.reset, rs := RsSt.reset, io := IoSt.reset,
    doms := [], wakeq := [], stallq := [], extq := [], resumeq := [], reqs := [], tagNext := 0, fsrBuf := [], now := 0, ticks := [],
    retired := [], free := 0 }

end Sys2Proof.Machine
end

