-- ==== Sys2Proof/Machine/Ops.lean ====
section
/-!
DEFINITION. The named operations every command is built from: registers, plat look-ups, domains, fault records, threads, and taking an exception and returning from one.
-/
namespace Sys2Proof.Machine

/-- The outcome of a command. -/
abbrev Out := Host.Outcome State Fault Refusal

/-! ### Registers -/

/-- The value a register holds (R10): what was last written, else its reset value. -/
def State.rd (s : State) (a : Nat) : Word := Tab.get s.regs (regReset a) a

/-- Set a register as hardware does. -/
def State.wr (s : State) (a : Nat) (v : Word) : State := { s with regs := Tab.set s.regs (regReset a) a v }

/-- A field of a register. -/
def State.fget (s : State) (a : Nat) (f : Nat × Nat) : Nat := bits (s.rd a).toNat f.1 f.2

/-- Set a field of a register as hardware does. -/
def State.fset (s : State) (a : Nat) (f : Nat × Nat) (x : Nat) : State :=
  s.wr a (BitVec.ofNat 64 (setBits (s.rd a).toNat f.1 f.2 x))

/-- Add to a counter field that saturates at all ones (R9). -/
def State.fadd (s : State) (a : Nat) (f : Nat × Nat) (n : Nat) : State :=
  s.fset a f (satAdd (f.1 + 1 - f.2) (s.fget a f) n)

/-- Count one event in a 32-bit counter (R9). -/
def State.bump (s : State) (a : Nat) : State := s.fadd a (31, 0) 1

/-- The time counter (R501, R502): the integer part of the accumulator. -/
def State.time (s : State) : Nat := s.tu.acc / 2 ^ 40 % 2 ^ 64

/-- Is a one-bit field set? -/
def State.flag (s : State) (a : Nat) (f : Nat × Nat) : Bool := s.fget a f == 1

/-! ### The plat (R29 to R64) -/

/-- The applied plat's partitions. -/
def State.partEs (s : State) : List PartE := (s.plat.cur.map (·.parts)).getD []
/-- The applied plat's tenants. -/
def State.tenEs (s : State) : List TenE := (s.plat.cur.map (·.tenants)).getD []
/-- The applied plat's groups. -/
def State.grpEs (s : State) : List GrpE := (s.plat.cur.map (·.groups)).getD []
/-- The applied plat's ring entries. -/
def State.ringEs (s : State) : List RingE := (s.plat.cur.map (·.rings)).getD []
/-- The applied plat's link routes. -/
def State.routeEs (s : State) : List RouteE := (s.plat.cur.map (·.routes)).getD []
/-- The applied plat's tick classes. -/
def State.tickEs (s : State) : List TickE := (s.plat.cur.map (·.ticks)).getD []

/-- The device's identifier (R30, R63): 0 for a standalone device or before a plat. -/
def State.devId (s : State) : Nat := s.fget A.HG_PLAT_INFO F.HG_PLAT_INFO_DEVICE_ID

/-- Is the device in confidential mode (R30, R63)? -/
def State.confMode (s : State) : Bool := s.flag A.HG_PLAT_INFO F.HG_PLAT_INFO_CONFIDENTIAL

/-- Is the configuration class large (R50)? -/
def State.largeClass (s : State) : Bool := s.flag A.HG_PLAT_INFO F.HG_PLAT_INFO_CONFIG_CLASS

/-- The partition entry of a number. -/
def State.partE (s : State) (p : Nat) : Option PartE := s.partEs.find? fun e => e.id == p

/-- The tenant entry of a number. -/
def State.tenE (s : State) (n : Nat) : Option TenE := s.tenEs.find? fun e => e.id == n

/-- The partition a tile belongs to; none for a retired tile (R617). -/
def State.tilePart (s : State) (t : Nat) : Option PartE :=
  if s.retired.has t then none else s.partEs.find? fun e => bit e.tiles t

/-- The partition a vault belongs to (R35); retirement of its tile leaves the vault in service (R617). -/
def State.vaultPart (s : State) (v : Nat) : Option PartE :=
  s.partEs.find? fun e => bit e.tiles v || bit e.extra v

/-- The partition numbers of a tenant. -/
def State.partsOf (s : State) (n : Nat) : List PartE := s.partEs.filter fun e => e.tenant == n

/-- Does the tenant own the tile (R68)? -/
def State.ownsTile (s : State) (n t : Nat) : Bool := (s.tilePart t).any fun e => e.tenant == n

/-- Does the tenant own the vault (R68)? -/
def State.ownsVault (s : State) (n v : Nat) : Bool := (s.vaultPart v).any fun e => e.tenant == n

/-- Does a partition of the tenant hold the channel (R68)? -/
def State.ownsChan (s : State) (n c : Nat) : Bool := (s.partsOf n).any fun e => bit e.chans c

/-- The cluster-cache ways a partition holds in a cluster (R34). -/
def PartE.waysIn (e : PartE) (c : Nat) : Nat := e.ways.getD c 0

/-- The ways of a cluster that any partition of the tenant holds (R91). -/
def State.tenantWays (s : State) (n c : Nat) : Nat := (s.partsOf n).foldl (fun m e => m ||| e.waysIn c) 0

/-- The tenant named in LK_ADMIN, when VALID (R497). -/
def State.admin (s : State) : Option Nat :=
  if s.flag A.LK_ADMIN F.LK_ADMIN_VALID then some (s.fget A.LK_ADMIN F.LK_ADMIN_TENANT) else none

/-- The policy of a domain: its entry, or the defaults of R45. -/
def State.domE (s : State) (d : Nat) : DomE :=
  match ((s.plat.cur.map (·.doms)).getD []).find? fun e => e.id == d with
  | some e => e
  | none => ⟨d, 0, 0, 2, true, 1, 0⟩

/-- A domain's stall limit in microseconds (R45): 0 selects 100. -/
def DomE.limitUs (e : DomE) : Nat := if e.limit = 0 then 100 else e.limit

/-- The route entry that covers a device identifier (R47). -/
def State.route (s : State) (dev : Nat) : Option RouteE :=
  s.routeEs.find? fun e => decide (e.first ≤ dev) && decide (dev ≤ e.last)

/-! ### Power domains (R470 to R486) -/

/-- A domain's state record. -/
def State.dom (s : State) (d : Nat) : Dom := Tab.get s.doms Dom.reset d

/-- Write a domain's state record. -/
def State.setDom (s : State) (d : Nat) (x : Dom) : State := { s with doms := Tab.set s.doms Dom.reset d x }

/-- Is the domain On? D0 always is (R470). -/
def State.isOn (s : State) (d : Nat) : Bool := d == 0 || (s.dom d).st == .on

/-- The domains a domain depends on, directly (R471). -/
def domDeps (d : Nat) : List Nat :=
  if d = 3 ∨ d = 4 ∨ d = 7 ∨ (9 ≤ d ∧ d ≤ 14) ∨ (16 ≤ d ∧ d ≤ 31) ∨ d = 36 ∨ d = 37 ∨ d = 38 then [15]
  else if d = 5 then [4]
  else if d = 8 then [7]
  else []

/-- The domains a wake of `d` brings up, dependencies first (R472). -/
def domChain (d : Nat) : List Nat :=
  if d = 5 then [15, 4, 5] else if d = 8 then [15, 7, 8] else domDeps d ++ [d]

/-- A Brefen port that no link route of the applied plat names is held Off (R516). -/
def State.portHeld (s : State) (d : Nat) : Bool := decide (9 ≤ d) && decide (d ≤ 12) && !(s.routeEs.any fun e => bit e.ports (d - 9))

/-- Record that a domain must wake: it joins the wake queue once (R486). -/
def State.demandWake (s : State) (d : Nat) : State :=
  (domChain d).foldl (fun s d =>
    if s.isOn d || s.portHeld d || (s.dom d).waking || s.wakeq.contains d then s else { s with wakeq := s.wakeq ++ [d] }) s

/-- An access or wake event during preparation aborts the entry; the domain stays On, the abort is counted and OUTSTANDING_TRAFFIC recorded (R476), code 1 of R474. A domain on its way from Retention to Off returns to Retention, and the refusal is counted (R681). FORCE 2 and 3 return to 0 (R498), unless FORCE was written during the entry: that write still waits to be acted on (R681). -/
def State.abortEntry (s : State) (d : Nat) : State :=
  match (s.dom d).entering with
  | none => s
  | some _ =>
    let back := (s.dom d).st == .ret
    let s := s.setDom d { s.dom d with entering := none, force := (s.dom d).force }
    let s := if (s.dom d).force = 0 ∧ 2 ≤ s.fget (A.LK_D_CTRL d) F.LK_D_CTRL_FORCE then s.fset (A.LK_D_CTRL d) F.LK_D_CTRL_FORCE 0 else s
    let s := if back then s.bump (A.LK_D_REFUSED d) else s
    let s := s.fset (A.LK_D_STATUS d) F.LK_D_STATUS_REFUSER 1
    s.bump (A.LK_D_ABORTED d)

/-! ### Wake sources (R476, R477, R480) -/

/-- Is a wake source an edge source (R480)? GPIO sources by TYPE. -/
def State.isEdge (s : State) (i : Nat) : Bool :=
  if 2 ≤ i ∧ i ≤ 25 then s.flag (A.LK_WAKE_CFG i) F.LK_WAKE_CFG_TYPE else i == 26 || i == 27 || i == 37

/-- The domains a wake source names; bit 0 is ignored (R500). -/
def State.srcDoms (s : State) (i : Nat) : List Nat := (bitsOf 40 (s.rd (A.LK_WAKE_MAP i)).toNat).filter fun d => d != 0

/-- A wake event for a domain (R476, R478): it aborts an entry and wakes a domain that is not On. -/
def State.wakeEvent (s : State) (d : Nat) : State := if s.isOn d then s.abortEntry d else (s.abortEntry d).demandWake d

/-- A wake source asserts (R480): SEEN is set, and with EN 1 the domains of its map wake. An edge that falls in the commit window of a domain's entry does not wake it and is counted (R477). -/
def State.srcAssert (s : State) (i : Nat) (commit : Bool) : State :=
  let s := s.fset (A.LK_WAKE_CFG i) F.LK_WAKE_CFG_SEEN 1
  if s.flag (A.LK_WAKE_CFG i) F.LK_WAKE_CFG_EN then
    (s.srcDoms i).foldl (fun s d =>
      if commit && s.isEdge i && (s.dom d).entering.isSome then s.bump (A.LK_D_EDGE_LOST d)
      else if commit && (s.dom d).entering.isSome then s
      else s.wakeEvent d) s
  else s

/-- The domain of an external memory controller channel (R16). -/
def chanDom (c : Nat) : Nat := 36 + c / 2

/-! ### Fault records (R628 to R632) -/

/-- One step of CRC-32C over a bit (R622). -/
def crcBit (c : Nat) : Nat := if c % 2 = 1 then (c / 2) ^^^ 0x82F63B78 else c / 2

/-- CRC-32C register after one more byte, least significant bit first (R622). -/
def crcByte (c b : Nat) : Nat :=
  crcBit (crcBit (crcBit (crcBit (crcBit (crcBit (crcBit (crcBit (c ^^^ b))))))))

/-- CRC-32C register after some bytes (R622). -/
def crcFeed (c : Nat) (bs : List Nat) : Nat := bs.foldl crcByte c

/-- The check value of some bytes (R622). -/
def crc32c (bs : List Nat) : Nat := crcFeed 0xFFFFFFFF bs ^^^ 0xFFFFFFFF

/-- What a fault record says beyond its kind and severity (R628); fields a kind does not use are zero, and the "none" codes where the table gives one. -/
structure FsrInfo where
  domain : Nat := 0
  tenant : Option Nat := none
  unit : Nat := 0
  part : Nat := 0xFF
  cls : Nat := 0
  address : Nat := 0
  ctx : Nat := 0xFFFF
  ring : Nat := 0xFFFF
  seq : Nat := 0
  cause : Nat := 0
  count : Nat := 1
  synd : Nat := 0
  pclass : Nat := 0
  deriving DecidableEq, Repr

/-- The severity of a kind (R629). -/
def fsrSev (k : Nat) : Nat :=
  if k = 0x01 then 1
  else if [0x02, 0x03, 0x04, 0x0C, 0x0D, 0x0F, 0x15].contains k then 2
  else if [0x06, 0x07, 0x08, 0x09, 0x0A, 0x0B].contains k then 3
  else if k = 0x13 ∨ k = 0x14 then 4
  else 0

/-- The 60 bytes of a record before its CRC, with the ring's sequence number (R628). -/
def fsrBody (s : State) (k seq : Nat) (i : FsrInfo) : List Nat :=
  natLe 2 1 ++ [k, fsrSev k] ++ natLe 4 seq ++ natLe 8 s.time ++
  natLe 4 (s.rd (A.NT_UID 0)).toNat ++ natLe 4 (s.rd (A.NT_UID 1)).toNat ++
  natLe 2 s.devId ++ [i.domain, (match i.tenant with | some t => t % 8 + 128 | none => 0)] ++
  natLe 2 i.unit ++ [i.part, i.cls] ++ natLe 8 i.address ++ natLe 2 i.ctx ++ natLe 2 i.ring ++
  natLe 4 i.seq ++ natLe 2 i.cause ++ natLe 2 (min i.count 65535) ++ natLe 4 i.synd ++ natLe 4 i.pclass

/-- A record with its CRC (R628). -/
def fsrBytes (s : State) (k seq : Nat) (i : FsrInfo) : List Nat :=
  let b := fsrBody s k seq i
  b ++ natLe 4 (crc32c b)

/-! ### Threads (R99, R133, R135) -/

/-- The domains a held access waits for, when it waits for wakes (R88, R478). -/
def Hold.doms : Hold → Option (List Nat)
  | .wake ds _ => some ds
  | .range ds _ _ _ _ => some ds
  | _ => Option.none

/-- The tier and the cause a held access is charged to (R90): WAKE 0, MIGRATE 1. -/
def Hold.charge : Hold → Option (Nat × Nat)
  | .wake _ t => some (t, 0)
  | .range _ t _ _ _ => some (t, 0)
  | .move _ _ t => some (t, 1)
  | _ => Option.none

/-- A thread's record. -/
def State.thread (s : State) (tile thr : Nat) : Thread := Tab.get s.threads Thread.idle (tile * 16 + thr)

/-- Write a thread's record. -/
def State.setThread (s : State) (tile thr : Nat) (t : Thread) : State :=
  { s with threads := Tab.set s.threads Thread.idle (tile * 16 + thr) t }

/-- A tile's shared record. -/
def State.tile (s : State) (t : Nat) : Tile := Tab.get s.tiles Tile.idle t

/-- Write a tile's shared record. -/
def State.setTile (s : State) (t : Nat) (x : Tile) : State := { s with tiles := Tab.set s.tiles Tile.idle t x }

/-- The job bound to a context. -/
def State.job (s : State) (c : Nat) : Option Job := Tab.get s.jobs none c

/-- Write the job bound to a context. -/
def State.setJob (s : State) (c : Nat) (j : Option Job) : State := { s with jobs := Tab.set s.jobs none c j }

/-- The job whose work a tile holds, with its context. -/
def State.jobAt (s : State) (tile : Nat) : Option (Nat × Job) :=
  match (s.tile tile).job with
  | none => none
  | some c => (s.job c).map fun j => (c, j)

/-- Read a scalar register: s0 reads as zero (R133). -/
def Thread.getX (t : Thread) (r : RegNo) : Word := if r = 0 then 0 else Tab.get t.x 0 r.toNat

/-- A scalar register's poison mark (R135). -/
def Thread.xpsn (t : Thread) (r : RegNo) : Bool := r != 0 && t.xp.has r.toNat

/-- Write a scalar register and its poison mark: a write to s0 is discarded (R133, R135). -/
def Thread.setX (t : Thread) (r : RegNo) (v : Word) (p : Bool) : Thread :=
  if r = 0 then t else { t with x := Tab.set t.x 0 r.toNat v, xp := NSet.put t.xp r.toNat p }

/-- Read lane `i` of a vector register (R134). -/
def Thread.getV (t : Thread) (r : RegNo) (i : Nat) : Lane := Tab.get t.v 0 (32 * r.toNat + i)

/-- A lane's poison mark (R135). -/
def Thread.vpsn (t : Thread) (r : RegNo) (i : Nat) : Bool := t.vp.has (32 * r.toNat + i)

/-- Write a lane and its poison mark. -/
def Thread.setV (t : Thread) (r : RegNo) (i : Nat) (v : Lane) (p : Bool) : Thread :=
  { t with v := Tab.set t.v 0 (32 * r.toNat + i) v, vp := NSet.put t.vp (32 * r.toNat + i) p }

/-- Read a predicate: p0 reads as all ones (R133). -/
def Thread.getP (t : Thread) (r : PredNo) : Lane := if r = 0 then 0xFFFFFFFF else Tab.get t.p 0 r.toNat

/-- Write a predicate: a write to p0 is discarded (R133). -/
def Thread.setP (t : Thread) (r : PredNo) (v : Lane) : Thread :=
  if r = 0 then t else { t with p := Tab.set t.p 0 r.toNat v }

/-! ### Exceptions (R128 to R131) -/

/-- The status an exception gives the completion when no handler takes it (R128); a store error takes that of its subcause. -/
def excStatus (cause sub : Nat) : Nat :=
  match if cause = 6 then sub else cause with
  | 4 => 5
  | 5 => 3
  | 7 => 1
  | _ => 4

/-- The registers of the tile that record an exception of a thread (R132). -/
def State.recordExc (s : State) (tile thr cause sub : Nat) (pc eaddr : Word) : State :=
  let s := s.bump (A.TI_EXC_COUNT tile)
  let s := s.wr (A.TI_EXC_PC tile thr) pc
  let s := s.wr (A.TI_EXC_ADDR tile thr) eaddr
  s.wr (A.TI_EXC_CAUSE tile thr) (BitVec.ofNat 64 (cause + 16 * sub + 256 * excStatus cause sub))

/-- A job is ended because one of its threads halted (R131): its other threads stop, and the status takes part in the completion. -/
def State.haltJob (s : State) (tile status cause : Nat) : State :=
  match s.jobAt tile with
  | none => s
  | some (c, j) => s.setJob c (some { j with ending := true, stats := j.stats ++ [(status, cause)] })

/-- A status that takes part in the completion of a context's job, with its cause (R356). -/
def State.noteStat (s : State) (c status cause : Nat) : State :=
  match s.job c with
  | some j => if j.stats.contains (status, cause) then s else s.setJob c (some { j with stats := j.stats ++ [(status, cause)] })
  | none => s

/-- Take an exception (R130, R131). With a handler and outside handler mode the thread saves its PC, cause and address, enters handler mode and continues at the handler; otherwise it halts and its job is ended. -/
def State.raise (s : State) (tile thr cause sub : Nat) (eaddr : Word) : State :=
  let t := s.thread tile thr
  let t1 := { t with epc := t.pc, cause := cause, sub := sub, eaddr := eaddr }
  let s := s.recordExc tile thr cause sub t.pc eaddr
  if t.handler ≠ 0 ∧ !t.hmode then
    s.setThread tile thr { t1 with hmode := true, pc := t.handler }
  else
    (s.setThread tile thr { t1 with st := .halted }).haltJob tile (excStatus cause sub) cause

/-- Return from an exception (R130, R158): ERET clears handler mode and resumes at EPC; outside handler mode it has no effect but to go on. -/
def Thread.eret (t : Thread) : Thread :=
  if t.hmode then { t with hmode := false, pc := t.epc, instret := t.instret + 1 }
  else { t with pc := t.pc + 4, instret := t.instret + 1 }

/-- The link-level timeout in time-counter units (R530, R531): 0 selects 200 µs (R548). -/
def State.blTimeout (s : State) : Nat := (let us := s.fget A.BL_TIMEOUT F.BL_TIMEOUT_US; if us = 0 then 200 else us) * 256000

end Sys2Proof.Machine
end

