-- ==== Sys2Proof/Machine/Mem.lean ====
section
/-!
DEFINITION. Memory: homes, poison granules, translation and ownership, cluster caches, and the fault-record rings that are written through them (R65 to R95, R115, R609, R610, R631).
-/
namespace Sys2Proof.Machine

/-! ### The local map (R66, R73) -/

/-- The ranges of the local map (R66). -/
inductive Area where
  | t1 | t2 | t0 | ctl | obj | none
  deriving DecidableEq, Repr

/-- 2 MiB. -/
def pageSize : Nat := 0x200000
/-- First address of T2. -/
def t2Base : Nat := 0x4000000000
/-- First address of the tile SRAM windows. -/
def t0Base : Nat := 0x6000000000
/-- First address of the control space. -/
def ctlBase : Nat := 0x7000000000
/-- First address of the object range. -/
def objBase : Nat := 0x10000000000

/-- The range that holds all of `[a, a + n)`; none when an end lies outside it (R66, R67). -/
def area (a n : Nat) : Area :=
  if a + n ≤ 0x1800000000 then .t1
  else if t2Base ≤ a ∧ a + n ≤ t2Base + 0x1000000000 then .t2
  else if t0Base ≤ a ∧ a + n ≤ t0Base + 0x10000000 then .t0
  else if ctlBase ≤ a ∧ a + n ≤ ctlBase + 0x10000000 then .ctl
  else if objBase ≤ a ∧ a + n ≤ objBase + 0x10000000000 then .obj
  else .none

/-- The vault of a T1 address (R73). -/
def vaultOf (a : Nat) : Nat := a / 0x30000000
/-- The DRAM layer of a T1 address (R73). -/
def layerOf (a : Nat) : Nat := a % 0x30000000 / 0xC000000
/-- The channel of a T2 address (R66). -/
def chanOf (a : Nat) : Nat := (a - t2Base) / 0x400000000
/-- The tile of a tile SRAM address (R66). -/
def tileOf (a : Nat) : Nat := (a - t0Base) / 0x200000
/-- The frame-table key of a T1 or T2 address: the T1 frame, or 2^16 plus the T2 frame (R73, R77). -/
def frameKey (a : Nat) : Nat := if a < t2Base then a / pageSize else 65536 + (a - t2Base) / pageSize
/-- The local address of a frame-table key. -/
def frameAddr (k : Nat) : Nat := if k < 65536 then k * pageSize else t2Base + (k - 65536) * pageSize

/-- The trained capacity of a T2 channel in pages (R93, R98). -/
def State.trained (s : State) (c : Nat) : Nat :=
  128 * s.fget (A.XM_CAP (c / 2)) (if c % 2 = 0 then F.XM_CAP_CH0_CAP else F.XM_CAP_CH1_CAP)

/-- Does the channel carry inline ECC (R92)? -/
def State.inlineEcc (s : State) (c : Nat) : Bool := s.flag (A.XM_CFG (c / 2)) F.XM_CFG_INLINE_ECC

/-- The frame-table entry of a key. -/
def State.frame (s : State) (k : Nat) : Frame := Tab.get s.vc.frames Frame.free k

/-- Write a frame-table entry. -/
def State.setFrame (s : State) (k : Nat) (f : Frame) : State :=
  { s with vc := { s.vc with frames := Tab.set s.vc.frames Frame.free k f } }

/-- Is the memory at an address lost: its layer (R619, R620) or its frame (R610, R621)? -/
def State.isLost (s : State) (a : Nat) : Bool :=
  match area a 1 with
  | .t1 => s.vc.lostLayers.has (vaultOf a * 4 + layerOf a) || (s.frame (frameKey a)).lost
  | .t2 => s.vc.lostLayers.has (512 + chanOf a) || (s.frame (frameKey a)).lost
  | _ => false

/-! ### Bytes and poison at home (R609, R610) -/

/-- The byte of memory at a local address. -/
def State.byte (s : State) (a : Nat) : Byte := Tab.get s.mem 0 a

/-- Write one byte of memory. -/
def State.putByte (s : State) (a : Nat) (b : Nat) : State :=
  { s with mem := Tab.set s.mem 0 a (BitVec.ofNat 8 b) }

/-- The bytes `[a, a + n)` at home. -/
def State.homeBytes (s : State) (a n : Nat) : List Nat := (List.range n).map fun i => (s.byte (a + i)).toNat

/-- The length of a poison granule at an address (R609). -/
def State.granLen (_s : State) (a : Nat) : Nat := if area a 1 = Area.t2 then 64 else 16

/-- Does any 16-byte unit that meets `[a, a + n)` carry a poison mark? -/
def State.homePsn (s : State) (a n : Nat) : Bool :=
  s.isLost a || (List.range ((a + n + 15) / 16 - a / 16)).any fun i => s.psn.has (a / 16 + i)

/-- Set or clear the poison mark of the granule at `g` (a multiple of its length). -/
def State.setGran (s : State) (g : Nat) (b : Bool) : State :=
  { s with psn := (List.range (s.granLen g / 16)).foldl (fun p i => NSet.put p (g / 16 + i) b) s.psn }

/-- A translation entry (R77): the raw 64 bits of tenant `n`'s page. -/
def State.ent (s : State) (n page : Nat) : Word := Tab.get s.vc.ents 0 (n * 524288 + page)

/-- Remove copies from the translation caches (R78). -/
def tlbDrop (p : Nat → Bool) (t : Tab (List Nat)) : Tab (List Nat) :=
  t.filterMap fun kv => match kv.2.filter fun k => !p k with
    | [] => none
    | l => some (kv.1, l)

/-- The translation caches of a cluster and of its tiles are emptied. -/
def tlbClear (c : Nat) (t : Tab (List Nat)) : Tab (List Nat) := t.filter fun kv => !(kv.1 == 128 + c || (decide (kv.1 < 128) && kv.1 / 8 == c))

/-- Write a translation entry: every cached copy of it is invalidated (R78). -/
def State.setEnt (s : State) (n page : Nat) (e : Word) : State :=
  { s with vc := { s.vc with ents := Tab.set s.vc.ents 0 (n * 524288 + page) e }, tlb := tlbDrop (fun k => k == n * 524288 + page) s.tlb }

/-- VALID (R77). -/
def entValid (e : Word) : Bool := bit e.toNat 0
/-- TIER (R77). -/
def entTier (e : Word) : Nat := bits e.toNat 2 1
/-- WRITABLE (R77). -/
def entWritable (e : Word) : Bool := bit e.toNat 3
/-- PINNED (R77). -/
def entPinned (e : Word) : Bool := bit e.toNat 4
/-- POISONED (R77). -/
def entPoisoned (e : Word) : Bool := bit e.toNat 5
/-- MIGRATING (R77). -/
def entMigrating (e : Word) : Bool := bit e.toNat 6
/-- FRAME (R77): 30 bits. -/
def entFrame (e : Word) : Nat := bits e.toNat 49 20
/-- CLASS (R77). -/
def entClass (e : Word) : Nat := bits e.toNat 10 8

/-- The frame-table key an entry maps: T1 frame, or 2^16 plus the T2 frame; none for T0 and T3. -/
def entKey (e : Word) : Option Nat :=
  if entTier e = 1 then some (entFrame e % 65536)
  else if entTier e = 2 then some (65536 + entFrame e % 32768)
  else none

/-- Set POISONED in every valid entry for which `p` holds (R610, R617, R619); their cached copies are invalidated (R78). -/
def State.poisonEnts (s : State) (p : Word → Bool) : State :=
  let hit (e : Word) : Bool := entValid e && p e
  let es := s.vc.ents.map fun kv => if hit kv.2 then (kv.1, kv.2 ||| 0x20#64) else kv
  { s with vc := { s.vc with ents := es }, tlb := tlbDrop (fun k => hit (Tab.get s.vc.ents 0 k)) s.tlb }

/-! ### Fault-record rings (R631, R632) -/

/-- The local home address a record of a ring goes to; none when the address is outside what the ring may use (R631). Ring 8 is the device ring. -/
def State.fsrHome (s : State) (ring slot : Nat) : Option Nat :=
  let base := (s.rd (if ring = 8 then A.FL_DEV_RING_BASE else A.FL_T_RING_BASE ring)).toNat
  let a := base + 64 * slot
  let a := if 2 ^ 63 ≤ a ∧ ring = 8 ∧ a % 2 ^ 63 / 2 ^ 43 = s.devId then a % 2 ^ 43 else a
  let owner := if ring = 8 then s.admin else some ring
  if a < 2 ^ 43 then
    (match area a 64 with
    | .t1 => if (owner.map fun n => s.ownsVault n (vaultOf a)).getD false then some a else none
    | _ => none)
  else none

/-- The peer, the address there and the tenant a record of the device ring goes to when the ring lies at a peer (R631): its WRITE frames are those of LK_ADMIN's tenant, and the request is held as one of tile 128, which no device has. -/
def State.fsrPeer (s : State) (ring slot : Nat) : Option (Nat × Nat × Nat) :=
  let a := (s.rd A.FL_DEV_RING_BASE).toNat + 64 * slot
  let g := a % 2 ^ 63
  match s.admin with
  | some n => if ring = 8 ∧ 2 ^ 63 ≤ a ∧ g < 2 ^ 57 ∧ g / 2 ^ 43 ≠ s.devId ∧ (s.route (g / 2 ^ 43)).isSome then some (g / 2 ^ 43, g % 2 ^ 43, n) else none
  | none => none

/-- Lay clean bytes at a T1 address and clear the marks of the granules they cover. -/
def State.layBytes (s : State) (a : Nat) (bs : List Nat) : State :=
  let s := (List.range bs.length).foldl (fun s i => s.putByte (a + i) (bs.getD i 0)) s
  (List.range (bs.length / 16)).foldl (fun s i => if a % 16 = 0 then s.setGran (a + 16 * i) false else s) s

/-- Write one record, its body given without sequence number and CRC, to an enabled ring (R631): slot PROD mod 2^LOG2, RECORD_SEQ PROD + 1; a refused address loses the record and counts FL_FWD_ERR (R632). -/
def State.fsrWrite (s : State) (ring : Nat) (body : List Nat) : State :=
  let prodA := if ring = 8 then A.FL_DEV_PROD else A.FL_T_PROD ring
  let lg := if ring = 8 then s.fget A.FL_DEV_RING_CFG F.FL_DEV_RING_CFG_LOG2 else s.fget (A.FL_T_RING_CFG ring) F.FL_T_RING_CFG_LOG2
  let p := (s.rd prodA).toNat
  let b := putBytes body 4 (natLe 4 (p + 1))
  let r := b ++ natLe 4 (crc32c b)
  let s1 : State := match s.fsrHome ring (p % 2 ^ lg) with
    | some a => s.layBytes a r
    | none => match s.fsrPeer ring (p % 2 ^ lg) with
      | some (d, a, n) => { s with reqs := s.reqs ++ [⟨s.tagNext, .write, d, a, 64, r, n, 128, 0, 0, s.now, none, none, false⟩], tagNext := s.tagNext + 1 }
      | none => s.bump A.FL_FWD_ERR
  s1.wr prodA (BitVec.ofNat 64 (p + 1))

/-- Is a ring enabled? -/
def State.fsrOn (s : State) (ring : Nat) : Bool :=
  if ring = 8 then s.flag A.FL_DEV_RING_CFG F.FL_DEV_RING_CFG_EN else s.flag (A.FL_T_RING_CFG ring) F.FL_T_RING_CFG_EN

/-- A record for one ring: written when the ring is enabled, else buffered, else lost and counted (R632). -/
def State.fsrRing (s : State) (body : List Nat) (ring : Nat) : State :=
  if s.fsrOn ring then s.fsrWrite ring body
  else if s.fsrBuf.length < 256 then
    ({ s with fsrBuf := s.fsrBuf ++ [(ring, body)] }).fset A.FL_STATUS F.FL_STATUS_BUFFERED (s.fsrBuf.length + 1)
  else s.bump (if ring = 8 then A.FL_LOST else A.FL_T_LOST ring)

/-- Report an event (R629, R631): the rings of the tenants it names, every tenant's ring when it names none, and the device ring except where confidential mode withholds it. -/
def State.fsr (s : State) (k : Nat) (i : FsrInfo) : State :=
  let body := fsrBody s k 0 i
  let rings := match i.tenant with
    | some n => [n]
    | none => s.tenEs.map (·.id)
  let dev : Bool := !s.confMode || i.tenant.isNone || i.tenant == s.admin
  (rings ++ if dev then [8] else []).foldl (fun s r => s.fsrRing body r) s

/-- The domain whose block a register address lies in (R16, R69). -/
def regDom (a : Nat) : Nat :=
  match regAt a with
  | none => 0
  | some h =>
    match h.blk with
    | "LK" => 0 | "TU" => 0 | "NT" => 0
    | "FL" => 15 | "AS" => 15 | "TL" => 15 | "VC" => 15
    | "ST" => 14 | "PP" => 14
    | "XM" => 36 + h.inst
    | "AU" => if 0xC000 ≤ h.reg.off ∨ h.reg.off < 0x200 then 0 else 3
    | "RN" => 1 | "GP" => 2 | "IS" => 4 | "CA" => 5 | "IO" => 39 | "DB" => 38 | "HI" => 7
    | "BL" => 9 + h.inst | "BLD" => 15 | "HG" => 13
    | "AT" => 16 + h.inst | "SC" => 16 + h.inst | "CV" => 16 + h.inst
    | "TI" => 16 + h.inst / 8 | "MX" => 16 + h.inst / 8 | "VCV" => 16 + h.inst / 8
    | _ => 0

/-- A poisoned store to a channel without inline ECC loses its frame (R610): the frame table and every mapping entry are marked and FRAME_LOST is reported. -/
def State.loseFrame (s : State) (a : Nat) : State :=
  let k := frameKey a
  let f := s.frame k
  let pc := match s.vc.ents.find? fun kv => entValid kv.2 && entKey kv.2 == some k with
    | some kv => entClass kv.2
    | none => 0
  let s := s.setFrame k { f with lost := true }
  let s := s.poisonEnts fun e => entKey e == some k
  s.fsr 0x0B { domain := chanDom (chanOf a), tenant := if f.alloc then some f.owner else none, unit := chanOf a,
               address := k - 65536, pclass := pc }

/-- Write at home (R609): the bytes of `[lo, lo + n)` for which `cov` holds, those for which `pz` holds poisoned. A granule written poisoned is marked; a granule covered whole by clean bytes is cleared; another keeps its mark. A write to lost memory is discarded. -/
def State.homeWrite (s : State) (lo n : Nat) (byte : Nat → Nat) (cov pz : Nat → Bool) : State :=
  let anyP := (List.range n).any fun i => cov (lo + i) && pz (lo + i)
  if s.isLost lo then s
  else if area lo 1 = .t2 ∧ !s.inlineEcc (chanOf lo) ∧ anyP then s.loseFrame lo
  else
    let s1 := (List.range n).foldl (fun s i => if cov (lo + i) then s.putByte (lo + i) (byte (lo + i)) else s) s
    let g := s.granLen lo
    (List.range ((lo + n + g - 1) / g - lo / g)).foldl (fun s i =>
      let b := (lo / g + i) * g
      let inside : Nat → Bool := fun j => decide (lo ≤ b + j) && decide (b + j < lo + n) && cov (b + j)
      if ((List.range g).any fun j => inside j && pz (b + j)) then s.setGran b true
      else if (List.range g).all inside then s.setGran b false
      else s) s1

/-- Store some bytes at home, all with one poison mark. -/
def State.homeStore (s : State) (a : Nat) (bs : List Nat) (p : Bool) : State :=
  s.homeWrite a bs.length (fun x => bs.getD (x - a) 0) (fun _ => true) (fun _ => p)

/-! ### Translation and ownership (R65 to R68, R77, R138) -/

/-- What an address value names (R138): this device's local address, a routed peer's, or nothing. -/
inductive Dst where
  | err
  | here (a : Nat)
  | peer (dev a : Nat)
  deriving DecidableEq, Repr

/-- Read an address value: local form, or global form served locally when it carries this device's identifier and refused when no route covers it (R65, R138). -/
def State.dst (s : State) (va : Word) : Dst :=
  let v := va.toNat
  if v < 2 ^ 63 then (if v < 2 ^ 43 then .here v else .err)
  else
    let g := v - 2 ^ 63
    if 2 ^ 57 ≤ g then .err
    else if g / 2 ^ 43 = s.devId then .here (g % 2 ^ 43)
    else if (s.route (g / 2 ^ 43)).isSome then .peer (g / 2 ^ 43) (g % 2 ^ 43)
    else .err

/-- The tenant number that stands for boot firmware, which runs under no tenant (R643). -/
def bootTen : Nat := 8

/-- Is a physical access of a tenant allowed (R68)? A retired tile's window and T2 beyond the trained capacity are not (R93, R617). Boot firmware reaches all physical memory until a plat is applied (R643). -/
def State.physOk (s : State) (n a : Nat) : Bool :=
  if n = bootTen then
    s.plat.cur.isNone && (match area a 1 with
      | .t1 => true
      | .t2 => decide ((a - t2Base) % 0x400000000 / pageSize < s.trained (chanOf a))
      | .t0 => !s.retired.has (tileOf a)
      | _ => false)
  else match area a 1 with
  | .t1 => s.ownsVault n (vaultOf a)
  | .t2 => s.ownsChan n (chanOf a) && decide ((a - t2Base) % 0x400000000 / pageSize < s.trained (chanOf a))
  | .t0 => s.ownsTile n (tileOf a) && !s.retired.has (tileOf a)
  | _ => false

/-- The outcome of translating an access: a location, a page that is moving, or an error; `late` errors come from the home (R150). -/
inductive Res where
  | ok (l : Loc)
  | moving (page : Nat)
  | bad (late : Bool)
  deriving DecidableEq, Repr

/-- The tier of a local address (R71). -/
def tierOf (a : Nat) : Nat :=
  match area a 1 with
  | .t1 => 1
  | .t2 => 2
  | _ => 0

/-- A physical address as a location: lost memory reads as poison (R619). -/
def State.physLoc (s : State) (a : Nat) : Loc := if s.isLost a then .lost (tierOf a) else .mem a

/-- Translate and check an access of tenant `n` to `[va, va + len)` (R65 to R68, R77, R150). Every device has the same local map, so a global address outside it is an error here (R66). -/
def State.resolve (s : State) (n : Nat) (va : Word) (len : Nat) (wr : Bool) : Res :=
  match s.dst va with
  | .err => .bad false
  | .peer d a => if area a len = .none then .bad false else .ok (.peer d a)
  | .here a =>
    match area a len with
    | .none => .bad false
    | .ctl => .ok (.reg a)
    | .obj =>
      let page := (a - objBase) / pageSize
      let off := (a - objBase) % pageSize
      let e := s.ent n page
      if !entValid e || (wr && !entWritable e) then .bad false
      else if entMigrating e then .moving page
      else if entPoisoned e then .ok (.lost (entTier e))
      else
        (match entTier e with
        | 0 =>
          let t := entFrame e % 128
          if s.retired.has t then .ok (.lost 0) else .ok (.mem (t0Base + t * pageSize + off))
        | 3 =>
          let d := entFrame e / 65536
          if (s.route d).isSome then .ok (.peer d (entFrame e % 65536 * pageSize + off)) else .bad false
        | _ => .ok (s.physLoc (frameAddr ((entKey e).getD 0) + off)))
    | _ => if s.physOk n a then .ok (s.physLoc a) else .bad true

/-- Set ACCESSED on the first access after a map or a move (R77). -/
def State.touchPage (s : State) (n : Nat) (va : Word) : State :=
  match s.dst va with
  | .here a =>
    if area a 1 = .obj then
      let page := (a - objBase) / pageSize
      let e := s.ent n page
      if entValid e && !bit e.toNat 7 then s.setEnt n page (e ||| 0x80#64) else s
    else s
  | _ => s

/-- The tier an address names before it is translated: that of a physical address (R71); others read as T3. -/
def State.vaTier (s : State) (va : Word) : Nat :=
  match s.dst va with
  | .here a => tierOf a
  | _ => 3

/-- The domains an access to a location needs (R18, R70, R471). -/
def State.locDoms (_s : State) : Loc → List Nat
  | .mem a =>
    (match area a 1 with
    | .t1 => [16 + vaultOf a / 8, 32 + layerOf a]
    | .t2 => [chanDom (chanOf a)]
    | .t0 => [16 + tileOf a / 8]
    | _ => [])
  | .reg a => [regDom a]
  | _ => []

/-- What an access does to the domains it needs (R476, R478): an entry in preparation is aborted; a domain that is not On wakes and the access is held, or is refused when any of them has WAKE_ON_ACCESS 0. -/
inductive DomCheck where
  | go
  | wait (doms : List Nat)
  | refuse
  deriving DecidableEq, Repr

/-- Judge the domains an access needs. -/
def State.domCheck (s : State) (ds : List Nat) : DomCheck :=
  let down := ds.filter fun d => !s.isOn d
  if down = [] then .go
  else if (down.any fun d => !(s.domE d).wakeAcc) then .refuse
  else .wait down

/-- Carry out what R476 and R478 say of an access to some domains: abort entries, and demand wakes unless the access is refused. -/
def State.domTouch (s : State) (ds : List Nat) : State :=
  let s := ds.foldl (fun s d => s.abortEntry d) s
  match s.domCheck ds with
  | .wait down => down.foldl (fun s d => s.demandWake d) s
  | _ => s

/-! ### Requesters, their classes and what they transfer (R76, R78, R97, R98) -/

/-- Who accesses memory inside the device: the cluster it works through, its tenant, the cache ways of its partition there, its partition (16 for a requester that works for none, R90), and the requester itself: tile t by its number, an engine of cluster c as 128 + c, the B operand of tile t's matrix unit as 256 + t (R220), any other as 255. -/
structure Via where
  cl : Nat
  tenant : Nat
  ways : Nat
  part : Nat
  src : Nat
  deriving DecidableEq, Repr

/-- The class of a requester at a vault (R76): 0 the tile beneath it, 1 engines of its cluster, 2 the others. -/
def vaultClass (src v : Nat) : Nat :=
  if src = v ∨ src = 256 + v then 0
  else if src = 128 + v / 8 ∨ (256 ≤ src ∧ (src - 256) / 8 = v / 8) then 1
  else 2

/-- Count `n` bytes transferred for a class at a vault, or on a channel of T2 (R97, R98). -/
def State.movedAs (s : State) (cls a n : Nat) : State :=
  match area a 1 with
  | .t1 =>
    let k := vaultOf a * 8 + cls
    { s with arb := { s.arb with bytes := Tab.set s.arb.bytes 0 k (satAdd 64 (Tab.get s.arb.bytes 0 k) n) } }
  | .t2 => { s with arb := { s.arb with chBytes := Tab.set s.arb.chBytes 0 (chanOf a) (satAdd 64 (Tab.get s.arb.chBytes 0 (chanOf a)) n) } }
  | _ => s

/-- Count `n` bytes that a requester transfers at home. -/
def State.moved (s : State) (src a n : Nat) : State := s.movedAs (vaultClass src (vaultOf a)) a n

/-- Accesses of a partition to a tier stay stalled by a cause for at least `ns` (R88, R90). -/
def State.stallFor (s : State) (part tier cause ns : Nat) : State :=
  let k := part * 32 + tier * 8 + cause
  if part < 16 then { s with arb := { s.arb with due := Tab.set s.arb.due 0 k (max (Tab.get s.arb.due 0 k) ns) } } else s

/-- Put a translation at the front of a cache of `n` entries; the least recently used leaves a full one (log entry 67). -/
def tlbPut (n k : Nat) (l : List Nat) : List Nat := (k :: l.filter fun x => x != k).take n

/-- The translation of an access of a requester is used (R72, R78): it is brought into its cluster's cache, and its tile's where the requester is a tile. One that neither holds is a miss, which stalls the access for at most 110 ns. -/
def State.translated (s : State) (v : Via) (page : Nat) : State :=
  let k := v.tenant * 524288 + page
  let e := s.ent v.tenant page
  if v.cl < 16 then
    let own := if v.src < 128 then Tab.get s.tlb [] v.src else []
    let all := Tab.get s.tlb [] (128 + v.cl)
    let hit := own.contains k || all.contains k
    let t := Tab.set s.tlb [] (128 + v.cl) (tlbPut 2048 k all)
    let t := if v.src < 128 then Tab.set t [] v.src (tlbPut 64 k own) else t
    let s1 : State := { s with tlb := t }
    if hit then s1
    else ({ s1 with free := s1.free + 1 } : State).stallFor v.part (max 1 (entTier e)) 5 ((Config.freeValue s.free).toNat % 111)
  else s

/-! ### Cluster caches (R91, R115, R122) -/

/-- An access through a view to an object page: ACCESSED is set and the translation is used (R77, R78). -/
def State.touch (s : State) (v : Via) (va : Word) : State :=
  match s.dst va with
  | .here a => if area a 1 = .obj then (s.touchPage v.tenant va).translated v ((a - objBase) / pageSize) else s
  | _ => s

/-- Is a location cached by cluster `c` (R115)? T1 of another cluster, T2 and peers are. -/
def cacheable (c : Nat) : Loc → Bool
  | .mem a =>
    (match area a 1 with
    | .t1 => vaultOf a / 8 != c
    | .t2 => true
    | _ => false)
  | .peer _ _ => true
  | _ => false

/-- The key of a location for the caches: a peer's address carries its identifier above bit 43. -/
def Loc.key : Loc → Nat
  | .mem a => a
  | .peer d a => (d + 1) * 2 ^ 43 + a
  | .reg a => a
  | .lost _ => 0

/-- The set that holds a line (log entry 11). -/
def lineSet (c k : Nat) : Nat := c * 4096 + k / 128 % 4096

/-- The lines of a set, most recently used first. -/
def State.lines (s : State) (i : Nat) : List Line := Tab.get s.caches [] i

/-- Write the lines of a set. -/
def State.setLines (s : State) (i : Nat) (ls : List Line) : State := { s with caches := Tab.set s.caches [] i ls }

/-- Look a line up in the ways the tenant holds in the cluster (R91). -/
def State.findLine (s : State) (c n k : Nat) : Option Line :=
  (s.lines (lineSet c k)).find? fun l => l.addr == k / 128 * 128 && bit (s.tenantWays n c) l.way

/-- Write a line home: only the bytes written in this cluster, each with its mark (R91). A line of a peer is never dirty (log entry 12). -/
def State.writeBack (s : State) (l : Line) : State :=
  if l.dirty = 0 ∨ 2 ^ 43 ≤ l.addr then s
  else (s.moved 255 l.addr (popcount 128 l.dirty)).homeWrite l.addr 128 (fun x => l.data.getD (x - l.addr) 0) (fun x => bit l.dirty (x - l.addr))
        (fun x => bit l.psn ((x - l.addr) / 16))

/-- Remove a line from its set. -/
def State.dropLine (s : State) (c : Nat) (l : Line) : State :=
  let i := lineSet c l.addr
  s.setLines i ((s.lines i).filter fun m => !(m.addr == l.addr && m.way == l.way))

/-- Put a line at the front of its set, in place of its old copy. -/
def State.putLine (s : State) (c : Nat) (l : Line) : State :=
  let i := lineSet c l.addr
  s.setLines i (l :: (s.lines i).filter fun m => !(m.addr == l.addr && m.way == l.way))

/-- The way a new line takes: a free way of the partition, else that of the least recently used line among the partition's ways, which is written back (R91). -/
def State.makeRoom (s : State) (c ways k : Nat) : State × Option Nat :=
  let ls := s.lines (lineSet c k)
  match (bitsOf 16 ways).find? fun w => ls.all fun l => l.way != w with
  | some w => (s, some w)
  | none =>
    match ls.reverse.find? fun l => bit ways l.way with
    | some l => ((s.writeBack l).dropLine c l, some l.way)
    | none => (s, none)

/-- Bring the line of a local address into the cluster for a partition, from home when it misses; none when the partition holds no way there. -/
def State.fill (s : State) (c n ways a : Nat) : State × Option Line :=
  match s.findLine c n a with
  | some l => (s.putLine c l, some l)
  | none =>
    let base := a / 128 * 128
    match s.makeRoom c ways base with
    | (s, none) => (s, none)
    | (s, some w) =>
      let l : Line := ⟨base, w, s.homeBytes base 128, 0, maskOf ((List.range 8).filter fun g => s.homePsn (base + 16 * g) 16)⟩
      ((s.moved 255 base 128).putLine c l, some l)

/-- Is any granule of `[o, o + n)` of a line poisoned? -/
def Line.psnIn (l : Line) (o n : Nat) : Bool := (List.range ((o + n + 15) / 16 - o / 16)).any fun i => bit l.psn (o / 16 + i)

/-- Store bytes into a line (R91, R609): marks them dirty and sets or clears poison per granule. -/
def Line.store (l : Line) (o : Nat) (bs : List Nat) (p : Bool) : Line :=
  { l with
    data := putBytes l.data o bs
    dirty := l.dirty ||| maskOf ((List.range bs.length).map fun i => o + i)
    psn := (List.range 8).foldl (fun m g =>
      if 16 * g + 16 ≤ o ∨ o + bs.length ≤ 16 * g then m
      else if p then m ||| 2 ^ g
      else if o ≤ 16 * g ∧ 16 * g + 16 ≤ o + bs.length then (if bit m g then m - 2 ^ g else m)
      else m) l.psn }

/-- The tier of a location, 0 to 3 (R71). -/
def Loc.tier : Loc → Nat
  | .mem a => tierOf a
  | .lost t => t
  | .peer _ _ => 3
  | .reg _ => 0

/-- The tier a stall of an access is charged to: T0 stalls are charged to T1 (R90). -/
def chargeTier (t : Nat) : Nat := if t = 0 then 1 else t

/-- The FAIL event of a partition's access to a tier whose data arrive poisoned (R89, R90). -/
def State.countFail (s : State) (v : Via) (l : Loc) (z : Bool) : State :=
  if z && decide (v.part < 16) then s.fadd (A.VC_STALL v.part (chargeTier l.tier - 1) 7) (63, 0) 1 else s

/-- What a load of `n` bytes that lie in one line gives, through the cluster's cache where it is cacheable: bytes and poison. A poisoned or lost location gives poison (R77, R91, R609). -/
def State.loadLine (s : State) (v : Via) (l : Loc) (n : Nat) : State × List Nat × Bool :=
  match l with
  | .lost _ => (s, List.replicate n 0, true)
  | .mem a =>
    if cacheable v.cl l then
      match s.fill v.cl v.tenant v.ways a with
      | (s, some ln) => (s, slice ln.data (a % 128) n, ln.psnIn (a % 128) n)
      | (s, none) => (s.moved v.src a n, s.homeBytes a n, s.homePsn a n)
    else (s.moved v.src a n, s.homeBytes a n, s.homePsn a n)
  | .peer _ _ =>
    match s.findLine v.cl v.tenant l.key with
    | some ln => (s.putLine v.cl ln, slice ln.data (l.key % 128) n, ln.psnIn (l.key % 128) n)
    | none => (s, List.replicate n 0, true)
  | .reg _ => (s, List.replicate n 0, false)

/-- Load `n` bytes that lie in one line from a location; poisoned data count as a FAIL event (R89). -/
def State.loadAt (s : State) (v : Via) (l : Loc) (n : Nat) : State × List Nat × Bool :=
  match s.loadLine v l n with
  | (s, bs, z) => (s.countFail v l z, bs, z)

/-- Store bytes that lie in one line to a location, in the cluster where it is cacheable, else at home (R91, R115). A store to lost memory is discarded (R77). -/
def State.storeAt (s : State) (v : Via) (l : Loc) (bs : List Nat) (p : Bool) : State :=
  match l with
  | .mem a =>
    if cacheable v.cl l then
      match s.fill v.cl v.tenant v.ways a with
      | (s, some ln) => s.putLine v.cl (ln.store (a % 128) bs p)
      | (s, none) => (s.moved v.src a bs.length).homeStore a bs p
    else (s.moved v.src a bs.length).homeStore a bs p
  | _ => s

/-- READs of a cluster and tenant that are under way to peer lines `p` holds of bring bytes older than what the cluster has done to them: their lines are not kept (R117, R119, R122). -/
def State.staleReads (s : State) (c n : Nat) (p : Nat → Bool) : State :=
  { s with reqs := s.reqs.map fun (q : RReq) =>
      if q.kind = .read ∧ q.tile < 128 ∧ q.tile / 8 = c ∧ q.tenant = n ∧ p ((q.dev + 1) * 2 ^ 43 + q.addr) then { q with stale := true } else q }

/-- Load `n` bytes at home for an access that no cluster cache serves (R119, R121): the state with what was counted, the number, and its mark. -/
def State.homeLoad (s : State) (v : Via) (a n : Nat) : State × Nat × Bool :=
  let z := s.homePsn a n
  ((s.moved v.src a n).countFail v (.mem a) z, leNat (s.homeBytes a n), z)

/-- Write back and then invalidate the cluster's copy of a location's line, as an access at home does first (R119, R121). -/
def State.cleanLine (s : State) (v : Via) (l : Loc) : State :=
  let s := s.staleReads v.cl v.tenant fun k => k == l.key / 128 * 128
  match s.findLine v.cl v.tenant l.key with
  | some ln => (s.writeBack ln).dropLine v.cl ln
  | none => s

/-- One line of a range operation (R122): CWB 0, CINV 1, CWBI 2; `whole` when the line lies wholly in the range. -/
def State.rangeLine (s : State) (c op : Nat) (whole : Bool) (l : Line) : State :=
  if op = 0 then (s.writeBack l).putLine c { l with dirty := 0 }
  else if op = 1 ∧ whole then s.dropLine c l
  else (s.writeBack l).dropLine c l

/-- The lines of a cluster that meet `[k, k + n)` of the cache key space and lie in some ways. -/
def State.linesIn (s : State) (c ways k n : Nat) : List Line :=
  (s.caches.filter fun e => decide (c * 4096 ≤ e.1) && decide (e.1 < (c + 1) * 4096)).flatMap fun e =>
    e.2.filter fun l => decide (k < l.addr + 128) && decide (l.addr < k + n) && bit ways l.way

/-- A range operation over one physical range in a partition's ways of a cluster (R122). -/
def State.rangeOp (s : State) (c ways op k n : Nat) : State :=
  (s.linesIn c ways k n).foldl (fun s l => s.rangeLine c op (decide (k ≤ l.addr) && decide (l.addr + 128 ≤ k + n)) l) s

/-- Write back and invalidate a local range in every cluster cache (R80, R84). -/
def State.flushAll (s : State) (a n : Nat) : State :=
  (List.range 16).foldl (fun s c => s.rangeOp c 0xFFFF 2 a n) s

/-- Zero-fill `[a, a + n)` of memory, clearing its poison marks (R74, R80). -/
def State.zeroFill (s : State) (a n : Nat) : State :=
  { s with mem := Tab.clear s.mem a n, psn := NSet.clear s.psn (a / 16) (n / 16) }

/-- Copy `n` bytes with their poison marks (R84). -/
def State.copyRange (s : State) (src dst n : Nat) : State :=
  let cells := s.mem.filter fun c => decide (src ≤ c.1) && decide (c.1 < src + n)
  let marks := s.psn.filter fun g => decide (src / 16 ≤ g) && decide (g < (src + n) / 16)
  let s := s.zeroFill dst n
  let s := cells.foldl (fun s c => s.putByte (c.1 - src + dst) c.2.toNat) s
  { s with psn := marks.foldl (fun p g => NSet.add (g - src / 16 + dst / 16) p) s.psn }

end Sys2Proof.Machine
end

