-- ==== Sys2Proof/Machine/ThreadOps.lean ====
section
/-!
DEFINITION. Issuing an instruction of a thread: when it may issue, what its fetch can raise, the registers it must wait for, and how it retires (R100, R139, R141, R143, R184).
-/
namespace Sys2Proof.Machine

/-- ILLEGAL (R128). -/
def excIllegal : Nat := 1
/-- ALIGN (R128). -/
def excAlign : Nat := 2
/-- ACCESS (R128). -/
def excAccess : Nat := 3
/-- WAKE_LIMIT (R128). -/
def excWake : Nat := 4
/-- REMOTE_TIMEOUT (R128). -/
def excRemote : Nat := 5
/-- STORE_ERROR (R128). -/
def excStore : Nat := 6
/-- POISON_USE (R128). -/
def excPoison : Nat := 7
/-- MSG_TARGET (R128). -/
def excTarget : Nat := 8
/-- TRAP (R128). -/
def excTrap : Nat := 9

/-- The scalar register an outstanding access will write, if any. -/
def Acc.destX (a : Acc) : Option Nat :=
  if a.tend.isSome then none
  else match a.kind with
  | .load rd _ _ => some rd
  | .amo _ rd _ => some rd
  | _ => none

/-- The vector register an outstanding access will write, if any. -/
def Acc.destV (a : Acc) : Option Nat :=
  if a.tend.isSome then none
  else match a.kind with
  | .vload vd => some vd
  | _ => none

/-- Is the access a store (R129)? -/
def Acc.isStore (a : Acc) : Bool := match a.kind with
  | .store _ => true
  | _ => false

/-- Among the accesses that a domain's wake released, is none of an earlier arrival still to proceed (R478)? -/
def State.resumeFirst (s : State) (key acc : Nat) : Bool :=
  s.resumeq.all fun e => e.2.1 != key || e.2.2 != acc ||
    ((s.resumeq.find? fun f => f.1 == e.1) == some e)

/-- The access has proceeded. -/
def State.resumed (s : State) (key acc : Nat) : State :=
  { s with resumeq := s.resumeq.filter fun e => !(e.2.1 == key && e.2.2 == acc) }

/-- Where a program counter may fetch from (R139): a tile SRAM window, T1, or an object page in T0 or T1, at local-form addresses. Boot firmware goes on fetching from its tile once a plat is applied: it must end with TEND (R643). -/
def State.fetchOk (s : State) (n : Nat) (pc : Word) : Bool :=
  if 2 ^ 43 ≤ pc.toNat then false
  else match area pc.toNat 4 with
  | .t0 => s.physOk n pc.toNat || (n == bootTen && tileOf pc.toNat == 0)
  | .t1 => s.physOk n pc.toNat
  | .obj =>
    let e := s.ent n ((pc.toNat - objBase) / pageSize)
    entValid e && decide (entTier e < 2)
  | _ => false

/-- Is a context's job gated: dispatched before its packet was accepted (R350)? Its journal entry is still being written. -/
def State.gatedCtx (s : State) (c : Nat) : Bool := s.hg.jr.any fun e => e.ctx == c && e.st == .writing

/-- May the thread issue: READY, its cluster On, its job running (or stopping for a save, for an instruction that had issued and stalled: R387) and not being ended, no register of the instruction still to be loaded (s6 of a gated job waits for the time of acceptance, log entry 74), and no stalled access that arrived before its own (R100, R131, R184, R478)? -/
def State.canIssue (s : State) (h : Th) (xs vs : List RegNo) : Bool :=
  let t := s.thread h.tile h.thr
  t.st == .ready && s.isOn (16 + h.tile / 8) && !s.retired.has h.tile &&
  (match s.jobAt h.tile with
    | some (c, j) => (j.running || s.resumeq.any fun e => e.2.1 == h.tile * 16 + h.thr && e.2.2 == 0) && !j.ending && !(xs.contains 6 && s.gatedCtx c)
    | none => false) &&
  s.resumeFirst (h.tile * 16 + h.thr) 0 &&
  t.acc.all fun a =>
    (match a.destX with
      | some r => !(xs.any fun x => x.toNat == r && x != 0)
      | none => true) &&
    (match a.destV with
      | some r => !(vs.any fun x => x.toNat == r)
      | none => true)

/-- Is a tile's job gated (R350)? -/
def State.gated (s : State) (tile : Nat) : Bool := (s.jobAt tile).any fun x => s.gatedCtx x.1

/-- A store, atomic, message, engine command or range operation of a gated job waits for the packet's acceptance (R350). -/
def State.pastGate (s : State) (h : Th) (k : State) : State := if s.gated h.tile then s else k

/-- The tenant of a tile's job. -/
def State.tenantAt (s : State) (tile : Nat) : Nat :=
  match s.jobAt tile with
  | some (_, j) => j.tenant
  | none => 0

/-- Issue an instruction of a thread. One that cannot issue yet waits and changes nothing (log entry 2). A fetch that fails raises its exception (R139), a reserved encoding ILLEGAL (R143); otherwise the instruction's own effect follows. -/
def issue (h : Th) (xs vs : List RegNo) (s : State) (k : Thread → State) : Out :=
  if 128 ≤ h.tile ∨ 16 ≤ h.thr then .fault .noSuchUnit
  else if !s.canIssue h xs vs then .next s
  else
    let t := s.thread h.tile h.thr
    let s1 :=
      if !s.fetchOk (s.tenantAt h.tile) t.pc then s.raise h.tile h.thr excAccess 0 t.pc
      else match h.fetch with
      | .error => s.raise h.tile h.thr excAccess 0 t.pc
      | .wakeLimit => s.raise h.tile h.thr excWake 0 t.pc
      | .poisoned => s.raise h.tile h.thr excPoison 0 t.pc
      | .reserved => s.raise h.tile h.thr excIllegal 0 0
      | .ok => k t
    .next (s1.resumed (h.tile * 16 + h.thr) 0)

/-- Put back a thread whose instruction has taken effect: the PC moves on by 4 and INSTRET counts it (R137). -/
def State.retire (s : State) (h : Th) (t : Thread) : State :=
  s.setThread h.tile h.thr { t with pc := t.pc + 4, instret := t.instret + 1 }

/-- Put back a thread that goes on at an address. -/
def State.jump (s : State) (h : Th) (t : Thread) (pc : Word) : State :=
  s.setThread h.tile h.thr { t with pc := pc, instret := t.instret + 1 }

/-- Raise an exception of the issuing thread. -/
def State.exc (s : State) (h : Th) (cause : Nat) (eaddr : Word) : State := s.raise h.tile h.thr cause 0 eaddr

/-- The cache view of a tile's threads: its cluster, tenant, and its partition's ways there (R91). -/
def State.viaTile (s : State) (tile : Nat) : Via :=
  let c := tile / 8
  match s.tilePart tile with
  | some e => ⟨c, e.tenant, e.waysIn c, e.id, tile⟩
  | none => ⟨c, s.tenantAt tile, 0, 16, tile⟩

/-- A point at which an arrived store error is raised (R129): the oldest is raised and the instruction has no effect. Otherwise the instruction goes on. -/
def State.storePoint (s : State) (h : Th) (t : Thread) (k : State) : State :=
  match t.serr with
  | [] => k
  | e :: es => (s.setThread h.tile h.thr { t with serr := es }).raise h.tile h.thr excStore e.sub e.addr

/-- The thread's access is held: the thread is STALLED and its instruction has not taken effect; it executes again when the access may proceed (R101, R478). -/
def State.stall (s : State) (h : Th) (w : Hold) (va : Word) : State :=
  let t := s.thread h.tile h.thr
  { s.setThread h.tile h.thr { t with st := .stalled, hold := w, holdVa := va } with stallq := s.stallq ++ [(h.tile * 16 + h.thr, 0)] }

/-- Carry out what an access does to the domains it needs and hold the thread until they are On (R478). -/
def State.stallWake (s : State) (h : Th) (ds : List Nat) (tier : Nat) (va : Word) : State :=
  (s.domTouch ds).stall h (.wake (ds.filter fun d => !s.isOn d) tier) va

/-- Send a request to a peer (R531): it is tracked under a new tag until it is answered. -/
def State.sendReq (s : State) (k : RKind) (dev addr len : Nat) (data : List Nat) (tenant : Nat) (h : Th) (acc : Nat) : State :=
  { s with reqs := s.reqs ++ [⟨s.tagNext, k, dev, addr, len, data, tenant, h.tile, h.thr, acc, s.now, none, none, false⟩], tagNext := s.tagNext + 1 }

/-- A posted access takes the next number in the order of arrival (R76, R94). -/
def State.stamped (s : State) : State := { s with arb := { s.arb with stamp := s.arb.stamp + 1 } }

/-- The command by which a thread issues the instruction at its PC (R139, R142, R143): what the word there spells, or the way in which its fetch fails. A reserved word stands for no instruction, so its operands are zeros. -/
def State.nextInstr (s : State) (tile thr : Nat) : Instr :=
  let pc := (s.thread tile thr).pc
  let n := s.tenantAt tile
  let as_ (f : Fetch) : Instr := .add ⟨tile, thr, f⟩ 0 0 0
  match s.fetchOk n pc, s.resolve n pc 4 false with
  | true, .ok l =>
    (match s.loadLine (s.viaTile tile) l 4 with
    | (_, _, true) => as_ .poisoned
    | (_, bs, false) => (decodeWord ⟨tile, thr, .ok⟩ (BitVec.ofNat 32 (leNat bs))).getD (as_ .reserved))
  | _, _ => as_ .error

/-- CYCLES of a thread: tile cycles of its cluster since release (R137, R482). -/
def State.cycles (s : State) (tile : Nat) (t : Thread) : Nat := Tab.get s.ticks 0 (tile / 8) / 2560 - t.cyc0

end Sys2Proof.Machine
end

