-- ==== Sys2Proof/Machine/Access.lean ====
section
/-!
DEFINITION. How an outstanding access of a thread ends: tiers, loaded values, store errors and stall limits (R71, R90, R129, R133, R148, R479); and how vaults and memory channels choose among the accesses that wait (R76, R94).
-/
namespace Sys2Proof.Machine

/-- The value of a scalar load: the low bytes, sign-extended when asked (R148). -/
def loadValue (n : Nat) (sx : Bool) (v : Nat) : Word :=
  if sx then BitVec.ofInt 64 (sgn (8 * n) v) else BitVec.ofNat 64 (v % 2 ^ (8 * n))

/-- A load whose every part has arrived writes its destination (R133, R135); a load left behind by TEND writes nothing (R105). -/
def Thread.finish (t : Thread) (a : Acc) (got : List (Nat × Nat × Bool)) : Thread :=
  if a.tend.isSome then t
  else match a.kind with
  | .load rd n sx =>
    (match got with
    | (_, v, z) :: _ => t.setX (BitVec.ofNat 5 rd) (loadValue n sx v) z
    | [] => t)
  | .vload vd => got.foldl (fun t l => t.setV (BitVec.ofNat 5 vd) l.1 (BitVec.ofNat 32 l.2.1) l.2.2) t
  | _ => t

/-- Put an access back after one of its groups was performed, or finish it. -/
def Thread.advance (t : Thread) (a : Acc) (todo : List (List Part)) (got : List (Nat × Nat × Bool)) : Thread :=
  if todo = [] then { t.finish a got with acc := t.acc.filter fun b => b.id != a.id }
  else { t with acc := t.acc.map fun b => if b.id = a.id then { b with todo := todo, got := got } else b }

/-- An error response for a posted store of a thread (R129): held until the thread's next ordering point, or, for a store that TEND left behind, recorded in the tile's registers and ranked with the job's statuses. -/
def State.storeError (s : State) (tile thr : Nat) (a : Acc) (sub : Nat) : State :=
  let t := s.thread tile thr
  let va := match a.todo with
    | (p :: _) :: _ => p.va
    | _ => 0
  let t1 := { t with acc := t.acc.filter fun b => b.id != a.id }
  match a.tend with
  | none => s.setThread tile thr { t1 with serr := t1.serr ++ [⟨sub, va⟩] }
  | some pc =>
    let s := (s.setThread tile thr t1).recordExc tile thr excStore sub pc va
    match s.jobAt tile with
    | some (c, j) => s.setJob c (some { j with stats := j.stats ++ [(excStatus excStore sub, excStore)] })
    | none => s

/-- The partition of a tile, for the counters of R90; 16 where it has none. -/
def State.partNo (s : State) (tile : Nat) : Nat :=
  match s.tilePart tile with
  | some e => e.id
  | none => 16

/-- Is the location's line held by the cluster for the tenant? -/
def State.cached (s : State) (v : Via) (l : Loc) : Bool :=
  cacheable v.cl l && (s.findLine v.cl v.tenant l.key).isSome

/-- The domains an access of a view needs at a location: none when its cluster holds the line (R18, R91). -/
def State.needDoms (s : State) (v : Via) (home : Bool) (l : Loc) : List Nat :=
  if !home && s.cached v l then [] else s.locDoms l

/-- Do two parts touch a common byte? -/
def Part.overlaps (p q : Part) : Bool :=
  match p.loc, q.loc with
  | .lost _, _ => false
  | _, .lost _ => false
  | _, _ => decide (p.loc.key < q.loc.key + q.n) && decide (q.loc.key < p.loc.key + p.n)

/-- Is a part at a peer? -/
def Part.remote (p : Part) : Bool := match p.loc with
  | .peer _ _ => true
  | _ => false

/-- The domain with the largest stall limit among some (R478). -/
def State.limitDom (s : State) (ds : List Nat) : Nat :=
  ds.foldl (fun b d => if (s.domE b).limitUs < (s.domE d).limitUs then d else b) (ds.headD 0)

/-- Count an access that reached its stall limit (R90, R479); one with no partition is counted at the domain alone. -/
def State.countLimit (s : State) (part tier : Nat) (ds : List Nat) : State :=
  let s := s.bump (A.LK_D_STALL_LIMIT (s.limitDom ds))
  if part < 16 then s.fadd (A.VC_STALL part (tier - 1) 6) (63, 0) 1 else s

/-- The new value of an atomic over `n` bytes (R121, R152): 0 ADD, 1 AND, 2 OR, 3 XOR, 4 SMIN, 5 SMAX, 6 UMIN, 7 UMAX, 8 SWAP, 9 CAS (which stores its operand). -/
def amoValue (op n old x : Nat) : Nat :=
  let m := 2 ^ (8 * n)
  match op with
  | 0 => (old + x) % m
  | 1 => old &&& x
  | 2 => old ||| x
  | 3 => old ^^^ x
  | 4 => if sgn (8 * n) x < sgn (8 * n) old then x else old
  | 5 => if sgn (8 * n) old < sgn (8 * n) x then x else old
  | 6 => if x < old then x else old
  | 7 => if old < x then x else old
  | _ => x

/-- What an atomic stores, with its poison mark (R153, R155): CAS stores only when the old value equals the compare value and neither is poisoned; a poisoned old value or operand poisons the result, except that SWAP with a clean operand stores a clean value. -/
def amoStore (op n old : Nat) (pold : Bool) (x : Nat) (px : Bool) (cmp : Nat) (pcmp : Bool) : Option (Nat × Bool) :=
  if op = 9 then
    (if pold || pcmp || old != cmp then none else some (x, px))
  else if op = 8 then some (x, px)
  else some (amoValue op n old x, pold || px)

/-! ### Arbitration at the vaults and the memory channels (R76, R94) -/

/-- An outstanding part of an access that has arrived where it is performed at home and waits to be served: its thread's tile, the access, the group, the order of its arrival, and its address in T1 or T2. -/
structure Waiting where
  tile : Nat
  thr : Nat
  acc : Nat
  grp : Nat
  stamp : Nat
  addr : Nat
  deriving DecidableEq, Repr

/-- The parts of a thread's accesses that come before access `id`. -/
def Thread.earlier (t : Thread) (id : Nat) : List Part :=
  ((t.acc.takeWhile fun a => a.id != id).flatMap fun a => a.todo.flatten)

/-- May a group of an outstanding access take effect as far as the thread and the domains go? Stores perform their groups in ascending order (R180); bytes an earlier access of the thread still touches come first (R117), and so do accesses that a wake released before this one (R478). -/
def State.groupReady (s : State) (tile thr : Nat) (t : Thread) (a : Acc) (grp : Nat) (g : List Part) : Bool :=
  let v := s.viaTile tile
  a.bad == 0 && a.wake == [] && !(a.isStore && grp != 0) && !(g.any Part.remote && g.any fun p => p.tag != 0) &&
    !(g.any fun p => (t.earlier a.id).any fun q => q.overlaps p) && s.resumeFirst (tile * 16 + thr) a.id &&
    g.all fun p => (s.needDoms v false p.loc).all s.isOn

/-- Where a group waits at home: its address in a vault or on a channel, unless the cluster's cache serves it. A releasing store completes at home (R119). -/
def State.groupHome (s : State) (tile : Nat) (a : Acc) (g : List Part) : Option Nat :=
  g.findSome? fun p => match p.loc with
    | .mem x => if (area x 1 = .t1 ∨ area x 1 = .t2) ∧ (a.kind = .store true ∨ !s.cached (s.viaTile tile) p.loc) then some x else none
    | _ => none

/-- What waits at the vaults and the channels for its turn. -/
def State.waitings (s : State) : List Waiting :=
  s.threads.flatMap fun kt => kt.2.acc.flatMap fun a =>
    ((List.range a.todo.length).zip a.todo).filterMap fun ig =>
      if s.groupReady (kt.1 / 16) (kt.1 % 16) kt.2 a ig.1 ig.2 then
        (s.groupHome (kt.1 / 16) a ig.2).map fun x => ⟨kt.1 / 16, kt.1 % 16, a.id, ig.1, a.stamp, x⟩
      else none

/-- Do two waiting parts wait at the same vault, or at the same channel? -/
def Waiting.meets (x y : Waiting) : Bool :=
  area x.addr 1 == area y.addr 1 && (if area x.addr 1 = .t2 then chanOf x.addr == chanOf y.addr else vaultOf x.addr == vaultOf y.addr)

/-- The weight of a class at a vault (R76). -/
def classWeight (c : Nat) : Nat := if c < 2 then 4 else if c = 2 then 2 else 1

/-- The class a vault serves next among those with something pending, in weighted round robin (R76): the class whose turn it is while it has transfers left, then the others in turn. -/
def nextClass (turn : Nat × Nat) (pend : Nat → Bool) : Option Nat :=
  if pend turn.1 && decide (turn.2 < classWeight turn.1) then some turn.1
  else ((List.range 4).map fun i => (turn.1 + 1 + i) % 4).find? pend

/-- The partition a channel grants next: the first with a pending burst after the one granted last (R94). -/
def nextGrant (last : Nat) (pend : Nat → Bool) : Option Nat := ((List.range 17).map fun i => (last + i) % 17).find? pend

/-- Does the vault or the channel serve a waiting part next (R76, R94, log entry 66)? -/
def State.serves (s : State) (ws : List Waiting) (w : Waiting) : Bool :=
  let here := ws.filter w.meets
  if area w.addr 1 = .t2 then
    let mine := here.filter fun x => s.partNo x.tile == s.partNo w.tile
    nextGrant (Tab.get s.arb.last 0 (chanOf w.addr)) (fun p => here.any fun x => s.partNo x.tile == p) == some (s.partNo w.tile) &&
      mine.all fun x => decide (w.stamp ≤ x.stamp)
  else
    let v := vaultOf w.addr
    let turn := Tab.get s.arb.turn (0, 0) v
    nextClass turn (fun c => here.any fun x => vaultClass x.tile v == c) == some (vaultClass w.tile v) &&
      here.all fun x => x.tile != w.tile || decide (w.stamp ≤ x.stamp)

/-- The bursts that wait in a partition's queue of a channel, at most 64 (R94). -/
def State.queued (s : State) (ws : List Waiting) (c p : Nat) : Nat :=
  min 64 (ws.filter fun x => area x.addr 1 == .t2 && chanOf x.addr == c && s.partNo x.tile == p).length

/-- XM_QMAX follows the deepest queue of its controller's channels (R98). -/
def State.noteQueue (s : State) (ws : List Waiting) (tile addr : Nat) : State :=
  if area addr 1 = .t2 then
    let c := chanOf addr
    { s with arb := { s.arb with qmax := Tab.set s.arb.qmax 0 (c / 2) (max (Tab.get s.arb.qmax 0 (c / 2)) (s.queued ws c (s.partNo tile))) } }
  else s

/-- A vault or a channel has served a waiting part: the turn, or the grant, moves on. -/
def State.granted (s : State) (w : Waiting) : State :=
  if area w.addr 1 = .t2 then
    let c := chanOf w.addr
    { s with arb := { s.arb with last := Tab.set s.arb.last 0 c ((s.partNo w.tile + 1) % 17), grants := Tab.set s.arb.grants 0 c (Tab.get s.arb.grants 0 c + 1) } }
  else
    let v := vaultOf w.addr
    let c := vaultClass w.tile v
    let turn := Tab.get s.arb.turn (0, 0) v
    { s with arb := { s.arb with turn := Tab.set s.arb.turn (0, 0) v (c, if c = turn.1 ∧ turn.2 < classWeight c then turn.2 + 1 else 1) } }

/-- The channel queues as a new access of a tile finds them (R98). -/
def State.noteQueues (s : State) (tile : Nat) (gs : List (List Part)) : State :=
  let ws := s.waitings
  gs.foldl (fun s g => g.foldl (fun s p => match p.loc with
    | .mem a => s.noteQueue ws tile a
    | _ => s) s) s

/-- Background activity holds vault `u`, or channel `u` of T2, for at most `ns` (R26, R76, R88): the accesses of each partition that wait there are stalled by it for some time up to that (log entry 72). -/
def State.background (s : State) (k : Area) (u ns : Nat) : State :=
  let t := (Config.freeValue s.free).toNat % (ns + 1)
  let here := s.waitings.filter fun w => area w.addr 1 == k && (if k = .t2 then chanOf w.addr else vaultOf w.addr) == u
  (here.map fun w => s.partNo w.tile).eraseDups.foldl (fun s p => s.stallFor p (if k = .t2 then 2 else 1) 2 t) { s with free := s.free + 1 }

end Sys2Proof.Machine
end

