-- ==== Sys2Proof/Machine/EngQueue.lean ====
section
/-!
DEFINITION. Command buffers and engine queues: which commands wait where, and in which order an engine takes them (R166, R237).
-/
namespace Sys2Proof.Machine

/-- A handle (R167). -/
def engHandle (slot eng seq : Nat) : Word := BitVec.ofNat 64 (slot + 8 * eng + 128 + 256 * seq)

/-- The result word (R170). -/
def resultWord (status detail value : Nat) : Word :=
  BitVec.ofNat 64 (status % 16 + detail % 4096 * 16 + value % 2 ^ 31 * 2 ^ 32 + 2 ^ 63)

/-- The stale-handle result: INVALID with DETAIL 0xFFF (R169). -/
def staleResult : Word := resultWord 7 0xFFF 0

/-- The instance of an engine that serves a tile (R164): its own matrix unit, its cluster's engine, or the device's. -/
def engUnit (eng tile : Nat) : Nat := if eng = 0 then tile else if eng ≤ 3 then tile / 8 else 0

/-- Is it the same command? -/
def Cmd.same (a b : Cmd) : Bool := a.tile == b.tile && a.thr == b.thr && a.seq == b.seq && a.ctx == b.ctx

/-- The command leaves its command buffer (R166). -/
def State.takeCmd (s : State) (c : Cmd) : State :=
  { s with ebuf := s.ebuf.filter fun d => !(d.tile == c.tile && d.thr == c.thr && d.seq == c.seq && d.ctx == c.ctx) }

/-- The key of an engine instance. -/
def engKey (eng unit : Nat) : Nat := eng * 16 + unit

/-- The commands in an engine instance's queue, in the order it took them. -/
def State.queueOf (s : State) (eng unit : Nat) : List QCmd :=
  s.eng.q.filter fun q => q.cmd.eng == eng && engUnit eng q.cmd.tile == unit

/-- The command an engine takes next from the command buffers (R237): one from each tenant in turn, ascending and wrapping; within a tenant in arrival order. -/
def State.nextTaken (s : State) (eng unit : Nat) : Option Cmd :=
  let w := s.ebuf.filter fun c => c.eng == eng && engUnit eng c.tile == unit
  let t := Tab.get s.eng.turn 0 (engKey eng unit)
  ((List.range 8).map fun i => (t + i) % 8).findSome? fun n => w.find? fun c => c.tenant == n

/-- Take commands while queue entries are free (R237, R166). The engine reads no operand until the thread's earlier accesses are performed (R124). -/
def State.engFill (s : State) (eng unit : Nat) : Nat → State
  | 0 => s
  | fuel + 1 =>
    if 16 ≤ (s.queueOf eng unit).length then s
    else match s.nextTaken eng unit with
    | none => s
    | some c =>
      let s := s.takeCmd c
      State.engFill { s with eng := { s.eng with q := s.eng.q ++ [⟨c, 0, 0, false, 0, 0, .none, []⟩],
                                                 turn := Tab.set s.eng.turn 0 (engKey eng unit) (c.tenant + 1) } } eng unit fuel

/-- Put a result word into the slot its command holds (R169). -/
def Thread.putResult (t : Thread) (slot seq : Nat) (w : Word) : Thread :=
  match Tab.get t.slots none slot with
  | some sl => if sl.seq = seq then { t with slots := Tab.set t.slots none slot (some { sl with res := some w }) } else t
  | none => t

/-- A command an accumulator instruction waits for has returned (R183); with none left the instruction goes on. -/
def Thread.accReturn (t : Thread) (k : Nat × Nat) : Thread :=
  match t.waitAcc with
  | none => t
  | some w =>
    let cs := w.cmds.filter fun x => x != k
    { t with waitAcc := some { w with cmds := cs }, st := if t.st = .waitEng ∧ cs = [] then .ready else t.st }

/-- An engine command of a thread returns its result word (R169, R183, R684): it is kept in the slot, and a thread that waits for a result, or for an accumulator the command used, becomes READY and executes its instruction again. -/
def State.returnResult (s : State) (c : Cmd) (w : Word) : State :=
  let t := (s.thread c.tile c.thr).putResult c.slot c.seq w
  let t := if t.st = .waitEng ∧ t.waitAcc = none then { t with st := .ready } else t
  let s := s.setThread c.tile c.thr t
  if c.eng = 0 then (List.range 16).foldl (fun s n => s.setThread c.tile n ((s.thread c.tile n).accReturn (c.thr, c.seq))) s else s

end Sys2Proof.Machine
end

