-- ==== Sys2Proof/Machine/EngMem.lean ====
section
/-!
DEFINITION. How engines and other hardware requesters reach memory: byte strings with poison marks, reachability of arrays, domains, and the life of an engine command (R76, R88, R115, R124, R166, R219).
-/
namespace Sys2Proof.Machine

/-- A byte with its poison mark. -/
abbrev PByte := Nat × Bool

/-- Split `[a, a + n)` at multiples of `g`. -/
def splitAt (g : Nat) : Nat → Nat → Nat → List (Nat × Nat)
  | 0, _, _ => []
  | fuel + 1, a, n =>
    if n = 0 then []
    else
      let k := min n (g - a % g)
      (a, k) :: splitAt g fuel (a + k) (n - k)

/-- The pieces of a range that lie in one page each. -/
def pagePieces (a n : Nat) : List (Nat × Nat) := splitAt pageSize (n / pageSize + 2) a n

/-- The pieces of a range that lie in one 16-byte unit each. -/
def unitPieces (a n : Nat) : List (Nat × Nat) := splitAt 16 (n / 16 + 2) a n

/-- Whether an array can be reached (R219): yes, with the domains it needs; no; or a page of it is moving. -/
inductive Reach where
  | ok (ds : List Nat)
  | bad
  | moving (page : Nat)
  deriving DecidableEq, Repr

/-- Both arrays must be reachable. -/
def Reach.and : Reach → Reach → Reach
  | .bad, _ => .bad
  | _, .bad => .bad
  | .moving p, _ => .moving p
  | _, .moving p => .moving p
  | .ok a, .ok b => .ok (a ++ b)

/-- Check every page of an array (R68, R77, R219); `okLoc` is the placement the command allows. -/
def State.reach (s : State) (v : Via) (va n : Nat) (wr : Bool) (okLoc : Loc → Bool) : Reach :=
  if 2 ^ 64 < va + n then .bad
  else (pagePieces va n).foldl (fun r p =>
    r.and (match s.resolve v.tenant (BitVec.ofNat 64 p.1) p.2 wr with
      | .ok l => if okLoc l then .ok (s.locDoms l) else .bad
      | .moving p => .moving p
      | .bad _ => .bad)) (.ok [])

/-- Memory of this device: T0, T1 or T2 (R219). -/
def locLocal : Loc → Bool
  | .mem _ => true
  | .lost _ => true
  | _ => false

/-- T0 or T1 of this device (R202). -/
def locNear : Loc → Bool
  | .mem a => area a 1 != .t2
  | .lost t => t != 2
  | _ => false

/-- Read one piece that lies in one 16-byte unit. -/
def State.readPiece (s : State) (v : Via) (a n : Nat) : State × List PByte :=
  match s.resolve v.tenant (BitVec.ofNat 64 a) n false with
  | .ok (.reg _) => (s, List.replicate n (0, true))
  | .ok l =>
    (match (s.touch v (BitVec.ofNat 64 a)).loadAt v l n with
    | (s, bs, z) => (s, bs.map fun b => (b, z)))
  | _ => (s, List.replicate n (0, true))

/-- Read a byte string with its marks through a view (R115). -/
def State.readBytes (s : State) (v : Via) (a n : Nat) : State × List PByte :=
  (unitPieces a n).foldl (fun sr p =>
    match sr.1.readPiece v p.1 p.2 with
    | (s, bs) => (s, sr.2 ++ bs)) (s, [])

/-- Store one piece that lies in one 16-byte unit; a poisoned byte poisons its granule (R609). -/
def State.writePiece (s : State) (v : Via) (a : Nat) (bs : List PByte) : State :=
  match s.resolve v.tenant (BitVec.ofNat 64 a) bs.length true with
  | .ok (.reg _) => s
  | .ok l => (s.touch v (BitVec.ofNat 64 a)).storeAt v l (bs.map (·.1)) (bs.any (·.2))
  | _ => s

/-- Store a byte string with its marks through a view (R115). -/
def State.writeBytes (s : State) (v : Via) (a : Nat) (bs : List PByte) : State :=
  (unitPieces a bs.length).foldl (fun s p => s.writePiece v p.1 ((bs.drop (p.1 - a)).take p.2)) s

/-- Clean bytes. -/
def clean (bs : List Nat) : List PByte := bs.map fun b => (b, false)

/-- The number a little-endian field of marked bytes holds (R4). -/
def pnat (bs : List PByte) (off n : Nat) : Nat := leNat (((bs.drop off).take n).map (·.1))

/-- Is a byte of a field poisoned? -/
def ppsn (bs : List PByte) (off n : Nat) : Bool := ((bs.drop off).take n).any (·.2)

/-- Read at home, as hardware requesters that no cluster cache serves do (R115); `n` is the tenant it acts for. -/
def viaHome (n : Nat) : Via := ⟨16, n, 0, 16, 255⟩

/-- Access a local range at home whatever its owner. -/
def State.homePB (s : State) (a n : Nat) : List PByte :=
  (unitPieces a n).flatMap fun p =>
    let z := s.homePsn p.1 p.2
    (s.homeBytes p.1 p.2).map fun b => (b, z)

/-- Store marked bytes at home at a local address, unit by unit. -/
def State.homePut (s : State) (a : Nat) (bs : List PByte) : State :=
  (unitPieces a bs.length).foldl (fun s p =>
    let x := (bs.drop (p.1 - a)).take p.2
    s.homeStore p.1 (x.map (·.1)) (x.any (·.2))) s

/-! ### Engine commands (R124, R164 to R170, R183) -/

/-- The view an engine accesses memory with for a command (R115): through its cluster's cache in the ways of the command's partition; the device's engines at home. -/
def State.viaCmd (s : State) (c : Cmd) : Via :=
  if c.eng ≤ 3 then
    let k := c.tile / 8
    match s.partE c.part with
    | some e => ⟨k, c.tenant, e.waysIn k, c.part, 128 + k⟩
    | none => ⟨k, c.tenant, 0, 16, 128 + k⟩
  else { viaHome c.tenant with part := c.part }

/-- The oldest command that waits for an engine instance. -/
def State.nextCmd (s : State) (eng unit : Nat) : Option Cmd :=
  s.ebuf.find? fun c => c.eng == eng && engUnit eng c.tile == unit

/-- The running command of an engine instance, oldest first. -/
def State.running (s : State) (eng unit : Nat) : Option Run :=
  s.runs.find? fun r => r.cmd.eng == eng && r.unit == unit

/-- Remove a running command. -/
def State.dropRun (s : State) (r : Run) : State := { s with runs := s.runs.filter fun x => !(x.cmd.same r.cmd) }

/-- The earlier access of the issuing thread that the command must wait for (R124, R167): a release. The thread waited before it issued, so what remains are its posted stores. -/
def State.cmdReady (s : State) (c : Cmd) : Bool :=
  (s.thread c.tile c.thr).acc.all fun a => a.tend.isSome

/-- Add to a counter register of its own width, saturating (R9). -/
def State.count (s : State) (a n : Nat) : State :=
  match regAt a with
  | some h => s.fadd a (h.reg.w - 1, 0) n
  | none => s

/-- How an engine's admission to the domains of its arrays ends (R88, R478): it runs, it waits for wakes, or it gets an error response. -/
inductive Admit where
  | run
  | wait
  | refused
  deriving DecidableEq, Repr

/-- Judge the domains an engine command needs. -/
def State.admits (s : State) (ds : List Nat) : Admit :=
  match s.domCheck ds with
  | .go => .run
  | .wait _ => .wait
  | .refuse => .refused

/-- The tier an engine's wait for some domains is charged to (R90): T2 when only controllers of external memory are down, else T1. -/
def domTier (ds : List Nat) : Nat := if ds.all fun d => d == 36 || d == 37 then 2 else 1

/-- The counter of FAULT results of an engine instance for a tenant (R234, R267, R296, R335, R336). -/
def engFaultReg (eng unit n : Nat) : Nat :=
  match eng with
  | 0 => A.MX_FAULT_COUNT unit
  | 1 => A.AT_FAULT_COUNT unit n
  | 2 => A.SC_FAULT_COUNT unit n
  | 3 => A.CV_FAULT_COUNT unit n
  | 4 => A.ST_FAULT_COUNT n
  | _ => A.PP_FAULT_COUNT n

/-! ### Engine queues (R237, R603) -/

/-- The clock a wheel's windows are scaled by, in tenths of a gigahertz (R603). -/
def State.wheelClk (s : State) (eng unit : Nat) : Nat :=
  if 4 ≤ eng then 10
  else
    let l := Tab.get s.pw.clk 2 unit
    if l = 0 then 5 else if l = 1 then 8 else if l = 2 then 10 else 12

/-- The tenants an engine instance wheels over (R603). -/
def State.wheelTenants (s : State) (eng unit : Nat) : List Nat :=
  if 4 ≤ eng then s.tenEs.map (·.id)
  else (List.range 8).filter fun n => (List.range 8).any fun i => (s.tilePart (unit * 8 + i)).any fun e => e.tenant == n

/-- Does the engine instance run in a tenant wheel (R603)? -/
def State.wheeled (s : State) (eng unit : Nat) : Bool :=
  s.confMode && (decide (4 ≤ eng) || decide (1 < (s.wheelTenants eng unit).length))

/-- May a command of a tenant start now (R603)? In a wheel, only in the first half of its 100 µs window, scaled by the tile clock. -/
def State.windowOpen (s : State) (eng unit tenant : Nat) : Bool :=
  !s.wheeled eng unit ||
  (match Tab.get s.eng.wheel none (engKey eng unit) with
    | some (n, t0) =>
      let clk := s.wheelClk eng unit
      n == tenant && decide ((s.now - t0) * clk < 500000 * 256)
    | none => false)

/-- The command that runs next: the oldest that is not set aside; in a wheel, the oldest of the tenant whose window is open (log entry 22). -/
def State.engNext (s : State) (eng unit : Nat) : Option QCmd :=
  (s.queueOf eng unit).find? fun q => q.aside == 0 && s.windowOpen eng unit q.cmd.tenant

/-- Change a queued command's record. -/
def State.setQ (s : State) (q : QCmd) : State :=
  { s with eng := { s.eng with q := s.eng.q.map fun x => if x.cmd.same q.cmd then q else x } }

/-- A queued command starts: its entry frees and the queue fills again. -/
def State.startQ (s : State) (r : Run) : State :=
  let s := { s with eng := { s.eng with q := s.eng.q.filter fun x => !(x.cmd.same r.cmd) }, runs := s.runs ++ [r] }
  s.engFill r.cmd.eng r.unit 16

/-- The power domain an engine instance lies in. -/
def engDom (eng unit : Nat) : Nat := if eng = 0 then 16 + unit / 8 else if eng ≤ 3 then 16 + unit else 14

/-- Whether a command's arrays let it start: they cannot be reached; it goes on, with an access refused or not; or it waits. -/
inductive Gate where
  | bad
  | go (refused : Bool)
  | wait
  deriving DecidableEq, Repr

/-- Judge the arrays of a command, given what it waited for before (R88, R219, R478): it waits for a moving page or for wakes, gets an error response where a domain does not wake on an access, or, with `limit`, when its wait for wakes has reached its stall limit (R479, counted). Answers the state and what it waits for now. -/
def State.gate (s : State) (v : Via) (held : Hold) (r : Reach) (limit : Bool) : State × Gate × Hold :=
  match r with
  | .bad => (s, .bad, .none)
  | .moving p => (s, .wait, .move v.tenant p (chargeTier (entTier (s.ent v.tenant p))))
  | .ok ds =>
    match s.domCheck ds with
    | .go => (s.domTouch ds, .go false, .none)
    | .refuse => (s.domTouch ds, .go true, .none)
    | .wait down =>
      if limit && held.doms.isSome then
        (s.countLimit v.part (domTier down) down, .go true, .none)
      else (s.domTouch ds, .wait, .wake down (domTier down))

/-- Judge the arrays of a queued command (R88, R219): its entry records what it waits for. -/
def State.gateQ (s : State) (q : QCmd) (v : Via) (r : Reach) (limit : Bool) : State × Gate :=
  match s.gate v q.hold r limit with
  | (s, g, h) => (s.setQ { q with hold := h }, g)

/-- Judge some arrays of a queued command and go on: `bad` when they cannot be reached, not at all while it waits, else `k` with whether an access has been refused so far (`ref`); then the command waits for no other. -/
def State.pass (s : State) (q : QCmd) (v : Via) (r : Reach) (limit ref : Bool) (bad : State → State) (k : Bool → State → State) : State :=
  if r = .bad then bad s
  else if ref then k true s
  else match s.gateQ q v r limit with
    | (s, .bad) => bad s
    | (s, .wait) => s
    | (s, .go f) => k f s

/-- Start the next command of an engine instance when it is free (R237): `sel` says by descriptor whether the event is that command's. A command to a fenced engine ends with FAULT and DETAIL 0xF00 (R616); one for a domain that is not On waits for its wake, or gets an error response and FAULT where the domain does not wake on an access (R45, R168). -/
def engStart (eng unit : Nat) (sel : List Nat → Bool) (s : State) (k : QCmd → State → State) : Out :=
  match s.engNext eng unit with
  | none => .next s
  | some q =>
    let fault (detail : Nat) : State := s.startQ { cmd := q.cmd, unit := unit, status := 5, detail := detail, value := 0, scale := [], assay := none,
                                                   bumps := [(engFaultReg eng unit q.cmd.tenant, 1)], tiles := [], link := 0, commit := none }
    if (s.running eng unit).isSome || !sel q.cmd.desc || !s.cmdReady q.cmd then .next s
    else if s.fl.fenced.has (engKey eng unit) then .next (fault 0xF00)
    else match s.domCheck [engDom eng unit] with
    | .wait _ => .next ((s.demandWake (engDom eng unit)).setQ { q with hold := .wake [engDom eng unit] 1 })
    | .refuse => .next (fault 0)
    | .go => .next (k q s)

end Sys2Proof.Machine
end

