-- ==== Sys2Proof/Machine/Float.lean ====
section
/-!
DEFINITION. The number formats of R185 to R188 and exact arithmetic over them.
A finite value is a signed integer times a power of two, every operation is computed exactly and rounded once (R174, R193, R194).
-/
namespace Sys2Proof.Machine

/-- A value of a floating format: NaN, an infinity, or a finite number `(-1)^neg * m * 2^e`. -/
inductive FVal where
  | nan
  | inf (neg : Bool)
  | fin (neg : Bool) (m : Nat) (e : Int)
  deriving DecidableEq, Repr

/-- A binary floating format: exponent bits, fraction bits (R185). -/
structure FFmt where
  ebits : Nat
  fbits : Nat
  deriving DecidableEq, Repr

/-- F32, IEEE 754 binary32 (R185). -/
def fmtF32 : FFmt := ⟨8, 23⟩
/-- T16: sign, 8-bit exponent, 7-bit fraction (R186). -/
def fmtT16 : FFmt := ⟨8, 7⟩
/-- H16, IEEE 754 binary16 (R185). -/
def fmtH16 : FFmt := ⟨5, 10⟩

/-- The exponent bias of a format. -/
def FFmt.bias (f : FFmt) : Nat := 2 ^ (f.ebits - 1) - 1
/-- The exponent of a format's smallest subnormal. -/
def FFmt.emin (f : FFmt) : Int := 1 - (f.bias : Int) - f.fbits
/-- The exponent of the last place of a format's largest finite numbers. -/
def FFmt.emax (f : FFmt) : Int := (2 ^ f.ebits - 2 : Nat) - (f.bias : Int) - f.fbits
/-- All ones in the exponent field. -/
def FFmt.eones (f : FFmt) : Nat := 2 ^ f.ebits - 1
/-- The canonical quiet NaN (R186). -/
def FFmt.qnan (f : FFmt) : Nat := f.eones * 2 ^ f.fbits + 2 ^ (f.fbits - 1)
/-- The bits of an infinity. -/
def FFmt.infBits (f : FFmt) (neg : Bool) : Nat := b2n neg * 2 ^ (f.ebits + f.fbits) + f.eones * 2 ^ f.fbits
/-- The bits of the largest finite value of a sign. -/
def FFmt.maxBits (f : FFmt) (neg : Bool) : Nat := f.infBits neg - 1

/-- The value of an encoding (R186, IEEE 754). -/
def FFmt.dec (f : FFmt) (v : Nat) : FVal :=
  let fr := v % 2 ^ f.fbits
  let x := v / 2 ^ f.fbits % 2 ^ f.ebits
  let s := v / 2 ^ (f.fbits + f.ebits) % 2 == 1
  if x = f.eones then (if fr = 0 then .inf s else .nan)
  else if x = 0 then .fin s fr f.emin
  else .fin s (fr + 2 ^ f.fbits) (f.emin + x - 1)

/-- `floor (log2 (m * 2^e))` of a non-zero magnitude. -/
def ilog2 (m : Nat) (e : Int) : Int := (Nat.log2 m : Int) + e

/-- Divide by `2^k`, rounding to nearest even, or toward zero when `tr` is set (R193). -/
def shrRound (tr : Bool) (m k : Nat) : Nat :=
  let q := m / 2 ^ k
  let r := m % 2 ^ k
  if tr then q
  else if 2 ^ k < 2 * r then q + 1
  else if 2 * r = 2 ^ k ∧ 0 < k then q + q % 2
  else q

/-- The magnitude `m * 2^e` as an integer multiple of `2^E`, rounded. -/
def scaleRound (tr : Bool) (m : Nat) (e E : Int) : Nat :=
  if E ≤ e then m * 2 ^ (e - E).toNat else shrRound tr m (E - e).toNat

/-- Round a finite magnitude into a format: the encoded bits without sign, and whether it exceeded the largest finite value. -/
def FFmt.roundMag (f : FFmt) (tr : Bool) (m : Nat) (e : Int) : Nat × Bool :=
  if m = 0 then (0, false)
  else
    let E0 := ilog2 m e - f.fbits
    let E := if E0 < f.emin then f.emin else E0
    let q := scaleRound tr m e E
    let (q, E) := if 2 ^ (f.fbits + 1) ≤ q then (q / 2, E + 1) else (q, E)
    if f.emax < E then (f.infBits false, true)
    else if q < 2 ^ f.fbits then (q, false)
    else ((E - f.emin + 1).toNat * 2 ^ f.fbits + (q - 2 ^ f.fbits), false)

/-- Encode a value. `tr` selects truncation, `sat` makes a finite overflow the largest finite value of its sign (R194) instead of an infinity (R174). -/
def FFmt.enc (f : FFmt) (tr sat : Bool) : FVal → Nat
  | .nan => f.qnan
  | .inf s => f.infBits s
  | .fin s m e =>
    let (b, ov) := f.roundMag tr m e
    if ov then (if sat || tr then f.maxBits s else f.infBits s)
    else b2n s * 2 ^ (f.ebits + f.fbits) + b

/-- Did a finite value exceed the format (a clip of R194)? -/
def FFmt.clips (f : FFmt) (tr : Bool) : FVal → Bool
  | .fin _ m e => (f.roundMag tr m e).2
  | _ => false

/-- The F32 value of a lane. -/
def f32 (v : Nat) : FVal := fmtF32.dec v
/-- F32 result bits: nearest even, overflow to infinity, canonical NaN (R174). -/
def toF32 (v : FVal) : Nat := fmtF32.enc false false v

/-- Is the value a NaN? -/
def FVal.isNan : FVal → Bool
  | .nan => true
  | _ => false

/-- Is the value an infinity? -/
def FVal.isInf : FVal → Bool
  | .inf _ => true
  | _ => false

/-- Is the value zero? -/
def FVal.isZero : FVal → Bool
  | .fin _ m _ => m == 0
  | _ => false

/-- The sign of a value. -/
def FVal.neg : FVal → Bool
  | .nan => false
  | .inf s => s
  | .fin s _ _ => s

/-- The opposite of a value. -/
def FVal.opp : FVal → FVal
  | .nan => .nan
  | .inf s => .inf (!s)
  | .fin s m e => .fin (!s) m e

/-- The magnitude of a value. -/
def FVal.abs : FVal → FVal
  | .nan => .nan
  | .inf _ => .inf false
  | .fin _ m e => .fin false m e

/-- The signed integer of a finite value over `2^E`, for `E` at most its exponent. -/
def FVal.sm (E : Int) (s : Bool) (m : Nat) (e : Int) : Int :=
  let a : Int := (m * 2 ^ (e - E).toNat : Nat)
  if s then -a else a

/-- A signed integer times `2^e` as a value; zero takes the given sign. -/
def FVal.ofInt (zneg : Bool) (x : Int) (e : Int) : FVal :=
  if x = 0 then .fin zneg 0 e else .fin (decide (x < 0)) x.natAbs e

/-- The exact sum (R174): opposite infinities give NaN, and an exact zero sum is +0 unless both operands are negative. -/
def FVal.add : FVal → FVal → FVal
  | .nan, _ => .nan
  | _, .nan => .nan
  | .inf a, .inf b => if a = b then .inf a else .nan
  | .inf a, .fin _ _ _ => .inf a
  | .fin _ _ _, .inf b => .inf b
  | .fin a m e, .fin b n g =>
    let E := if e ≤ g then e else g
    FVal.ofInt (a && b) (FVal.sm E a m e + FVal.sm E b n g) E

/-- The exact difference. -/
def FVal.sub (a b : FVal) : FVal := FVal.add a b.opp

/-- The exact product (R174): infinity times zero gives NaN. -/
def FVal.mul : FVal → FVal → FVal
  | .nan, _ => .nan
  | _, .nan => .nan
  | .inf a, .inf b => .inf (a != b)
  | .inf a, .fin b n _ => if n = 0 then .nan else .inf (a != b)
  | .fin a m _, .inf b => if m = 0 then .nan else .inf (a != b)
  | .fin a m e, .fin b n g => .fin (a != b) (m * n) (e + g)

/-- Is `a < b`? False when either is NaN; −0 equals +0. -/
def FVal.lt : FVal → FVal → Bool
  | .nan, _ => false
  | _, .nan => false
  | .inf a, .inf b => a && !b
  | .inf a, .fin _ _ _ => a
  | .fin _ _ _, .inf b => !b
  | .fin a m e, .fin b n g =>
    let E := if e ≤ g then e else g
    decide (FVal.sm E a m e < FVal.sm E b n g)

/-- Are two values equal? False when either is NaN. -/
def FVal.feq (a b : FVal) : Bool := !a.isNan && !b.isNan && !(a.lt b) && !(b.lt a)

/-- Scale by `2^k`. -/
def FVal.scale (k : Int) : FVal → FVal
  | .fin s m e => .fin s m (e + k)
  | v => v

/-- Order −0 below +0, otherwise as numbers (VFMIN and VFMAX, R174). -/
def FVal.ltz (a b : FVal) : Bool :=
  if a.isZero && b.isZero then a.neg && !b.neg else a.lt b

/-- The smaller value; the other operand when one is NaN (R174). -/
def FVal.min (a b : FVal) : FVal :=
  if a.isNan then b else if b.isNan then a else if b.ltz a then b else a

/-- The larger value; the other operand when one is NaN (R174). -/
def FVal.max (a b : FVal) : FVal :=
  if a.isNan then b else if b.isNan then a else if a.ltz b then b else a

/-- Round to an integer and saturate to `[lo, hi]`; NaN gives 0 and an infinity the extreme of its sign (R178, R194). -/
def FVal.toIntSat (tr : Bool) (lo hi : Int) : FVal → Int
  | .nan => 0
  | .inf s => if s then lo else hi
  | .fin s m e =>
    let a : Int := (scaleRound tr m e 0 : Nat)
    clampI lo hi (if s then -a else a)

/-- Does narrowing to an integer clip (R194)? -/
def FVal.intClips (tr : Bool) (lo hi : Int) : FVal → Bool
  | .nan => true
  | .inf _ => true
  | .fin s m e =>
    let a : Int := (scaleRound tr m e 0 : Nat)
    let x := if s then -a else a
    decide (x < lo) || decide (hi < x)

/-- The quotient `1 / x` of a finite non-zero value, correctly rounded to F32. -/
def recipF32 (s : Bool) (m : Nat) (e : Int) : Nat :=
  -- 80 extra quotient bits and a sticky bit make the single rounding exact.
  let k := Nat.log2 m + 80
  let q := 2 ^ k / m
  let st := if 2 ^ k % m = 0 then 0 else 1
  toF32 (.fin s (2 * q + st) (-(k : Int) - 1 - e))

/-- The integer square root, by bits from the top. -/
def isqrtAux : Nat → Nat → Nat → Nat
  | 0, _, r => r
  | k + 1, n, r =>
    let t := r + 2 ^ k
    isqrtAux k n (if t * t ≤ n then t else r)

/-- The integer square root of a number below `2^(2k)`. -/
def isqrt (k n : Nat) : Nat := isqrtAux k n 0

/-- `1 / sqrt x` of a positive finite value, correctly rounded to F32. -/
def rsqrtF32 (m : Nat) (e : Int) : Nat :=
  let (m, e) := if e % 2 = 0 then (m, e) else (2 * m, e - 1)
  -- 1/sqrt(m*2^e) = sqrt(2^(2k)/m) * 2^(-k-e/2)
  let k := Nat.log2 m + 64
  let n := 2 ^ (2 * k) / m
  let r := isqrt (k + 2) n
  let st := if r * r * m = 2 ^ (2 * k) then 0 else 1
  toF32 (.fin false (2 * r + st) (-(k : Int) - 1 - e / 2))

/-- Does `lo ≤ v ≤ hi` hold for finite values? -/
def FVal.between (lo hi v : FVal) : Bool :=
  match v with
  | .fin _ _ _ => !(v.lt lo) && !(hi.lt v)
  | _ => false

/-- A free candidate for `1/x` held inside the relative error 2^-14 of R174: the candidate when `|c x - 1| ≤ 2^-14`, else the correctly rounded reciprocal. -/
def rcpBounded (cand : Nat) (s : Bool) (m : Nat) (e : Int) : Nat :=
  let c := cand % 2 ^ 32
  if ((f32 c).mul (.fin s m e)).between (.fin false (2 ^ 14 - 1) (-14)) (.fin false (2 ^ 14 + 1) (-14)) then c
  else recipF32 s m e

/-- A free candidate for `1/sqrt x` held inside the relative error 2^-14 of R174: the candidate when it is positive and its square times `x` lies between the squares of the bounds. -/
def rsqBounded (cand : Nat) (m : Nat) (e : Int) : Nat :=
  let c := cand % 2 ^ 32
  let v := f32 c
  if !v.neg && ((v.mul v).mul (.fin false m e)).between (.fin false ((2 ^ 14 - 1) ^ 2) (-28)) (.fin false ((2 ^ 14 + 1) ^ 2) (-28)) then c
  else rsqrtF32 m e

/-! ### exp2 and division (R251) -/

/-- The product of the successive square roots of 2 that the top `k` bits of a fraction select, all scaled by 2^96: `2^f` for a fraction below one. `c` is the current root, `b` the fraction as 64 bits. -/
def pow2Frac : Nat → Nat → Nat → Nat → Nat
  | 0, _, _, acc => acc
  | k + 1, c, b, acc =>
    let acc := if bit b 63 then acc * c / 2 ^ 96 else acc
    pow2Frac k (isqrt 98 (c * 2 ^ 96)) (b * 2 % 2 ^ 64) acc

/-- `2^x` of a finite value as a value with relative error below 2^-40. -/
def exp2Val (neg : Bool) (m : Nat) (e : Int) : FVal :=
  let a : Int := (scaleRound true m e (-64) : Nat)
  let x := if neg then -a else a
  let n := x / 2 ^ 64
  let f := (x % 2 ^ 64).toNat
  .fin false (pow2Frac 48 (isqrt 98 (2 * 2 ^ 192)) f (2 ^ 96)) (n - 96)

/-- A free candidate for `exp2 x` held inside the error bound of R251: relative 2^-22 for results of at least 2^-126, absolute 2^-149 below. Else the rounded accurate value. -/
def exp2Bounded (cand : Nat) (x : FVal) : FVal :=
  match x with
  | .nan => .nan
  | .inf s => if s then .fin false 0 0 else .inf false
  | .fin s m e =>
    if s && FVal.lt (.fin false 200 0) (.fin false m e) then .fin false 0 0
    else if FVal.lt (.fin false 200 0) (.fin false m e) then .inf false
    else
      let y := exp2Val s m e
      let c := f32 (cand % 2 ^ 32)
      let d := (c.sub y).abs
      let lim := if y.lt (.fin false 1 (-126)) then FVal.fin false 255 (-157) else y.scale (-22) |>.mul (.fin false 255 (-8))
      if !c.neg && !(lim.lt d) && !d.isNan then c else f32 (toF32 y)

/-- The quotient of two values rounded once to F32. -/
def divF32 (a b : FVal) : Nat :=
  match a, b with
  | .nan, _ => fmtF32.qnan
  | _, .nan => fmtF32.qnan
  | .inf _, .inf _ => fmtF32.qnan
  | .inf s, .fin t _ _ => fmtF32.infBits (s != t)
  | .fin s _ _, .inf t => toF32 (.fin (s != t) 0 0)
  | .fin s m e, .fin t n g =>
    if n = 0 then (if m = 0 then fmtF32.qnan else fmtF32.infBits (s != t))
    else
      let k := Nat.log2 n + 80
      let q := m * 2 ^ k / n
      let st := if m * 2 ^ k % n = 0 then 0 else 1
      toF32 (.fin (s != t) (2 * q + st) (e - g - k - 1))

end Sys2Proof.Machine
end

