-- ==== Sys2Proof/Machine/Operands.lean ====
section
/-!
DEFINITION. Operand forms of the instructions: immediates, addresses, scalar and vector sources with their poison marks (R142, R147, R148, R173).
-/
namespace Sys2Proof.Machine

/-- IMM16 sign-extended (R147). -/
def sx16 (i : Imm16) : Word := i.signExtend 64
/-- IMM16 zero-extended (SHORI, R147). -/
def zx16 (i : Imm16) : Word := i.setWidth 64
/-- IMM21 sign-extended and shifted left by 16 (LUI and AUIPC, R147). -/
def upper21 (i : Imm21) : Word := i.signExtend 64 <<< 16
/-- IMM13 × 4, sign-extended (R156, R179). -/
def off13 (i : Imm13) : Word := i.signExtend 64 <<< 2
/-- IMM21 × 4, sign-extended (R156). -/
def off21 (i : Imm21) : Word := i.signExtend 64 <<< 2

/-- The address of a load or store: rs1 + IMM16 (R148). -/
def Thread.addr (t : Thread) (rs1 : RegNo) (imm : Imm16) : Word := t.getX rs1 + sx16 imm

/-- The second source of a vector instruction by its form (R173): a vector lane, the low 32 bits of a scalar, or a 5-bit signed immediate. -/
def Thread.src2 (t : Thread) (form : Imm2) (c : RegNo) (i : Nat) : Lane :=
  if form = 0 then t.getV c i
  else if form = 1 then (t.getX c).setWidth 32
  else c.signExtend 32

/-- The poison mark of a vector instruction's second source. -/
def Thread.src2psn (t : Thread) (form : Imm2) (c : RegNo) (i : Nat) : Bool :=
  if form = 0 then t.vpsn c i
  else if form = 1 then t.xpsn c
  else false

/-- The scalar registers a second source names. -/
def src2X (form : Imm2) (c : RegNo) : List RegNo := if form = 1 then [c] else []
/-- The vector registers a second source names. -/
def src2V (form : Imm2) (c : RegNo) : List RegNo := if form = 0 then [c] else []

/-- The lanes a governing predicate makes active (R172). -/
def Thread.active (t : Thread) (g : PredNo) : List Nat := bitsOf 32 (t.getP g).toNat

/-- Is lane `i` active under a governing predicate (R172)? -/
def Thread.isActive (t : Thread) (g : PredNo) (i : Nat) : Bool := bit (t.getP g).toNat i

end Sys2Proof.Machine
end

