-- ==== Sys2Proof/Machine/Flags.lean ====
section
/-!
DEFINITION. Conditions: the comparisons of branches, predicates and vector compares. The part has no flag register; a condition is computed where it is used (R156, R174, R175).
-/
namespace Sys2Proof.Machine

/-- Signed minimum. -/
def sminW {w : Nat} (a b : BitVec w) : BitVec w := if b.slt a then b else a
/-- Signed maximum. -/
def smaxW {w : Nat} (a b : BitVec w) : BitVec w := if a.slt b then b else a
/-- Unsigned minimum. -/
def uminW {w : Nat} (a b : BitVec w) : BitVec w := if b.ult a then b else a
/-- Unsigned maximum. -/
def umaxW {w : Nat} (a b : BitVec w) : BitVec w := if a.ult b then b else a

/-- A truth value as a 64-bit result. -/
def w1 (b : Bool) : Word := if b then 1 else 0

/-- All 32 bits of a predicate are set (R156). -/
def predAll (p : Lane) : Bool := p == 0xFFFFFFFF
/-- At least one bit of a predicate is set (R156). -/
def predAny (p : Lane) : Bool := p != 0

/-- F32 equality: −0 equals +0, false with a NaN (R175). -/
def feqL (a b : Lane) : Bool := (f32 a.toNat).feq (f32 b.toNat)
/-- F32 less-than, false with a NaN (R175). -/
def fltL (a b : Lane) : Bool := (f32 a.toNat).lt (f32 b.toNat)
/-- F32 less-or-equal, false with a NaN (R175). -/
def fleL (a b : Lane) : Bool := fltL a b || feqL a b
/-- One of two F32 values is a NaN (R175). -/
def funordL (a b : Lane) : Bool := (f32 a.toNat).isNan || (f32 b.toNat).isNan

end Sys2Proof.Machine
end

