-- ==== Sys2Proof/Machine/Vector.lean ====
section
/-!
DEFINITION. Vector, conversion, predicate and accumulator instructions (R172 to R178, R181 to R183).
-/
namespace Sys2Proof.Machine

/-! ### Lane-wise operations (R172 to R174) -/

/-- Write the active lanes of `vd` with a function of the lane number; the others keep value and mark (R172). Values are read from the thread before any lane is written. -/
def Thread.mapLanes (t : Thread) (vd : RegNo) (g : PredNo) (f : Nat → Lane × Bool) : Thread :=
  (t.active g).foldl (fun u i => u.setV vd i (f i).1 (f i).2) t

/-- A two-source vector operation (R173): `last` is the highest form the group allows; a reserved form raises ILLEGAL. -/
def vec2 (last : Imm2) (f : Lane → Lane → Lane) (h : Th) (vd vs1 : RegNo) (form : Imm2) (c : RegNo) (g : PredNo) (s : State) : Out :=
  issue h (src2X form c) ([vd, vs1] ++ src2V form c) s fun t =>
    if last.ult form then s.exc h excIllegal 0
    else s.retire h (t.mapLanes vd g fun i =>
      (f (t.getV vs1 i) (t.src2 form c i), t.vpsn vs1 i || t.src2psn form c i))

/-- A unary vector operation (R173). -/
def vec1 (f : Lane → Lane) (h : Th) (vd vs1 : RegNo) (g : PredNo) (s : State) : Out :=
  issue h [] [vd, vs1] s fun t =>
    s.retire h (t.mapLanes vd g fun i => (f (t.getV vs1 i), t.vpsn vs1 i))

/-- An F32 operation of two lanes, rounded once (R174). -/
def fop2 (f : FVal → FVal → FVal) (a b : Lane) : Lane := BitVec.ofNat 32 (toF32 (f (f32 a.toNat) (f32 b.toNat)))

/-- The low five bits of a lane as a shift amount (R173). -/
def amt5 (b : Lane) : Nat := b.toNat % 32

/-- Saturate an integer to a signed 32-bit lane. -/
def sat32 (x : Int) : Lane := BitVec.ofInt 32 (clampI (-2147483648) 2147483647 x)

/-- The high 32 bits of the signed product of two lanes (R173). -/
def mulH32 (a b : Lane) : Lane := ((a.signExtend 64 * b.signExtend 64) >>> 32).setWidth 32

/-- VADD (R173). -/
def execVadd (h : Th) (vd vs1 : RegNo) (form : Imm2) (c : RegNo) (g : PredNo) (s : State) : Out := vec2 2 (fun a b => a + b) h vd vs1 form c g s
/-- VSUB (R173). -/
def execVsub (h : Th) (vd vs1 : RegNo) (form : Imm2) (c : RegNo) (g : PredNo) (s : State) : Out := vec2 2 (fun a b => a - b) h vd vs1 form c g s
/-- VMUL: low 32 bits (R173). -/
def execVmul (h : Th) (vd vs1 : RegNo) (form : Imm2) (c : RegNo) (g : PredNo) (s : State) : Out := vec2 2 (fun a b => a * b) h vd vs1 form c g s
/-- VMULH: high 32 bits of the signed product (R173). -/
def execVmulh (h : Th) (vd vs1 : RegNo) (form : Imm2) (c : RegNo) (g : PredNo) (s : State) : Out := vec2 2 mulH32 h vd vs1 form c g s
/-- VMIN, signed (R173). -/
def execVmin (h : Th) (vd vs1 : RegNo) (form : Imm2) (c : RegNo) (g : PredNo) (s : State) : Out := vec2 2 sminW h vd vs1 form c g s
/-- VMAX, signed (R173). -/
def execVmax (h : Th) (vd vs1 : RegNo) (form : Imm2) (c : RegNo) (g : PredNo) (s : State) : Out := vec2 2 smaxW h vd vs1 form c g s
/-- VMINU (R173). -/
def execVminu (h : Th) (vd vs1 : RegNo) (form : Imm2) (c : RegNo) (g : PredNo) (s : State) : Out := vec2 2 uminW h vd vs1 form c g s
/-- VMAXU (R173). -/
def execVmaxu (h : Th) (vd vs1 : RegNo) (form : Imm2) (c : RegNo) (g : PredNo) (s : State) : Out := vec2 2 umaxW h vd vs1 form c g s
/-- VAND (R173). -/
def execVand (h : Th) (vd vs1 : RegNo) (form : Imm2) (c : RegNo) (g : PredNo) (s : State) : Out := vec2 2 (fun a b => a &&& b) h vd vs1 form c g s
/-- VOR (R173). -/
def execVor (h : Th) (vd vs1 : RegNo) (form : Imm2) (c : RegNo) (g : PredNo) (s : State) : Out := vec2 2 (fun a b => a ||| b) h vd vs1 form c g s
/-- VXOR (R173). -/
def execVxor (h : Th) (vd vs1 : RegNo) (form : Imm2) (c : RegNo) (g : PredNo) (s : State) : Out := vec2 2 (fun a b => a ^^^ b) h vd vs1 form c g s
/-- VSLL by src2[4:0] (R173). -/
def execVsll (h : Th) (vd vs1 : RegNo) (form : Imm2) (c : RegNo) (g : PredNo) (s : State) : Out := vec2 2 (fun a b => a <<< amt5 b) h vd vs1 form c g s
/-- VSRL by src2[4:0] (R173). -/
def execVsrl (h : Th) (vd vs1 : RegNo) (form : Imm2) (c : RegNo) (g : PredNo) (s : State) : Out := vec2 2 (fun a b => a >>> amt5 b) h vd vs1 form c g s
/-- VSRA by src2[4:0] (R173). -/
def execVsra (h : Th) (vd vs1 : RegNo) (form : Imm2) (c : RegNo) (g : PredNo) (s : State) : Out := vec2 2 (fun a b => a.sshiftRight (amt5 b)) h vd vs1 form c g s
/-- VADDS: saturating signed add (R173). -/
def execVadds (h : Th) (vd vs1 : RegNo) (form : Imm2) (c : RegNo) (g : PredNo) (s : State) : Out := vec2 2 (fun a b => sat32 (a.toInt + b.toInt)) h vd vs1 form c g s
/-- VSUBS: saturating signed subtract (R173). -/
def execVsubs (h : Th) (vd vs1 : RegNo) (form : Imm2) (c : RegNo) (g : PredNo) (s : State) : Out := vec2 2 (fun a b => sat32 (a.toInt - b.toInt)) h vd vs1 form c g s
/-- VABS; −2^31 gives −2^31 (R173). -/
def execVabs (h : Th) (vd vs1 : RegNo) (g : PredNo) (s : State) : Out := vec1 (fun a => if a.msb then -a else a) h vd vs1 g s

/-- VFADD (R173, R174). -/
def execVfadd (h : Th) (vd vs1 : RegNo) (form : Imm2) (c : RegNo) (g : PredNo) (s : State) : Out := vec2 1 (fop2 FVal.add) h vd vs1 form c g s
/-- VFSUB (R173, R174). -/
def execVfsub (h : Th) (vd vs1 : RegNo) (form : Imm2) (c : RegNo) (g : PredNo) (s : State) : Out := vec2 1 (fop2 FVal.sub) h vd vs1 form c g s
/-- VFMUL (R173, R174). -/
def execVfmul (h : Th) (vd vs1 : RegNo) (form : Imm2) (c : RegNo) (g : PredNo) (s : State) : Out := vec2 1 (fop2 FVal.mul) h vd vs1 form c g s

/-- One fused multiply-add of lanes, rounded once (R173). -/
def fmaL (a b d : Lane) : Lane := BitVec.ofNat 32 (toF32 (((f32 a.toNat).mul (f32 b.toNat)).add (f32 d.toNat)))

/-- VFMA: vd ← vs1 × src2 + vd, one rounding (R173). -/
def execVfma (h : Th) (vd vs1 : RegNo) (form : Imm2) (c : RegNo) (g : PredNo) (s : State) : Out :=
  issue h (src2X form c) ([vd, vs1] ++ src2V form c) s fun t =>
    if (1 : Imm2).ult form then s.exc h excIllegal 0
    else s.retire h (t.mapLanes vd g fun i =>
      (fmaL (t.getV vs1 i) (t.src2 form c i) (t.getV vd i), t.vpsn vs1 i || t.src2psn form c i || t.vpsn vd i))

/-- VFMIN (R174). -/
def execVfmin (h : Th) (vd vs1 : RegNo) (form : Imm2) (c : RegNo) (g : PredNo) (s : State) : Out := vec2 1 (fop2 FVal.min) h vd vs1 form c g s
/-- VFMAX (R174). -/
def execVfmax (h : Th) (vd vs1 : RegNo) (form : Imm2) (c : RegNo) (g : PredNo) (s : State) : Out := vec2 1 (fop2 FVal.max) h vd vs1 form c g s

/-- An F32 operation of one lane whose result is a value of the format; a NaN becomes the canonical one (R174). -/
def fop1 (f : FVal → FVal) (a : Lane) : Lane := BitVec.ofNat 32 (toF32 (f (f32 a.toNat)))

/-- VFABS (R173, R174). -/
def execVfabs (h : Th) (vd vs1 : RegNo) (g : PredNo) (s : State) : Out := vec1 (fop1 FVal.abs) h vd vs1 g s
/-- VFNEG (R173, R174). -/
def execVfneg (h : Th) (vd vs1 : RegNo) (g : PredNo) (s : State) : Out := vec1 (fop1 FVal.opp) h vd vs1 g s

/-- VFSCALE of one lane (R173, R174): a scale beyond ±1024 gives what ±1024 gives, an overflow or a zero. -/
def fscaleL (a n : Lane) : Lane := BitVec.ofNat 32 (toF32 ((f32 a.toNat).scale (clampI (-1024) 1024 n.toInt)))

/-- VFSCALE: vs1 × 2^n (R173, R174). -/
def execVfscale (h : Th) (vd vs1 : RegNo) (form : Imm2) (c : RegNo) (g : PredNo) (s : State) : Out := vec2 1 fscaleL h vd vs1 form c g s

/-- VFRCP of one lane (R174): the special values, else the implementation's value inside the error bound (log entry 4). -/
def frcpL (a : Lane) : Lane :=
  match f32 a.toNat with
  | .nan => BitVec.ofNat 32 fmtF32.qnan
  | .inf s => BitVec.ofNat 32 (toF32 (.fin s 0 0))
  | .fin s m e =>
    if m = 0 then BitVec.ofNat 32 (fmtF32.infBits s)
    else BitVec.ofNat 32 (rcpBounded (Config.vfrcp a).toNat s m e)

/-- VFRSQ of one lane (R174). -/
def frsqL (a : Lane) : Lane :=
  match f32 a.toNat with
  | .nan => BitVec.ofNat 32 fmtF32.qnan
  | .inf s => if s then BitVec.ofNat 32 fmtF32.qnan else 0
  | .fin s m e =>
    if m = 0 then BitVec.ofNat 32 (fmtF32.infBits s)
    else if s then BitVec.ofNat 32 fmtF32.qnan
    else BitVec.ofNat 32 (rsqBounded (Config.vfrsq a).toNat m e)

/-- VFRCP (R174). -/
def execVfrcp (h : Th) (vd vs1 : RegNo) (g : PredNo) (s : State) : Out := vec1 frcpL h vd vs1 g s
/-- VFRSQ (R174). -/
def execVfrsq (h : Th) (vd vs1 : RegNo) (g : PredNo) (s : State) : Out := vec1 frsqL h vd vs1 g s

/-! ### Compares (R175) -/

/-- A vector compare: inactive lanes give 0; an active lane with a poisoned source raises POISON_USE; the immediate form belongs to VOP only (R173). -/
def vecCmp (f : Lane → Lane → Bool) (h : Th) (pd : PredNo) (vs1 : RegNo) (form : Imm2) (c : RegNo) (g : PredNo) (s : State) : Out :=
  issue h (src2X form c) ([vs1] ++ src2V form c) s fun t =>
    if (1 : Imm2).ult form then s.exc h excIllegal 0
    else if (t.active g).any fun i => t.vpsn vs1 i || t.src2psn form c i then s.exc h excPoison 0
    else s.retire h (t.setP pd (BitVec.ofNat 32 (maskOf ((t.active g).filter fun i => f (t.getV vs1 i) (t.src2 form c i)))))

/-- VCMP EQ (R175). -/
def execVcmpEq (h : Th) (pd : PredNo) (vs1 : RegNo) (form : Imm2) (c : RegNo) (g : PredNo) (s : State) : Out := vecCmp (fun a b => a == b) h pd vs1 form c g s
/-- VCMP NE (R175). -/
def execVcmpNe (h : Th) (pd : PredNo) (vs1 : RegNo) (form : Imm2) (c : RegNo) (g : PredNo) (s : State) : Out := vecCmp (fun a b => a != b) h pd vs1 form c g s
/-- VCMP LT, signed (R175). -/
def execVcmpLt (h : Th) (pd : PredNo) (vs1 : RegNo) (form : Imm2) (c : RegNo) (g : PredNo) (s : State) : Out := vecCmp (fun a b => a.slt b) h pd vs1 form c g s
/-- VCMP LE, signed (R175). -/
def execVcmpLe (h : Th) (pd : PredNo) (vs1 : RegNo) (form : Imm2) (c : RegNo) (g : PredNo) (s : State) : Out := vecCmp (fun a b => a.sle b) h pd vs1 form c g s
/-- VCMP LTU (R175). -/
def execVcmpLtu (h : Th) (pd : PredNo) (vs1 : RegNo) (form : Imm2) (c : RegNo) (g : PredNo) (s : State) : Out := vecCmp (fun a b => a.ult b) h pd vs1 form c g s
/-- VCMP LEU (R175). -/
def execVcmpLeu (h : Th) (pd : PredNo) (vs1 : RegNo) (form : Imm2) (c : RegNo) (g : PredNo) (s : State) : Out := vecCmp (fun a b => a.ule b) h pd vs1 form c g s
/-- VCMP FEQ (R175). -/
def execVcmpFeq (h : Th) (pd : PredNo) (vs1 : RegNo) (form : Imm2) (c : RegNo) (g : PredNo) (s : State) : Out := vecCmp feqL h pd vs1 form c g s
/-- VCMP FLT (R175). -/
def execVcmpFlt (h : Th) (pd : PredNo) (vs1 : RegNo) (form : Imm2) (c : RegNo) (g : PredNo) (s : State) : Out := vecCmp fltL h pd vs1 form c g s
/-- VCMP FLE (R175). -/
def execVcmpFle (h : Th) (pd : PredNo) (vs1 : RegNo) (form : Imm2) (c : RegNo) (g : PredNo) (s : State) : Out := vecCmp fleL h pd vs1 form c g s
/-- VCMP FUNORD (R175). -/
def execVcmpFunord (h : Th) (pd : PredNo) (vs1 : RegNo) (form : Imm2) (c : RegNo) (g : PredNo) (s : State) : Out := vecCmp funordL h pd vs1 form c g s

/-! ### Moves, permutes and reductions (R176) -/

/-- VSPLAT (R176). -/
def execVsplat (h : Th) (vd rs1 : RegNo) (g : PredNo) (s : State) : Out :=
  issue h [rs1] [vd] s fun t =>
    s.retire h (t.mapLanes vd g fun _ => ((t.getX rs1).setWidth 32, t.xpsn rs1))

/-- VMVS: rd takes the lane numbered rs2[4:0], sign-extended; a poisoned index poisons rd (R176). -/
def execVmvs (h : Th) (rd vs1 rs2 : RegNo) (s : State) : Out :=
  issue h [rd, rs2] [vs1] s fun t =>
    let i := (t.getX rs2).toNat % 32
    s.retire h (t.setX rd ((t.getV vs1 i).signExtend 64) (t.xpsn rs2 || t.vpsn vs1 i))

/-- Every lane of a vector register takes a poison mark and keeps its value. -/
def Thread.poisonV (t : Thread) (vd : RegNo) : Thread := (List.range 32).foldl (fun u i => u.setV vd i (t.getV vd i) true) t

/-- VINS: the lane numbered rs2[4:0] takes rs1[31:0]; a poisoned index writes no lane and poisons the result, every lane of vd (R176; DEDUCED, log entry 68). -/
def execVins (h : Th) (vd rs1 rs2 : RegNo) (s : State) : Out :=
  issue h [rs1, rs2] [vd] s fun t =>
    if t.xpsn rs2 then s.retire h (t.poisonV vd)
    else s.retire h (t.setV vd ((t.getX rs2).toNat % 32) ((t.getX rs1).setWidth 32) (t.xpsn rs1))

/-- VSEL: every lane takes vs1 where G is 1 and vs2 where it is 0 (R172, R176). -/
def execVsel (h : Th) (vd vs1 vs2 : RegNo) (g : PredNo) (s : State) : Out :=
  issue h [] [vd, vs1, vs2] s fun t =>
    s.retire h ((List.range 32).foldl (fun u i =>
      if t.isActive g i then u.setV vd i (t.getV vs1 i) (t.vpsn vs1 i) else u.setV vd i (t.getV vs2 i) (t.vpsn vs2 i)) t)

/-- VPERM: lane i takes the lane of vs1 numbered vs2[i][4:0]; a poisoned index poisons the lane (R176). -/
def execVperm (h : Th) (vd vs1 vs2 : RegNo) (g : PredNo) (s : State) : Out :=
  issue h [] [vd, vs1, vs2] s fun t =>
    s.retire h (t.mapLanes vd g fun i =>
      let j := (t.getV vs2 i).toNat % 32
      (t.getV vs1 j, t.vpsn vs1 j || t.vpsn vs2 i))

/-- VIOTA (R176). -/
def execViota (h : Th) (vd : RegNo) (g : PredNo) (s : State) : Out :=
  issue h [] [vd] s fun t => s.retire h (t.mapLanes vd g fun i => (BitVec.ofNat 32 i, false))

/-- A reduction of the active lanes to a scalar, poisoned when an active lane is (R176). -/
def vecReduce (f : List Lane → Word) (h : Th) (rd vs1 : RegNo) (g : PredNo) (s : State) : Out :=
  issue h [rd] [vs1] s fun t =>
    let l := t.active g
    s.retire h (t.setX rd (f (l.map fun i => t.getV vs1 i)) (l.any fun i => t.vpsn vs1 i))

/-- Add neighbours in pairs, each sum rounded once (R176). -/
def pairAdd : List FVal → List FVal
  | a :: b :: t => f32 (toF32 (a.add b)) :: pairAdd t
  | l => l

/-- VRSUM: signed 64-bit sum (R176). -/
def execVrsum (h : Th) (rd vs1 : RegNo) (g : PredNo) (s : State) : Out :=
  vecReduce (fun l => l.foldl (fun a x => a + x.signExtend 64) 0) h rd vs1 g s
/-- VRMAX: signed maximum, −2^31 when no lane is active (R176). -/
def execVrmax (h : Th) (rd vs1 : RegNo) (g : PredNo) (s : State) : Out :=
  vecReduce (fun l => (l.foldl smaxW 0x80000000#32).signExtend 64) h rd vs1 g s
/-- VRMIN: signed minimum, 2^31 − 1 when no lane is active (R176). -/
def execVrmin (h : Th) (rd vs1 : RegNo) (g : PredNo) (s : State) : Out :=
  vecReduce (fun l => (l.foldl sminW 0x7FFFFFFF#32).signExtend 64) h rd vs1 g s

/-- VRFSUM: the fixed tree of five levels over all 32 lanes, inactive lanes +0 (R176). -/
def execVrfsum (h : Th) (rd vs1 : RegNo) (g : PredNo) (s : State) : Out :=
  issue h [rd] [vs1] s fun t =>
    let l := (List.range 32).map fun i => if t.isActive g i then f32 (t.getV vs1 i).toNat else .fin false 0 0
    let r := pairAdd (pairAdd (pairAdd (pairAdd (pairAdd l))))
    s.retire h (t.setX rd (BitVec.ofNat 64 (toF32 (r.headD (.fin false 0 0)))) ((t.active g).any fun i => t.vpsn vs1 i))

/-- VRFMAX: F32 maximum as for VFMAX over the active lanes, −Inf when no lane is active (R176). With only NaN lanes active it is NaN whether or not lanes are inactive (DESIGN CHOICE, log entry 68). -/
def execVrfmax (h : Th) (rd vs1 : RegNo) (g : PredNo) (s : State) : Out :=
  vecReduce (fun l => match l with
    | [] => 0xFF800000
    | a :: t => BitVec.ofNat 64 (toF32 (t.foldl (fun m x => m.max (f32 x.toNat)) (f32 a.toNat)))) h rd vs1 g s

/-- The exponent maximum of some lanes (R176): 256 with an Inf or NaN, −256 with no finite non-zero lane. -/
def expMax (l : List Lane) : Int :=
  l.foldl (fun m x => match f32 x.toNat with
    | .fin _ k e => if k = 0 then m else max m (ilog2 k e)
    | _ => 256) (-256)

/-- VFEXPMAX (R176). -/
def execVfexpmax (h : Th) (rd vs1 : RegNo) (g : PredNo) (s : State) : Out :=
  vecReduce (fun l => BitVec.ofInt 64 (expMax l)) h rd vs1 g s

/-! ### Conversions (R177, R178) -/

/-- Element `j` of width `w` of a vector register (R134). -/
def Thread.elem (t : Thread) (r : RegNo) (w j : Nat) : Nat :=
  let k := 32 / w
  (t.getV r (j / k)).toNat / 2 ^ (w * (j % k)) % 2 ^ w

/-- The mark of the lane that holds element `j` of width `w` (R135). -/
def Thread.elemPsn (t : Thread) (r : RegNo) (w j : Nat) : Bool := t.vpsn r (j * w / 32)

/-- Write elements `32 part + i` of width `w` for the active lanes `i` (R178): other bits keep their value; a lane whose bits are all written takes the marks of what was written, a lane written in part also keeps its own (log entry 14). -/
def Thread.writeElems (t : Thread) (vd : RegNo) (w part : Nat) (l : List Nat) (f : Nat → Nat × Bool) : Thread :=
  (List.range 32).foldl (fun u j =>
    let k := 32 / w
    let here := l.filter fun i => (32 * part + i) / k == j
    if here = [] then u
    else
      let v := here.foldl (fun v i =>
        let o := w * ((32 * part + i) % k)
        setBits v (o + w - 1) o (f i).1) (t.getV vd j).toNat
      u.setV vd j (BitVec.ofNat 32 v) ((here.any fun i => (f i).2) || (decide (here.length < k) && t.vpsn vd j))) t

/-- The block exponent of a conversion: rs2[7:0], signed (R177). -/
def Thread.blockExp (t : Thread) (rs2 : RegNo) : Int := sgn 8 (t.getX rs2).toNat

/-- A conversion between lanes (R177): a PART outside its range raises ILLEGAL. -/
def cvtLanes (f : Bool → Lane → Lane) (h : Th) (vd vs1 : RegNo) (trunc : Bool) (part : Imm3) (g : PredNo) (s : State) : Out :=
  issue h [] [vd, vs1] s fun t =>
    if part ≠ 0 then s.exc h excIllegal 0
    else s.retire h (t.mapLanes vd g fun i => (f trunc (t.getV vs1 i), t.vpsn vs1 i))

/-- F32 to I32: NaN gives 0, other values saturate (R178). -/
def f32ToI32 (tr : Bool) (a : Lane) : Lane := BitVec.ofInt 32 ((f32 a.toNat).toIntSat tr (-2147483648) 2147483647)

/-- I32 to F32 (R178). -/
def i32ToF32 (tr : Bool) (a : Lane) : Lane := BitVec.ofNat 32 (fmtF32.enc tr false (FVal.ofInt false a.toInt 0))

/-- VCVT F32 to I32 (R177, R178). -/
def execVcvtF32I32 (h : Th) (vd vs1 : RegNo) (trunc : Bool) (part : Imm3) (g : PredNo) (s : State) : Out :=
  cvtLanes f32ToI32 h vd vs1 trunc part g s
/-- VCVT I32 to F32 (R177, R178). -/
def execVcvtI32F32 (h : Th) (vd vs1 : RegNo) (trunc : Bool) (part : Imm3) (g : PredNo) (s : State) : Out :=
  cvtLanes i32ToF32 h vd vs1 trunc part g s

/-- F32 narrowed to a 16-bit format: rounds, saturates to the largest finite value, keeps infinities (R178). -/
def cvtTo16 (fm : FFmt) (h : Th) (vd vs1 : RegNo) (trunc : Bool) (part : Imm3) (g : PredNo) (s : State) : Out :=
  issue h [] [vd, vs1] s fun t =>
    if 2 ≤ part.toNat then s.exc h excIllegal 0
    else s.retire h (t.writeElems vd 16 part.toNat (t.active g) fun i => (fm.enc trunc true (f32 (t.getV vs1 i).toNat), t.vpsn vs1 i))

/-- A 16-bit format widened to F32 (R177): exact. -/
def cvtFrom16 (fm : FFmt) (h : Th) (vd vs1 : RegNo) (part : Imm3) (g : PredNo) (s : State) : Out :=
  issue h [] [vd, vs1] s fun t =>
    if 2 ≤ part.toNat then s.exc h excIllegal 0
    else s.retire h (t.mapLanes vd g fun i =>
      (BitVec.ofNat 32 (toF32 (fm.dec (t.elem vs1 16 (32 * part.toNat + i)))), t.elemPsn vs1 16 (32 * part.toNat + i)))

/-- VCVT F32 to T16 (R178). -/
def execVcvtF32T16 (h : Th) (vd vs1 : RegNo) (trunc : Bool) (part : Imm3) (g : PredNo) (s : State) : Out := cvtTo16 fmtT16 h vd vs1 trunc part g s
/-- VCVT T16 to F32, exact (R177); TRUNC is accepted and changes nothing (DESIGN CHOICE, log entry 68). -/
def execVcvtT16F32 (h : Th) (vd vs1 : RegNo) (_trunc : Bool) (part : Imm3) (g : PredNo) (s : State) : Out := cvtFrom16 fmtT16 h vd vs1 part g s
/-- VCVT F32 to H16 (R178). -/
def execVcvtF32H16 (h : Th) (vd vs1 : RegNo) (trunc : Bool) (part : Imm3) (g : PredNo) (s : State) : Out := cvtTo16 fmtH16 h vd vs1 trunc part g s
/-- VCVT H16 to F32, exact (R177); TRUNC is accepted and changes nothing (DESIGN CHOICE, log entry 68). -/
def execVcvtH16F32 (h : Th) (vd vs1 : RegNo) (_trunc : Bool) (part : Imm3) (g : PredNo) (s : State) : Out := cvtFrom16 fmtH16 h vd vs1 part g s

/-- F32 narrowed to signed elements of width `w` with a block exponent (R178). NaN gives 0, as R194 has it for the engines (DESIGN CHOICE, log entry 68). -/
def cvtToBlock (w : Nat) (h : Th) (vd vs1 rs2 : RegNo) (trunc : Bool) (part : Imm3) (g : PredNo) (s : State) : Out :=
  issue h [rs2] [vd, vs1] s fun t =>
    if 32 / w ≤ part.toNat then s.exc h excIllegal 0
    else s.retire h (t.writeElems vd w part.toNat (t.active g) fun i =>
      (unsgn w (((f32 (t.getV vs1 i).toNat).scale (-(t.blockExp rs2))).toIntSat trunc (-(2 ^ (w - 1))) (2 ^ (w - 1) - 1)),
       t.vpsn vs1 i || t.xpsn rs2))

/-- Signed elements of width `w` widened to F32 (R178): exact, but saturated to the largest finite value. TRUNC is accepted and changes nothing (DESIGN CHOICE, log entry 68). -/
def cvtFromBlock (w : Nat) (h : Th) (vd vs1 rs2 : RegNo) (part : Imm3) (g : PredNo) (s : State) : Out :=
  issue h [rs2] [vd, vs1] s fun t =>
    if 32 / w ≤ part.toNat then s.exc h excIllegal 0
    else s.retire h (t.mapLanes vd g fun i =>
      let j := 32 * part.toNat + i
      (BitVec.ofNat 32 (fmtF32.enc false true (FVal.ofInt false (sgn w (t.elem vs1 w j)) (t.blockExp rs2))),
       t.elemPsn vs1 w j || t.xpsn rs2))

/-- VCVT F32 to S8 (R178). -/
def execVcvtF32S8 (h : Th) (vd vs1 rs2 : RegNo) (trunc : Bool) (part : Imm3) (g : PredNo) (s : State) : Out := cvtToBlock 8 h vd vs1 rs2 trunc part g s
/-- VCVT S8 to F32 (R178); TRUNC is accepted and changes nothing (DESIGN CHOICE, log entry 68). -/
def execVcvtS8F32 (h : Th) (vd vs1 rs2 : RegNo) (_trunc : Bool) (part : Imm3) (g : PredNo) (s : State) : Out := cvtFromBlock 8 h vd vs1 rs2 part g s
/-- VCVT F32 to S4 (R178). -/
def execVcvtF32S4 (h : Th) (vd vs1 rs2 : RegNo) (trunc : Bool) (part : Imm3) (g : PredNo) (s : State) : Out := cvtToBlock 4 h vd vs1 rs2 trunc part g s
/-- VCVT S4 to F32 (R178); TRUNC is accepted and changes nothing (DESIGN CHOICE, log entry 68). -/
def execVcvtS4F32 (h : Th) (vd vs1 rs2 : RegNo) (_trunc : Bool) (part : Imm3) (g : PredNo) (s : State) : Out := cvtFromBlock 4 h vd vs1 rs2 part g s

/-! ### Predicates (R181) -/

/-- A predicate operation over the thread's predicates. -/
def predOp (pd : PredNo) (f : Thread → Lane) (h : Th) (s : State) : Out :=
  issue h [] [] s fun t => s.retire h (t.setP pd (f t))

/-- PAND (R181). -/
def execPand (h : Th) (pd pa pb : PredNo) (s : State) : Out := predOp pd (fun t => t.getP pa &&& t.getP pb) h s
/-- POR (R181). -/
def execPor (h : Th) (pd pa pb : PredNo) (s : State) : Out := predOp pd (fun t => t.getP pa ||| t.getP pb) h s
/-- PXOR (R181). -/
def execPxor (h : Th) (pd pa pb : PredNo) (s : State) : Out := predOp pd (fun t => t.getP pa ^^^ t.getP pb) h s
/-- PANDN (R181). -/
def execPandn (h : Th) (pd pa pb : PredNo) (s : State) : Out := predOp pd (fun t => t.getP pa &&& ~~~ t.getP pb) h s
/-- PNOT (R181). -/
def execPnot (h : Th) (pd pa : PredNo) (s : State) : Out := predOp pd (fun t => ~~~ t.getP pa) h s
/-- PFIRST: only the lowest set bit (R181). -/
def execPfirst (h : Th) (pd pa : PredNo) (s : State) : Out := predOp pd (fun t => t.getP pa &&& -(t.getP pa)) h s

/-- PSET: a poisoned rs1 raises POISON_USE (R181). -/
def execPset (h : Th) (pd : PredNo) (rs1 : RegNo) (s : State) : Out :=
  issue h [rs1] [] s fun t =>
    if t.xpsn rs1 then s.exc h excPoison 0 else s.retire h (t.setP pd ((t.getX rs1).setWidth 32))

/-- The predicate with bit i set for every i below a signed number (R181). -/
def belowMask (x : Int) : Lane := BitVec.ofNat 32 (2 ^ (clampI 0 32 x).toNat - 1)

/-- PLT: a poisoned rs1 raises POISON_USE (R181). -/
def execPlt (h : Th) (pd : PredNo) (rs1 : RegNo) (s : State) : Out :=
  issue h [rs1] [] s fun t =>
    if t.xpsn rs1 then s.exc h excPoison 0 else s.retire h (t.setP pd (belowMask (t.getX rs1).toInt))

/-- PGET (R181). -/
def execPget (h : Th) (rd : RegNo) (pa : PredNo) (s : State) : Out :=
  issue h [rd] [] s fun t => s.retire h (t.setX rd ((t.getP pa).setWidth 64) false)
/-- PCNT (R181). -/
def execPcnt (h : Th) (rd : RegNo) (pa : PredNo) (s : State) : Out :=
  issue h [rd] [] s fun t => s.retire h (t.setX rd (BitVec.ofNat 64 (popcount 32 (t.getP pa).toNat)) false)

/-! ### Accumulators (R182, R183) -/

/-- An accumulator element with its mark: accumulator `a`, row `r`, column `j`. -/
def Tile.getAcc (x : Tile) (a r j : Nat) : Lane × Bool := (Tab.get x.acc 0 (1024 * a + 32 * r + j), x.accp.has (1024 * a + 32 * r + j))

/-- Write an accumulator element. -/
def Tile.setAcc (x : Tile) (a r j : Nat) (v : Lane) (p : Bool) : Tile :=
  { x with acc := Tab.set x.acc 0 (1024 * a + 32 * r + j) v, accp := NSet.put x.accp (1024 * a + 32 * r + j) p }

/-- The accumulators a Matrix command reads or writes (R213, R215, R216, R225): of those it names as many as it has panels, and none when M or N is 0. -/
def mxAccs (desc : List Nat) : List Nat :=
  let b := field desc 1 1
  if field desc 3 1 = 0 then [] else (List.range (min (bits b 4 2) (ceilDiv (field desc 8 2) 32))).map fun i => bits b 1 0 + i

/-- The MX commands of the tile that use accumulator `a` and are outstanding: issued by any thread, their results not returned (R183). -/
def State.accCmds (s : State) (tile a : Nat) : List (Nat × Nat) :=
  ((s.ebuf ++ s.runs.map (·.cmd)).filter fun c => c.eng == 0 && c.tile == tile && (mxAccs c.desc).contains a).map fun c => (c.thr, c.seq)

/-- Has an accumulator instruction that waited for its commands only to go on (R183)? -/
def Thread.accReady (t : Thread) (a : Nat) : Bool := t.waitAcc.any fun w => w.acc == a && w.pc == t.pc && w.cmds == []

/-- An accumulator instruction (R183): it waits in WAIT_ENG for the MX commands issued before it that use its accumulator. -/
def accInstr (acc : Imm2) (vs : List RegNo) (h : Th) (s : State) (k : Thread → State) : Out :=
  issue h [] vs s fun t =>
    let busy := s.accCmds h.tile acc.toNat
    if busy ≠ [] ∧ !t.accReady acc.toNat then s.setThread h.tile h.thr { t with st := .waitEng, waitAcc := some ⟨acc.toNat, t.pc, busy⟩ }
    else k { t with waitAcc := none }

/-- Does an MX command wait for an accumulator instruction of the tile that was issued before it and has not been performed (R183)? -/
def State.accFirst (s : State) (c : Cmd) : Bool :=
  (List.range 16).any fun n =>
    let t := s.thread c.tile n
    t.waitAcc.any fun w => (t.st == .waitEng || t.st == .ready) && w.pc == t.pc && (mxAccs c.desc).contains w.acc && !w.cmds.contains (c.thr, c.seq)

/-- ACCRD: copies a row of an accumulator into vd (R182). -/
def execAccrd (h : Th) (vd : RegNo) (acc : Imm2) (row : RegNo) (s : State) : Out :=
  accInstr acc [vd] h s fun t =>
    s.retire h ((List.range 32).foldl (fun u j =>
      let e := (s.tile h.tile).getAcc acc.toNat row.toNat j
      u.setV vd j e.1 e.2) t)

/-- ACCWR: copies vs1 into a row of an accumulator (R182). -/
def execAccwr (h : Th) (vs1 : RegNo) (acc : Imm2) (row : RegNo) (s : State) : Out :=
  accInstr acc [vs1] h s fun t =>
    (s.setTile h.tile ((List.range 32).foldl (fun x j =>
      x.setAcc acc.toNat row.toNat j (t.getV vs1 j) (t.vpsn vs1 j)) (s.tile h.tile))).retire h t

/-- ACCZ: sets all 1,024 elements to zero, unpoisoned (R182). -/
def execAccz (h : Th) (acc : Imm2) (s : State) : Out :=
  accInstr acc [] h s fun t =>
    let x := s.tile h.tile
    (s.setTile h.tile { x with acc := Tab.clear x.acc (1024 * acc.toNat) 1024, accp := NSet.clear x.accp (1024 * acc.toNat) 1024 }).retire h t

end Sys2Proof.Machine
end

