-- ==== Sys2Proof/Machine/Quant.lean ====
section
/-!
DEFINITION. Element formats and blocks in memory, widening and narrowing, scale records, the Assay totals of a command, and the return of an engine's result (R185 to R211, R229).
-/
namespace Sys2Proof.Machine

/-! ### Formats (R185, R190 to R195) -/

/-- The element formats. -/
inductive NFmt where
  | s4 | s8 | t16 | h16 | f32 | i32
  deriving DecidableEq, Repr

/-- Width of an element in bits (R185). -/
def NFmt.width : NFmt → Nat
  | .s4 => 4
  | .s8 => 8
  | .t16 => 16
  | .h16 => 16
  | _ => 32

/-- Do elements come in blocks with an exponent (R188)? -/
def NFmt.isBlock : NFmt → Bool
  | .s4 => true
  | .s8 => true
  | _ => false

/-- Bytes of a row of `l` elements padded to whole blocks (R192, R218). -/
def NFmt.stride (f : NFmt) (l : Nat) : Nat := ceilDiv l 32 * (4 * f.width)

/-- Alignment of an element array (R191, R218). -/
def NFmt.align : NFmt → Nat
  | .s4 => 16
  | _ => 32

/-- The value of an element (R185, R186); `e` is the block exponent, or the accumulator exponent of I32. -/
def NFmt.val (f : NFmt) (e : Int) (raw : Nat) : FVal :=
  match f with
  | .s4 => FVal.ofInt false (sgn 4 raw) e
  | .s8 => FVal.ofInt false (sgn 8 raw) e
  | .t16 => fmtT16.dec raw
  | .h16 => fmtH16.dec raw
  | .f32 => fmtF32.dec raw
  | .i32 => FVal.ofInt false (sgn 32 raw) e

/-- The floating format of an element format. -/
def NFmt.flt : NFmt → FFmt
  | .t16 => fmtT16
  | .h16 => fmtH16
  | _ => fmtF32

/-- Narrow a value (R194): the encoded element and whether it clipped. -/
def NFmt.narrow (f : NFmt) (tr : Bool) (e : Int) (x : FVal) : Nat × Bool :=
  match f with
  | .s4 => (unsgn 4 ((x.scale (-e)).toIntSat tr (-8) 7), (x.scale (-e)).intClips tr (-8) 7)
  | .s8 => (unsgn 8 ((x.scale (-e)).toIntSat tr (-128) 127), (x.scale (-e)).intClips tr (-128) 127)
  | .i32 => (unsgn 32 ((x.scale (-e)).toIntSat tr (-2147483648) 2147483647), (x.scale (-e)).intClips tr (-2147483648) 2147483647)
  | _ => (f.flt.enc tr true x, f.flt.clips tr x)

/-- The cap on error units (R207). -/
def errCap : Nat := 2 ^ 23 - 1

/-- The magnitude of an exact difference in units of 2^-8 of `2^u`, truncated and capped (R207). -/
def errOf (x y : FVal) (u : Int) : Nat :=
  match (x.sub y).scale (8 - u) with
  | .fin _ m e => min (scaleRound true m e 0) errCap
  | _ => errCap

/-- The error units of a narrowed element (R207). -/
def NFmt.err (f : NFmt) (e : Int) (x : FVal) (raw : Nat) : Nat :=
  match f with
  | .s4 => errOf x (f.val e raw) e
  | .s8 => errOf x (f.val e raw) e
  | .i32 => errOf x (f.val e raw) e
  | _ =>
    if x.isNan || x.isInf then 0
    else
      let k := raw / 2 ^ f.flt.fbits % 2 ^ f.flt.ebits
      errOf x (f.flt.dec raw) (f.flt.emin + (max k 1 : Nat) - 1)

/-- `floor (log2 |x|)` held to a signed byte, as a step observes it (R204); none for NaN and zero. -/
def obsOf : FVal → Option Int
  | .nan => none
  | .inf _ => some 127
  | .fin _ m e => if m = 0 then none else some (clampI (-128) 127 (ilog2 m e))

/-! ### Rows of blocks in memory (R190 to R192) -/

/-- A row as read: its format, the elements with their marks, and the exponent bytes of its blocks. -/
structure NRow where
  fmt : NFmt
  el : List PByte
  ex : List PByte
  deriving DecidableEq, Repr

/-- Take elements of width `w` out of a byte string (R134, R190). -/
def unpack (w n : Nat) (bs : List PByte) : List PByte :=
  (List.range n).map fun j =>
    if w = 4 then
      let b := bs.getD (j / 2) (0, false)
      (b.1 / 2 ^ (4 * (j % 2)) % 16, b.2)
    else (pnat bs (j * (w / 8)) (w / 8), ppsn bs (j * (w / 8)) (w / 8))

/-- Lay pairs of nibbles into bytes. -/
def packNib : List PByte → List PByte
  | [] => []
  | [a] => [(a.1 % 16, a.2)]
  | a :: b :: t => (a.1 % 16 + 16 * (b.1 % 16), a.2 || b.2) :: packNib t

/-- Lay elements of width `w` into bytes (R134, R190). -/
def pack (w : Nat) (l : List PByte) : List PByte :=
  if w = 4 then packNib l else l.flatMap fun x => (natLe (w / 8) x.1).map fun b => (b, x.2)

/-- The bytes of a row, padded with zero elements to whole blocks (R192). -/
def packRow (f : NFmt) (l : List PByte) : List PByte :=
  let bs := pack f.width l
  bs ++ List.replicate (f.stride l.length - bs.length) (0, false)

/-- Bytes that hold `n` elements of width `w`. -/
def elemBytes (w n : Nat) : Nat := (w * n + 7) / 8

/-- Read a row of `l` elements at `a` with its exponents at `x` (R191). -/
def State.readRow (s : State) (v : Via) (f : NFmt) (a x l : Nat) : State × NRow :=
  match s.readBytes v a (elemBytes f.width l) with
  | (s, bs) =>
    if f.isBlock then
      match s.readBytes v x (ceilDiv l 32) with
      | (s, ex) => (s, ⟨f, unpack f.width l bs, ex⟩)
    else (s, ⟨f, unpack f.width l bs, []⟩)

/-- The exponent of block `b` (R188). -/
def NRow.exp (r : NRow) (b : Nat) : Int := if r.fmt.isBlock then sgn 8 (r.ex.getD b (0, false)).1 else 0
/-- Does block `b` carry a reserved exponent (R188, R189)? -/
def NRow.badBlk (r : NRow) (b : Nat) : Bool := r.fmt.isBlock && decide (120 < r.exp b)
/-- Does any block carry a reserved exponent? -/
def NRow.bad (r : NRow) : Bool := r.fmt.isBlock && r.ex.any fun b => decide (120 < sgn 8 b.1)
/-- Is element `j`, or its exponent, poisoned? -/
def NRow.psnAt (r : NRow) (j : Nat) : Bool := (r.el.getD j (0, false)).2 || (r.fmt.isBlock && (r.ex.getD (j / 32) (0, false)).2)
/-- Is anything of the row poisoned (R227)? -/
def NRow.psn (r : NRow) : Bool := r.el.any (·.2) || r.ex.any (·.2)
/-- The raw element `j`. -/
def NRow.raw (r : NRow) (j : Nat) : Nat := (r.el.getD j (0, false)).1
/-- The value of element `j`, widened exactly (R195). -/
def NRow.val (r : NRow) (j : Nat) : FVal := r.fmt.val (r.exp (j / 32)) (r.raw j)

/-! ### Scale records (R202 to R205) -/

/-- What a command learns from its scale record at its start (R204): validity (R203), the format, the exponent, the truncation it forces, poison in a field it uses (R227), and the write for its end. -/
structure ScaleUse where
  valid : Bool
  format : Nat
  e : Int
  trunc : Bool
  psn : Bool
  shared : Bool
  head : Nat
  count : Nat
  va : Nat
  deriving DecidableEq, Repr

/-- The exponent a step chooses (R204); `p` is 8 for S8 and 4 for S4. -/
def scaleExp (p count k head : Nat) (headroom init : Int) (hist : Nat → Int) : Int :=
  clampI (-128) 120
    (if count = 0 then init
     else ((List.range (min count k)).foldl (fun m i => max m (hist ((head + 16 - (i + 1)) % 16))) (-128)) - (p - 2) + headroom)

/-- Is a record of these bytes valid (R203)? Fields in a poisoned half of the record are not judged. -/
def scaleValid (bs : List PByte) : Bool :=
  let f := pnat bs 0 1
  let lo := ppsn bs 0 16 || (
    decide (f ≤ 1) && decide (1 ≤ pnat bs 1 1 ∧ pnat bs 1 1 ≤ 16) && decide (pnat bs 2 1 ≤ 3) && decide (pnat bs 3 1 ≤ 3) &&
    decide (sgn 8 (pnat bs 4 1) ≤ 120) && decide (pnat bs 5 1 ≤ 16) && decide (pnat bs 6 1 ≤ 15))
  let hi := ppsn bs 16 16 || (pnat bs 24 4 == 0 &&
    (if bit (pnat bs 3 1) 1 then decide (-128 ≤ sgn 32 (pnat bs 28 4)) && decide (sgn 32 (pnat bs 28 4) ≤ 127) else pnat bs 28 4 == 0))
  lo && hi

/-- Read a scale record at the start of a command (R203, R204). -/
def State.scaleStart (s : State) (v : Via) (va : Nat) (f : NFmt) : State × ScaleUse :=
  match s.readBytes v va 32 with
  | (s, bs) =>
    let p := if f = .s4 then 4 else 8
    let k := pnat bs 1 1
    let count := pnat bs 5 1
    let head := pnat bs 6 1 % 16
    let shared := bit (pnat bs 3 1) 1
    let used := (List.range (min count k)).map fun i => (head + 16 - (i + 1)) % 16
    let near : Bool := match s.reach v va 32 true locNear with
      | .bad => false
      | _ => true
    (s, { valid := va % 32 == 0 && near && scaleValid bs
          format := pnat bs 0 1
          e := scaleExp p count k head (pnat bs 2 1 : Nat) (sgn 8 (pnat bs 4 1)) (fun i => sgn 8 (pnat bs (8 + i) 1))
          trunc := bit (pnat bs 3 1) 0
          psn := ppsn bs 0 8 || (used.any fun i => ppsn bs (8 + i) 1) || (shared && ppsn bs 28 4)
          shared := shared, head := head, count := count, va := va })

/-- The write of a step (R204, R205): with SHARED only LAST_EXP and PENDING, else the observation enters the history. A poisoned record keeps its history (R227). -/
def ScaleUse.finish (u : ScaleUse) (obs : Int) : List ScaleEnd :=
  if u.psn then []
  else if u.shared then [⟨u.va, [(7, unsgn 8 u.e)], some obs⟩]
  else [⟨u.va, [(7, unsgn 8 u.e), (8 + u.head, unsgn 8 obs), (6, (u.head + 1) % 16), (5, min (u.count + 1) 16)], none⟩]

/-- Carry out the record write of a command that ends (R204): the bytes in the cluster, the merge at home (R121). -/
def State.scaleFinish (s : State) (v : Via) (x : ScaleEnd) : State :=
  let s := x.bytes.foldl (fun s b => s.writeBytes v (x.va + b.1) [(b.2, false)]) s
  match x.merge with
  | none => s
  | some obs =>
    match s.resolve v.tenant (BitVec.ofNat 64 (x.va + 28)) 4 true with
    | .ok (.mem a) =>
      let s := s.cleanLine v (.mem a)
      let old := sgn 32 (leNat (s.homeBytes a 4))
      let z := s.homePsn a 4
      s.homeStore a (natLe 4 (unsgn 32 (max old obs))) z
    | _ => s

/-! ### Assay (R206 to R209) -/

/-- No addition. -/
def AssayAdd.none (n : Nat) : AssayAdd := ⟨n, 0, 0, 0, 0⟩

/-- Account one narrowed element (R207). -/
def AssayAdd.add (a : AssayAdd) (clip : Bool) (err : Nat) : AssayAdd :=
  { a with count := a.count + 1, clip := a.clip + b2n clip, sq := a.sq + err * err, max := Nat.max a.max err }

/-- The set a tag names for a tenant (R206): none for 0. -/
def assaySet (tenant tag : Nat) : Option AssayAdd := if tag = 0 then none else some (AssayAdd.none (32 * tenant + tag - 1))

/-- Apply the totals of a command to its set (R206, R208). -/
def State.assayApply (s : State) (a : AssayAdd) : State :=
  if !s.flag (A.AS_SET_CTRL a.set) F.AS_SET_CTRL_ENABLE then s
  else
    let sat := decide (2 ^ 64 ≤ (s.rd (A.AS_SQERR a.set)).toNat + a.sq) || decide (2 ^ 64 ≤ (s.rd (A.AS_COUNT a.set)).toNat + a.count) ||
      decide (2 ^ 32 ≤ (s.rd (A.AS_CLIP a.set)).toNat + a.clip)
    let s := s.fadd (A.AS_SQERR a.set) (63, 0) a.sq
    let s := s.fadd (A.AS_COUNT a.set) (63, 0) a.count
    let s := s.fadd (A.AS_CLIP a.set) (31, 0) a.clip
    let s := s.fset (A.AS_MAXERR a.set) F.AS_MAXERR_VALUE (Nat.max (s.fget (A.AS_MAXERR a.set) F.AS_MAXERR_VALUE) a.max)
    if sat then s.fset (A.AS_SET_CTRL a.set) F.AS_SET_CTRL_SATURATED 1 else s

/-! ### One narrowed output (R194, R204, R207) -/

/-- An output element: its bits, its mark and whether it has one only for a reserved exponent or an unknown tag (R189), whether its narrowing clipped, whether an intermediate narrowing did (R222), whether it counts in Assay with how many error units, and what it adds to the step's observation. -/
structure OutEl where
  raw : Nat
  psn : Bool
  clip : Bool
  cnt : Bool
  err : Nat
  obs : Option Int
  mid : Bool := false
  fmt : Bool := false
  deriving DecidableEq, Repr

/-- Narrow one clean value to an output format. -/
def outEl (f : NFmt) (tr : Bool) (e : Int) (x : FVal) : OutEl :=
  let r := f.narrow tr e x
  { raw := r.1, psn := false, clip := r.2, cnt := true, err := f.err e x r.1, obs := obsOf x }

/-- An output element that is not narrowed: its bits pass unchanged. -/
def outRaw (v : Nat) : OutEl := { raw := v, psn := false, clip := false, cnt := false, err := 0, obs := none }

/-- A poisoned output element: its value is unspecified (R196, log entry 3). -/
def outPoison (f : NFmt) (free : Nat) : OutEl := { outRaw ((Config.freeValue free).toNat % 2 ^ f.width) with psn := true }

/-- Did a command write an element that is poisoned by poisoned data, not only by a reserved exponent or an unknown tag (R189, R228)? -/
def anyPsn (l : List OutEl) : Bool := l.any fun o => o.psn && !o.fmt

/-- The bytes an output element is packed from. -/
def OutEl.byte (o : OutEl) : PByte := (o.raw, o.psn)

/-- The observation of a step over its outputs (R204). -/
def obsAll (l : List OutEl) : Int := l.foldl (fun m o => match o.obs with
  | some x => max m x
  | none => m) (-128)

/-- Total the Assay additions of some outputs. -/
def assayAll (a : Option AssayAdd) (l : List OutEl) : Option AssayAdd :=
  a.map fun a => l.foldl (fun a o => if o.cnt then a.add o.clip o.err else a) a

/-! ### The return of a result (R13, R14, R170, R208) -/

/-- Statuses (R12). -/
def stOk : Nat := 0
/-- POISON (R12). -/
def stPoison : Nat := 1
/-- FORMAT (R12). -/
def stFormat : Nat := 2
/-- REMOTE_TIMEOUT (R12). -/
def stRemote : Nat := 3
/-- ABORTED (R12). -/
def stAborted : Nat := 4
/-- FAULT (R12). -/
def stFault : Nat := 5
/-- QUOTA (R12). -/
def stQuota : Nat := 6
/-- INVALID (R12). -/
def stInvalid : Nat := 7

/-- The status of a command that met some causes (R14). -/
def worst (fault poison format : Bool) : Nat :=
  if fault then stFault else if poison then stPoison else if format then stFormat else stOk

/-- A command that ends without effect, with a status and detail. -/
def Run.plain (c : Cmd) (unit status detail : Nat) : Run := ⟨c, unit, status, detail, 0, [], none, [], [], 0, none⟩

/-- Put a command that has started among the running ones. -/
def State.startRun (s : State) (r : Run) : State := { s.takeCmd r.cmd with runs := s.runs ++ [r] }

/-- May the result of a running command return: no scale record it must write lies in a page that moves (R88, R127, R204)? -/
def State.resultReady (s : State) (r : Run) : Bool :=
  r.scale.all fun x => match s.resolve r.cmd.tenant (BitVec.ofNat 64 x.va) 32 true with
    | .moving _ => false
    | _ => true

/-- Apply what a command's end adds to registers whatever its status (R208): Assay totals and counters. -/
def State.countRun (s : State) (r : Run) : State :=
  let s := match r.assay with
    | some a => s.assayApply a
    | none => s
  r.bumps.foldl (fun s b => s.count b.1 b.2) s

/-- Return the result of a running command (R170, R204, R208): its record writes, its Assay totals and its counters take effect, and its word reaches the issuing thread. -/
def State.endRun (s : State) (r : Run) : State :=
  let s := s.dropRun r
  let s := r.scale.foldl (fun s x => s.scaleFinish (s.viaCmd r.cmd) x) s
  let s := s.countRun r
  let s := if r.status = stPoison ∨ r.status = stFormat then s.noteStat r.cmd.ctx r.status 0x10 else s
  s.returnResult r.cmd (resultWord r.status r.detail r.value)

/-- The tile clock of a level in units of 100 MHz: L0 to L3 (R231, R482). -/
def levelClock (l : Nat) : Nat := if l = 0 then 5 else if l = 1 then 8 else if l = 2 then 10 else 12

/-- The level whose clock a cluster runs at now (R483): during an upward ramp still the lower one. -/
def State.clkLevel (s : State) (c : Nat) : Nat := Tab.get s.pw.clk 2 c

/-- Does a run time exceed a limit register's value (R233)? Zero selects 50,000 ns; at L0 and L1 the limit grows by 1.00 GHz over the tile clock. -/
def overrun (limit level ns : Nat) : Bool :=
  let l := if limit = 0 then 50000 else limit
  if level ≤ 1 then decide (l * 10 < ns * levelClock level) else decide (l < ns)

/-- Record an engine overrun (R233, R629). -/
def State.fsrOverrun (s : State) (c : Cmd) (dom unit : Nat) : State :=
  s.fsr 0x0E { domain := dom, tenant := some c.tenant, unit := unit, part := c.part, ctx := c.ctx, cause := 1 }

end Sys2Proof.Machine
end

