-- ==== Sys2Proof/Machine/Matrix.lean ====
section
/-!
DEFINITION. The matrix unit: validation, accumulation, epilogue and result of a Matrix command (R212 to R235).
-/
namespace Sys2Proof.Machine

/-- The fields of a Matrix descriptor (R216). -/
structure MxD where
  afmt : NFmt
  bfmt : NFmt
  accFirst : Nat
  accCount : Nat
  init : Nat
  out : Nat
  trunc : Bool
  act : Nat
  m : Nat
  k : Nat
  tag : Nat
  n : Nat
  e : Int
  aExp : Int
  aAddr : Nat
  bAddr : Nat
  cAddr : Nat
  bias : Nat
  scale : Nat
  bExp : Int
  cExp : Int
  deriving DecidableEq, Repr

/-- The operand formats (R216). -/
def mxFmt (c : Nat) : NFmt := if c = 0 then .s4 else if c = 1 then .s8 else if c = 2 then .t16 else .h16
/-- The output formats (R216); NONE has no elements. -/
def mxOut (c : Nat) : NFmt := if c = 0 then .s4 else if c = 1 then .s8 else if c = 2 then .t16 else if c = 3 then .h16 else if c = 4 then .f32 else .i32

/-- Read a Matrix descriptor (R216). -/
def mxD (d : List Nat) : MxD :=
  { afmt := mxFmt (bits (field d 0 1) 1 0), bfmt := mxFmt (bits (field d 0 1) 3 2)
    accFirst := bits (field d 1 1) 1 0, accCount := bits (field d 1 1) 4 2, init := bits (field d 1 1) 6 5
    out := bits (field d 2 1) 2 0, trunc := bit (field d 2 1) 3, act := bits (field d 2 1) 6 4
    m := field d 3 1, k := field d 4 3, tag := bits (field d 7 1) 5 0, n := field d 8 2, e := sgn 16 (field d 10 2)
    aExp := sgn 32 (field d 12 4), aAddr := field d 16 8, bAddr := field d 24 8, cAddr := field d 32 8
    bias := field d 40 8, scale := field d 48 8, bExp := sgn 32 (field d 56 4), cExp := sgn 32 (field d 60 4) }

/-- Do the accumulators hold I32 (R214)? -/
def MxD.int (d : MxD) : Bool := d.afmt.isBlock && d.bfmt.isBlock
/-- The number of panels (R213). -/
def MxD.panels (d : MxD) : Nat := ceilDiv d.n 32
/-- Is the output narrowed to a block format? -/
def MxD.scaled (d : MxD) : Bool := decide (d.out ≤ 1)
/-- The output element format. -/
def MxD.ofmt (d : MxD) : NFmt := mxOut d.out

/-- A reserved encoding or a non-zero reserved bit (R216): DETAIL 0x001. -/
def mxReserved (d : List Nat) : Bool :=
  bits (field d 0 1) 7 4 != 0 || bit (field d 1 1) 7 || bit (field d 2 1) 7 || bits (field d 7 1) 7 6 != 0 ||
  bits (field d 1 1) 4 2 == 0 || decide (5 ≤ bits (field d 1 1) 4 2) || bits (field d 1 1) 6 5 == 3 ||
  bits (field d 2 1) 2 0 == 7 || decide (5 ≤ bits (field d 2 1) 6 4)

/-- The checks of the descriptor alone, in the order of R217: DETAIL 0x001 to 0x007. -/
def mxCheck (d : List Nat) : Option Nat :=
  let x := mxD d
  if mxReserved d then some 1
  else if 32 < x.m then some 2
  else if 4 < x.accFirst + x.accCount then some 3
  else if x.init = 2 ∧ x.accCount < x.panels then some 4
  else if x.out = 6 ∧ (32 * x.accCount < x.n ∨ x.act ≠ 0 ∨ x.tag ≠ 0) then some 5
  else if x.out = 5 ∧ (!x.int ∨ x.act ≠ 0) then some 6
  else if x.e < -512 ∨ 511 < x.e ∨ (!x.int ∧ x.e ≠ 0) then some 7
  else none

/-- An address plus a signed offset. -/
def addOff (a : Nat) (o : Int) : Nat := ((a : Int) + o).toNat

/-- Alignment and exponent-offset checks (R217, R218): DETAIL 0x008 and 0x009. Arrays that are not read are not checked (R225). -/
def mxAlign (x : MxD) : Option Nat :=
  if (x.k ≠ 0 ∧ (x.aAddr % x.afmt.align ≠ 0 ∨ x.bAddr % x.bfmt.align ≠ 0)) ∨ (x.out ≠ 6 ∧ x.cAddr % x.ofmt.align ≠ 0) ∨
     (x.init = 1 ∧ x.bias % 4 ≠ 0) then some 8
  else if (!x.afmt.isBlock ∧ x.aExp ≠ 0) ∨ (!x.bfmt.isBlock ∧ x.bExp ≠ 0) ∨ (!x.scaled ∧ x.cExp ≠ 0) then some 9
  else none

/-- One operand array with its exponent array. -/
def State.reachRows (s : State) (v : Via) (f : NFmt) (a : Nat) (x : Int) (rows l : Nat) (wr : Bool) : Reach :=
  (s.reach v a (rows * f.stride l) wr locLocal).and
    (if !f.isBlock then .ok []
     else if (a : Int) + x < 0 then .bad
     else s.reach v (addOff a x) (rows * ceilDiv l 32) wr locLocal)

/-- Every array the command touches (R219, R220). -/
def State.mxReach (s : State) (v : Via) (x : MxD) : Reach :=
  let a := if x.k = 0 then .ok [] else
    (s.reachRows v x.afmt x.aAddr x.aExp x.m x.k false).and (s.reachRows v x.bfmt x.bAddr x.bExp x.n x.k false)
  let c := if x.out = 6 then .ok [] else s.reachRows v x.ofmt x.cAddr x.cExp x.m x.n true
  let b := if x.init = 1 then s.reach v x.bias (4 * x.n) false locLocal else .ok []
  let r := if x.scaled then s.reach v x.scale 32 true locLocal else .ok []
  ((a.and c).and b).and r

/-! ### Activation tables (R223, R224, R235) -/

/-- A copy of an activation table: segments, breakpoints, slopes, intercepts as F32 bits. -/
structure ActTab where
  segs : Nat
  bp : List Nat
  slope : List Nat
  icpt : List Nat
  deriving DecidableEq, Repr

/-- Copy activation table `i` of a tile (R224). -/
def State.actTab (s : State) (tile i : Nat) : ActTab :=
  let n := if s.flag (A.MX_ACT_CFG tile i) F.MX_ACT_CFG_SEGS then 16 else 8
  ⟨n, (List.range (n - 1)).map fun j => (s.rd (A.MX_ACT_BP tile i j)).toNat,
   (List.range n).map fun j => (s.rd (A.MX_ACT_SLOPE tile i j)).toNat,
   (List.range n).map fun j => (s.rd (A.MX_ACT_ICPT tile i j)).toNat⟩

/-- Is an F32 value finite? -/
def f32Fin (v : Nat) : Bool := match f32 v with
  | .fin _ _ _ => true
  | _ => false

/-- Strictly ascending F32 values. -/
def f32Asc : List Nat → Bool
  | a :: b :: t => (f32 a).lt (f32 b) && f32Asc (b :: t)
  | _ => true

/-- Is the table valid (R224)? -/
def ActTab.valid (t : ActTab) : Bool := t.bp.all f32Fin && f32Asc t.bp && t.slope.all f32Fin && t.icpt.all f32Fin

/-- The activation of an F32 value (R223). -/
def ActTab.eval (t : ActTab) (x : Nat) : Nat :=
  let v := f32 x
  if v.isNan then fmtF32.qnan
  else
    let i := (List.range (t.segs - 1)).foldl (fun i j => if v.lt (f32 (t.bp.getD j 0)) then i else j + 1) 0
    let sl := f32 (t.slope.getD i 0)
    if v.isInf && sl.isZero then t.icpt.getD i 0
    else toF32 ((sl.mul v).add (f32 (t.icpt.getD i 0)))

/-! ### Accumulation (R214, R221) -/

/-- The dot product of one block of two integer rows (R197). -/
def intDot (a b : NRow) (blk n : Nat) : Int :=
  (List.range n).foldl (fun t j =>
    t + sgn a.fmt.width (a.raw (32 * blk + j)) * sgn b.fmt.width (b.raw (32 * blk + j))) 0

/-- A signed integer times `2^k`, rounded when `k` is negative (R198). -/
def shiftRound (tr : Bool) (x k : Int) : Int :=
  let m : Int := (scaleRound tr x.natAbs k 0 : Nat)
  if x < 0 then -m else m

/-- One saturating addition to an I32 accumulator, with the count of those that saturated (R198). -/
def satAcc (a : Int × Nat) (x : Int) : Int × Nat :=
  let y := a.1 + x
  let z := clampI (-2147483648) 2147483647 y
  (z, a.2 + b2n (z != y))

/-- Elements of block `b` of a row of `k` elements. -/
def blkLen (k b : Nat) : Nat := min 32 (k - 32 * b)

/-- Accumulate a row pair into an I32 accumulator, block by block (R221). -/
def accInt (tr : Bool) (e : Int) (k : Nat) (a b : NRow) (init : Int) : Int × Nat :=
  (List.range (ceilDiv k 32)).foldl (fun acc q =>
    satAcc acc (shiftRound tr (intDot a b q (blkLen k q)) (a.exp q + b.exp q - e))) (init, 0)

/-- Sum a block's exact products in the fixed tree of five levels (R221). -/
def treeSum (l : List FVal) : FVal :=
  (pairAdd (pairAdd (pairAdd (pairAdd (pairAdd l))))).headD (.fin false 0 0)

/-- A single product enters the tree exactly and is rounded where no other is added to it. -/
def roundF32 (v : FVal) : FVal := f32 (toF32 v)

/-- Accumulate a row pair into an F32 accumulator (R221). -/
def accFlt (k : Nat) (a b : NRow) (init : FVal) : FVal :=
  (List.range (ceilDiv k 32)).foldl (fun acc q =>
    roundF32 (acc.add (roundF32 (treeSum ((List.range (blkLen k q)).map fun j =>
      (a.val (32 * q + j)).mul (b.val (32 * q + j))))))) init

/-! ### The command (R212 to R230) -/

/-- What a Matrix command reads before it computes. -/
structure MxIn where
  a : List NRow
  b : List NRow
  bias : List PByte
  tab : ActTab
  use : Option ScaleUse
  deriving DecidableEq, Repr

/-- Read `rows` rows of an operand (R218). -/
def State.readRows (s : State) (v : Via) (f : NFmt) (a : Nat) (x : Int) (rows l : Nat) : State × List NRow :=
  (List.range rows).foldl (fun sr r =>
    match sr.1.readRow v f (a + r * f.stride l) (addOff a x + r * ceilDiv l 32) l with
    | (s, row) => (s, sr.2 ++ [row])) (s, [])

/-- An empty row. -/
def NRow.nil : NRow := ⟨.t16, [], []⟩

/-- Read everything a command uses; B is read as the operand whose reads from the vault beneath the tile are of class 0 (R220). -/
def State.mxRead (s : State) (v : Via) (tile : Nat) (x : MxD) (use : Option ScaleUse) : State × MxIn :=
  let (s, a) := if x.k = 0 then (s, List.replicate x.m NRow.nil) else s.readRows v x.afmt x.aAddr x.aExp x.m x.k
  let (s, b) := if x.k = 0 then (s, List.replicate x.n NRow.nil) else s.readRows { v with src := 256 + tile } x.bfmt x.bAddr x.bExp x.n x.k
  let (s, bs) := if x.init = 1 then
      (match s.readBytes v x.bias (4 * x.n) with
      | (s, l) => (s, unpack 32 x.n l))
    else (s, [])
  (s, ⟨a, b, bs, s.actTab tile (x.act - 1), use⟩)

/-- An accumulated element: the lane, its mark, whether poisoned data set the mark and not only a reserved exponent (R228), and its saturated additions. -/
structure MxEl where
  lane : Lane
  psn : Bool
  data : Bool
  sat : Nat
  deriving DecidableEq, Repr

/-- The accumulated value of row `r`, column `n` (R214, R221, R227, R228). With K 0 it is the initial value (R225). -/
def mxElem (x : MxD) (i : MxIn) (t : Tile) (free r n : Nat) : MxEl :=
  let a := i.a.getD r NRow.nil
  let b := i.b.getD n NRow.nil
  let kept := t.getAcc (x.accFirst + n / 32 % x.accCount) r (n % 32)
  let bias := i.bias.getD n (0, false)
  let start : Lane × Bool := if x.init = 0 then (0, false) else if x.init = 1 then (BitVec.ofNat 32 bias.1, bias.2) else kept
  let data := start.2 || a.psn || b.psn
  if data || a.bad || b.bad then ⟨(Config.freeValue (free + r * x.n + n)).setWidth 32, true, data, 0⟩
  else if x.k = 0 then ⟨start.1, false, false, 0⟩
  else if x.int then
    let q := accInt x.trunc x.e x.k a b start.1.toInt
    ⟨BitVec.ofInt 32 q.1, false, false, q.2⟩
  else ⟨BitVec.ofNat 32 (toF32 (accFlt x.k a b (f32 start.1.toNat))), false, false, 0⟩

/-- The epilogue of one clean accumulator element (R222). Assay does not count what the intermediate narrowing of step 3 clips. -/
def mxEpilogue (x : MxD) (i : MxIn) (v : Lane) : OutEl :=
  let tr := x.trunc || (i.use.map (·.trunc)).getD false
  let e := (i.use.map (·.e)).getD 0
  let val := if x.int then FVal.ofInt false v.toInt x.e else f32 v.toNat
  if x.out = 5 then outRaw v.toNat
  else if x.act ≠ 0 then
    let n32 := if x.int then outEl .f32 x.trunc 0 val else outRaw v.toNat
    let y := i.tab.eval n32.raw
    if x.out = 4 then { n32 with raw := y }
    else { outEl x.ofmt tr e (f32 y) with mid := n32.clip }
  else if x.out = 4 ∧ !x.int then outRaw v.toNat
  else outEl x.ofmt tr e val

/-- What a command computes for its first panels: accumulators, outputs by row, saturations. -/
structure MxOutc where
  tile : Tile
  outs : List (List OutEl)
  sat : Nat
  heldPsn : Nat
  deriving DecidableEq, Repr

/-- Compute the first `cols` columns (R213, R214): panels in ascending order, each accumulated before its epilogue; the accumulators end with the values of the last panels (R215). -/
def mxCompute (x : MxD) (i : MxIn) (t : Tile) (free cols : Nat) : MxOutc :=
  (List.range x.m).foldl (fun (o : MxOutc) r =>
    let row := (List.range cols).map fun n => mxElem x i t free r n
    let psn := (i.use.map (·.psn)).getD false
    let outs := (List.range cols).map fun n =>
      let q := row.getD n ⟨0, false, false, 0⟩
      if q.psn || psn then { outPoison x.ofmt (free + (x.m + r) * x.n + n) with fmt := !q.data && !psn } else mxEpilogue x i q.lane
    { tile := (List.range cols).foldl (fun t n =>
        let q := row.getD n ⟨0, false, false, 0⟩
        t.setAcc (x.accFirst + n / 32 % x.accCount) r (n % 32) q.lane q.psn) o.tile
      outs := o.outs ++ [outs]
      sat := o.sat + row.foldl (fun c q => c + q.sat) 0
      heldPsn := o.heldPsn + (row.filter fun q => q.psn).length }) ⟨t, [], 0, 0⟩

/-- Write the output rows (R218, R222): elements padded with zero, and for a block format the exponent of every block. `cols` is N, or the columns of the panels finished before a fault (R229). -/
def State.mxWrite (s : State) (v : Via) (x : MxD) (e : Int) (outs : List (List OutEl)) : State :=
  (List.range outs.length).foldl (fun s r =>
    let row := outs.getD r []
    let s := s.writeBytes v (x.cAddr + r * x.ofmt.stride x.n) (packRow x.ofmt (row.map OutEl.byte))
    if x.scaled then
      s.writeBytes v (addOff x.cAddr x.cExp + r * ceilDiv x.n 32) (List.replicate (ceilDiv row.length 32) (unsgn 8 e, false))
    else s) s

/-- The accumulator of a faulting panel is unspecified (R229, log entry 3). -/
def mxSpoil (x : MxD) (t : Tile) (free panel : Nat) : Tile :=
  (List.range 1024).foldl (fun t q =>
    t.setAcc (x.accFirst + panel % x.accCount) (q / 32) (q % 32) ((Config.freeValue (free + q)).setWidth 32) false) t

/-- Run a validated command (R221, R222, R225 to R229). `stop` is the panel in which an access was refused, if one was. -/
def State.mxRun (s : State) (c : Cmd) (x : MxD) (use : Option ScaleUse) (stop : Option Nat) : State :=
  let v := s.viaCmd c
  match s.mxRead v c.tile x use with
  | (s, i) =>
    let cols := match stop with
      | some p => min x.n (32 * p)
      | none => x.n
    let free := s.free
    let o := mxCompute x i (s.tile c.tile) free cols
    let s := { s with free := free + 2 * x.m * x.n + 1024 }
    let s := s.setTile c.tile (match stop with
      | some p => mxSpoil x o.tile (free + 2 * x.m * x.n) p
      | none => o.tile)
    let e := (use.map (·.e)).getD 0
    let s := if x.out = 6 then s else s.mxWrite v x e o.outs
    let all := o.outs.flatten
    let nP := if x.out = 6 then o.heldPsn else (all.filter (·.psn)).length
    let fmtBad := i.a.any NRow.bad || (i.b.take cols).any NRow.bad
    let clip := x.out != 6 && all.any fun o => o.clip || o.mid
    let held := decide (x.out = 6) && decide (0 < nP)
    let fault := stop.isSome
    let status := worst fault (x.out != 6 && anyPsn all) fmtBad
    s.startRun
      { cmd := c, unit := c.tile, status := status
        detail := b2n (decide (0 < o.sat)) + 2 * b2n clip + 4 * b2n held
        value := min nP (2 ^ 31 - 1)
        scale := if fault then [] else (use.map fun u => u.finish (obsAll all)).getD []
        assay := if x.out = 6 then none else assayAll (assaySet c.tenant x.tag) all
        bumps := [(A.MX_MAC_COUNT c.tile, x.m * cols * x.k), (A.MX_ACC_SAT c.tile, o.sat), (A.MX_FORMAT_COUNT c.tile, b2n fmtBad),
                  (A.MX_POISON_COUNT c.tile, b2n (decide (0 < nP))), (A.MX_FAULT_COUNT c.tile, b2n fault)]
        tiles := [], link := 0, commit := none }

/-- What the command a tile's matrix unit has started waits for (R220). -/
def State.setMxHold (s : State) (tile : Nat) (h : Hold) : State := s.setTile tile { s.tile tile with mxHold := h }

/-- Validate a Matrix command and run it (R217, R219, R220, R225). A page that moves, or a domain that wakes, keeps it waiting; an access that is refused, or whose wait reaches its stall limit, ends it with FAULT. -/
def State.mxStart (s : State) (c : Cmd) (stop : Option Nat) : State :=
  let x := mxD c.desc
  let v := s.viaCmd c
  match mxCheck c.desc with
  | some d => s.startRun (Run.plain c c.tile stInvalid d)
  | none =>
    if x.m = 0 ∨ x.n = 0 then s.startRun (Run.plain c c.tile stOk 0)
    else match mxAlign x with
    | some d => s.startRun (Run.plain c c.tile stInvalid d)
    | none =>
      match s.gate v (s.tile c.tile).mxHold (s.mxReach v x) stop.isSome with
      | (s, g, hold) =>
        let s := s.setMxHold c.tile hold
        match g with
        | .bad => s.startRun (Run.plain c c.tile stInvalid 0x00A)
        | .wait => s
        | .go refused =>
          let stop := if refused then some (stop.getD 0) else stop
          let su : State × Option ScaleUse := if x.scaled then
              (match s.scaleStart v x.scale x.ofmt with
              | (s, u) => (s, some u))
            else (s, none)
          if x.act ≠ 0 ∧ !(s.actTab c.tile (x.act - 1)).valid then s.startRun (Run.plain c c.tile stInvalid 0x00B)
          else if su.2.any fun u => !u.psn && u.format != (if x.out = 1 then 0 else 1) then s.startRun (Run.plain c c.tile stInvalid 0x00C)
          else if su.2.any fun u => !u.valid then s.startRun (Run.plain c c.tile stInvalid 0x0F0)
          else if 33 ≤ x.tag then s.startRun (Run.plain c c.tile stInvalid 0x0F1)
          else su.1.mxRun c x su.2 stop

/-- MX_COMMAND (R212 to R230): the oldest Matrix command of a tile leaves the command buffer when the unit is free and its cluster On, is validated and computes. `stop` names the panel in which an operand or output access got an error response or reached its stall limit (R220, R229). -/
def execMxCommand (tile : Nat) (stop : Option Nat) (s : State) : Out :=
  match s.nextCmd 0 tile with
  | none => .next s
  | some c =>
    if (s.running 0 tile).isSome || (s.runs.any fun r => r.tiles.contains tile) || !s.isOn (16 + tile / 8) || !s.cmdReady c || s.accFirst c then .next s
    else .next (s.mxStart c stop)

/-- MX_RESULT (R208, R226, R230, R233): the running command of a tile returns. `cycles` are the tile cycles it ran, `ns` its run time without WAKE and MIGRATE stalls, which is compared with MX_NP_LIMIT. -/
def execMxResult (tile cycles ns : Nat) (s : State) : Out :=
  match s.running 0 tile with
  | none => .next s
  | some r =>
    if !s.resultReady r then .next s
    else
    let overran := overrun (s.fget (A.MX_NP_LIMIT tile) F.MX_NP_LIMIT_NS) (s.clkLevel (tile / 8)) ns
    let s := (s.count (A.MX_CMD_COUNT tile) 1).count (A.MX_BUSY_CYCLES tile) cycles
    let s := if overran then (s.count (A.MX_NP_OVERRUN tile) 1).fsrOverrun r.cmd (16 + tile / 8) tile else s
    .next (s.endRun { r with detail := r.detail + 8 * b2n (overran && r.status != stInvalid) })

end Sys2Proof.Machine
end

