-- ==== Sys2Proof/Machine/Attention.lean ====
section
/-!
DEFINITION. The Attention engine: KV pages, sequences and pools, and the ATTEND, APPEND and MERGE commands (R236 to R267).
-/
namespace Sys2Proof.Machine

/-! ### Descriptor, records (R239 to R246) -/

/-- The fields of an Attention descriptor (R246). -/
structure AtD where
  op : Nat
  wf32 : Bool
  causal : Bool
  seg : Bool
  trunc : Bool
  out : Nat
  rows : Nat
  g : Nat
  hf : Nat
  hc : Nat
  tag : Nat
  smScale : Nat
  ptFirst : Nat
  ptStride : Nat
  dblk : Nat
  kvh : Nat
  pageLimit : Nat
  seq : Nat
  q : Nat
  o : Nat
  rowinfo : Nat
  scale : Nat
  vscale : Nat
  deriving DecidableEq, Repr

/-- Read an Attention descriptor (R246). For APPEND `q` holds K_ADDR and `o` V_ADDR; for MERGE `g` holds PARTS, `q` IN_ADDR and `vscale` PART_STRIDE. -/
def atD (d : List Nat) : AtD :=
  let m := field d 1 1
  { op := bits (field d 0 1) 1 0, wf32 := bit m 0, causal := bit m 1, seg := bit m 2, trunc := bit m 3
    out := bits (field d 2 1) 2 0, rows := field d 3 1, g := field d 4 1, hf := field d 5 1, hc := field d 6 1
    tag := bits (field d 7 1) 5 0, smScale := field d 8 4, ptFirst := field d 12 4, ptStride := field d 16 2
    dblk := field d 18 1, kvh := field d 19 1, pageLimit := field d 20 4, seq := field d 24 8, q := field d 32 8
    o := field d 40 8, rowinfo := field d 48 8, scale := field d 56 8, vscale := field d 8 8 }

/-- The head dimension. -/
def AtD.dim (x : AtD) : Nat := 32 * x.dblk
/-- The working format (R248). -/
def AtD.wf (x : AtD) : NFmt := if x.wf32 then .f32 else .t16
/-- The output format of a row that is not PARTIAL (R246). -/
def AtD.ofmt (x : AtD) : NFmt := if x.out = 0 then .t16 else if x.out = 1 then .h16 else if x.out = 2 then .f32 else .s8
/-- The format of KV pages by tag (R239). -/
def kvFmt (t : Nat) : NFmt := if t = 0 then .s4 else if t = 1 then .s8 else .t16

/-- A reserved encoding or a non-zero reserved bit (R246): DETAIL 0x001. -/
def atReserved (d : List Nat) : Bool :=
  let x := atD d
  let m := field d 1 1
  x.op == 3 || bits (field d 0 1) 7 2 != 0 || bits m 7 4 != 0 || bits (field d 7 1) 7 6 != 0 ||
  (x.op == 0 && (bits (field d 2 1) 7 3 != 0 || decide (5 ≤ x.out))) ||
  (x.op == 1 && (x.causal || !zeroBytes d 2 1 || !zeroBytes d 4 3 || !zeroBytes d 16 2 || !zeroBytes d 20 4)) ||
  (x.op == 2 && (bits m 2 0 != 0 || bits (field d 2 1) 7 3 != 0 || decide (5 ≤ x.out) || !zeroBytes d 5 2 || !zeroBytes d 16 2 ||
    !zeroBytes d 19 5 || !zeroBytes d 24 8 || !zeroBytes d 48 8))

/-- The checks of the descriptor alone (R247): DETAIL 0x001 to 0x006. -/
def atCheck (d : List Nat) : Option Nat :=
  let x := atD d
  if atReserved d then some 1
  else if 128 < x.rows ∨ x.dblk < 1 ∨ 8 < x.dblk ∨ (x.op ≠ 2 ∧ (x.kvh < 1 ∨ 32 < x.kvh)) ∨
      (x.op = 0 ∧ (x.g < 1 ∨ 128 < x.g ∨ x.hc < 1 ∨ 32 < x.hc)) then some 2
  else if x.op = 0 ∧ x.kvh < x.hf + x.hc then some 3
  else if (x.op = 0 ∧ x.ptStride = 0) ∨ (x.op = 2 ∧ 16 < x.g) then some 4
  else if x.op = 0 ∧ !(match f32 x.smScale with
      | .fin s m _ => !s && m != 0
      | _ => false) then some 5
  else if x.q % 64 ≠ 0 ∨ x.o % 64 ≠ 0 ∨ (x.op = 2 ∧ x.vscale % 64 ≠ 0) ∨ (x.op ≠ 2 ∧ (x.seq % 64 ≠ 0 ∨ ((x.causal || x.seg) ∧ x.rowinfo % 8 ≠ 0))) then some 6
  else none

/-- A sequence record (R242), with the poison of its halves: PT_ADDR and STATE, and the fields behind them. -/
structure SeqRec where
  pt : Nat
  state : Nat
  cap : Nat
  nf : Nat
  kvh : Nat
  dblk : Nat
  pools : Nat
  poolA : Nat
  psnLo : Bool
  psnHi : Bool
  deriving DecidableEq, Repr

/-- Is a field of the record poisoned (R261)? -/
def SeqRec.psn (r : SeqRec) : Bool := r.psnLo || r.psnHi

/-- Pages of the sequence. -/
def SeqRec.pages (r : SeqRec) : Nat := bits r.state 31 0
/-- Tokens of the tail page. -/
def SeqRec.tail (r : SeqRec) : Nat := bits r.state 36 32

/-- The view an Attention command accesses records and KV pages with: at home, as its cluster's engine (R76, R238). -/
def viaAt (c : Cmd) (unit : Nat) : Via := ⟨16, c.tenant, 0, c.part, 128 + unit⟩

/-- The bytes a read through a view gives. -/
def State.readVia (s : State) (v : Via) (a len : Nat) : List PByte := (s.readBytes v a len).2

/-- Read a byte string of a tenant at home (R238, R270). -/
def State.readHome (s : State) (n a len : Nat) : List PByte := s.readVia (viaHome n) a len

/-- Write bytes of a tenant at home (R238, R270). -/
def State.writeHome (s : State) (n a : Nat) (bs : List PByte) : State := s.writeBytes (viaHome n) a bs

/-- What some reads do to the state: pages are accessed, transfers and poisoned data are counted (R77, R89, R97). -/
def State.readAll (s : State) (v : Via) (l : List (Nat × Nat)) : State := l.foldl (fun s p => (s.readBytes v p.1 p.2).1) s

/-- Read a sequence record. -/
def State.seqRec (s : State) (v : Via) (a : Nat) : SeqRec :=
  let b := s.readVia v a 64
  ⟨pnat b 0 8, pnat b 8 8, pnat b 16 4, pnat b 20 1, pnat b 21 1, pnat b 22 1, pnat b 23 1, pnat b 24 8, ppsn b 0 16, ppsn b 16 16⟩

/-- Is a sequence record valid for a command (R242, R247)? Poisoned fields are not judged (R261). -/
def SeqRec.ok (r : SeqRec) (x : AtD) (reserved : Bool) : Bool :=
  let lo := r.psnLo || (r.pt % 4 == 0 && r.state / 2 ^ 37 == 0 && (if r.pages = 0 then r.tail == 0 else decide (1 ≤ r.tail) && decide (r.tail ≤ 16)))
  let hi := r.psnHi || (decide (1 ≤ r.cap) && decide (r.cap ≤ 2 ^ 27) && decide (r.nf ≤ 2) && decide (1 ≤ r.kvh) && decide (r.kvh ≤ 32) &&
    decide (1 ≤ r.dblk) && decide (r.dblk ≤ 8) && decide (1 ≤ r.pools) && decide (r.pools ≤ 16) && r.poolA % 64 == 0 && r.kvh == x.kvh && r.dblk == x.dblk)
  !reserved && lo && hi && (r.psn || decide (r.pages ≤ r.cap))

/-- A pool record (R244). -/
structure PoolRec where
  base : Nat
  slotSize : Nat
  slots : Nat
  free : Nat
  psn : Bool
  ok : Bool
  deriving DecidableEq, Repr

/-- Read a pool record and judge it (R244). -/
def State.poolRec (s : State) (v : Via) (a : Nat) : PoolRec :=
  let b := s.readVia v a 64
  let base := pnat b 0 8
  let ss := pnat b 8 4
  let sc := pnat b 12 4
  ⟨base, ss, sc, pnat b 16 8, ppsn b 0 24,
   decide (base < 2 ^ 43) && base % pageSize == 0 && ss % 64 == 0 && decide (128 ≤ ss) && decide (ss ≤ pageSize) &&
   decide (1 ≤ sc) && decide (sc ≤ 2 ^ 28) && (pnat b 28 32 == 0 && pnat b 60 4 == 0)⟩

/-- The address of a slot (R244). -/
def PoolRec.slotAddr (p : PoolRec) (k : Nat) : Nat :=
  let n := pageSize / p.slotSize
  p.base + k / n * pageSize + k % n * p.slotSize

/-- Bytes of the exponent area of a page (R240). -/
def kvExpLen (f : NFmt) (h dblk : Nat) : Nat := if f.isBlock then ceilDiv (32 * h * dblk) 64 * 64 else 0
/-- Offset of the element area (R240). -/
def kvElemOff (f : NFmt) (h dblk : Nat) : Nat := 64 + kvExpLen f h dblk
/-- Bytes of the keys, and of the values, of one token. -/
def kvTok (f : NFmt) (h dblk : Nat) : Nat := h * (32 * dblk) * f.width / 8
/-- The page size (R240). -/
def kvPageSize (f : NFmt) (h dblk : Nat) : Nat := kvElemOff f h dblk + 32 * kvTok f h dblk

/-- A KV page as read for one command: its number, tokens in use, whether its tag is unknown, the segment numbers, and its bytes. -/
structure KvPage where
  i : Nat
  used : Nat
  unknown : Bool
  tag : Nat
  bytes : List PByte
  deriving DecidableEq, Repr

/-- The key (value when `vl`) row of head `h` of slot `j` (R240). -/
def KvPage.row (p : KvPage) (x : AtD) (vl : Bool) (j h : Nat) : NRow :=
  let f := kvFmt p.tag
  let el := kvElemOff f x.kvh x.dblk + (if vl then 16 * kvTok f x.kvh x.dblk else 0) + (j * x.kvh + h) * (x.dim * f.width / 8)
  let ex := 64 + (if vl then 16 * x.kvh * x.dblk else 0) + (j * x.kvh + h) * x.dblk
  ⟨f, unpack f.width x.dim ((p.bytes.drop el).take (x.dim * f.width / 8)), if f.isBlock then (p.bytes.drop ex).take x.dblk else []⟩

/-- The segment number of slot `j` (R239). -/
def KvPage.segOf (p : KvPage) (j : Nat) : Nat := pnat p.bytes (16 + 2 * j) 2

/-- Does the page poison every row (R261)? -/
def KvPage.allPsn (p : KvPage) (x : AtD) : Bool := ppsn p.bytes 0 2 || (x.seg && ppsn p.bytes 16 32)

/-- A query row's information (R248). -/
structure RowInfo where
  seg : Nat
  pos : Nat
  psn : Bool
  deriving DecidableEq, Repr

/-- Is slot `j` of the page eligible for a row (R249)? An unknown VALID is judged over all 16 slots (R241). -/
def KvPage.elig (p : KvPage) (x : AtD) (r : RowInfo) (j : Nat) : Bool :=
  decide (j < p.used) && (!x.seg || p.segOf j == r.seg) && (!x.causal || decide (16 * p.i + j ≤ r.pos))

/-! ### The pass (R250 to R253) -/

/-- F32 rounding of an exact value. -/
def rnd (v : FVal) : FVal := f32 (toF32 v)

/-- The score's dot product: exact products, the tree of R221 per block, blocks added in order (R251). -/
def atDot (dblk : Nat) (q k : NRow) : FVal :=
  match (List.range dblk).map (fun b => rnd (treeSum ((List.range 32).map fun j => (q.val (32 * b + j)).mul (k.val (32 * b + j))))) with
  | [] => .fin false 0 0
  | a :: t => t.foldl (fun s y => rnd (s.add y)) a

/-- The pairwise tree over 16 terms (R251). -/
def tree16 (l : List FVal) : FVal := (pairAdd (pairAdd (pairAdd (pairAdd l)))).headD (.fin false 0 0)

/-- exp2 as the engine computes it (R251). -/
def atExp2 (x : FVal) : FVal := exp2Bounded (Config.exp2 (BitVec.ofNat 32 (toF32 x))).toNat x

/-- A row while it is computed: maximum, sum, output, whether poisoned data poison it, whether a score was NaN or +Inf, and whether a reserved tag or exponent poisons it (R241). -/
structure AtRow where
  m : FVal
  l : FVal
  o : List FVal
  psn : Bool
  nan : Bool
  fmt : Bool
  deriving DecidableEq, Repr

/-- Round a weight to the working format (R251). -/
def AtD.work (x : AtD) (p : FVal) : FVal := if x.wf32 then p else fmtT16.dec (fmtT16.enc false true p)

/-- One page of a row (R251, R252, R261). The scores of clean keys are formed even where another token poisons the row, since they can set NAN_ROW. -/
def atPage (x : AtD) (q : NRow) (h : Nat) (inf : RowInfo) (r : AtRow) (p : KvPage) : AtRow :=
  let el := (List.range 16).map fun j => p.elig x inf j
  let any := el.any id
  if p.allPsn x then { r with psn := true }
  else if p.unknown then { r with fmt := r.fmt || any }
  else if !any then r
  else
    let js := (List.range 16).filter fun j => el.getD j false
    let ps := js.any fun j => (p.row x false j h).psn || (p.row x true j h).psn
    let bd := js.any fun j => (p.row x false j h).bad || (p.row x true j h).bad
    let clean (j : Nat) : Bool := el.getD j false && !(p.row x false j h).psn && !(p.row x false j h).bad
    let sc := (List.range 16).map fun j =>
      if clean j then rnd ((atDot x.dblk q (p.row x false j h)).mul (f32 x.smScale)) else .inf true
    let nan := !q.psn && !inf.psn && js.any fun j => (sc.getD j .nan).isNan || sc.getD j .nan == .inf false
    let mp := sc.foldl FVal.max (.inf true)
    if ps || bd || nan then { r with psn := r.psn || ps, fmt := r.fmt || bd, nan := r.nan || nan }
    else if mp == .inf true then r
    else
      let mn := FVal.max r.m mp
      let c := atExp2 (rnd (r.m.sub mn))
      let pr := (List.range 16).map fun j => if el.getD j false then atExp2 (rnd ((sc.getD j .nan).sub mn)) else .fin false 0 0
      let vs := (List.range 16).map fun j => p.row x true j h
      { r with
        m := mn
        l := rnd ((rnd (r.l.mul c)).add (rnd (tree16 pr)))
        o := (List.range x.dim).map fun d =>
          rnd ((rnd ((r.o.getD d .nan).mul c)).add (rnd (tree16 ((List.range 16).map fun j =>
            if el.getD j false then (x.work (pr.getD j .nan)).mul ((vs.getD j NRow.nil).val d) else .fin false 0 0)))) }

/-- A row before its first page. -/
def AtRow.start (x : AtD) (psn : Bool) : AtRow :=
  ⟨.inf true, .fin false 0 0, (List.range x.dim).map fun _ => .fin false 0 0, psn, false, false⟩

/-- What is written for a row: its elements or record, whether it is EMPTY, whether it is poisoned and whether poisoned data made it so, and NAN_ROW. -/
structure AtOut where
  els : List OutEl
  partial_ : List PByte
  empty : Bool
  psn : Bool
  data : Bool
  nan : Bool
  deriving DecidableEq, Repr

/-- An F32 lane as bytes. -/
def f32Bytes (v : Nat) (p : Bool) : List PByte := (natLe 4 v).map fun b => (b, p)

/-- A partial record (R254). -/
def partialRec (m l flags : Nat) (o : List Nat) (p : Bool) : List PByte :=
  f32Bytes m p ++ f32Bytes l p ++ f32Bytes flags p ++ List.replicate 52 (0, p) ++ o.flatMap fun v => f32Bytes v p

/-- Finish a row that is EMPTY or not (R251 to R255, R260, R261): `free` numbers its unspecified values when it is poisoned. A poisoned row does not count as EMPTY (log entry 21). -/
def atFinish (x : AtD) (e : Int) (scTrunc recPsn : Bool) (free : Nat) (void : Bool) (r : AtRow) : AtOut :=
  let d := x.dim
  let mark := r.psn || r.fmt
  let empty := void && !r.nan && !mark
  if x.out = 4 then
    if mark then
      ⟨[], partialRec ((Config.freeValue free).toNat % 2 ^ 32) ((Config.freeValue (free + 1)).toNat % 2 ^ 32) (2 * b2n r.nan)
        ((List.range d).map fun j => (Config.freeValue (free + 2 + j)).toNat % 2 ^ 32) true, false, true, r.psn, r.nan⟩
    else if r.nan then ⟨[], partialRec fmtF32.qnan fmtF32.qnan 2 (List.replicate d fmtF32.qnan) false, false, false, false, true⟩
    else if empty then ⟨[], partialRec 0xFF800000 0 1 (List.replicate d 0) false, true, false, false, false⟩
    else ⟨[], partialRec (toF32 r.m) (toF32 r.l) 0 (r.o.map toF32) false, false, false, false, false⟩
  else
    let tr := x.trunc || scTrunc
    if mark || recPsn then ⟨(List.range d).map fun j => outPoison x.ofmt (free + j), [], empty, true, r.psn || recPsn, r.nan⟩
    else
      let vals := if r.nan then List.replicate d FVal.nan
        else if empty then List.replicate d (FVal.fin false 0 0)
        else r.o.map fun v => f32 (divF32 v r.l)
      ⟨vals.map fun v => outEl x.ofmt tr e v, [], empty, false, false, r.nan⟩

/-- Bytes of the output array (R253, R254). -/
def AtD.outLen (x : AtD) : Nat :=
  if x.out = 4 then x.rows * (64 + 4 * x.dim)
  else x.rows * x.ofmt.stride x.dim + (if x.out = 3 then x.rows * x.dblk else 0)

/-- Write the rows of an ATTEND or MERGE (R253, R254). -/
def State.atWrite (s : State) (v : Via) (x : AtD) (e : Int) (outs : List AtOut) : State :=
  (List.range outs.length).foldl (fun s r =>
    let o := outs.getD r ⟨[], [], false, false, false, false⟩
    if x.out = 4 then s.writeBytes v (x.o + r * (64 + 4 * x.dim)) o.partial_
    else
      let s := s.writeBytes v (x.o + r * x.ofmt.stride x.dim) (packRow x.ofmt (o.els.map OutEl.byte))
      if x.out = 3 then s.writeBytes v (x.o + x.rows * x.ofmt.stride x.dim + r * x.dblk) (List.replicate x.dblk (unsgn 8 e, false)) else s) s

/-- An ATTEND or MERGE has written its rows and waits for its result (R253, R262, R263): its status, flags and counters. -/
def State.atDone (s : State) (c : Cmd) (x : AtD) (unit : Nat) (use : Option ScaleUse) (outs : List AtOut) (fault : Bool) (fmtN : Nat)
    (bumps : List (Nat × Nat)) : State :=
  let empties := (outs.filter (·.empty)).length
  let psns := (outs.filter (·.psn)).length
  let els := outs.flatMap (·.els)
  let status := worst fault (outs.any (·.data)) (decide (0 < fmtN))
  s.startQ
    { cmd := c, unit := unit, status := status
      detail := b2n (decide (0 < empties)) + 2 * b2n (els.any (·.clip)) + 8 * b2n (outs.any (·.nan))
      value := empties + 256 * psns
      scale := if fault ∨ x.rows = 0 then [] else (use.map fun u => u.finish (obsAll els)).getD []
      assay := if x.out = 4 then none else assayAll (assaySet c.tenant x.tag) els
      bumps := bumps ++ [(A.AT_FORMAT_COUNT unit c.tenant, fmtN), (A.AT_POISON_COUNT unit c.tenant, b2n (decide (0 < psns))),
        (A.AT_FAULT_COUNT unit c.tenant, b2n fault), (A.AT_EMPTY_ROWS unit c.tenant, empties)]
      tiles := [], link := 0, commit := none }

/-- The pages an ATTEND uses (R251). -/
def AtD.pageList (x : AtD) (count : Nat) : List Nat :=
  let n := if x.ptFirst < count then (count - x.ptFirst + x.ptStride - 1) / x.ptStride else 0
  (List.range (if x.pageLimit = 0 then n else min n x.pageLimit)).map fun k => x.ptFirst + k * x.ptStride

/-- A command ends without effect. -/
def State.atPlain (s : State) (c : Cmd) (unit status detail : Nat) (bumps : List (Nat × Nat)) : State :=
  s.startQ { Run.plain c unit status detail with bumps := bumps }

/-- Does a scale record fail with DETAIL 0x00D (R247): it cannot be reached, or its FORMAT is another? -/
def State.scaleFmtBad (s : State) (v : Via) (va : Nat) (f : NFmt) : Bool :=
  let u := (s.scaleStart v va f).2
  (match s.reach v va 32 true locLocal with
    | .bad => true
    | _ => false) || (!u.psn && u.format != (if f = .s4 then 1 else 0))

/-- The scale-record checks of R247 over the records a command uses, once their pages are at rest: DETAIL 0x00D, then 0x0F0. A record whose access is refused is not judged. -/
def State.scalePass (s : State) (q : QCmd) (v : Via) (l : List (Nat × NFmt)) (limit ref : Bool) (inv : Nat → State → State) (k : Bool → State → State) : State :=
  let r := l.foldl (fun r e => r.and (match s.reach v e.1 32 true locLocal with
    | .bad => .ok []
    | x => x)) (Reach.ok [])
  s.pass q v r limit ref (inv 0x00D) fun f s =>
    if f then k f s
    else if l.any fun e => s.scaleFmtBad v e.1 e.2 then inv 0x00D s
    else if l.any fun e => !(s.scaleStart v e.1 e.2).2.valid then inv 0x0F0 s
    else k f s

/-- Page-table entries of some pages: slot and poison (R243). -/
def State.ptEntries (s : State) (v : Via) (r : SeqRec) (l : List Nat) : List (Nat × Nat × Bool) :=
  l.map fun i =>
    let b := s.readVia v (r.pt + 4 * i) 4
    (i, pnat b 0 4 % 2 ^ 28, ppsn b 0 4)

/-- The checks of an ATTEND or APPEND that need the records (R247) over the entries of the pages it uses: DETAIL 0x008 to 0x00A. -/
def State.atRecords (s : State) (v : Via) (x : AtD) (r : SeqRec) (pools : List PoolRec) (es : List (Nat × Nat × Bool)) : Option Nat :=
  let b := s.readVia v x.seq 64
  if !r.ok x (pnat b 32 32 != 0 && !ppsn b 32 32) then some 8
  else if pools.any fun p => !p.ok && !p.psn then some 9
  else if es.any fun t =>
      (match pools[t.1 % r.pools]? with
      | some p => decide (p.slots ≤ t.2.1) && !t.2.2 && !p.psn
      | none => false) then some 10
  else none

/-- The pools of a sequence; they cannot be found through a poisoned field. -/
def State.poolsOf (s : State) (v : Via) (r : SeqRec) : List PoolRec :=
  if r.psnHi then [] else (List.range r.pools).map fun k => s.poolRec v (r.poolA + 64 * k)

/-- The pool of page `i`. -/
def SeqRec.poolOf (r : SeqRec) (pools : List PoolRec) (i : Nat) : PoolRec := pools.getD (i % r.pools) ⟨0, 64, 1, 0, true, true⟩

/-- The address of the slot an entry names. -/
def SeqRec.pageAddr (r : SeqRec) (pools : List PoolRec) (t : Nat × Nat × Bool) : Nat := (r.poolOf pools t.1).slotAddr t.2.1

/-- Read the rows' information (R248). -/
def State.rowInfos (s : State) (v : Via) (x : AtD) : State × List RowInfo :=
  if x.causal || x.seg then
    match s.readBytes v x.rowinfo (8 * x.rows) with
    | (s, b) => (s, (List.range x.rows).map fun r =>
        ⟨pnat b (8 * r) 2, pnat b (8 * r + 4) 4, ppsn b (8 * r) 8 || pnat b (8 * r + 2) 2 != 0⟩)
  else (s, List.replicate x.rows ⟨0, 0, false⟩)

/-- Read the KV pages of some entries with their use counts (R239, R243). -/
def State.kvPages (s : State) (v : Via) (x : AtD) (r : SeqRec) (pools : List PoolRec) (es : List (Nat × Nat × Bool)) : List KvPage :=
  es.map fun t =>
    let a := r.pageAddr pools t
    let h := s.readVia v a 64
    let unk := decide (2 < pnat h 0 1) || decide (16 < pnat h 1 1)
    let used := if 16 < pnat h 1 1 then 16 else if t.1 + 1 = r.pages then r.tail else pnat h 1 1
    ⟨t.1, used, unk, pnat h 0 1, if unk then h else s.readVia v a (kvPageSize (kvFmt (pnat h 0 1)) x.kvh x.dblk)⟩

/-- Where the KV pages of some entries can be reached (R247, R263): an error is a FAULT of the command. -/
def State.kvReach (s : State) (v : Via) (r : SeqRec) (pools : List PoolRec) (es : List (Nat × Nat × Bool)) (wr : Bool) : Reach :=
  es.foldl (fun q t => q.and (s.reach v (r.pageAddr pools t) (r.poolOf pools t.1).slotSize wr locLocal)) (.ok [])

/-- Count the pages with an unknown tag and the blocks with a reserved exponent a command met (R241). -/
def atFormats (x : AtD) (ps : List KvPage) : Nat :=
  ps.foldl (fun n p =>
    if ppsn p.bytes 0 2 then n
    else if p.unknown then n + 1
    else n + ((List.range 16).filter fun j => decide (j < p.used)).foldl (fun n j => n + (List.range x.hc).foldl (fun n h =>
      n + ([p.row x false j (x.hf + h), p.row x true j (x.hf + h)].foldl (fun n r => n + (r.ex.filter fun b => !b.2 && decide (120 < sgn 8 b.1)).length) 0)) 0) 0) 0

/-- The byte ranges of a KV page at `a` that an ATTEND reads (R264): the header, and of every token the exponents and elements of its heads. -/
def kvRanges (x : AtD) (p : KvPage) (a : Nat) : List (Nat × Nat) :=
  if p.unknown then [(a, 64)]
  else
    let f := kvFmt p.tag
    let w := x.dim * f.width / 8
    (a, 64) :: (List.range 32).flatMap fun i =>
      (if f.isBlock then [(a + 64 + (i * x.kvh + x.hf) * x.dblk, x.hc * x.dblk)] else []) ++
      [(a + kvElemOff f x.kvh x.dblk + (i * x.kvh + x.hf) * w, x.hc * w)]

/-- Run a validated ATTEND (R248 to R253, R261, R263). `stop` says that an access failed: after how many pages, and then rows. -/
def State.attendRun (s : State) (c : Cmd) (x : AtD) (unit : Nat) (r : SeqRec) (pools : List PoolRec) (es : List (Nat × Nat × Bool))
    (stop : Option Nat) : State :=
  let v := s.viaCmd c
  let w := viaAt c unit
  let (s, use) : State × Option ScaleUse := if x.out = 3 then
      (match s.scaleStart v x.scale .s8 with
      | (s, u) => (s, some u))
    else (s, none)
  let (s, infos) := s.rowInfos v x
  let (s, qs) := (List.range x.rows).foldl (fun (sr : State × List NRow) i =>
    match sr.1.readBytes v (x.q + i * (x.dim * x.wf.width / 8)) (x.dim * x.wf.width / 8) with
    | (s, b) => (s, sr.2 ++ [⟨x.wf, unpack x.wf.width x.dim b, []⟩])) (s, [])
  let bad := r.psn || (es.any fun t => t.2.2 || (r.poolOf pools t.1).psn)
  let es := if bad then [] else es
  let np := es.length
  let ps := s.kvPages w x r pools (match stop with
    | some k => es.take k
    | none => es)
  let nr := match stop with
    | some k => k - np
    | none => x.rows
  let ranges := (List.range ps.length).flatMap fun i => match ps[i]?, es[i]? with
    | some p, some t => kvRanges x p (r.pageAddr pools t)
    | _, _ => []
  let s := s.readAll w ((x.seq, 64) :: ((List.range pools.length).map fun k => (r.poolA + 64 * k, 64)) ++ (es.map fun t => (r.pt + 4 * t.1, 4)) ++ ranges)
  let free := s.free
  let outs := (List.range (min nr x.rows)).map fun i =>
    let q := qs.getD i NRow.nil
    let inf := infos.getD i ⟨0, 0, false⟩
    let h := x.hf + i / x.g % x.hc
    let row := ps.foldl (fun a p => atPage x q h inf a p) (AtRow.start x (q.psn || inf.psn || bad))
    atFinish x ((use.map (·.e)).getD 0) ((use.map (·.trunc)).getD false) ((use.map (·.psn)).getD false) (free + i * (x.dim + 2)) row.l.isZero row
  let s := { s with free := free + x.rows * (x.dim + 2) }
  let s := s.atWrite v x ((use.map (·.e)).getD 0) outs
  s.atDone c x unit use outs stop.isSome (atFormats x ps)
    [(A.AT_MAC_COUNT unit c.tenant, (ps.filter fun p => !p.unknown).length * 32 * x.dim * x.rows),
     (A.AT_KV_BYTES unit c.tenant, ranges.foldl (fun n p => n + p.2) 0)]

/-- The sequence record as a command may use it: where its access was refused, nothing of it is known. -/
def State.seqSeen (s : State) (v : Via) (a : Nat) (refused : Bool) : SeqRec :=
  let r := s.seqRec v a
  { r with psnLo := r.psnLo || refused, psnHi := r.psnHi || refused }

/-- ATTEND: validation (R247), then the pass. `stop` says that an access failed while it ran or its wait reached the stall limit (R263). -/
def State.attend (s : State) (q : QCmd) (unit : Nat) (stop : Option Nat) : State :=
  let c := q.cmd
  let x := atD c.desc
  let v := s.viaCmd c
  let w := viaAt c unit
  let inv (d : Nat) (s : State) : State := s.atPlain c unit stInvalid d []
  match atCheck c.desc with
  | some d => inv d s
  | none =>
    let base := ((s.reach v x.q (x.rows * x.dim * (x.wf.width / 8)) false locLocal).and (s.reach v x.o x.outLen true locLocal)).and
      ((if x.causal || x.seg then s.reach v x.rowinfo (8 * x.rows) false locLocal else .ok []).and (s.reach v x.seq 64 false locLocal))
    s.pass q v base stop.isSome false (inv 7) fun f s =>
      let r := s.seqSeen w x.seq f
      let l := if r.psn || x.rows == 0 then [] else x.pageList r.pages
      let recs := (if r.psnHi then Reach.ok [] else s.reach v r.poolA (64 * min r.pools 16) false locLocal).and
        (l.foldl (fun q i => q.and (s.reach v (r.pt + 4 * i) 4 false locLocal)) (.ok []))
      s.pass q v recs stop.isSome f (inv 7) fun f s =>
        let pools := (s.poolsOf w r).map fun p => { p with psn := p.psn || f }
        let es := s.ptEntries w r l
        match s.atRecords w x r pools es with
        | some d => inv d s
        | none =>
          s.scalePass q v (if x.out = 3 then [(x.scale, .s8)] else []) stop.isSome f inv fun f s =>
            if 33 ≤ x.tag then inv 0x0F1 s
            else
              let known := es.filter fun t => !t.2.2 && !(r.poolOf pools t.1).psn
              s.pass q w (s.kvReach w r pools known false) stop.isSome f (fun s => s.attendRun c x unit r pools es (some 0))
                fun f s => s.attendRun c x unit r pools es (if f then some 0 else stop)

/-- ATTEND (R236, R251): the Attention engine of a cluster runs its next command when it is an ATTEND. `stop` says that an access got an error response or reached its stall limit, after how many pages and then rows. -/
def execAttend (cluster : Nat) (stop : Option Nat) (s : State) : Out :=
  engStart 1 cluster (fun d => bits (field d 0 1) 1 0 == 0 || bits (field d 0 1) 1 0 == 3) s fun q s => s.attend q cluster stop

/-! ### MERGE (R255) -/

/-- A part's record of one row (R254). -/
structure PartRec where
  m : FVal
  l : FVal
  flags : Nat
  o : List FVal
  psn : Bool
  deriving DecidableEq, Repr

/-- Merge the records of one row (R255). -/
def mergeRow (x : AtD) (ps : List PartRec) : AtRow :=
  let psn := ps.any (·.psn)
  let live := ps.filter fun p => !bit p.flags 0
  let nan := live.any fun p => !p.psn && bit p.flags 1
  let mm := live.foldl (fun m p => FVal.max m p.m) (.inf true)
  let r0 : AtRow := { AtRow.start x psn with nan := nan }
  if psn || nan || mm == .inf true then r0
  else live.foldl (fun r p =>
    let c := atExp2 (rnd (p.m.sub mm))
    { r with m := mm, l := rnd (r.l.add (rnd (p.l.mul c)))
             o := (List.range x.dim).map fun d => rnd ((r.o.getD d .nan).add (rnd ((p.o.getD d .nan).mul c))) }) r0

/-- Read a part's record. -/
def State.readPart (s : State) (v : Via) (x : AtD) (a : Nat) : State × PartRec :=
  match s.readBytes v a (64 + 4 * x.dim) with
  | (s, b) => (s, ⟨f32 (pnat b 0 4), f32 (pnat b 4 4), pnat b 8 4, (List.range x.dim).map (fun d => f32 (pnat b (64 + 4 * d) 4)), b.any (·.2)⟩)

/-- Run a validated MERGE (R255). A row is EMPTY when mm is -Inf. `stop` says that an access failed: after how many rows. -/
def State.mergeRun (s : State) (c : Cmd) (x : AtD) (unit : Nat) (stop : Option Nat) : State :=
  let v := s.viaCmd c
  let (s, use) : State × Option ScaleUse := if x.out = 3 then
      (match s.scaleStart v x.scale .s8 with
      | (s, u) => (s, some u))
    else (s, none)
  let (s, rows) := (List.range x.rows).foldl (fun (sr : State × List AtRow) r =>
    let (s, ps) := (List.range x.g).foldl (fun (sp : State × List PartRec) q =>
      match sp.1.readPart v x (x.q + q * x.vscale + r * (64 + 4 * x.dim)) with
      | (s, p) => (s, sp.2 ++ [p])) (sr.1, [])
    (s, sr.2 ++ [mergeRow x ps])) (s, [])
  let free := s.free
  let outs := (List.range (min (stop.getD x.rows) x.rows)).map fun i =>
    let row := rows.getD i (AtRow.start x false)
    atFinish x ((use.map (·.e)).getD 0) ((use.map (·.trunc)).getD false) ((use.map (·.psn)).getD false) (free + i * (x.dim + 2)) (row.m == .inf true) row
  let s := { s with free := free + x.rows * (x.dim + 2) }
  (s.atWrite v x ((use.map (·.e)).getD 0) outs).atDone c x unit use outs stop.isSome 0 []

/-- MERGE: validation (R247), then the merge (R255). -/
def State.merge (s : State) (q : QCmd) (unit : Nat) (stop : Option Nat) : State :=
  let c := q.cmd
  let x := atD c.desc
  let v := s.viaCmd c
  let inv (d : Nat) (s : State) : State := s.atPlain c unit stInvalid d []
  match atCheck c.desc with
  | some d => inv d s
  | none =>
    let parts := (List.range x.g).foldl (fun q k => q.and (s.reach v (x.q + k * x.vscale) (x.rows * (64 + 4 * x.dim)) false locLocal)) (Reach.ok [])
    s.pass q v (parts.and (s.reach v x.o x.outLen true locLocal)) stop.isSome false (inv 7) fun f s =>
      s.scalePass q v (if x.out = 3 then [(x.scale, .s8)] else []) stop.isSome f inv fun f s =>
        if 33 ≤ x.tag then inv 0x0F1 s
        else s.mergeRun c x unit (if f then some 0 else stop)

/-- MERGE (R236, R255): the Attention engine of a cluster runs its next command when it is a MERGE. `stop` says that an access got an error response or reached its stall limit, after how many rows. -/
def execMerge (cluster : Nat) (stop : Option Nat) (s : State) : Out :=
  engStart 1 cluster (fun d => bits (field d 0 1) 1 0 == 2) s fun q s => s.merge q cluster stop

/-! ### APPEND (R257 to R259) -/

/-- How the pops of an APPEND end (R258): all popped, a pool empty, a slot at or above SLOT_COUNT, a pool record whose head is poisoned (R261), or a free slot whose page cannot be read now. -/
inductive PopEnd where
  | done
  | empty (pool : Nat)
  | range
  | poison
  | stuck (r : Reach)
  deriving DecidableEq, Repr

/-- Can memory be accessed at once: it is reachable, no page of it moves and its domains are On? -/
def State.atOnce (s : State) (r : Reach) : Bool := match r with
  | .ok ds => s.domCheck ds == .go
  | _ => false

/-- Pop a slot of a pool (R245): the head's NEXT is read and becomes the head with its mark. -/
def State.popSlot (s : State) (v : Via) (pool pa : Nat) : State × Except PopEnd Nat :=
  let p := s.poolRec v pa
  let head := p.free % 2 ^ 32
  let tag := p.free / 2 ^ 32
  if p.psn then (s, .error .poison)
  else if head = 2 ^ 32 - 1 then (s, .error (.empty pool))
  else if p.slots ≤ head then (s, .error .range)
  else
    let r := s.reach v (p.slotAddr head) 64 false locLocal
    if !s.atOnce r then (s, .error (.stuck r))
    else
      let b := s.readVia v (p.slotAddr head + 4) 4
      let x := (pnat b 0 4) + (tag + 1) % 2 ^ 32 * 2 ^ 32
      (s.writeBytes v (pa + 16) ((natLe 8 x).map fun y => (y, b.any (·.2))), .ok head)

/-- Pop the slots of some new pages, each from its pool (R257, R258). -/
def State.popAll (s : State) (v : Via) (r : SeqRec) : List Nat → List (Nat × Nat) → State × List (Nat × Nat) × PopEnd
  | [], got => (s, got, .done)
  | i :: is, got =>
    match s.popSlot v (i % r.pools) (r.poolA + 64 * (i % r.pools)) with
    | (s, .error e) => (s, got, e)
    | (s, .ok k) => s.popAll v r is (got ++ [(i, k)])

/-- Push a slot back (R245): its NEXT is performed at home before the head is swapped. Answers whether the slot could be pushed. -/
def State.pushSlot (s : State) (v : Via) (pa slot : Nat) : State × Bool :=
  let p := s.poolRec v pa
  if s.atOnce (s.reach v (p.slotAddr slot) 64 true locLocal) then
    let s := s.writeBytes v (p.slotAddr slot + 4) (clean (natLe 4 (p.free % 2 ^ 32)))
    (s.writeBytes v (pa + 16) (clean (natLe 8 (slot + (p.free / 2 ^ 32 + 1) % 2 ^ 32 * 2 ^ 32))), true)
  else (s, false)

/-- Push back popped slots, latest first; `lost` of them cannot be pushed. Answers how many stay lost (R258). -/
def State.pushAll (s : State) (v : Via) (r : SeqRec) (got : List (Nat × Nat)) (lost : Nat) : State × Nat :=
  (got.reverse.drop lost).foldl (fun sn p =>
    match sn.1.pushSlot v (r.poolA + 64 * (p.1 % r.pools)) p.2 with
    | (s, ok) => (s, sn.2 + b2n !ok)) (s, min lost got.length)

/-- One token narrowed: key or value elements of all heads. -/
def appendRow (f : NFmt) (tr recPsn : Bool) (e : Int) (free : Nat) (row : NRow) : List OutEl :=
  (List.range row.el.length).map fun j =>
    if row.psnAt j || recPsn then outPoison f (free + j) else outEl f tr e (row.val j)

/-- Write one token's keys or values into its page slot (R240, R258 step 4). -/
def State.putToken (s : State) (w : Via) (x : AtD) (f : NFmt) (page : Nat) (vl : Bool) (j : Nat) (els : List OutEl) (e : Int) : State :=
  let el := page + kvElemOff f x.kvh x.dblk + (if vl then 16 * kvTok f x.kvh x.dblk else 0) + j * kvTok f x.kvh x.dblk
  let s := s.writeBytes w el (pack f.width (els.map OutEl.byte))
  if f.isBlock then
    s.writeBytes w (page + 64 + (if vl then 16 * x.kvh * x.dblk else 0) + j * x.kvh * x.dblk) (List.replicate (x.kvh * x.dblk) (unsgn 8 e, false))
  else s

/-- The header of a new page (R239, R258 step 5); segment numbers are written with the tokens. -/
def pageHeader (f valid : Nat) : List PByte := clean ([f, valid, 0, 0] ++ List.replicate 12 0)

/-- What an APPEND is to do: the page and slot of each token, the new pages, and whether the old tail page receives tokens. -/
structure AppendPlan where
  toks : List (Nat × Nat)
  fresh : List Nat
  useTail : Bool
  deriving DecidableEq, Repr

/-- Place the tokens (R257): first in the tail page when it has room and the right format, then in new pages. -/
def appendPlan (rows pages tail : Nat) (tailOk : Bool) : AppendPlan :=
  let room := if tailOk then 16 - tail else 0
  let a := min rows room
  let rest := rows - a
  ⟨((List.range a).map fun t => (pages - 1, tail + t)) ++ (List.range rest).map fun t => (pages + t / 16, t % 16),
   (List.range (ceilDiv rest 16)).map fun k => pages + k, decide (0 < a)⟩

/-- What an APPEND found before its pops: the sequence record, its pools, the slot of a tail page with room, whether that page's VALID is above 16, whether it takes tokens, and the plan. -/
structure AppendIn where
  r : SeqRec
  pools : List PoolRec
  tailSlot : Nat
  tailOver : Bool
  tailOk : Bool
  plan : AppendPlan
  deriving DecidableEq, Repr

/-- The position the next token takes (R258, R260). -/
def AppendIn.first (i : AppendIn) : Nat :=
  if i.r.pages = 0 then 0 else if i.tailOk then 16 * (i.r.pages - 1) + i.r.tail else 16 * i.r.pages

/-- An APPEND that failed after its pops pushes its slots back (R258). -/
def State.appendFail (s : State) (c : Cmd) (unit : Nat) (i : AppendIn) (got : List (Nat × Nat)) (lost status detail : Nat) (assay : Option AssayAdd) (bumps : List (Nat × Nat)) : State :=
  match s.pushAll (viaAt c unit) i.r got lost with
  | (s, n) =>
    s.startQ { Run.plain c unit status detail with
      assay := assay
      bumps := bumps ++ [(A.AT_FAULT_COUNT unit c.tenant, b2n (status == stFault)), (A.AT_SLOT_LOST unit c.tenant, n)] }

/-- Carry out the writes of an APPEND and its commit (R258 steps 3 to 7). `stop` says that an access failed after so many tokens, then the headers, then the page-table entries (R263). A tail page whose VALID is above 16 is left as it is (R257, log entry 21). -/
def State.appendRun (s : State) (c : Cmd) (x : AtD) (unit : Nat) (i : AppendIn) (got : List (Nat × Nat)) (stop : Option Nat) (race : Bool) (lost : Nat) : State :=
  let v := s.viaCmd c
  let w := viaAt c unit
  let n := c.tenant
  let r := i.r
  let plan := i.plan
  let f := kvFmt r.nf
  let (s, ku, vu) : State × Option ScaleUse × Option ScaleUse := if f.isBlock then
      (match s.scaleStart v x.scale f with
      | (s, a) => (match s.scaleStart v x.vscale f with
        | (s, b) => (s, some a, some b)))
    else (s, none, none)
  let (s, infos) := s.rowInfos v x
  let len := x.kvh * x.dim * x.wf.width / 8
  let rd (s : State) (a : Nat) : State × List NRow := (List.range x.rows).foldl (fun (sr : State × List NRow) t =>
    match sr.1.readBytes v (a + t * len) len with
    | (s, b) => (s, sr.2 ++ [⟨x.wf, unpack x.wf.width (x.kvh * x.dim) b, []⟩])) (s, [])
  let (s, ks) := rd s x.q
  let (s, vs) := rd s x.o
  let free := s.free
  let wd := x.kvh * x.dim
  let s := { s with free := free + 2 * x.rows * wd }
  let ke := (ku.map (·.e)).getD 0
  let ve := (vu.map (·.e)).getD 0
  let done := min (stop.getD x.rows) x.rows
  let kout := (List.range done).map fun t => appendRow f (x.trunc || (ku.map (·.trunc)).getD false) ((ku.map (·.psn)).getD false) ke (free + 2 * t * wd) (ks.getD t NRow.nil)
  let vout := (List.range done).map fun t => appendRow f (x.trunc || (vu.map (·.trunc)).getD false) ((vu.map (·.psn)).getD false) ve (free + (2 * t + 1) * wd) (vs.getD t NRow.nil)
  let addr (p : Nat) : Nat :=
    match got.find? fun g => g.1 == p with
    | some g => (r.poolOf i.pools p).slotAddr g.2
    | none => (r.poolOf i.pools p).slotAddr i.tailSlot
  -- step 3: a tail page left behind keeps its own count
  let s := if !plan.useTail ∧ 0 < r.pages ∧ r.tail < 16 ∧ !i.tailOver then s.writeBytes w (addr (r.pages - 1) + 1) [(r.tail, false)] else s
  -- step 4: elements, exponents and segment numbers
  let s := (List.range done).foldl (fun s t =>
    let (p, j) := plan.toks.getD t (0, 0)
    let inf := infos.getD t ⟨0, 0, false⟩
    let s := s.putToken w x f (addr p) false j (kout.getD t []) ke
    let s := s.putToken w x f (addr p) true j (vout.getD t []) ve
    s.writeBytes w (addr p + 16 + 2 * j) ((natLe 2 (if x.seg then inf.seg else 0)).map fun b => (b, x.seg && inf.psn))) s
  -- step 5: headers
  let cnt (p : Nat) : Nat := (plan.toks.filter fun t => t.1 == p).length
  let heads := stop.all fun k => decide (x.rows < k)
  let s := if !heads then s
    else
      let s := plan.fresh.foldl (fun s p => (s.writeBytes w (addr p) (pageHeader r.nf (cnt p))).writeBytes w (addr p + 48) (clean (List.replicate 16 0))) s
      if plan.useTail then s.writeBytes w (addr (r.pages - 1) + 1) [(r.tail + cnt (r.pages - 1), false)] else s
  -- step 6: page-table entries
  let s := if stop.all fun k => decide (x.rows + 1 < k) then got.foldl (fun s g => s.writeBytes w (r.pt + 4 * g.1) (clean (natLe 4 g.2))) s else s
  let els := kout.flatten ++ vout.flatten
  let assay := assayAll (assaySet n x.tag) els
  if stop.isSome then s.appendFail c unit i got lost stFault 0 assay []
  else if race then s.appendFail c unit i got lost stFault 0x0E0 assay [(A.AT_APPEND_RACE unit n, 1)]
  else
    let np := r.pages + plan.fresh.length
    let tail := if plan.fresh = [] then r.tail + x.rows else cnt (np - 1)
    let s := s.writeBytes w (x.seq + 8) (clean (natLe 8 (np + tail * 2 ^ 32)))
    let psn := anyPsn els || (x.seg && infos.any (·.psn))
    let fin (u : Option ScaleUse) (l : List (List OutEl)) : List ScaleEnd := (u.map fun u => u.finish (obsAll l.flatten)).getD []
    s.startQ
      { cmd := c, unit := unit, status := if psn then stPoison else stOk
        detail := 2 * b2n (els.any (·.clip)) + 16 * b2n (plan.fresh != []), value := i.first
        scale := fin ku kout ++ fin vu vout, assay := assay
        bumps := [(A.AT_POISON_COUNT unit n, b2n psn)], tiles := [], link := 0, commit := none }

/-- The tail page when it has room (R257). -/
def SeqRec.tailPages (r : SeqRec) : List Nat := if !r.psn ∧ 0 < r.pages ∧ r.tail < 16 then [r.pages - 1] else []

/-- APPEND once its arrays and records are validated and found accessible: the pops and what follows (R258). A pop that must wait leaves no slot popped. -/
def State.appendPops (s : State) (q : QCmd) (x : AtD) (unit : Nat) (i : AppendIn) (stop : Option Nat) (race : Bool) (lost : Nat) : State :=
  let c := q.cmd
  let w := viaAt c unit
  let out (f : Bool) (s : State) : State :=
    match s.popAll w i.r i.plan.fresh [] with
    | (s1, got, .done) => if f then s1.appendFail c unit i got lost stFault 0 none [] else s1.appendRun c x unit i got (stop.map (· - 1)) race lost
    | (s1, got, _) => s1.appendFail c unit i got lost stFault 0 none []
  match s.popAll w i.r i.plan.fresh [] with
  | (s1, got, .empty p) =>
    let pf := pnat (s1.readVia w (i.r.poolA + 64 * p + 24) 4) 0 4
    let s2 := s1.writeBytes w (i.r.poolA + 64 * p + 24) (clean (natLe 4 (satAdd 32 pf 1)))
    s2.appendFail c unit i got lost stQuota 0x0D0 none [(A.AT_POOL_EMPTY unit c.tenant, 1)]
  | (s1, got, .range) => s1.appendFail c unit i got lost stFault 0x0E1 none []
  | (s1, got, .poison) => s1.appendFail c unit i got lost stPoison 0 none []
  | (_, _, .stuck k) => s.pass q w k stop.isSome false (out true) out
  | (s1, got, .done) => s.pass q w (s1.kvReach w i.r i.pools (got.map fun g => (g.1, g.2, false)) true) stop.isSome false (out true) out

/-- APPEND: validation (R247), the tail page, and R258. `stop` says that an access failed or reached its stall limit: 0 before the pops, else one more than the point appendRun names. -/
def State.append (s : State) (q : QCmd) (unit : Nat) (stop : Option Nat) (race : Bool) (lost : Nat) : State :=
  let c := q.cmd
  let x := atD c.desc
  let v := s.viaCmd c
  let w := viaAt c unit
  let lim := stop.isSome
  let inv (d : Nat) (s : State) : State := s.atPlain c unit stInvalid d []
  match atCheck c.desc with
  | some d => inv d s
  | none =>
    let len := x.rows * (x.kvh * x.dim * x.wf.width / 8)
    let base := ((s.reach v x.q len false locLocal).and (s.reach v x.o len false locLocal)).and
      ((if x.seg then s.reach v x.rowinfo (8 * x.rows) false locLocal else .ok []).and (s.reach v x.seq 64 true locLocal))
    s.pass q v base lim false (inv 7) fun f s =>
      let r := s.seqSeen w x.seq f
      let tl := r.tailPages
      let recs := (if r.psnHi then Reach.ok [] else s.reach v r.poolA (64 * min r.pools 16) true locLocal).and
        (tl.foldl (fun q i => q.and (s.reach v (r.pt + 4 * i) 4 true locLocal)) (.ok []))
      s.pass q v recs lim f (inv 7) fun f s =>
        let pools := (s.poolsOf w r).map fun p => { p with psn := p.psn || f }
        let es := s.ptEntries w r tl
        let recErr := s.atRecords w x r pools es
        let tailPsn := es.any fun t => t.2.2 || (r.poolOf pools t.1).psn
        let seen := recErr.isNone && !r.psn && !tailPsn && !f
        let rest (f : Bool) (s : State) : State :=
          let hdr := match es with
            | t :: _ => s.readVia w (r.pageAddr pools t) 2
            | [] => []
          let known := seen && !f && !ppsn hdr 0 2
          let tooMany := decide (16 < pnat hdr 1 1)
          let ok := tl != [] && pnat hdr 0 1 == r.nf && !tooMany
          let i : AppendIn := ⟨r, pools, (es.map (·.2.1)).headD 0, tooMany, ok, if known then appendPlan x.rows r.pages r.tail ok else ⟨[], [], false⟩⟩
          let used := i.plan.fresh.map fun p => r.poolOf pools p
          let entries := i.plan.fresh.foldl (fun q p => q.and (s.reach v (r.pt + 4 * p) 4 true locLocal)) (Reach.ok [])
          s.pass q v entries lim f (inv 7) fun f s =>
            match recErr with
            | some d => inv d s
            | none =>
              if used.any fun p => !p.psn && decide (p.slotSize < kvPageSize (kvFmt r.nf) x.kvh x.dblk) then inv 0x00B s
              else if known && decide (r.cap < r.pages + i.plan.fresh.length) then inv 0x00C s
              else
                let scales := if !r.psnHi ∧ (kvFmt r.nf).isBlock then [(x.scale, kvFmt r.nf), (x.vscale, kvFmt r.nf)] else []
                s.scalePass q v scales lim f inv fun f s =>
                  if 33 ≤ x.tag then inv 0x0F1 s
                  else if f || stop == some 0 then s.atPlain c unit stFault 0 [(A.AT_FAULT_COUNT unit c.tenant, 1)]
                  else if !known || used.any (·.psn) then s.atPlain c unit stPoison 0 []
                  else if x.rows = 0 then s.startQ { Run.plain c unit stOk 0 with value := i.first }
                  else
                    let s := s.readAll w ((x.seq, 64) :: ((List.range pools.length).map fun k => (r.poolA + 64 * k, 64)) ++ es.map fun t => (r.pt + 4 * t.1, 4))
                    s.appendPops q x unit i stop race lost
        s.pass q w (if seen then s.kvReach w r pools es true else .ok []) lim f (rest true) rest

/-- APPEND (R236, R258): the Attention engine of a cluster runs its next command when it is an APPEND. `stop` says that an access got an error response or reached its stall limit, and where; `race` that the sequence's STATE was changed by another requester before the commit; `lost` how many popped slots could not be pushed back. -/
def execAppend (cluster : Nat) (stop : Option Nat) (race : Bool) (lost : Nat) (s : State) : Out :=
  engStart 1 cluster (fun d => bits (field d 0 1) 1 0 == 1) s fun q s => s.append q cluster stop race lost

/-- AT_RESULT (R237, R262, R266): the running Attention command returns. -/
def execAtResult (cluster cycles ns : Nat) (s : State) : Out :=
  match s.running 1 cluster with
  | none => .next s
  | some r =>
    if !s.resultReady r then .next s
    else
      let n := r.cmd.tenant
      let overran := overrun (s.fget (A.AT_NP_LIMIT cluster) F.AT_NP_LIMIT_NS) (s.clkLevel cluster) ns
      let s := (s.count (A.AT_CMD_COUNT cluster n) 1).count (A.AT_BUSY_CYCLES cluster n) cycles
      let s := if overran then (s.count (A.AT_NP_OVERRUN cluster n) 1).fsrOverrun r.cmd (16 + cluster) cluster else s
      .next (s.endRun { r with detail := r.detail + (if 32 ≤ r.detail ∨ r.status = stInvalid then 0 else 4 * b2n overran) })

end Sys2Proof.Machine
end

