-- ==== Sys2Proof/Machine/RegBus.lean ====
section
/-!
DEFINITION. What a write does to a register by its access codes, its lock and its reserved encodings (R7, R8, R10), and how a register is found and accessed (R5, R6).
-/
namespace Sys2Proof.Machine

/-- The answer of a register access: a value, an error response, or a broken R5. -/
inductive BusRes where
  | ok (v : Word)
  | err
  | align
  deriving DecidableEq, Repr

/-- Bits of a 64-bit field list that no field covers are reserved (R7). -/
def Reg.reservedBits (r : Reg) (v : Nat) : Nat :=
  r.flds.foldl (fun x f => setBits x f.hi f.lo 0) (v % 2 ^ r.w)

/-- Does a write to a command register break R8: a reserved encoding in a field or a non-zero reserved bit? -/
def Reg.badCommand (r : Reg) (v : Nat) : Bool :=
  r.reservedBits v != 0 || r.flds.any fun f => f.rsv.contains (bits v f.hi f.lo)

/-- A LOCK_VIOLATION record: cause 1 for a locked field, 2 for a reserved command write; ADDRESS holds the register (R629). -/
def State.lockViolation (s : State) (a cause : Nat) : State :=
  s.fsr 0x10 { domain := regDom a, address := a, cause := cause }

/-- One field of a register write (R10). -/
def State.writeField (s : State) (a v : Nat) (f : Fld) : State :=
  let x := bits v f.hi f.lo
  if f.rsv.contains x then s
  else match f.acc with
  | .rw => s.fset a (f.hi, f.lo) x
  | .ro => s
  | .wo => s
  | .w1c => s.fset a (f.hi, f.lo) (s.fget a (f.hi, f.lo) - (s.fget a (f.hi, f.lo) &&& x))
  | .w1s => s.fset a (f.hi, f.lo) (s.fget a (f.hi, f.lo) ||| x)
  | .rwl => if s.plat.locked then s else s.fset a (f.hi, f.lo) x

/-- Would the write change a locked field (R10)? -/
def State.violates (s : State) (a v : Nat) (r : Reg) : Bool :=
  s.plat.locked && r.flds.any fun f => f.acc == .rwl && !f.rsv.contains (bits v f.hi f.lo) && bits v f.hi f.lo != s.fget a (f.hi, f.lo)

/-- A register write by access codes: every field takes its own effect, and a write that would change a locked field is reported once (R10). -/
def State.writeReg (s : State) (a v : Nat) (r : Reg) : State :=
  let bad := s.violates a v r
  let s := r.flds.foldl (fun s f => s.writeField a v f) s
  if bad then s.lockViolation a 1 else s

/-- What a read returns by access codes: WO fields read as zero (R10). -/
def readMask (r : Reg) (v : Nat) : Nat :=
  r.flds.foldl (fun x f => if f.acc = .wo then setBits x f.hi f.lo 0 else x) v

/-- Is the access of the register's own width and aligned to it (R5)? A window takes 4 or 8 bytes (R6). -/
def RegHit.sizeOk (h : RegHit) (a n : Nat) : Bool :=
  a % n == 0 && (if h.reg.win = 0 then n * 8 == h.reg.w else n == 4 || n == 8)

end Sys2Proof.Machine
end

