-- ==== Sys2Proof/Machine/Vc.lean ====
section
/-!
DEFINITION. Mapping commands, page migration, quotas, the page allocator, and training of the external memory channels (R73 to R87, R92, R93, R96 to R98).
-/
namespace Sys2Proof.Machine

/-! ### The allocator (R38, R74, R81, R87) -/

/-- The vaults of a tenant, ascending (R35). -/
def State.vaultsOf (s : State) (n : Nat) : List Nat := (List.range 128).filter fun v => s.ownsVault n v

/-- The channels of a tenant, ascending (R34). -/
def State.chansOf (s : State) (n : Nat) : List Nat := (List.range 4).filter fun c => s.ownsChan n c

/-- The T1 frames the applied plat reserves for journals and ring storage (R38). -/
def State.reservedFrames (s : State) : List Nat :=
  (s.plat.journal.flatMap (·.2)) ++ s.plat.ringFrames.flatMap (·.2) ++ s.plat.shJournal.flatMap (·.2) ++ s.plat.shRings.flatMap (·.2)

/-- Is a frame of the frame table free to allocate: not allocated, not lost, not reserved, not in a vault under a fill (R38, R56, R74, R619)? -/
def State.frameFree (s : State) (k : Nat) : Bool :=
  let f := s.frame k
  !f.alloc && !f.lost &&
  (if k < 65536 then
    !(s.vc.lostLayers.has (k / 384 * 4 + k % 384 / 96)) && !(s.reservedFrames.contains k) && !(s.vc.fill.contains (k / 384))
  else true)

/-- The frame-table keys of a place, ascending: a vault's 384 frames, or a channel's trained frames (R73, R77, R93). -/
def State.placeKeys (s : State) (tier u : Nat) : List Nat :=
  if tier = 1 then (List.range 384).map fun i => 384 * u + i
  else (List.range (s.trained u)).map fun i => 65536 + 8192 * u + i

/-- The lowest free frame of a place. -/
def State.lowestFree (s : State) (tier u : Nat) : Option Nat := (s.placeKeys tier u).find? fun k => s.frameFree k

/-- The places of a tenant in a tier. -/
def State.places (s : State) (n tier : Nat) : List Nat := if tier = 1 then s.vaultsOf n else s.chansOf n

/-- The frame an allocation takes (R81): in the named place; without STRICT in the tenant's places ascending from it, wrapping. -/
def State.pickFrame (s : State) (n tier u : Nat) (strict : Bool) : Option Nat :=
  let all := s.places n tier
  let order := if strict then [u] else (all.filter fun x => decide (u ≤ x)) ++ all.filter fun x => decide (x < u)
  order.findSome? fun x => s.lowestFree tier x

/-- The pages charged to a tenant in a tier (R84, R87): its valid entries there and the destinations of its moves. -/
def State.usedPages (s : State) (n tier : Nat) : Nat :=
  (s.vc.ents.filter fun e => e.1 / 524288 == n && entValid e.2 && entTier e.2 == tier && tier != 0).length +
  (s.vc.moves.filter fun m => m.tenant == n && m.tier == tier && tier != 0).length

/-- A tenant's quota in a tier (R37, R87); 0 for a tenant the plat omits. -/
def State.quota (s : State) (n tier : Nat) : Nat :=
  match s.tenE n with
  | none => 0
  | some e => if tier = 1 then e.q1 else if tier = 2 then e.q2 else e.q3

/-- Take a frame (R74, R80): owner and flags are set, and its contents are zero. -/
def State.takeFrame (s : State) (k n : Nat) (pinned : Bool) : State :=
  (s.zeroFill (frameAddr k) pageSize).setFrame k ⟨true, n, pinned, false⟩

/-- Free a frame (R74, R610): it is zero-filled and returns to the allocator; a layer's loss stays. -/
def State.freeFrame (s : State) (k : Nat) : State := (s.zeroFill (frameAddr k) pageSize).setFrame k Frame.free

/-! ### Mapping commands (R79 to R82) -/

/-- The fields of a write to VC_CMD (R96). -/
structure VcCmd where
  page : Nat
  op : Nat
  tier : Nat
  cls : Nat
  wr : Bool
  pin : Bool
  strict : Bool
  loc : Nat
  peer : Nat
  deriving DecidableEq, Repr

/-- Read the fields of VC_CMD. -/
def vcCmd (w : Nat) : VcCmd :=
  ⟨bits w 18 0, bits w 21 19, bits w 23 22, bits w 26 24, bit w 27, bit w 28, bit w 29, bits w 47 32, bits w 61 48⟩

/-- Lay the fields out as VC_CMD. -/
def VcCmd.word (c : VcCmd) : Nat :=
  c.page % 2 ^ 19 + c.op % 8 * 2 ^ 19 + c.tier % 4 * 2 ^ 22 + c.cls % 8 * 2 ^ 24 + b2n c.wr * 2 ^ 27 + b2n c.pin * 2 ^ 28 +
  b2n c.strict * 2 ^ 29 + c.loc % 2 ^ 16 * 2 ^ 32 + c.peer % 2 ^ 14 * 2 ^ 48

/-- A translation entry's bits (R77). -/
def mkEnt (tier frame cls : Nat) (wr pin : Bool) : Word :=
  BitVec.ofNat 64 (1 + tier % 4 * 2 + b2n wr * 8 + b2n pin * 16 + cls % 8 * 256 + frame % 2 ^ 30 * 2 ^ 20)

/-- Is a place a tenant may name in a tier (R81, R82)? -/
def State.placeOk (s : State) (n : Nat) (c : VcCmd) : Bool :=
  match c.tier with
  | 0 => s.ownsTile n (c.loc % 128)
  | 1 => s.ownsVault n (c.loc % 128)
  | 2 => s.ownsChan n (c.loc % 4) && s.trained (c.loc % 4) != 0
  | _ => (s.route c.peer).isSome

/-- The outcome of a command: the state, status and DETAIL. -/
structure VcRes where
  s : State
  status : Nat
  detail : Nat
  deriving DecidableEq, Repr

/-- Set or clear the pinned flag of the frame an entry maps (R74). -/
def State.pinFrame (s : State) (e : Word) (pin : Bool) : State :=
  match entKey e with
  | some k => s.setFrame k { s.frame k with pinned := pin }
  | none => s

/-- MAP (R80, R81). -/
def State.vcMap (s : State) (n : Nat) (c : VcCmd) : VcRes :=
  if 5 ≤ c.cls then ⟨s, 7, 0xA⟩
  else if entValid (s.ent n c.page) then ⟨s, 7, 1⟩
  else if !s.placeOk n c then ⟨s, 7, 3⟩
  else if c.tier = 0 then ⟨s.setEnt n c.page (mkEnt 0 (c.loc % 128) c.cls c.wr c.pin), 0, 0⟩
  else if s.quota n c.tier < s.usedPages n c.tier + 1 then ⟨s, 6, 6⟩
  else if c.tier = 3 then ⟨s.setEnt n c.page (mkEnt 3 (c.loc + c.peer * 65536) c.cls c.wr c.pin), 0, 0⟩
  else match s.pickFrame n c.tier (if c.tier = 1 then c.loc % 128 else c.loc % 4) c.strict with
  | none => ⟨s, 5, 7⟩
  | some k => ⟨(s.takeFrame k n c.pin).setEnt n c.page (mkEnt c.tier (k % 65536) c.cls c.wr c.pin), 0, 0⟩

/-- Is a move of the page queued or in progress (R82)? -/
def State.moving (s : State) (n page : Nat) : Bool := s.vc.moves.any fun m => m.tenant == n && m.page == page

/-- The cache-space address of the page an entry maps, when its lines may be cached. -/
def entLines (e : Word) : Option Nat :=
  if entTier e = 3 then some (Loc.peer (entFrame e / 65536) (entFrame e % 65536 * pageSize)).key
  else (entKey e).map frameAddr

/-- UNMAP of a page that is not moving (R80). -/
def State.vcUnmap (s : State) (n page : Nat) : State :=
  let e := s.ent n page
  let s := match entLines e with
    | some a => s.flushAll a pageSize
    | none => s
  let s := match entKey e with
    | some k => s.freeFrame k
    | none => s
  s.setEnt n page 0

/-- The location a MIGRATE destination names equals the source's (R82). -/
def samePlace (e : Word) (c : VcCmd) : Bool :=
  entTier e == c.tier &&
  (match c.tier with
  | 0 => entFrame e == c.loc % 128
  | 1 => entFrame e / 384 == c.loc % 128
  | _ => entFrame e / 8192 == c.loc % 4)

/-- MIGRATE (R80, R81, R83, R84): allocates and charges the destination and queues the move. -/
def State.vcMigrate (s : State) (n : Nat) (c : VcCmd) : VcRes :=
  let e := s.ent n c.page
  if !entValid e then ⟨s, 7, 2⟩
  else if c.tier = 3 then ⟨s, 7, 9⟩
  else if !s.placeOk n c || samePlace e c then ⟨s, 7, 3⟩
  else if entPinned e then ⟨s, 7, 4⟩
  else if s.moving n c.page then ⟨s, 7, 5⟩
  else if 8 ≤ (s.vc.moves.filter fun m => m.tenant == n).length + (Tab.get s.vc.results [] n).length then ⟨s, 7, 8⟩
  else if c.tier = 0 then
    ⟨{ s with vc := { s.vc with moves := s.vc.moves ++ [⟨n, c.page, 0, c.loc % 128, false, []⟩] } }, 0, 0⟩
  else if s.quota n c.tier < s.usedPages n c.tier + 1 then ⟨s, 6, 6⟩
  else match s.pickFrame n c.tier (if c.tier = 1 then c.loc % 128 else c.loc % 4) c.strict with
  | none => ⟨s, 5, 7⟩
  | some k =>
    let s := s.takeFrame k n false
    ⟨{ s with vc := { s.vc with moves := s.vc.moves ++ [⟨n, c.page, c.tier, k % 65536, false, []⟩] } }, 0, 0⟩

/-- PROTECT (R80). -/
def State.vcProtect (s : State) (n : Nat) (c : VcCmd) : VcRes :=
  let e := s.ent n c.page
  if !entValid e then ⟨s, 7, 2⟩
  else if s.moving n c.page then ⟨s, 7, 5⟩
  else
    ⟨(s.setEnt n c.page (BitVec.ofNat 64 (setBits e.toNat 4 3 (b2n c.wr + 2 * b2n c.pin)))).pinFrame e c.pin, 0, 0⟩

/-- A command ends (R79): BUSY clears, STATUS and DETAIL hold the result, VC_CMD_ENTRY the entry; a QUOTA result is counted (R96). -/
def VcRes.finish (r : VcRes) (n page : Nat) : State :=
  let s := if r.status = 6 then r.s.bump (A.VC_QUOTA_REFUSED n) else r.s
  let s := s.fset (A.VC_CMD_STATUS n) F.VC_CMD_STATUS_BUSY 0
  let s := s.fset (A.VC_CMD_STATUS n) F.VC_CMD_STATUS_STATUS r.status
  let s := s.fset (A.VC_CMD_STATUS n) F.VC_CMD_STATUS_DETAIL r.detail
  s.wr (A.VC_CMD_ENTRY n) (s.ent n page)

/-- A write to VC_CMD of tenant `n` (R79): a reserved write starts nothing and is recorded; while BUSY the write is ignored and sets OVERRUN; UNMAP of a moving page waits. DESIGN CHOICE (log entry 70): a reserved write that arrives while BUSY is judged as reserved first and sets no OVERRUN. -/
def State.vcWrite (s : State) (n w : Nat) : State :=
  let c := vcCmd w
  if c.op = 0 ∨ 6 ≤ c.op ∨ bits w 31 30 ≠ 0 ∨ bits w 63 62 ≠ 0 then s.lockViolation (A.VC_CMD n) 2
  else if s.flag (A.VC_CMD_STATUS n) F.VC_CMD_STATUS_BUSY then s.fset (A.VC_CMD_STATUS n) F.VC_CMD_STATUS_OVERRUN 1
  else match c.op with
  | 1 => (s.vcMap n c).finish n c.page
  | 2 =>
    if !entValid (s.ent n c.page) then (VcRes.mk s 7 2).finish n c.page
    else if s.moving n c.page then
      { s.fset (A.VC_CMD_STATUS n) F.VC_CMD_STATUS_BUSY 1 with vc := { s.vc with unmapWait := s.vc.unmapWait ++ [(n, c.page)] } }
    else (VcRes.mk (s.vcUnmap n c.page) 0 0).finish n c.page
  | 3 => (s.vcMigrate n c).finish n c.page
  | 4 => (s.vcProtect n c).finish n c.page
  | _ => (VcRes.mk s 0 0).finish n c.page

/-- May the requester reach the command page of tenant `n` (R79, R96)? Its threads, and the host through the tenant's region, which acts as the tenant. -/
def vcPageOk (who : Who) (n : Nat) : Bool := who == .tenant n && decide (n < 8)

/-- A mapping command by its row. -/
def vcRow (op : Nat) (who : Who) (n page tier cls : Nat) (wr pin strict : Bool) (loc peer : Nat) (s : State) : Out :=
  if vcPageOk who n then .next (s.vcWrite n (VcCmd.word ⟨page, op, tier, cls, wr, pin, strict, loc, peer⟩)) else .next s

/-- MAP (R80). -/
def execMap (who : Who) (n page tier cls : Nat) (wr pin strict : Bool) (loc peer : Nat) (s : State) : Out :=
  vcRow 1 who n page tier cls wr pin strict loc peer s
/-- UNMAP (R80). -/
def execUnmap (who : Who) (n page : Nat) (s : State) : Out := vcRow 2 who n page 0 0 false false false 0 0 s
/-- MIGRATE (R80). -/
def execMigrate (who : Who) (n page tier : Nat) (strict : Bool) (loc : Nat) (s : State) : Out :=
  vcRow 3 who n page tier 0 false false strict loc 0 s
/-- PROTECT (R80). -/
def execProtect (who : Who) (n page : Nat) (wr pin : Bool) (s : State) : Out := vcRow 4 who n page 0 0 wr pin false 0 0 s
/-- QUERY (R80). -/
def execQuery (who : Who) (n page : Nat) (s : State) : Out := vcRow 5 who n page 0 0 false false false 0 0 s

/-- UNMAP_AFTER_MOVE (R79): the UNMAP that waited completes once its page no longer moves. -/
def execUnmapAfterMove (n page : Nat) (s : State) : Out :=
  if !(s.vc.unmapWait.contains (n, page)) || s.moving n page then .next s
  else
    let s := { s with vc := { s.vc with unmapWait := s.vc.unmapWait.filter fun x => x != (n, page) } }
    .next ((VcRes.mk (s.vcUnmap n page) 0 0).finish n page)

/-! ### Migration (R83 to R85) -/

/-- The move a lane takes next: round robin across tenants, or the oldest when TENANT_RR is 0 outside confidential mode. -/
def State.nextMove (s : State) : Option Move :=
  let q := s.vc.moves.filter fun m => !m.lane
  if s.flag A.VC_MIG_CFG F.VC_MIG_CFG_TENANT_RR || s.confMode then
    ((List.range 8).map fun i => (s.vc.rr + i) % 8).findSome? fun n => q.find? fun m => m.tenant == n
  else q.head?

/-- The local base address of a page in T0, T1 or T2. -/
def placeAddr (tier frame : Nat) : Nat :=
  if tier = 0 then t0Base + frame * pageSize else if tier = 1 then frameAddr frame else frameAddr (65536 + frame)

/-- Where a page's source lies, as a location. -/
def entPlace (e : Word) : Loc :=
  if entTier e = 3 then .peer (entFrame e / 65536) (entFrame e % 65536 * pageSize) else .mem (placeAddr (entTier e) (entFrame e))

/-- The domains a move accesses: those of its source and of its destination (R18, R84). -/
def State.moveDoms (s : State) (m : Move) : List Nat :=
  (s.locDoms (entPlace (s.ent m.tenant m.page)) ++ s.locDoms (.mem (placeAddr m.tier m.frame))).eraseDups

/-- Write back and invalidate a page's lines in every cluster cache (R84). -/
def State.flushPage (s : State) (e : Word) : State :=
  match entLines e with
  | some a => s.flushAll a pageSize
  | none => s

/-- MIGRATION_LANE_START (R84): a free lane of the four takes the next move and sets MIGRATING. The accesses of the move wake the domains it needs (R478), and where these are On the page's lines are written back and invalidated. -/
def execMigrationLaneStart (s : State) : Out :=
  if 4 ≤ (s.vc.moves.filter fun m => m.lane).length then .next s
  else match s.nextMove with
  | none => .next s
  | some m =>
    let e := s.ent m.tenant m.page
    let ds := s.moveDoms m
    let s := (s.setEnt m.tenant m.page (e ||| 0x40#64)).domTouch ds
    let s := if ds.all s.isOn then s.flushPage e else s
    .next { s with vc := { s.vc with moves := s.vc.moves.map (fun x => if x = m then { x with lane := true, began := s.arb.grants } else x), rr := m.tenant + 1 } }

/-- The key under which accesses released by the end of a move keep their order. -/
def moveGroup (n page : Nat) : Nat := 64 + n * 524288 + page

/-- Accesses stalled on a page resume in their arrival order (R84). -/
def State.resumeMove (s : State) (n page : Nat) : State :=
  let held (key : Nat) : Bool := match (s.thread (key / 16) (key % 16)).hold with
    | .move t p _ => t == n && p == page
    | _ => false
  let go := s.stallq.filter fun e => e.2 == 0 && held e.1
  let s := { s with stallq := s.stallq.filter (fun e => !(e.2 == 0 && held e.1)),
                    resumeq := s.resumeq ++ go.map fun e => (moveGroup n page, e.1, e.2) }
  go.foldl (fun s e => s.setThread (e.1 / 16) (e.1 % 16) { s.thread (e.1 / 16) (e.1 % 16) with st := .ready, hold := .none }) s

/-- Marks copied into a channel spread over its 64-byte granules; without inline ECC they lose the frame (R610). -/
def State.settleT2 (s : State) (base : Nat) : State :=
  let ms := s.psn.within (base / 16) (pageSize / 16)
  if ms = [] then s
  else if !s.inlineEcc (chanOf base) then
    ({ s with psn := s.psn.clear (base / 16) (pageSize / 16) }).loseFrame base
  else ms.foldl (fun s g => s.setGran (g / 4 * 64) true) s

/-- Copy the page (R84, R85): the state and whether a copied unit carried poison. A peer's bytes and marks (by 16-byte unit) are what its reads returned. -/
def State.copyPage (s : State) (e : Word) (m : Move) (data : List Nat) (marks : List Nat) : State × Bool :=
  let dst := placeAddr m.tier m.frame
  let s1 := if entTier e = 3 then
      let s := s.zeroFill dst pageSize
      let s := (List.range data.length).foldl (fun s i => if i < pageSize then s.putByte (dst + i) (data.getD i 0) else s) s
      { s with psn := marks.foldl (fun p i => if i < pageSize / 16 then NSet.add (dst / 16 + i) p else p) s.psn }
    else s.copyRange (placeAddr (entTier e) (entFrame e)) dst pageSize
  let psn := entPoisoned e || s1.psn.within (dst / 16) (pageSize / 16) != []
  (if m.tier = 2 then s1.settleT2 dst else s1, psn)

/-- The move's result is posted (R83, R85). -/
def State.postMove (s : State) (m : Move) (status : Nat) : State :=
  { s with vc := { s.vc with moves := s.vc.moves.filter (fun x => x != m),
                             results := Tab.set s.vc.results [] m.tenant (Tab.get s.vc.results [] m.tenant ++ [⟨status, 0, m.page⟩]) } }

/-- A move fails (R85): the entry keeps the source, the destination is freed, stalled accesses resume at the source. -/
def State.failMove (s : State) (m : Move) (status : Nat) : State :=
  let e := s.ent m.tenant m.page
  let s := s.setEnt m.tenant m.page (BitVec.ofNat 64 (setBits e.toNat 6 6 0))
  let s := if m.tier = 1 then s.freeFrame m.frame else if m.tier = 2 then s.freeFrame (65536 + m.frame) else s
  (s.postMove m status).resumeMove m.tenant m.page

/-- A move commits (R84, R85): the lines its page's last accesses left behind are written back, FRAME and TIER are rewritten, MIGRATING and ACCESSED clear, the source is freed, the result is posted. -/
def State.commitMove (s : State) (m : Move) (data marks : List Nat) : State :=
  let e := s.ent m.tenant m.page
  let src := entPlace e
  match (s.flushPage e).copyPage e m data marks with
  | (s, z) =>
    let s := (match src with
      | .mem a => s.movedAs 3 a pageSize
      | _ => s).movedAs 3 (placeAddr m.tier m.frame) pageSize
    let lost := m.tier = 2 ∧ (s.frame (65536 + m.frame)).lost
    let v := setBits (setBits (setBits (setBits e.toNat 7 6 0) 2 1 m.tier) 49 20 m.frame) 5 5 (b2n (entPoisoned e || decide lost))
    let s := s.setEnt m.tenant m.page (BitVec.ofNat 64 v)
    let s := match entKey e with
      | some k => s.freeFrame k
      | none => s
    (s.postMove m (if z then 1 else 0)).resumeMove m.tenant m.page

/-- Does a location lie in the page that begins at another? -/
def Loc.inPage : Loc → Loc → Bool
  | .mem a, .mem b => decide (b ≤ a) && decide (a < b + pageSize)
  | .peer d a, .peer e b => d == e && decide (b ≤ a) && decide (a < b + pageSize)
  | _, _ => false

/-- Is an access of a thread to a page still outstanding? Accesses already issued to a moving page complete before it is copied (R84, R127). -/
def State.pageBusy (s : State) (page : Loc) : Bool :=
  s.threads.any fun kt => kt.2.acc.any fun a => a.todo.any fun g => g.any fun p => p.loc.inPage page

/-- May a move have taken its bursts of the channel of a T2 address (R95, R96)? While partitions wait there it has had at most T2_SHARE of each sixteen since its lane began; with T2_SHARE 0 it waits until the channel is idle. -/
def State.shareMet (s : State) (m : Move) (a : Nat) : Bool :=
  if area a 1 = .t2 then
    let c := chanOf a
    let k := s.fget A.VC_MIG_CFG F.VC_MIG_CFG_T2_SHARE
    !(s.waitings.any fun w => area w.addr 1 == .t2 && chanOf w.addr == c) ||
      (k != 0 && decide (16384 * (16 - k) ≤ (Tab.get s.arb.grants 0 c - Tab.get m.began 0 c) * k))
  else true

/-- The copy of a running move of a tenant's page ends (R84, R85). `fail`: an access of it reached its stall limit or timed out, which only a domain that is not On, a channel or a peer can bring about; a domain that does not wake on an access fails it as well. `data` and `marks` are what a peer's reads returned. The copy waits for the domains, for the accesses already issued to the page, and for its share of a channel (R95). -/
def State.migrationEnd (s : State) (n page : Nat) (fail : Bool) (data marks : List Nat) : State :=
  match s.vc.moves.find? fun m => m.tenant == n && m.page == page && m.lane with
  | none => s
  | some m =>
    let e := s.ent n page
    let src := entPlace e
    let dst := placeAddr m.tier m.frame
    match s.domCheck (s.moveDoms m) with
    | .refuse => s.failMove m 5
    | .wait ds => if fail then (s.countLimit 16 1 ds).failMove m 5 else s.domTouch ds
    | .go =>
      if fail ∧ (2 ≤ entTier e ∨ m.tier = 2) then s.failMove m 5
      else if s.pageBusy src || !s.shareMet m dst || !(match src with
        | .mem a => s.shareMet m a
        | _ => true) then s
      else s.commitMove m data marks

/-- End the moves of some tenants with ABORTED, as a reset does (R85). -/
def State.abortMoves (s : State) (p : Nat → Bool) : State :=
  (s.vc.moves.filter fun m => p m.tenant).foldl (fun s m => s.failMove m 4) s

/-- A read of VC_MIG_RESULT (R83, R96): the oldest result, which the read removes. -/
def State.migResult (s : State) (n : Nat) : State × Word :=
  match Tab.get s.vc.results [] n with
  | [] => (s, 0)
  | r :: rs =>
    ({ s with vc := { s.vc with results := Tab.set s.vc.results [] n rs } },
     BitVec.ofNat 64 (1 + r.status * 16 + r.detail * 256 + r.page * 65536))

/-- MIG_RESULT_READ (R83). -/
def execMigResultRead (who : Who) (n : Nat) (s : State) : Out :=
  if vcPageOk who n then .next (s.migResult n).1 else .next s

/-! ### Views of the allocator (R96, R97) -/

/-- Free T1 frames (R96). -/
def State.t1Free (s : State) : Nat :=
  let taken := (s.vc.frames.filter fun f => decide (f.1 < 65536) && (f.2.alloc || f.2.lost)).map (·.1)
  let gone := (s.vc.lostLayers.filter fun l => decide (l < 512)).flatMap fun l => (List.range 96).map fun i => l / 4 * 384 + l % 4 * 96 + i
  49152 - (taken ++ s.reservedFrames ++ gone).eraseDups.length

/-- Free T2 frames within the trained capacity (R96). -/
def State.t2Free (s : State) : Nat :=
  (List.range 4).foldl (fun m c => m + s.trained c) 0 -
  (s.vc.frames.filter fun f => decide (65536 ≤ f.1) && decide ((f.1 - 65536) % 8192 < s.trained ((f.1 - 65536) / 8192)) && (f.2.alloc || f.2.lost)).length

/-- VC_V_STATUS of a vault (R97). -/
def State.vaultStatus (s : State) (v : Nat) : Nat :=
  let ready := maskOf ((List.range 4).filter fun l => s.isOn (16 + v / 8) && s.isOn (32 + l) && !(s.vc.lostLayers.has (v * 4 + l)))
  let lost := maskOf ((List.range 4).filter fun l => s.vc.lostLayers.has (v * 4 + l))
  let free := (s.placeKeys 1 v).foldl (fun m k => m + b2n (s.frameFree k)) 0
  ready + lost * 16 + min free 255 * 256

/-! ### Training (R93, R98) -/

/-- A write of START to XM_TRAIN (R98): ignored once the plat is applied, else training begins and DONE clears. -/
def State.xmStart (s : State) (i : Nat) : State :=
  if s.plat.cur.isSome then s
  else (s.fset (A.XM_TRAIN i) F.XM_TRAIN_DONE 0).fset (A.XM_TRAIN i) F.XM_TRAIN_FAIL 0

/-- XM_TRAIN_START (R93, R98): boot firmware or the host starts training of controller `i`. -/
def execXmTrainStart (i : Nat) (s : State) : Out :=
  if 2 ≤ i then .next s
  else if !s.isOn (36 + i) then .next (s.demandWake (36 + i))
  else .next (s.xmStart i)

/-- The usable capacity of a channel (R92): 7/8 with inline ECC, in units of 256 MiB, rounded down. -/
def usableCap (ecc : Bool) (units : Nat) : Nat := if ecc then units * 7 / 8 else units

/-- XM_TRAIN_DONE (R93, R98): training ends; for each enabled channel the installed capacity found, in units of 256 MiB, or a failure. DESIGN CHOICE (log entry 70): a training that a plat's apply finds in flight never ends; its completion is ignored. -/
def execXmTrainDone (i cap0 cap1 : Nat) (fail0 fail1 : Bool) (s : State) : Out :=
  if 2 ≤ i ∨ s.plat.cur.isSome then .next s
  else
    let ecc := s.flag (A.XM_CFG i) F.XM_CFG_INLINE_ECC
    let en0 := s.flag (A.XM_CFG i) F.XM_CFG_CH0_EN
    let en1 := s.flag (A.XM_CFG i) F.XM_CFG_CH1_EN
    let c0 := if en0 && !fail0 then min 64 (usableCap ecc cap0) else 0
    let c1 := if en1 && !fail1 then min 64 (usableCap ecc cap1) else 0
    let s := (s.fset (A.XM_CAP i) F.XM_CAP_CH0_CAP c0).fset (A.XM_CAP i) F.XM_CAP_CH1_CAP c1
    let s := s.fset (A.XM_TRAIN i) F.XM_TRAIN_FAIL (b2n (en0 && fail0) + 2 * b2n (en1 && fail1))
    .next (s.fset (A.XM_TRAIN i) F.XM_TRAIN_DONE 1)

/-- MR4_TEMPERATURE_POLLING (R92, R98): a controller polls the refresh-rate codes of its channels. -/
def execMr4TemperaturePolling (i code0 code1 : Nat) (s : State) : Out :=
  if 2 ≤ i ∨ !s.isOn (36 + i) then .next s
  else
    let s := (s.background .t2 (2 * i) 2000).background .t2 (2 * i + 1) 2000
    .next ((s.fset (A.XM_TEMP i) F.XM_TEMP_CH0 code0).fset (A.XM_TEMP i) F.XM_TEMP_CH1 code1)

end Sys2Proof.Machine
end

