-- ==== Sys2Proof/Machine/HostBase.lean ====
section
/-!
DEFINITION. What the device sends to the host: posted writes, completion copies, MSI-X vectors and tenant events (R561 to R565).
-/
namespace Sys2Proof.Machine

/-- Can the device write to host memory (R562)? -/
def State.hostUp (s : State) : Bool := s.host.bme && !s.host.d3hot && s.isOn 7 && s.isOn 8

/-- Send a posted write to a bus address, after those sent before it. -/
def State.hostSend (s : State) (a : Nat) (bs : List Nat) : State := { s with host := { s.host with out := s.host.out ++ [(a, bs)] } }

/-- A 32-bit word of the MSI-X table (R553): the vector control word of each entry is masked at reset. -/
def State.msixWord (s : State) (i : Nat) : Nat := Tab.get s.host.msix (if i % 4 = 3 then 1 else 0) i

/-- Is a vector masked? -/
def State.vecMasked (s : State) (v : Nat) : Bool := s.msixWord (4 * v + 3) % 2 == 1

/-- The MSI-X message of a vector. -/
def State.msixSend (s : State) (v : Nat) : State :=
  s.hostSend (s.msixWord (4 * v) / 4 * 4 + s.msixWord (4 * v + 1) * 2 ^ 32) (natLe 4 (s.msixWord (4 * v + 2)))

/-- A vector fires (R564): it sends its message, or sets its pending bit when it is masked or the function cannot send (log entry 33); the count of events clears. -/
def State.fireVec (s : State) (v : Nat) : State :=
  let s := { s with host := { s.host with vec := Tab.set s.host.vec (0, 0) v (0, 0) } }
  if s.vecMasked v || !s.hostUp then { s with host := { s.host with pba := NSet.add v s.host.pba } } else s.msixSend v

/-- An event on a vector (R564): it fires when COUNT events are pending; COUNT 0 acts as 1. -/
def State.vecEvent (s : State) (v : Nat) : State :=
  let (c, t) := Tab.get s.host.vec (0, 0) v
  let need := max 1 (s.fget (A.HI_VEC_MOD v) F.HI_VEC_MOD_COUNT)
  if need ≤ c + 1 then s.fireVec v
  else { s with host := { s.host with vec := Tab.set s.host.vec (0, 0) v (c + 1, if c = 0 then s.now else t) } }

/-- A tenant event (R565): sets its bit and, when the bit was clear and EVT_EN is 1, raises the event vector. -/
def State.tenantEvent (s : State) (n b : Nat) : State :=
  let a := A.HI_T_EVENT n
  if bit (s.rd a).toNat b then s
  else
    let s := s.fset a (b, b) 1
    if s.flag (A.HI_T_EVT_CFG n) F.HI_T_EVT_CFG_EVT_EN then
      match s.tenE n with
      | some e => s.vecEvent (e.msixBase + s.fget (A.HI_T_EVT_CFG n) F.HI_T_EVT_CFG_EVT_VEC)
      | none => s
    else s

/-- The host interface after a reset of R567, or after D7 left Off (R575, R651): what lies outside its registers. The placement of the rings in the windows is the plat's. -/
def HostSt.cleared (h : HostSt) (link : HLink) : HostSt :=
  { HostSt.reset with win := h.win, out := h.out, cpl := h.cpl, link := link }

/-- A bad host access outside the windows (R555). -/
def State.hostBad (s : State) : State := s.bump A.HI_BAD_ACCESS

/-- A completion of a host read. -/
def State.hostCpl (s : State) (data : List (Nat × Bool)) (wait : List (Nat × Nat × Nat × Nat)) : State :=
  let s := if data.any (·.2) then s.bump A.HI_POISON_READ else s
  { s with host := { s.host with cpl := s.host.cpl ++ [⟨data, wait⟩] } }

/-- A read that completes with all ones (R555). -/
def State.hostOnes (s : State) (n : Nat) : State := s.hostCpl (List.replicate n (0xFF, false)) []

/-- A line that a host read asked a peer for has arrived (R558): its bytes take their places in the completion; with an error they are all ones. A completion that is whole and holds poison is counted. -/
def State.hostGot (s : State) (tag : Nat) (pay : List Nat) (poison : Nat) : State :=
  let put := fun (c : HCpl) (w : Nat × Nat × Nat × Nat) =>
    let bs := (List.range w.2.2.2).map fun i => (pay.getD (w.2.2.1 + i) 0, bit poison ((w.2.2.1 + i) / 16))
    c.data.take w.2.1 ++ bs ++ c.data.drop (w.2.1 + w.2.2.2)
  let got := s.host.cpl.map fun c => match c.wait.find? fun w => w.1 == tag with
    | some w => { c with data := put c w, wait := c.wait.filter fun x => x.1 != tag }
    | none => c
  let done := (s.host.cpl.zip got).any fun p => p.1.wait != [] && p.2.wait == [] && p.2.data.any (·.2)
  let s := if done then s.bump A.HI_POISON_READ else s
  { s with host := { s.host with cpl := got } }

/-- HI_T_RING_CFG of a ring (R577): CQ_LOG2 is 6 at reset. -/
def State.ringCfg (s : State) (r : Nat) : Nat := Tab.get s.host.ringCfg 6 r

/-- The completion of a ring raises its vector (R563). -/
def State.ringVec (s : State) (n r : Nat) : State :=
  let c := s.ringCfg r
  if bit c 19 then
    match s.tenE n with
    | some e => s.vecEvent (e.msixBase + bits c 18 8)
    | none => s
  else s

/-- Copy a completion record into the ring's queue in host memory (R561, R562): a copy that cannot be written is dropped and counted. -/
def State.cqWrite (s : State) (n r seq : Nat) (rec_ : List Nat) : State :=
  let c := s.ringCfg r
  if !bit c 5 then s
  else if !s.hostUp then (s.bump A.HI_MIRROR_DROP).tenantEvent n 1
  else s.hostSend (Tab.get s.host.ringCq 0 r + 32 * (seq % 2 ^ bits c 4 0)) rec_

/-- A record waits for a tenant's egress ring (R573). -/
def State.egressAdd (s : State) (n kind ring : Nat) (data : List Nat) : State :=
  { s with host := { s.host with egress := s.host.egress ++ [⟨n, kind, ring, data⟩] } }

/-- Which requester sent an access: its accesses keep their order. -/
def extFrom : ExtAcc → Who
  | .reg who _ _ _ => who
  | .hostWrite _ _ _ _ => .host
  | .hostRead _ _ _ => .host
  | .debug _ _ _ => .debug

/-- Host accesses that a reset meets while they stand stalled, or wait for a peer, get the error response of R555 (R645): their memory is not reached. -/
def State.hostAbandon (s : State) : State :=
  let s := s.extq.foldl (fun s c => match c with
    | .hostWrite _ _ _ _ => s.hostBad
    | .hostRead _ _ n => s.hostBad.hostOnes n
    | _ => s) s
  { s with extq := [], host := { s.host with cpl := s.host.cpl.map fun c => if c.wait = [] then c else ⟨List.replicate c.data.length (0xFF, false), []⟩ } }

end Sys2Proof.Machine
end

