-- ==== Sys2Proof/Machine/Scan.lean ====
section
/-!
DEFINITION. The Scan engine: stream records and resident states, order and residency, and the SCAN, CONVOLVE and EVICT commands (R269 to R296).
-/
namespace Sys2Proof.Machine

/-! ### Records, descriptors (R269, R273) -/

/-- A stream record (R269), with the poison of its first, second and third 16 bytes. -/
structure StRec where
  fmt : Nat
  initV : Bool
  width : Nat
  ctx : Nat
  exp : Int
  next : Nat
  save : Nat
  init : Nat
  wher : Nat
  reserved : Bool
  psnA : Bool
  psnB : Bool
  psnC : Bool
  deriving DecidableEq, Repr

/-- Read a stream record at home (R270). -/
def State.stRec (s : State) (n va : Nat) : StRec :=
  let b := s.readHome n va 64
  let f := pnat b 0 1
  ⟨bits f 1 0, bit f 2, pnat b 2 2, pnat b 4 2, sgn 16 (pnat b 6 2), pnat b 8 8, pnat b 16 8, pnat b 24 8, pnat b 32 4,
   (!ppsn b 0 16 && (bits f 7 3 != 0 || pnat b 1 1 != 0)) || (!ppsn b 40 24 && pnat b 40 24 != 0), ppsn b 0 16, ppsn b 16 16, ppsn b 32 8⟩

/-- Is a field of the record poisoned (R291)? -/
def StRec.psn (r : StRec) : Bool := r.psnA || r.psnB || r.psnC

/-- The element format of a state (R269). -/
def stFmt (k : Nat) : NFmt := if k = 0 then .i32 else if k = 1 then .t16 else .f32
/-- Bytes of a state. -/
def StRec.bytes (r : StRec) : Nat := r.width * ((stFmt r.fmt).width / 8)
/-- Store units of a state (R271). -/
def StRec.units (r : StRec) : Nat := ceilDiv r.bytes 1024
/-- Is the state resident? -/
def StRec.resident (r : StRec) : Bool := bit r.wher 0
/-- The cluster that holds it. -/
def StRec.cluster (r : StRec) : Nat := bits r.wher 4 1
/-- The epoch at which it was taken. -/
def StRec.epoch (r : StRec) : Nat := bits r.wher 31 5

/-- Is a record valid (R269)? Poisoned fields are not judged (R291). -/
def StRec.ok (r : StRec) : Bool :=
  !r.reserved && (r.psnA || (decide (r.fmt ≤ 2) && decide (1 ≤ r.width) && decide (r.width ≤ 8192) && decide (r.ctx ≤ 1023) &&
  decide (-512 ≤ r.exp) && decide (r.exp ≤ 511) && (r.fmt == 0 || r.exp == 0)))

/-- The fields of a Scan descriptor (R273). -/
structure ScD where
  op : Nat
  gate : Bool
  trunc : Bool
  marks : Bool
  all : Bool
  install : Bool
  clamp : Bool
  af : Nat
  vf : Nat
  out : Nat
  base : Nat
  l : Nat
  tag : Nat
  seq : Nat
  stream : Nat
  a : Nat
  v : Nat
  o : Nat
  mark : Nat
  scale : Nat
  deriving DecidableEq, Repr

/-- Read a Scan descriptor. -/
def scD (d : List Nat) : ScD :=
  let p := field d 0 1
  let f := field d 1 1
  ⟨bits p 1 0, bit p 2, bit p 3, bit p 4, bit p 5, bit p 6, bit p 7, bits f 1 0, bits f 3 2, bits f 5 4, bits f 7 6,
   field d 2 2, bits (field d 4 1) 5 0, field d 8 8, field d 16 8, field d 24 8, field d 32 8, field d 40 8, field d 48 8, field d 56 8⟩

/-- The array formats (R273). -/
def scFmt (k : Nat) : NFmt := if k = 0 then .s8 else if k = 1 then .t16 else .f32

/-- DETAIL 0x001 (R274): reserved encodings, reserved bits, and fields the operation does not use. -/
def scReserved (d : List Nat) : Bool :=
  let x := scD d
  x.op == 3 || bits (field d 4 1) 7 6 != 0 || !zeroBytes d 5 3 ||
  (x.op != 2 && (x.af == 3 || x.vf == 3)) ||
  (x.op == 0 && (x.all || x.install || x.base != 0)) ||
  (x.op == 1 && x.base == 3) ||
  (x.op == 2 && (bits (field d 0 1) 7 2 != 0 || !zeroBytes d 1 4 || !zeroBytes d 8 8 || !zeroBytes d 24 40))

/-- Does L have a permitted value (R273)? -/
def ScD.lenOk (x : ScD) : Bool :=
  if x.op = 0 then decide (16 ≤ x.l) && decide (x.l ≤ 4096) && x.l == 2 ^ Nat.log2 x.l
  else if x.op = 1 then decide (1 ≤ x.l) && decide (x.l ≤ (if x.all then 256 else 4096))
  else true

/-- Are the formats allowed for the state's (R275)? -/
def ScD.pairOk (x : ScD) (r : StRec) : Bool :=
  if r.fmt = 0 then x.af == 0 && x.vf == 0 && !x.clamp
  else if r.fmt = 1 then decide (x.af ≤ 1) && decide (x.vf ≤ 1)
  else true

/-- Does the command write output? CONVOLVE only with ALL (R287). -/
def ScD.writes (x : ScD) : Bool := x.out != 3 && (x.op == 0 || (x.op == 1 && x.all))
/-- Does the command need the state (R280)? -/
def ScD.needs (x : ScD) : Bool := x.op == 0 || (x.op == 1 && (x.install || x.base == 2))
/-- Does the command check the sequence (R280, R287)? -/
def ScD.sequenced (x : ScD) : Bool := x.op == 0 || (x.op == 1 && (x.install || x.base == 2))
/-- Does the command use the initial vector? -/
def StRec.usesInit (r : StRec) : Bool := r.initV

/-- Misalignment (R274): DETAIL 0x004. Poisoned addresses of the record are not judged. -/
def ScD.misaligned (x : ScD) (r : StRec) : Bool :=
  x.stream % 64 != 0 || (x.op != 2 && (x.a % 32 != 0 || x.v % 32 != 0 || (x.writes && x.o % 32 != 0) || (x.marks && x.mark % 8 != 0))) ||
  (!r.psnB && (r.save % 64 != 0 || (!r.psnA && r.initV && r.init % 64 != 0)))

/-- Bytes of an array with its exponents (R275). -/
def scArr (f : NFmt) (l w : Nat) : Nat := l * f.stride w + (if f.isBlock then l * ceilDiv w 32 else 0)

/-- Reachability of the arrays and areas (R274): DETAIL 0x005. Those whose place or length a poisoned field of the record would give are not judged. -/
def State.scReach (s : State) (v : Via) (x : ScD) (r : StRec) : Reach :=
  let arrs := if x.op = 2 ∨ r.psnA then Reach.ok [] else
    (((s.reach v x.a (scArr (scFmt x.af) x.l r.width) false locLocal).and
      (s.reach v x.v (scArr (scFmt x.vf) x.l r.width) false locLocal)).and
      (if x.writes then s.reach v x.o (scArr (scFmt x.out) x.l r.width) true locLocal else .ok [])).and
      ((if x.marks then s.reach v x.mark (ceilDiv x.l 8) false locLocal else .ok []).and
        (if x.writes && x.out == 0 then s.reach v x.scale 32 true locLocal else .ok []))
  let areas := if r.psnA || r.psnB then Reach.ok [] else
    (s.reach v r.save r.bytes true locLocal).and (if r.initV then s.reach v r.init r.bytes false locLocal else .ok [])
  arrs.and areas

/-- The regions of a cluster's store a partition may use (R271). -/
def State.scRegions (s : State) (part cluster : Nat) : List Nat :=
  match s.partE part with
  | some e => bitsOf 16 (e.waysIn cluster)
  | none => []

/-- The stream record as a command may use it: where its access was refused, nothing of it is known. -/
def State.stSeen (s : State) (n va : Nat) (refused : Bool) : StRec :=
  let r := s.stRec n va
  { r with psnA := r.psnA || refused, psnB := r.psnB || refused, psnC := r.psnC || refused, reserved := r.reserved && !refused }

/-- The checks of R274 over descriptor and record up to DETAIL 0x008, in order; `r` is the record as seen. -/
def State.scRecords (s : State) (c : Cmd) (cluster : Nat) (r : StRec) : Option Nat :=
  let x := scD c.desc
  let v := s.viaCmd c
  let recBad : Bool := match s.reach v x.stream 64 true locLocal with
    | .bad => true
    | _ => false
  if scReserved c.desc then some 1
  else if !x.lenOk then some 2
  else if !recBad && x.op != 2 && !r.psnA && r.fmt != 3 && !x.pairOk r then some 3
  else if x.misaligned (if recBad then { r with save := 0, init := 0 } else r) then some 4
  else if recBad || (match s.scReach v x r with
      | .bad => true
      | _ => false) then some 5
  else if !r.ok then some 6
  else if !r.psnA && r.ctx != c.ctx then some 7
  else if x.op ≠ 2 ∧ !r.psnA ∧ 32 * (s.scRegions c.part cluster).length < r.units then some 8
  else none

/-- The checks of the scale record and the tag: DETAIL 0x009, 0x0F0 and 0x0F1. Codes 0x00A and 0x00B are the sequence check's. -/
def State.scScales (s : State) (c : Cmd) : Option Nat :=
  let x := scD c.desc
  let u := (s.scaleStart (s.viaCmd c) x.scale .s8).2
  if x.writes && x.out == 0 && !u.psn && u.format != 0 then some 9
  else if x.writes && x.out == 0 && !u.valid then some 0x0F0
  else if 33 ≤ x.tag then some 0x0F1
  else none

/-! ### The store (R270 to R272, R282 to R285) -/

/-- The local address of a record, by which two names of one stream agree. -/
def State.scKey (s : State) (n va : Nat) : Option Nat :=
  match s.resolve n (BitVec.ofNat 64 va) 64 false with
  | .ok (.mem a) => some a
  | _ => none

/-- Is the resident state that of a record? -/
def State.scIs (s : State) (x : ScSt) (n va : Nat) : Bool :=
  x.tenant == n && (x.va == va || ((s.scKey n va).isSome && s.scKey n x.va == s.scKey n va))

/-- The state of a record in a cluster's store. -/
def State.scFind (s : State) (cluster n va : Nat) : Option ScSt := s.sc.st.find? fun x => x.cluster == cluster && s.scIs x n va

/-- The epoch of a cluster's engine (R284). -/
def State.scEpoch (s : State) (c : Nat) : Nat := s.fget (A.SC_EPOCH c) F.SC_EPOCH_EPOCH

/-- Write WHERE of a record at home (R270). -/
def State.setWhere (s : State) (n va w : Nat) : State := s.writeHome n (va + 32) (clean (natLe 4 w))

/-- Drop a state from a store. -/
def State.scDrop (s : State) (x : ScSt) : State :=
  { s with sc := { s.sc with st := s.sc.st.filter fun y => !(y.cluster == x.cluster && y.tenant == x.tenant && y.va == x.va) } }

/-- How a save can go on (R282, R292): at once, after waiting, or not, with an error response. -/
inductive SaveTry where
  | ready
  | wait (r : Reach)
  | fail
  deriving DecidableEq, Repr

/-- The view an engine accesses records and save areas with: at home (R270). -/
def viaSc (cluster n part : Nat) : Via := ⟨16, n, 0, part, 128 + cluster⟩

/-- Judge the save of a resident state: its record and its save area must be reachable, at rest and in domains that are On. -/
def State.saveTry (s : State) (x : ScSt) : SaveTry :=
  let v := viaSc x.cluster x.tenant x.part
  match s.reach v x.va 64 true locLocal with
  | .bad => .fail
  | .moving p => .wait (.moving p)
  | .ok d0 =>
    let r := s.stRec x.tenant x.va
    if r.psn then .fail
    else match s.reach v r.save r.bytes true locLocal with
    | .bad => .fail
    | .moving p => .wait (.moving p)
    | .ok d1 =>
      match s.domCheck (d0 ++ d1) with
      | .go => .ready
      | .wait _ => .wait (.ok (d0 ++ d1))
      | .refuse => .fail

/-- Save a resident state (R282): its elements go to SAVE_ADDR at home, then WHERE.RESIDENT clears. -/
def State.scSave (s : State) (x : ScSt) : State :=
  let r := s.stRec x.tenant x.va
  let s := s.writeBytes (viaSc x.cluster x.tenant x.part) r.save (pack (stFmt r.fmt).width x.els)
  (s.setWhere x.tenant x.va (r.wher / 2 * 2)).scDrop x

/-- Save some resident states in order, until one cannot be saved at once; what stopped it. -/
def State.scSaves (s : State) : List ScSt → State × SaveTry
  | [] => (s, .ready)
  | x :: l => match s.saveTry x with
    | .ready => (s.scSave x).scSaves l
    | e => (s, e)

/-- Carry out what waiting for a save does to the domains it needs (R478). -/
def State.saveTouch (s : State) : SaveTry → State
  | .wait (.ok ds) => s.domTouch ds
  | _ => s

/-- Is a command of the stream executing in a cluster's engine (R282)? -/
def State.scBusy (s : State) (x : ScSt) : Bool :=
  s.runs.any fun r => r.cmd.eng == 2 && r.unit == x.cluster && s.scIs x r.cmd.tenant (scD r.cmd.desc).stream

/-- Has the stream a command queued in the engine (R283)? -/
def State.scQueued (s : State) (x : ScSt) : Bool :=
  (s.queueOf 2 x.cluster).any fun q => s.scIs x q.cmd.tenant (scD q.cmd.desc).stream

/-- Free units of a region. -/
def State.scFree (s : State) (cluster region : Nat) : Nat :=
  32 - (s.sc.st.filter fun x => x.cluster == cluster).foldl (fun n x =>
    n + (x.place.filter fun p => p.1 == region).foldl (fun m p => m + p.2) 0) 0

/-- Place units in regions in ascending order. -/
def State.scPlace (s : State) (cluster : Nat) : List Nat → Nat → List (Nat × Nat)
  | [], _ => []
  | r :: rs, need =>
    let k := min need (s.scFree cluster r)
    if k = 0 then s.scPlace cluster rs need else (r, k) :: s.scPlace cluster rs (need - k)

/-- The resident states to save so that enough units are free (R283): the tenant's own in these regions, least recently used first, states with a queued command last, executing ones never; none when they do not suffice. -/
def State.scVictims (s : State) (cluster n : Nat) (regions : List Nat) (need : Nat) : Option (List ScSt) :=
  let cand := (s.sc.st.filter fun x => x.cluster == cluster && x.tenant == n && (x.place.any fun p => regions.contains p.1) && !s.scBusy x).reverse
  let order := (cand.filter fun x => !s.scQueued x) ++ cand.filter fun x => s.scQueued x
  let free := regions.foldl (fun m r => m + s.scFree cluster r) 0
  let gain (x : ScSt) : Nat := (x.place.filter fun p => regions.contains p.1).foldl (fun m p => m + p.2) 0
  ((List.range (order.length + 1)).find? fun k => decide (need ≤ free + (order.take k).foldl (fun m x => m + gain x) 0)).map fun k => order.take k

/-- Make room for a state (R283): each save is counted. -/
def State.scMake (s : State) (cluster part n need : Nat) : State × SaveTry :=
  match s.scVictims cluster n (s.scRegions part cluster) need with
  | none => (s, .wait (.ok []))
  | some l =>
    match s.scSaves l with
    | (s1, e) => (s1.count (A.SC_STATE_EVICT cluster n) (s.sc.st.length - s1.sc.st.length), e)

/-- Take a state into a cluster's store for a partition, and claim WHERE (R280 step 3). -/
def State.scClaim (s : State) (cluster part n va : Nat) (els : List (Nat × Bool)) (units : Nat) : State :=
  let x : ScSt := ⟨cluster, n, va, part, s.scPlace cluster (s.scRegions part cluster) units, els⟩
  ({ s with sc := { s.sc with st := x :: s.sc.st } }).setWhere n va (1 + 2 * cluster + 32 * s.scEpoch cluster)

/-- Move a state to the front of the store and give it new elements. -/
def State.scUse (s : State) (x : ScSt) (els : List (Nat × Bool)) : State :=
  let s := s.scDrop x
  { s with sc := { s.sc with st := { x with els := els } :: s.sc.st } }

/-- Save every resident state of a cluster, before its domain enters Off (R285). -/
def State.scSaveAll (s : State) (cluster : Nat) : State × SaveTry :=
  s.scSaves (s.sc.st.filter fun x => x.cluster == cluster)

/-- Save some resident states whatever becomes of the others: one whose save receives an error response stays resident (R646, R647). -/
def State.scSaveEach (s : State) (l : List ScSt) : State := l.foldl (fun s x => if s.saveTry x = .fail then s else s.scSave x) s

/-- The states of a cluster that lie in some regions (R285). -/
def State.scIn (s : State) (cluster : Nat) (regions : List Nat) : List ScSt :=
  s.sc.st.filter fun x => x.cluster == cluster && x.place.any fun p => regions.contains p.1

/-- Clear a store without saving (R284): the epoch increments. -/
def State.scClear (s : State) (cluster : Nat) : State :=
  let s := { s with sc := { s.sc with st := s.sc.st.filter fun x => x.cluster != cluster } }
  s.fset (A.SC_EPOCH cluster) F.SC_EPOCH_EPOCH ((s.scEpoch cluster + 1) % 2 ^ 27)

/-- Compare a chunk's number with NEXT_SEQ, which wraps at 2^64 (R269, R281): equal, ahead, or behind. -/
def seqAhead (chunk next : Nat) : Nat := (chunk + 2 ^ 64 - next) % 2 ^ 64

/-! ### Arithmetic (R275 to R278, R286) -/

/-- The arithmetic of a state format: fused multiply-add and product, each rounded once. -/
structure ScArith (α : Type) where
  fma : α → α → α → α
  mul : α → α → α
  neg : α → α
  zero : α

/-- A step of a chunk: decay, value, segment start. -/
abbrev ScStep (α : Type) := α × α × Bool

/-- Fold the prefix that ends at step `q` into step `t` (R277). -/
def scCombine {α : Type} (k : ScArith α) (l : List (ScStep α)) (t q : Nat) : List (ScStep α) :=
  match l[t]?, l[q]? with
  | some (a, b, f), some (a', b', f') =>
    if f then l else listSet l t (k.mul a a', k.fma a b' b, f')
  | _, _ => l

/-- The up-sweep of R277: distances 1, 2, 4, … below `n`. -/
def scUp {α : Type} (k : ScArith α) (n : Nat) : Nat → Nat → List (ScStep α) → List (ScStep α)
  | 0, _, l => l
  | fuel + 1, d, l =>
    if n ≤ d then l
    else scUp k n fuel (2 * d) ((List.range (n / (2 * d))).foldl (fun l i => scCombine k l (2 * d - 1 + 2 * d * i) (d - 1 + 2 * d * i)) l)

/-- The down-sweep of R277: distances n/4, n/8, … down to 1. -/
def scDown {α : Type} (k : ScArith α) (n : Nat) : Nat → Nat → List (ScStep α) → List (ScStep α)
  | 0, _, l => l
  | fuel + 1, d, l =>
    if d = 0 then l
    else scDown k n fuel (d / 2) ((List.range (n / (2 * d))).foldl (fun l i => scCombine k l (3 * d - 1 + 2 * d * i) (2 * d - 1 + 2 * d * i)) l)

/-- The states of a chunk for one element (R277): `st` are the steps with their heads formed, `c` the carried state. -/
def scSolve {α : Type} (k : ScArith α) (c : α) (st : List (ScStep α)) : List α :=
  let n := st.length
  (scDown k n 14 (n / 4) (scUp k n 14 1 st)).map fun x => if x.2.2 then x.2.1 else k.fma x.1 c x.2.1

/-- Integer arithmetic modulo 2^32 (R275). -/
def arithI : ScArith Nat := ⟨fun a b c => (a * b + c) % 2 ^ 32, fun a b => a * b % 2 ^ 32, fun a => (2 ^ 32 - a) % 2 ^ 32, 0⟩

/-- Arithmetic in a floating format, nearest even (R277). -/
def arithF (f : FFmt) : ScArith FVal :=
  let r (v : FVal) : FVal := f.dec (f.enc false false v)
  ⟨fun a b c => r ((a.mul b).add c), fun a b => r (a.mul b), FVal.opp, .fin false 0 0⟩

/-- Products of the decays after each step, from the last backward (R286): `w_s` for s from −1 on. -/
def suffixW {α : Type} (k : ScArith α) (one : α) : List α → List α
  | [] => [one]
  | a :: t =>
    match suffixW k one t with
    | [] => [one]
    | w :: ws => k.mul a w :: w :: ws

/-- The pairwise tree over any number of F32 terms (R251, R286). -/
def treeAll : Nat → List FVal → FVal
  | 0, l => l.headD (.fin false 0 0)
  | fuel + 1, l =>
    match l with
    | [] => .fin false 0 0
    | [a] => rnd a
    | l => treeAll fuel (pairAdd l)

/-- The state after some steps by the long form (R286): `ab` are decay, head value and mark. -/
def convF (base : Option FVal) (st : List (ScStep FVal)) : FVal :=
  let k := arithF fmtF32
  let ws := suffixW k (.fin false 1 0) (st.map (·.1))
  let last := (List.range st.length).foldl (fun m i => if (st.getD i (.nan, .nan, false)).2.2 then some i else m) none
  let terms := (List.range st.length).filterMap fun i =>
    if (match last with
      | some m => decide (m ≤ i)
      | none => true) then some ((ws.getD (i + 1) .nan).mul (st.getD i (.nan, .nan, false)).2.1) else none
  let terms := match last, base with
    | none, some b => (ws.headD .nan).mul b :: terms
    | _, _ => terms
  treeAll 16 terms

/-- The long form modulo 2^32. -/
def convI (base : Option Nat) (st : List (ScStep Nat)) : Nat :=
  let c := match base with
    | some b => b
    | none => 0
  st.foldl (fun h x => if x.2.2 then x.2.1 else (x.1 * h + x.2.1) % 2 ^ 32) c

/-- `w_{-1}` of a window (R288): zero when it holds a mark. -/
def convDecay (st : List (ScStep FVal)) : FVal :=
  if st.any (·.2.2) then .fin false 0 0 else ((suffixW (arithF fmtF32) (.fin false 1 0) (st.map (·.1))).headD .nan).abs

/-! ### One element of a command -/

/-- What a command reads: rows of A and V, the marks with the poison of each step's byte, the initial vector and the carried state. -/
structure ScIn where
  a : List NRow
  v : List NRow
  mark : List (Bool × Bool)
  init : List PByte
  carry : List PByte
  deriving DecidableEq, Repr

/-- A mark of an element, and whether poisoned data set it and not only a reserved exponent (R291). -/
structure ScMark where
  psn : Bool
  data : Bool
  deriving DecidableEq, Repr

/-- The value of one element over a command: its states by step with their marks, and the carried state out. -/
structure ScEl where
  h : List (FVal × ScMark)
  raw : Nat
  mark : ScMark
  decay : FVal
  deriving DecidableEq, Repr

/-- Poison of the states by step (R291): an input's poison lasts to the next mark, a poisoned mark byte to the end. -/
def scPoison (i : ScIn) (el : Nat) (carry : Bool) : List ScMark :=
  (((List.range i.a.length).foldl (fun (acc : List ScMark × ScMark × Bool) t =>
    let m := i.mark.getD t (false, false)
    let ra := i.a.getD t NRow.nil
    let rv := i.v.getD t NRow.nil
    let sticky := acc.2.2 || m.2
    let ip := (i.init.getD el (0, false)).2
    let old : ScMark := if m.1 then ⟨ip, ip⟩ else acc.2.1
    let data := sticky || ra.psnAt el || rv.psnAt el
    let p : ScMark := ⟨data || ra.badBlk (el / 32) || rv.badBlk (el / 32) || old.psn, data || old.data⟩
    (acc.1 ++ [p], p, sticky)) (([] : List ScMark), ⟨carry, carry⟩, false)).1)

/-- The steps of one element with their heads formed (R276, R277). -/
def scSteps {α : Type} (k : ScArith α) (gate : Bool) (h0 : α) (l : List (α × α × Bool)) : List (ScStep α) :=
  l.map fun x =>
    let v := if gate then k.fma (k.neg x.1) x.2.1 x.2.1 else x.2.1
    (x.1, if x.2.2 then k.fma x.1 h0 v else v, x.2.2)

/-- Clamp a decay to [0, 1] (R275). -/
def clamp01 (b : Bool) (x : FVal) : FVal := if b then FVal.min (FVal.max x (.fin false 0 0)) (.fin false 1 0) else x

/-- The format the arithmetic of a command rounds in: the state's for SCAN, F32 for CONVOLVE (R286). -/
def scWork (x : ScD) (r : StRec) : FFmt := if x.op = 1 then fmtF32 else (stFmt r.fmt).flt

/-- Compute one element (R275 to R277, R286, R287). -/
def scElem (x : ScD) (r : StRec) (i : ScIn) (el : Nat) : ScEl :=
  let marks := (List.range x.l).map fun t => (i.mark.getD t (false, false)).1
  let usesCarry : Bool := x.op == 0 || x.base == 2
  let cb := if x.op == 0 || x.base == 2 then i.carry.getD el (0, false) else if x.base == 1 then i.init.getD el (0, false) else (0, false)
  let ib := i.init.getD el (0, false)
  let ps := scPoison i el (cb.2 && (usesCarry || x.base == 1))
  if r.fmt = 0 then
    let wi (f : NRow) (e : Int) : Nat := unsgn 32 (shiftRound x.trunc (sgn 8 (f.raw el)) (f.exp (el / 32) - e))
    let st := scSteps arithI x.gate ib.1 ((List.range x.l).map fun t =>
      (wi (i.a.getD t NRow.nil) 0, wi (i.v.getD t NRow.nil) r.exp, marks.getD t false))
    let hs := if x.op = 0 then scSolve arithI cb.1 st
      else if x.all then (List.range x.l).map fun t => convI (some cb.1) (st.take (t + 1))
      else [convI (some cb.1) st]
    let last := hs.getLastD 0
    ⟨(List.range hs.length).map fun t => (FVal.ofInt false (sgn 32 (hs.getD t 0)) r.exp, ps.getD (x.l - hs.length + t) ⟨false, false⟩), last, ps.getLastD ⟨false, false⟩, .fin false 1 0⟩
  else
    let f := scWork x r
    let k := arithF f
    let sf := stFmt r.fmt
    let st := scSteps k x.gate (sf.val 0 ib.1) ((List.range x.l).map fun t =>
      (clamp01 x.clamp ((i.a.getD t NRow.nil).val el), (i.v.getD t NRow.nil).val el, marks.getD t false))
    let base := if x.op = 1 ∧ x.base = 0 then none else some (sf.val 0 cb.1)
    let hs := if x.op = 0 then scSolve k (sf.val 0 cb.1) st
      else if x.all then (List.range x.l).map fun t => convF base (st.take (t + 1))
      else [convF base st]
    let last := hs.getLastD .nan
    let raw := if x.op = 0 then sf.flt.enc false false last else sf.flt.enc x.trunc true last
    ⟨(List.range hs.length).map fun t => (hs.getD t .nan, ps.getD (x.l - hs.length + t) ⟨false, false⟩), raw, ps.getLastD ⟨false, false⟩, convDecay st⟩

/-- DECAY_EXP (R288). -/
def decayExp (isInt : Bool) (els : List ScEl) : Nat :=
  if isInt then 0
  else
    let m := els.foldl (fun m e => FVal.max m e.decay) (.fin false 0 0)
    match m with
    | .fin _ k e => if k = 0 then 255 else if ilog2 k e < 0 then min 255 (-(ilog2 k e)).toNat else 0
    | _ => 0

/-! ### Dispatch (R280, R281) -/

/-- A command ends before it executes. STATE_FAULT stands only where DETAIL holds flags (R290). -/
def State.scPlain (s : State) (q : QCmd) (cluster status detail value : Nat) (bumps : List (Nat × Nat)) : State :=
  s.startQ { Run.plain q.cmd cluster status (if status = stInvalid ∨ detail ≠ 0 then detail else 8 * b2n q.fault) with value := value, bumps := bumps }

/-- A command ends with FAULT before it executes. -/
def State.scFault (s : State) (q : QCmd) (cluster detail : Nat) : State :=
  s.scPlain q cluster stFault detail 0 [(A.SC_FAULT_COUNT cluster q.cmd.tenant, 1)]

/-- Read the arrays of a command. -/
def State.scRead (s : State) (v : Via) (c : Cmd) (x : ScD) (r : StRec) (carry : List PByte) : State × ScIn :=
  let rows (s : State) (f : NFmt) (a : Nat) : State × List NRow := s.readRows v f a ((x.l * f.stride r.width : Nat) : Int) x.l r.width
  let (s, as) := rows s (scFmt x.af) x.a
  let (s, vs) := rows s (scFmt x.vf) x.v
  let (s, ms) := if x.marks then
      (match s.readBytes v x.mark (ceilDiv x.l 8) with
      | (s, b) => (s, (List.range x.l).map fun t => (bit (b.getD (t / 8) (0, false)).1 (t % 8), (b.getD (t / 8) (0, false)).2)))
    else (s, List.replicate x.l (false, false))
  let w := (stFmt r.fmt).width
  let (s, init) := if r.initV then
      (match s.readBytes (viaSc v.cl c.tenant c.part) r.init r.bytes with
      | (s, b) => (s, unpack w r.width b))
    else (s, List.replicate r.width (0, false))
  (s, ⟨as, vs, ms, init, carry⟩)

/-- Execute a dispatched SCAN or CONVOLVE up to its commit, which the result carries out (R279, R287, R290 to R292). `stop` says that an access failed: after how many rows of output; `race` that the commit will find NEXT_SEQ changed. -/
def State.scExecute (s : State) (q : QCmd) (cluster : Nat) (stop : Option Nat) (race : Bool) : State :=
  let c := q.cmd
  let x := scD c.desc
  let n := c.tenant
  let v := s.viaCmd c
  let r := s.stRec n x.stream
  let res := if x.needs then s.scFind cluster n x.stream else none
  let carry := match res with
    | some y => y.els
    | none => []
  let s := match res with
    | some y => s.scUse y y.els
    | none => s
  let (s, use) : State × Option ScaleUse := if x.writes && x.out == 0 then
      (match s.scaleStart v x.scale .s8 with
      | (s, u) => (s, some u))
    else (s, none)
  let (s, i) := s.scRead v c x r carry
  let els := (List.range r.width).map fun e => scElem x r i e
  let none_ : ScEl := ⟨[], 0, ⟨false, false⟩, .nan⟩
  let of := scFmt x.out
  let e := (use.map (·.e)).getD 0
  let tr := x.trunc || (use.map (·.trunc)).getD false
  let rp := (use.map (·.psn)).getD false
  let free := s.free
  let rows := match stop with
    | some k => min k x.l
    | none => x.l
  let outs := if !x.writes then [] else (List.range rows).map fun t => (List.range r.width).map fun k =>
    let h := (els.getD k none_).h.getD t (.nan, ⟨false, false⟩)
    if h.2.psn || rp then { outPoison of (free + t * r.width + k) with fmt := !h.2.data && !rp } else outEl of tr e h.1
  let state := (List.range r.width).map fun k =>
    let z := els.getD k none_
    if z.mark.psn then ((Config.freeValue (free + x.l * r.width + k)).toNat % 2 ^ (stFmt r.fmt).width, true) else (z.raw, false)
  let s := { s with free := free + (x.l + 1) * r.width }
  let s := (List.range outs.length).foldl (fun s t =>
    let row := outs.getD t []
    let s := s.writeBytes v (x.o + t * of.stride r.width) (packRow of (row.map OutEl.byte))
    if of.isBlock then s.writeBytes v (x.o + x.l * of.stride r.width + t * ceilDiv r.width 32) (List.replicate (ceilDiv r.width 32) (unsgn 8 e, false)) else s) s
  let all := outs.flatten
  let race := race && x.op == 0 && stop.isNone
  let fault := stop.isSome || race
  let commits : Bool := !fault && (x.op == 0 || x.install)
  let nOut := (all.filter (·.psn)).length
  let nSt := if commits then (state.filter (·.2)).length else 0
  let marked := (i.mark.filter (·.1)).length
  let bad := (i.a ++ i.v).foldl (fun m row => m + (row.ex.filter fun b => row.fmt.isBlock && decide (120 < sgn 8 b.1)).length) 0
  let data := anyPsn all || (commits && els.any (·.mark.data))
  let dec := decayExp (r.fmt == 0) els
  let short : Bool := x.op == 1 && x.base == 0 && decide (dec < 24)
  s.startQ
    { cmd := c, unit := cluster, status := worst fault data (decide (0 < bad))
      detail := if race then 0x0C2 else b2n (decide (0 < marked)) + 2 * b2n (all.any (·.clip)) + 8 * b2n q.fault + 16 * b2n short + 32 * b2n (decide (0 < nSt))
      value := if x.op = 1 then dec else min (if x.out = 3 then nSt else nOut) (2 ^ 31 - 1)
      scale := if fault then [] else (use.map fun u => u.finish (obsAll all)).getD []
      assay := if x.writes then assayAll (assaySet n x.tag) all else none
      bumps := [(A.SC_ELEM_STEPS cluster n, r.width * x.l), (A.SC_RESET_MARKS cluster n, marked), (A.SC_FORMAT_COUNT cluster n, bad),
        (A.SC_POISON_COUNT cluster n, b2n (!fault && decide (0 < nOut + nSt))), (A.SC_WINDOW_SHORT cluster n, b2n short), (A.SC_FAULT_COUNT cluster n, b2n fault)]
      tiles := [], link := 0
      commit := if commits then some ⟨n, x.stream, if x.op = 0 then some ((x.seq + 1) % 2 ^ 64) else none, some state⟩ else none }

/-- How long a command has been set aside since it last was, in nanoseconds. -/
def State.asideNs (s : State) (q : QCmd) : Nat := (s.now + 1 - q.since) / 256

/-- Set a command aside (R280, R313): when, and for one ahead of sequence when it first was. -/
def State.setAside (s : State) (q : QCmd) (why : Nat) : State :=
  s.setQ { q with aside := why, since := s.now + 1, first := if why = 1 ∧ q.first = 0 then s.now + 1 else q.first, hold := .none }

/-- Make room in a store for a command's state and go on (R283): it waits while a state that must leave cannot be saved yet, and ends with FAULT when a save fails (R292). -/
def State.scRoom (s : State) (q : QCmd) (cluster need : Nat) (limit : Bool) (k : State → State) : State :=
  match s.scMake cluster q.cmd.part q.cmd.tenant need with
  | (s, .ready) => k s
  | (s, .fail) => s.scFault q cluster 0x0C1
  | (s, .wait r) => s.pass q (viaSc cluster q.cmd.tenant q.cmd.part) r limit false (fun s => s.scFault q cluster 0x0C1)
      fun f s => if f then s.scFault q cluster 0x0C1 else s

/-- Has a record's resident state been lost (R284)? -/
def State.scLost (s : State) (n va : Nat) (r : StRec) : Bool := r.epoch != s.scEpoch r.cluster || (s.scFind r.cluster n va).isNone

/-- Ask another engine to save a stream's state (R280). -/
def State.askSave (s : State) (cluster n va : Nat) : State :=
  if s.sc.saves.contains (cluster, n, va) then s else { s with sc := { s.sc with saves := s.sc.saves ++ [(cluster, n, va)] } }

/-- The residency step (R280 step 3, R282, R284); `k` goes on when the state is here. -/
def State.scResidency (s : State) (q : QCmd) (cluster : Nat) (limit : Bool) (k : State → State) : State :=
  let x := scD q.cmd.desc
  let n := q.cmd.tenant
  let r := s.stRec n x.stream
  if r.resident then
    if s.scLost n x.stream r then
      s.scRoom q cluster r.units limit fun s =>
        k ((s.count (A.SC_STATE_LOST cluster n) 1).scClaim cluster q.cmd.part n x.stream (List.replicate r.width (0, true)) r.units)
    else if r.cluster = cluster then k s
    else (s.askSave r.cluster n x.stream).setAside q 2
  else
    -- a state fault (R282)
    let s := s.count (A.SC_STATE_FAULT cluster n) 1
    let f := pnat (s.readHome n (x.stream + 36) 4) 0 4
    let s := s.writeBytes (viaSc cluster n q.cmd.part) (x.stream + 36) (clean (natLe 4 (satAdd 32 f 1)))
    s.setAside { q with fault := true } 3

/-- Validate a Scan command (R274, R280 step 1) and go on with its record and whether an access has been refused: INVALID comes before the FAULT of a poisoned record (R14, R291). -/
def State.scCheck (s : State) (q : QCmd) (cluster : Nat) (limit : Bool) (k : StRec → Bool → State → State) : State :=
  let c := q.cmd
  let x := scD c.desc
  let v := s.viaCmd c
  let inv (d : Nat) (s : State) : State := s.scPlain q cluster stInvalid d 0 []
  if scReserved c.desc then inv 1 s
  else if !x.lenOk then inv 2 s
  else s.pass q v (s.reach v x.stream 64 true locLocal) limit false (fun s => inv ((s.scRecords c cluster (s.stRec c.tenant x.stream)).getD 5) s) fun f s =>
    let r := s.stSeen c.tenant x.stream f
    match s.scRecords c cluster r with
    | some d => inv d s
    | none =>
      s.pass q v (s.scReach v x r) limit f (inv 5) fun f s =>
        match if f then (if 33 ≤ x.tag then some 0x0F1 else none) else s.scScales c with
        | some d => inv d s
        | none => if r.psn then s.scFault q cluster (if f then 0 else 0x0C0) else k r f s

/-- Dispatch a SCAN or CONVOLVE (R280): validation, the sequence check, residency, execution. A command set aside comes back here, so that its sequence is checked again once its state is resident (step 4). -/
def State.scDispatch (s : State) (q : QCmd) (cluster : Nat) (stop : Option Nat) (race : Bool) : State :=
  s.scCheck q cluster stop.isSome fun r f s =>
    let x := scD q.cmd.desc
    let n := q.cmd.tenant
    let d := seqAhead x.seq r.next
    if x.sequenced && d != 0 then
      if d < 2 ^ 63 then (if q.first = 0 then s.count (A.SC_ORDER_WAIT cluster n) 1 else s).setAside q 1
      else s.scPlain q cluster stInvalid 0x00A 0 [(A.SC_SEQ_REJECT cluster n, 1)]
    else if f then s.scFault q cluster 0
    else if x.needs then s.scResidency q cluster stop.isSome fun s => s.scExecute q cluster stop race
    else s.scExecute q cluster stop race

/-- SCAN (R277, R280): the Scan engine of a cluster dispatches its next command when it is a SCAN. `stop` says that an array access got an error response or reached its stall limit, after how many rows of output; `race` that NEXT_SEQ was changed by another requester before the commit (R279). -/
def execScan (cluster : Nat) (stop : Option Nat) (race : Bool) (s : State) : Out :=
  engStart 2 cluster (fun d => bits (field d 0 1) 1 0 == 0 || bits (field d 0 1) 1 0 == 3) s fun q s => s.scDispatch q cluster stop race

/-- CONVOLVE (R286, R287). -/
def execConvolve (cluster : Nat) (stop : Option Nat) (s : State) : Out :=
  engStart 2 cluster (fun d => bits (field d 0 1) 1 0 == 1) s fun q s => s.scDispatch q cluster stop false

/-- Dispatch an EVICT (R282, R284, R289, R290): VALUE says whether it saved a state. A lost state is taken as loaded with every element poisoned, and so saved. -/
def State.evict (s : State) (q : QCmd) (cluster : Nat) (stop : Bool) : State :=
  s.scCheck q cluster stop fun r f s =>
    let x := scD q.cmd.desc
    let n := q.cmd.tenant
    let fail (s : State) : State := s.scFault q cluster 0x0C1
    if !r.resident then s.scPlain q cluster stOk 0 q.slots []
    else if f || (stop && r.cluster == cluster) then fail s
    else if s.scLost n x.stream r then
      ((s.count (A.SC_STATE_LOST cluster n) 1).scSave ⟨cluster, n, x.stream, q.cmd.part, [], List.replicate r.width (0, true)⟩).scPlain q cluster stOk 0 1 []
    else if r.cluster ≠ cluster then (s.askSave r.cluster n x.stream).setAside { q with slots := 1 } 2
    else match s.scFind cluster n x.stream with
    | none => s.scPlain q cluster stOk 0 0 []
    | some y =>
      match s.saveTry y with
      | .ready => (s.scSave y).scPlain q cluster stOk 0 1 []
      | .fail => fail s
      | .wait k => s.pass q (viaSc cluster n q.cmd.part) k stop false fail fun f s => if f then fail s else s

/-- EVICT (R282): the Scan engine of a cluster runs its next command when it is an EVICT. `stop` says that the save failed (R292). -/
def execEvict (cluster : Nat) (stop : Bool) (s : State) : Out :=
  engStart 2 cluster (fun d => bits (field d 0 1) 1 0 == 2) s fun q s => s.evict q cluster stop

/-- The time a command has waited for a save or a load (R282). -/
def State.scWaited (s : State) (q : QCmd) (cluster : Nat) : State := s.count (A.SC_STATE_WAIT cluster q.cmd.tenant) (s.asideNs q)

/-- SC_SET_ASIDE_REEXAMINE (R280, R281): a command set aside goes on when its chunk is next, fails when it has become stale, and goes on when its state has been saved. -/
def execScSetAsideReexamine (cluster idx : Nat) (s : State) : Out :=
  match (s.queueOf 2 cluster)[idx]? with
  | none => .next s
  | some q =>
    let x := scD q.cmd.desc
    let r := s.stRec q.cmd.tenant x.stream
    let d := seqAhead x.seq r.next
    if !s.isOn (16 + cluster) then .next s
    else if q.aside = 1 then
      if d = 0 then .next (s.setQ { q with aside := 0 })
      else if d < 2 ^ 63 then .next s
      else .next (s.scPlain q cluster stInvalid 0x00A 0 [(A.SC_SEQ_REJECT cluster q.cmd.tenant, 1)])
    else if q.aside = 2 ∧ !r.resident then .next ((s.scWaited q cluster).setQ { q with aside := 0 })
    else .next s

/-- A limit register in microseconds: 0 selects 1,000 (R296, R335). -/
def State.limitNs (s : State) (a : Nat) : Nat := (let us := s.fget a (15, 0); if us = 0 then 1000 else us) * 1000

/-- How long it is since a command was first found ahead of sequence, in nanoseconds (R281). -/
def State.aheadNs (s : State) (q : QCmd) : Nat := (s.now + 1 - q.first) / 256

/-- SC_ORDER_LIMIT_EXPIRY (R281): a command still ahead of sequence when SC_ORDER_LIMIT has passed fails with SEQ_AHEAD. -/
def execScOrderLimitExpiry (cluster idx : Nat) (s : State) : Out :=
  match (s.queueOf 2 cluster)[idx]? with
  | none => .next s
  | some q =>
    let x := scD q.cmd.desc
    let d := seqAhead x.seq (s.stRec q.cmd.tenant x.stream).next
    if q.aside = 1 ∧ 0 < d ∧ d < 2 ^ 63 ∧ s.limitNs (A.SC_ORDER_LIMIT cluster) ≤ s.aheadNs q then .next (s.scPlain q cluster stInvalid 0x00B 0 [(A.SC_SEQ_REJECT cluster q.cmd.tenant, 1)])
    else .next s

/-- SC_STATE_SAVE_DONE (R282): a save another engine asked for is made, once no command of the stream executes in the owning engine and its record and save area can be accessed; a save that fails leaves the state where it was and ends the commands that wait for it with FAULT 0x0C1 (R292). -/
def execScStateSaveDone (idx : Nat) (fail : Bool) (s : State) : Out :=
  match s.sc.saves[idx]? with
  | none => .next s
  | some (c, n, va) =>
    let gone : State := { s with sc := { s.sc with saves := listDel s.sc.saves idx } }
    match s.scFind c n va with
    | none => .next gone
    | some y =>
      let fails : State := (s.eng.q.filter fun q => q.cmd.eng == 2 && q.aside == 2 && s.scIs y q.cmd.tenant (scD q.cmd.desc).stream).foldl (fun s q =>
        (s.scWaited q (engUnit 2 q.cmd.tile)).scFault q (engUnit 2 q.cmd.tile) 0x0C1) gone
      if s.scBusy y || !s.isOn (16 + c) then .next s
      else if fail then .next fails
      else match s.saveTry y with
      | .ready => .next (gone.scSave y)
      | .fail => .next fails
      | e => .next (s.saveTouch e)

/-- SC_STATE_LOAD_DONE (R280 step 3, R283): the load of a set-aside command's state ends: the state is in the store, WHERE is claimed, and the command dispatches again. It waits while the save area cannot be accessed or room cannot be made. Should another command have claimed the stream meanwhile, the command examines residency again. -/
def execScStateLoadDone (cluster idx : Nat) (fail : Bool) (s : State) : Out :=
  match (s.queueOf 2 cluster)[idx]? with
  | none => .next s
  | some q =>
    if q.aside ≠ 3 ∨ !s.isOn (16 + cluster) then .next s
    else
      let x := scD q.cmd.desc
      let n := q.cmd.tenant
      let r := s.stRec n x.stream
      let v := viaSc cluster n q.cmd.part
      let fails : State := (s.scWaited q cluster).scFault q cluster 0x0C1
      if fail then .next fails
      else if r.resident then .next ((s.scWaited q cluster).setQ { q with aside := 0 })
      else match s.gate v .none ((s.reach v x.stream 64 true locLocal).and (s.reach v r.save r.bytes true locLocal)) false with
      | (s, .wait, _) => .next s
      | (_, .go false, _) =>
        (match s.scMake cluster q.cmd.part n r.units with
        | (s, .ready) =>
          (match s.readBytes v r.save r.bytes with
          | (s, b) => .next (((s.scWaited q cluster).scClaim cluster q.cmd.part n x.stream (unpack (stFmt r.fmt).width r.width b) r.units).setQ { q with aside := 0 }))
        | (s, .fail) => .next ((s.scWaited q cluster).scFault q cluster 0x0C1)
        | (s, e) => .next (s.saveTouch e))
      | _ => .next fails

/-- A command's commit is turned away: it ends with FAULT and its outputs stay (R279, R292). -/
def Run.uncommitted (r : Run) (cluster detail : Nat) : Run :=
  let n := r.cmd.tenant
  { r with status := stFault, detail := detail, scale := [], commit := none
           value := if (scD r.cmd.desc).op = 0 ∧ (scD r.cmd.desc).out = 3 then 0 else r.value
           bumps := r.bumps.filter (fun b => b.1 != A.SC_POISON_COUNT cluster n) ++ [(A.SC_FAULT_COUNT cluster n, 1)] }

/-- Commit a Scan command (R279, R287): NEXT_SEQ is raised by compare-and-swap, then the carried state replaces the resident one. Answers the run that returns, or none while the record cannot be accessed. -/
def State.scCommit (s : State) (r : Run) (cluster : Nat) : State × Option Run :=
  match r.commit with
  | none => (s, some r)
  | some m =>
    let v := viaSc cluster m.tenant r.cmd.part
    match s.gate v .none (s.reach v m.va 64 true locLocal) false with
    | (s, .wait, _) => (s, none)
    | (s, .go false, _) =>
      let cur := (s.stRec m.tenant m.va).next
      if m.next.any fun k => k != (cur + 1) % 2 ^ 64 then (s, some (r.uncommitted cluster 0x0C2))
      else
        let s := match m.next with
          | some k => s.writeBytes v (m.va + 8) (clean (natLe 8 k))
          | none => s
        let s := match s.scFind cluster m.tenant m.va, m.els with
          | some y, some els => s.scUse y els
          | _, _ => s
        (s, some r)
    | (s, _, _) => (s, some (r.uncommitted cluster 0))

/-- SC_RESULT (R279, R290, R295): the running Scan command commits and returns. -/
def execScResult (cluster cycles ns : Nat) (s : State) : Out :=
  match s.running 2 cluster with
  | none => .next s
  | some r =>
    if !s.resultReady r then .next s
    else match s.scCommit r cluster with
    | (s, none) => .next s
    | (s, some r) =>
      let n := r.cmd.tenant
      let overran := overrun (s.fget (A.SC_NP_LIMIT cluster) F.SC_NP_LIMIT_NS) (s.clkLevel cluster) ns && r.status != stInvalid
      let s := (s.count (A.SC_CMD_COUNT cluster n) 1).count (A.SC_BUSY_CYCLES cluster n) cycles
      let s := if overran then (s.count (A.SC_NP_OVERRUN cluster n) 1).fsrOverrun r.cmd (16 + cluster) cluster else s
      .next (s.endRun { r with detail := r.detail + (if 64 ≤ r.detail then 0 else 4 * b2n overran) })

end Sys2Proof.Machine
end

