-- ==== Sys2Proof/Machine/Conv.lean ====
section
/-!
DEFINITION. The Convolution engine and the Stem engine: descriptors, geometry, compressed rows, halos, and the two commands (R297 to R327).
-/
namespace Sys2Proof.Machine

/-! ### Descriptor and extension record (R306, R307, R324) -/

/-- The fields of a Convolution or Stem descriptor with its extension record. `inK` is 0 S4, 1 S8, 2 T16, 3 to 6 RAW8 to RAW14; `wK` and `outK` 0 S4, 1 S8, 2 T16. -/
structure CvD where
  stem : Bool
  inK : Nat
  wK : Nat
  outK : Nat
  trunc : Bool
  padConst : Bool
  inComp : Nat
  outComp : Nat
  bias : Bool
  kh : Nat
  kw : Nat
  sh : Nat
  sw : Nat
  dh : Nat
  dw : Nat
  accFirst : Nat
  accCount : Nat
  act : Nat
  tag : Nat
  inH : Nat
  inW : Nat
  cin : Nat
  cout : Nat
  padT : Nat
  padB : Nat
  padL : Nat
  padR : Nat
  groups : Nat
  rowFirst : Nat
  rowCount : Nat
  e : Int
  inA : Nat
  wA : Nat
  outA : Nat
  extA : Nat
  biasA : Nat
  scale : Nat
  inX : Int
  wX : Int
  outX : Int
  padVal : Nat
  padExp : Int
  mask : Nat
  recvTop : Nat
  recvBot : Nat
  sendUp : Nat
  sendDown : Nat
  upC : Nat
  downC : Nat
  seqIn : Nat
  seqOut : Nat
  deriving DecidableEq, Repr

/-- Read a descriptor with its extension record's bytes. -/
def cvD (stem : Bool) (d x : List Nat) : CvD :=
  let f := field d 0 1
  let m := field d 1 1
  let a := field d 6 1
  let si := bits f 2 0
  { stem := stem
    inK := if stem then (if si ≤ 3 then si + 3 else si - 3) else bits f 1 0
    wK := if stem then 1 + bits f 3 3 else bits f 3 2
    outK := if stem then 1 + bits f 4 4 else bits f 5 4
    trunc := if stem then bit f 5 else bit f 6
    padConst := bit m 0, inComp := bits m 2 1, outComp := bits m 4 3, bias := bit m 5
    kh := bits (field d 2 1) 3 0, kw := bits (field d 2 1) 7 4, sh := bits (field d 3 1) 3 0, sw := bits (field d 3 1) 7 4
    dh := field d 4 1, dw := field d 5 1, accFirst := bits a 1 0, accCount := bits a 4 2, act := bits a 7 5
    tag := bits (field d 7 1) 5 0, inH := field d 8 2, inW := field d 10 2, cin := field d 12 2, cout := field d 14 2
    padT := field d 16 2, padB := field d 18 2, padL := field d 20 2, padR := field d 22 2, groups := field d 24 2
    rowFirst := field d 26 2, rowCount := field d 28 2, e := sgn 16 (field d 30 2)
    inA := field d 32 8, wA := field d 40 8, outA := field d 48 8, extA := field d 56 8
    biasA := field x 0 8, scale := field x 8 8, inX := sgn 32 (field x 16 4), wX := sgn 32 (field x 20 4), outX := sgn 32 (field x 24 4)
    padVal := field x 28 2, padExp := sgn 8 (field x 30 1), mask := field x 31 1
    recvTop := bits (field x 32 1) 3 0, recvBot := bits (field x 32 1) 7 4, sendUp := bits (field x 33 1) 3 0, sendDown := bits (field x 33 1) 7 4
    upC := bits (field x 34 1) 3 0, downC := bits (field x 34 1) 7 4, seqIn := field x 36 2, seqOut := field x 38 2 }

/-- The format of an input, weight or output kind; RAW kinds have no element format. -/
def cvFmt (k : Nat) : NFmt := if k = 0 then .s4 else if k = 1 then .s8 else .t16
/-- Is the input RAW (R325)? -/
def CvD.raw (x : CvD) : Bool := decide (3 ≤ x.inK)
/-- Do the accumulators hold I32 (R303, R325)? -/
def CvD.int (x : CvD) : Bool := x.inK != 2 && x.wK != 2
/-- Is the output a block format? -/
def CvD.scaled (x : CvD) : Bool := decide (x.outK ≤ 1)

/-- A reserved encoding or a non-zero reserved bit in descriptor or extension record: DETAIL 0x001. -/
def cvReserved (x : CvD) (d e : List Nat) : Bool :=
  (if x.stem then decide (6 ≤ bits (field d 0 1) 2 0) || bits (field d 0 1) 7 6 != 0
   else bit (field d 0 1) 7 || x.inK == 3 || x.wK == 3 || x.outK == 3) ||
  bits (field d 1 1) 7 6 != 0 || x.inComp == 3 || x.outComp == 3 || decide (5 ≤ x.act) || bits (field d 7 1) 7 6 != 0 ||
  (!x.stem && (x.accCount == 0 || decide (5 ≤ x.accCount))) ||
  bits x.padT 15 10 != 0 || bits x.padB 15 10 != 0 || bits x.padL 15 10 != 0 || bits x.padR 15 10 != 0 ||
  !zeroBytes e 35 1 || !zeroBytes e 40 24 ||
  (x.padConst && (if x.inK = 0 then decide (16 ≤ x.padVal) else if x.inK = 1 then decide (256 ≤ x.padVal) else false)) ||
  (x.padConst && decide (x.inK ≤ 1) && decide (120 < x.padExp)) || (x.raw && decide (120 < x.padExp))

/-! ### Geometry (R299, R302, R305) -/

/-- Height of the virtual input. -/
def CvD.vH (x : CvD) : Nat := x.recvTop + x.inH + x.recvBot
/-- One output dimension (R299): a negative result counts as 0. -/
def outDim (pad0 n pad1 dil k st : Nat) : Nat :=
  let m : Int := (pad0 + n + pad1 : Nat) - (dil * (k - 1) : Nat) - 1
  if m < 0 then 0 else m.toNat / st + 1
/-- OUT_H (R299). -/
def CvD.outH (x : CvD) : Nat := outDim x.padT x.vH x.padB x.dh x.kh x.sh
/-- OUT_W (R299). -/
def CvD.outW (x : CvD) : Nat := outDim x.padL x.inW x.padR x.dw x.kw x.sw

/-- Input channels of a group. -/
def CvD.gi (x : CvD) : Nat := x.cin / x.groups
/-- Output channels of a group. -/
def CvD.go (x : CvD) : Nat := x.cout / x.groups
/-- Which mapping applies (R302): 0 dense, 1 grouped, 2 diagonal. -/
def CvD.mapping (x : CvD) : Option Nat :=
  if x.groups = 0 ∨ x.cin % x.groups ≠ 0 ∨ x.cout % x.groups ≠ 0 then none
  else if x.groups = 1 then some 0
  else if x.gi % 32 = 0 ∧ x.go % 32 = 0 then some 1
  else if x.gi = x.go ∧ [1, 2, 4, 8, 16].contains x.gi then some 2
  else none
/-- The channel span of a weight row (R302). -/
def CvD.ck (x : CvD) : Nat :=
  match x.mapping with
  | some 0 => ceilDiv x.cin 32 * 32
  | some 1 => x.gi
  | _ => 32
/-- The first input channel of the span of output channel `o`. -/
def CvD.chan0 (x : CvD) (o : Nat) : Nat :=
  match x.mapping with
  | some 0 => 0
  | some 1 => o / x.go * x.gi
  | _ => o / 32 * 32
/-- Weights of one row. -/
def CvD.k (x : CvD) : Nat := if x.stem then x.kh * x.kw * x.cin else x.kh * x.kw * x.ck

/-- Elements of one stored input position. -/
def CvD.pitch (x : CvD) : Nat := if x.stem then x.cin else ceilDiv x.cin 32 * 32
/-- Elements of a stored input row (R298, R325). -/
def CvD.inL (x : CvD) : Nat := x.inW * x.pitch
/-- Elements of a stored output row (R298). -/
def CvD.outL (x : CvD) : Nat := x.outW * (ceilDiv x.cout 32 * 32)

/-- Bytes of a compressed block (R315). -/
def compBlock (k comp : Nat) : Nat := if k = 1 then (if comp = 1 then 32 else 16) else (if comp = 1 then 64 else 32)
/-- Code width of a compressed block (R315). -/
def compBits (k comp : Nat) : Nat := if k = 1 then (if comp = 1 then 3 else 1) else (if comp = 1 then 7 else 3)
/-- Stride of a stored row of `l` elements (R218, R318, R325). -/
def rowStride (k comp l : Nat) : Nat :=
  if k = 3 then ceilDiv l 64 * 64
  else if 4 ≤ k then ceilDiv (2 * l) 64 * 64
  else if comp = 0 then (cvFmt k).stride l
  else ceilDiv (ceilDiv l 64 * compBlock k comp) 64 * 64
/-- Exponent bytes of a stored row. -/
def rowExps (k comp l : Nat) : Nat := if comp = 0 ∧ k ≤ 1 then ceilDiv l 32 else 0
/-- Stored size of a row: elements and exponents. -/
def rowSize (k comp l : Nat) : Nat := rowStride k comp l + rowExps k comp l

/-- The virtual input row that tap row `i` of output row `r` reads, if it is not padding. -/
def CvD.vRow (x : CvD) (r i : Nat) : Option Nat :=
  let y := r * x.sh + i * x.dh
  if x.padT ≤ y ∧ y - x.padT < x.vH then some (y - x.padT) else none
/-- The input column that tap column `j` of output column `c` reads, if it is not padding. -/
def CvD.vCol (x : CvD) (c j : Nat) : Option Nat :=
  let y := c * x.sw + j * x.dw
  if x.padL ≤ y ∧ y - x.padL < x.inW then some (y - x.padL) else none
/-- The output rows of the command. -/
def CvD.rows (x : CvD) : List Nat := (List.range x.rowCount).map fun k => x.rowFirst + k
/-- The virtual rows some output rows read, rising. -/
def CvD.needRows (x : CvD) (rs : List Nat) : List Nat :=
  (List.range x.vH).filter fun v => rs.any fun r => (List.range x.kh).any fun i => x.vRow r i == some v

/-- Is the command pointwise (R305): one tap lies inside at every output position and every other in padding at every position? -/
def CvD.pointwise (x : CvD) : Bool :=
  let cols := List.range x.outW
  let allIn (i j : Nat) : Bool := (x.rows.all fun r => (x.vRow r i).isSome) && cols.all fun c => (x.vCol c j).isSome
  let allOut (i j : Nat) : Bool := (x.rows.all fun r => (x.vRow r i).isNone) || cols.all fun c => (x.vCol c j).isNone
  let taps := (List.range x.kh).flatMap fun i => (List.range x.kw).map fun j => (i, j)
  taps.any fun t => allIn t.1 t.2 && taps.all fun u => u == t || allOut u.1 u.2

/-! ### Validation (R308, R324) -/

/-- Ranges: DETAIL 0x002. -/
def cvRange (x : CvD) : Bool :=
  x.kh == 0 || x.kw == 0 || x.sh == 0 || decide (8 < x.sh) || x.sw == 0 || decide (8 < x.sw) || x.dh == 0 || decide (64 < x.dh) || x.dw == 0 || decide (64 < x.dw) ||
  x.inW == 0 || decide (8192 < x.inW) || x.cin == 0 || decide (8192 < x.cin) || decide (8192 < x.cout) || x.groups == 0 || decide (8192 < x.groups) ||
  decide (8 < x.recvTop) || decide (8 < x.recvBot) || decide (8 < x.sendUp) || decide (8 < x.sendDown) ||
  decide (x.e < -512) || decide (511 < x.e) || (!x.int && x.e != 0) ||
  (x.stem && (x.inComp != 0 || x.accFirst != 0 || x.accCount != 0 || x.groups != 1 || x.mask != 0 || x.recvTop != 0 || x.recvBot != 0 ||
    x.sendUp != 0 || x.sendDown != 0 || x.upC != 0 || x.downC != 0 ||
    !((decide (x.cin ≤ 8) && decide (x.cout ≤ 64)) || (decide (x.cout ≤ 8) && decide (x.cin ≤ 256)))))

/-- The alignment of a stored array. -/
def arrAlign (k comp : Nat) : Nat := if 3 ≤ k ∨ comp ≠ 0 then 64 else (cvFmt k).align

/-- Misalignment: DETAIL 0x005. -/
def CvD.misaligned (x : CvD) : Bool :=
  x.extA % 64 != 0 || x.inA % arrAlign x.inK x.inComp != 0 || x.wA % (cvFmt x.wK).align != 0 || x.outA % arrAlign x.outK x.outComp != 0 ||
  (x.bias && x.biasA % 4 != 0)

/-- Rows of the input array a command reads: the first and how many. -/
def CvD.inSpan (x : CvD) : Nat × Nat :=
  let l := (x.needRows x.rows).filter fun v => decide (x.recvTop ≤ v) && decide (v < x.recvTop + x.inH)
  match l with
  | [] => (0, 0)
  | a :: _ => (a - x.recvTop, l.getLastD a - a + 1)

/-- Reach of some exponents behind an array (R219): an offset that leads below address 0 reaches nothing. -/
def State.reachOff (s : State) (v : Via) (a : Nat) (x : Int) (first n : Nat) (wr : Bool) : Reach :=
  if n = 0 then .ok []
  else if (a : Int) + x < 0 then .bad
  else s.reach v (addOff a x + first) n wr locLocal

/-- Reachability of the arrays: DETAIL 0x006. -/
def State.cvReach (s : State) (v : Via) (x : CvD) : Reach :=
  let (r0, rn) := x.inSpan
  let st := rowStride x.inK x.inComp x.inL
  let ex := rowExps x.inK x.inComp x.inL
  let inp := (s.reach v (x.inA + r0 * st) (rn * st) false locLocal).and (s.reachOff v x.inA x.inX (r0 * ex) (rn * ex) false)
  let so := rowStride x.outK x.outComp x.outL
  let eo := rowExps x.outK x.outComp x.outL
  let out := (s.reach v (x.outA + x.rowFirst * so) (x.rowCount * so) true locLocal).and (s.reachOff v x.outA x.outX (x.rowFirst * eo) (x.rowCount * eo) true)
  let w := s.reachRows v (cvFmt x.wK) x.wA x.wX x.cout x.k false
  let b := if x.bias then s.reach v x.biasA (4 * x.cout) false locLocal else .ok []
  let sc := if x.scaled then s.reach v x.scale 32 true locLocal else .ok []
  ((inp.and out).and w).and (b.and sc)

/-- The tiles a command names (R300). -/
def CvD.tiles (x : CvD) (cluster : Nat) : List Nat := (bitsOf 8 x.mask).map fun i => 8 * cluster + i

/-- May the partition use halos of the command (R311)? -/
def State.haloOk (s : State) (x : CvD) (part cluster : Nat) : Bool :=
  let owns (c : Nat) : Bool := (List.range 8).all fun i => (s.tilePart (8 * c + i)).any fun e => e.id == part
  let uses := x.recvTop != 0 || x.recvBot != 0 || x.sendUp != 0 || x.sendDown != 0
  let size := rowSize x.outK x.outComp x.outL
  let inSize := rowSize x.inK x.inComp x.inL
  (!uses || owns cluster) && (x.sendUp == 0 || (owns x.upC && decide (size ≤ 131072) && decide (x.sendUp ≤ x.outH))) &&
  (x.sendDown == 0 || (owns x.downC && decide (size ≤ 131072) && decide (x.sendDown ≤ x.outH))) &&
  ((x.recvTop == 0 && x.recvBot == 0) || decide (inSize ≤ 131072)) && (x.sendUp != 0 || x.upC == 0) && (x.sendDown != 0 || x.downC == 0)

/-- The Stem engine's own activation table `i` (R324, R336). -/
def State.stemTab (s : State) (i : Nat) : ActTab :=
  let n := if s.flag (A.ST_ACT_CFG i) F.ST_ACT_CFG_SEGS then 16 else 8
  ⟨n, (List.range (n - 1)).map fun j => (s.rd (A.ST_ACT_BP i j)).toNat, (List.range n).map fun j => (s.rd (A.ST_ACT_SLOPE i j)).toNat,
   (List.range n).map fun j => (s.rd (A.ST_ACT_ICPT i j)).toNat⟩

/-- Validation of R308 in order up to DETAIL 0x00B, once the extension record has been read. -/
def State.cvValidate (s : State) (v : Via) (c : Cmd) (x : CvD) (ext : List Nat) (cluster : Nat) : Option Nat :=
  let extBad : Bool := match s.reach v x.extA 64 false locLocal with
    | .bad => true
    | _ => false
  if cvReserved x c.desc (if extBad then [] else ext) then some 1
  else if cvRange x then some 2
  else if x.mapping.isNone then some 3
  else if !x.stem && decide (4 < x.accFirst + x.accCount) then some 4
  else if x.misaligned then some 5
  else if extBad || (match s.cvReach v x with
      | .bad => true
      | _ => false) then some 6
  else if (x.inK = 0 ∧ x.inComp ≠ 0) ∨ (x.outK = 0 ∧ x.outComp ≠ 0) ∨ ((2 ≤ x.inK ∨ x.inComp ≠ 0) ∧ x.inX ≠ 0) ∨ (x.wK = 2 ∧ x.wX ≠ 0) ∨
      ((x.outK = 2 ∨ x.outComp ≠ 0) ∧ x.outX ≠ 0) then some 7
  else if (if x.stem then 524288 else 786432) < x.kh * rowSize x.inK x.inComp x.inL then some 8
  else if !x.stem && !s.haloOk x c.part cluster then some 9
  else if !x.stem && (x.mask == 0 || (x.tiles cluster).any fun t => !(s.tilePart t).any fun e => e.id == c.part) then some 10
  else if x.act != 0 && (if x.stem then !(s.stemTab (x.act - 1)).valid else (x.tiles cluster).any fun t => !(s.actTab t (x.act - 1)).valid) then some 11
  else none

/-- The rest of R308, which reads the scale record unless its access was refused: DETAIL 0x00C to 0x0F1. -/
def State.cvScales (s : State) (v : Via) (x : CvD) (refused : Bool) : Option Nat :=
  let scale := (s.scaleStart v x.scale (cvFmt x.outK)).2
  let look := x.scaled && !refused
  if look && !scale.psn && scale.format != (if x.outK = 0 then 1 else 0) then some 12
  else if x.outH < x.rowFirst + x.rowCount then some 13
  else if look && !scale.valid then some 0x0F0
  else if 33 ≤ x.tag then some 0x0F1
  else none

/-! ### Input rows (R298, R317, R325) -/

/-- An input element: its exact value, its poison, and whether its block has a reserved exponent. -/
abbrev IEl := FVal × Bool × Bool

/-- Decode a compressed block (R317) of format `k`. -/
def compDecode (k comp : Nat) (b : List PByte) : List IEl :=
  let e := sgn 8 (pnat b 0 1)
  let fl := pnat b 7 1
  let w := compBits k comp
  let code := pnat b 8 (8 * w)
  let hp := ppsn b 0 8
  let bad := decide (120 < e) || decide (2 ≤ fl)
  (List.range 64).map fun j =>
    let q := j / 16
    let sh := bits (pnat b (1 + q / 2) 1) (4 * (q % 2) + 3) (4 * (q % 2))
    let c := bits code (j * w + w - 1) (j * w)
    let m : Int := if bit fl 0 then 0 else sgn 8 (pnat b (3 + q) 1) + (c * 2 ^ sh : Nat)
    let v := if k = 1 then FVal.ofInt false (clampI (-128) 127 m) e
      else fmtT16.dec (fmtT16.enc false true (FVal.ofInt false m e))
    let o := 8 + j * w / 8
    (v, hp || ppsn b o ((j * w + w - 1) / 8 - j * w / 8 + 1), bad)

/-- The elements of a stored row from its bytes and exponent bytes. -/
def decodeRow (x : CvD) (bs ex : List PByte) : List IEl :=
  let l := x.inL
  if x.inK = 3 then (List.range l).map fun j =>
    let b := bs.getD j (0, false)
    (FVal.fin false b.1 x.padExp, b.2, false)
  else if 4 ≤ x.inK then (List.range l).map fun j =>
    let v := pnat bs (2 * j) 2
    let w := if x.inK = 4 then 10 else if x.inK = 5 then 12 else 14
    (FVal.fin false (v % 2 ^ w) x.padExp, ppsn bs (2 * j) 2 || decide (2 ^ w ≤ v), false)
  else if x.inComp = 0 then
    let f := cvFmt x.inK
    let r : NRow := ⟨f, unpack f.width l bs, if f.isBlock then ex else []⟩
    (List.range l).map fun j => (r.val j, r.psnAt j, r.badBlk (j / 32))
  else
    let n := compBlock x.inK x.inComp
    ((List.range (ceilDiv l 64)).flatMap fun q => compDecode x.inK x.inComp ((bs.drop (q * n)).take n)).take l

/-- Read virtual row `vr` of a command (R299): a halo row from its channel, else the input array's. -/
def State.cvRow (s : State) (v : Via) (x : CvD) (halo : List HaloRow) (vr : Nat) : State × List IEl :=
  let st := rowStride x.inK x.inComp x.inL
  let ex := rowExps x.inK x.inComp x.inL
  if vr < x.recvTop ∨ x.recvTop + x.inH ≤ vr then
    let top := decide (vr < x.recvTop)
    let idx := if top then vr else vr - x.recvTop - x.inH
    match halo.find? fun h => h.above == top && h.idx == idx with
    | some h => (s, decodeRow x (h.data.take st) (h.data.drop st))
    | none => (s, [])
  else
    let r := vr - x.recvTop
    match s.readBytes v (x.inA + r * st) st with
    | (s, bs) =>
      match s.readBytes v (addOff x.inA x.inX + r * ex) ex with
      | (s, es) => (s, decodeRow x bs es)

/-! ### Accumulation (R303, R304, R325) -/

/-- What a command reads. -/
structure CvIn where
  rows : Tab (List IEl)
  w : List NRow
  bias : List PByte
  padPsn : Bool
  use : Option ScaleUse
  deriving DecidableEq, Repr

/-- The pad element's value (R304, R307). -/
def CvD.pad (x : CvD) : FVal := if x.raw then .fin false x.padVal x.padExp else (cvFmt x.inK).val x.padExp x.padVal

/-- One element of a window against its weight: input value (none when padding contributes nothing), weight value, poison, reserved exponent. -/
abbrev WEl := Option FVal × FVal × Bool × Bool

/-- The input element at virtual row, column and channel. -/
def CvIn.at_ (i : CvIn) (x : CvD) (vr vc ch : Nat) : IEl := (Tab.get i.rows [] vr).getD (vc * x.pitch + ch) (.nan, true, false)

/-- The blocks of 32 products of one output element, in the order of R303 (of R325 for the Stem engine). A padding block of PAD_MODE zero is absent. The marks are those of the inputs and of the padding; a poisoned weight poisons its channel at every position (R320). -/
def cvBlocks (x : CvD) (i : CvIn) (r c o : Nat) : List (List WEl) :=
  let w := i.w.getD o NRow.nil
  let one (a b ch wi : Nat) : WEl :=
    match x.vRow r a, x.vCol c b with
    | some vr, some vc =>
      let e := i.at_ x vr vc ch
      (some e.1, w.val wi, e.2.1, e.2.2 || w.badBlk (wi / 32))
    | _, _ => (if x.padConst then some x.pad else none, w.val wi, x.padConst && i.padPsn, w.badBlk (wi / 32))
  if x.stem then
    (List.range (ceilDiv x.k 32)).map fun q => (List.range (blkLen x.k q)).map fun j =>
      let n := 32 * q + j
      let t := n / x.cin
      one (t / x.kw) (t % x.kw) (n % x.cin) n
  else
    let c0 := x.chan0 o
    let g := if x.groups = 1 then 0 else o / x.go
    (List.range x.kh).flatMap fun a => (List.range x.kw).flatMap fun b =>
      let inside := (x.vRow r a).isSome && (x.vCol c b).isSome
      if !inside && !x.padConst then []
      else (List.range (x.ck / 32)).map fun q => (List.range (min 32 (x.cin - c0 - 32 * q))).map fun j =>
        let ch := c0 + 32 * q + j
        let z := one a b ch ((a * x.kw + b) * x.ck + 32 * q + j)
        -- a channel outside the group carries a zero weight and no poison (R302, R320)
        if g * x.gi ≤ ch ∧ ch < (g + 1) * x.gi then z else (z.1, z.2.1, false, z.2.2.2)

/-- The exact sum of some products. -/
def exactSum (l : List WEl) : FVal := l.foldl (fun s p => match p.1 with
  | some v => s.add (v.mul p.2.1)
  | none => s) (.fin false 0 0)

/-- An exact value as an integer multiple of `2^e`, rounded (R198). -/
def toMultiple (tr : Bool) (e : Int) : FVal → Int
  | .fin s m g =>
    let a : Int := (scaleRound tr m (g - e) 0 : Nat)
    if s then -a else a
  | _ => 0

/-- Accumulate the blocks of one output element (R303): the lane and its saturated additions. -/
def cvAcc (x : CvD) (init : Lane) (bl : List (List WEl)) : Lane × Nat :=
  if x.int then
    let r := bl.foldl (fun a b => satAcc a (toMultiple x.trunc x.e (exactSum b))) (init.toInt, 0)
    (BitVec.ofInt 32 r.1, r.2)
  else
    (BitVec.ofNat 32 (toF32 (bl.foldl (fun a b => rnd (a.add (rnd (treeSum (b.map fun p => match p.1 with
      | some v => v.mul p.2.1
      | none => .fin false 0 0))))) (f32 init.toNat))), 0)

/-- The Matrix epilogue's view of the command (R309). -/
def CvD.mx (x : CvD) : MxD :=
  { afmt := if x.int then .s8 else .t16, bfmt := if x.int then .s8 else .t16, accFirst := x.accFirst, accCount := x.accCount, init := 0
    out := x.outK, trunc := x.trunc, act := x.act, m := 0, k := 0, tag := x.tag, n := 0, e := x.e, aExp := 0, aAddr := 0, bAddr := 0
    cAddr := 0, bias := 0, scale := x.scale, bExp := 0, cExp := 0 }

/-- One output element (R297, R303, R309, R320) and its saturations. -/
def cvOut (x : CvD) (i : CvIn) (tab : ActTab) (free r c o : Nat) : OutEl × Nat :=
  let bl := cvBlocks x i r c o
  let bias := i.bias.getD o (0, false)
  let psn := (x.bias && bias.2) || (i.w.getD o NRow.nil).psn || (bl.any fun b => b.any fun p => p.2.2.1) || (i.use.map (·.psn)).getD false
  let bad := bl.any fun b => b.any fun p => p.2.2.2
  if psn || bad then ({ outPoison (cvFmt x.outK) free with fmt := !psn }, 0)
  else
    let a := cvAcc x (if x.bias then BitVec.ofNat 32 bias.1 else 0) bl
    (mxEpilogue x.mx ⟨[], [], [], tab, i.use⟩ a.1, a.2)

/-- The tile that computes position `c` of the `k`-th output row of a command (R300). -/
def cvTile (x : CvD) (cluster k c : Nat) : Nat :=
  let ts := x.tiles cluster
  ts.getD ((k * ceilDiv x.outW 32 + c / 32) % max ts.length 1) 0

/-! ### Output rows (R298, R312, R315 to R319) -/

/-- Encode 64 values into a compressed block (R319). The values are integers at the block's EXP. -/
def compEncode (k comp : Nat) (e : Int) (m : List Int) : List Nat :=
  let w := compBits k comp
  if m.all fun v => v == 0 then [unsgn 8 e, 0, 0, 0, 0, 0, 0, 1] ++ List.replicate (8 * w) 0
  else
    let sub (q : Nat) : List Int := (m.drop (16 * q)).take 16
    let lo (q : Nat) : Int := clampI (-128) 127 ((sub q).foldl min ((sub q).headD 0))
    let span (q : Nat) : Nat := (((sub q).foldl max ((sub q).headD 0)) - lo q).toNat
    let sh (q : Nat) : Nat := ((List.range 16).find? fun t => decide (span q ≤ (2 ^ w - 1) * 2 ^ t)).getD 15
    let code (j : Nat) : Nat := min (shrRound false ((m.getD j 0) - lo (j / 16)).toNat (sh (j / 16))) (2 ^ w - 1)
    [unsgn 8 e, sh 0 + 16 * sh 1, sh 2 + 16 * sh 3] ++ (List.range 4).map (fun q => unsgn 8 (lo q)) ++ [0] ++
      natLe (8 * w) ((List.range 64).foldl (fun a j => a + code j * 2 ^ (j * w)) 0)

/-- Can the values of a T16 block be restated at an exponent so that BIAS and SHIFT are as R319 says: every sub-block's minimum a signed byte, its range within the widest codes? -/
def compFits (comp : Nat) (m : List Int) : Bool :=
  (List.range 4).all fun q =>
    let l := (m.drop (16 * q)).take 16
    let lo := l.foldl min (l.headD 0)
    decide (-128 ≤ lo) && decide (lo ≤ 127) && decide (l.foldl max (l.headD 0) - lo ≤ ((2 ^ compBits 2 comp - 1) * 2 ^ 15 : Nat))

/-- A T16 value as an integer multiple of `2^e`. R319 restates no infinity and no NaN: for those it is a free value (log entry 29). -/
def compInt (free : Nat) (e : Int) (raw : Nat) : Int :=
  match fmtT16.dec raw with
  | .fin b m g => toMultiple false e (.fin b m g)
  | _ => sgn 8 (Config.freeValue free).toNat

/-- The exponent of a compressed T16 block: R319 names none, so it is a free value among those at which the block can be encoded as R319 says, and 120 where there is none (log entry 29). -/
def compExp (comp free : Nat) (raws : List Nat) : Int :=
  let ok (e : Int) : Bool := compFits comp ((List.range raws.length).map fun j => compInt (free + 1 + j) e (raws.getD j 0))
  match (List.range 249).filter fun (k : Nat) => ok ((k : Int) - 128) with
  | [] => 120
  | l => ((l.getD ((Config.freeValue free).toNat % l.length) 248 : Nat) : Int) - 128

/-- The stored bytes of an output row: elements and, for an uncompressed block format, exponents. -/
def encodeRow (x : CvD) (e : Int) (free : Nat) (row : List OutEl) : List PByte × List PByte :=
  let f := cvFmt x.outK
  if x.outComp = 0 then
    (packRow f (row.map OutEl.byte), if f.isBlock then List.replicate (ceilDiv row.length 32) (unsgn 8 e, false) else [])
  else
    let n := compBlock x.outK x.outComp
    let bl := (List.range (ceilDiv row.length 64)).flatMap fun q =>
      let b := (row.drop (64 * q)).take 64
      let ex := if x.outK = 1 then e else compExp x.outComp (free + 65 * q) (b.map (·.raw))
      let m (j : Nat) : Int := let r := (b.getD j (outRaw 0)).raw; if x.outK = 1 then sgn 8 r else compInt (free + 65 * q + 1 + j) ex r
      (compEncode x.outK x.outComp ex ((List.range b.length).map m ++ List.replicate (64 - b.length) 0)).map fun y => (y, b.any (·.psn))
    (bl ++ List.replicate (rowStride x.outK x.outComp row.length - ceilDiv row.length 64 * n) (0, false), [])

/-- A padding element. -/
def OutEl.pad : OutEl := outRaw 0

/-- What a command computed for one output row. -/
structure CvRowOut where
  els : List OutEl
  sat : Nat
  deriving DecidableEq, Repr

/-- Compute output row `r`, the `k`-th of the command. -/
def cvRowOut (x : CvD) (i : CvIn) (tabs : Nat → ActTab) (cluster free k r : Nat) : CvRowOut :=
  let cp := ceilDiv x.cout 32 * 32
  (List.range x.outW).foldl (fun (a : CvRowOut) c =>
    (List.range cp).foldl (fun (a : CvRowOut) o =>
      if o < x.cout then
        let z := cvOut x i (tabs (cvTile x cluster k c)) (free + (k * x.outW + c) * cp + o) r c o
        ⟨a.els ++ [z.1], a.sat + z.2⟩
      else { a with els := a.els ++ [OutEl.pad] }) a) ⟨[], 0⟩

/-- The halo rows an output row is sent as (R312): target cluster, channel, index. -/
def CvD.sends (x : CvD) (r : Nat) : List (Nat × Bool × Nat) :=
  (if r < x.sendUp then [(x.upC, false, r)] else []) ++
  (if x.outH ≤ r + x.sendDown then [(x.downC, true, r + x.sendDown - x.outH)] else [])

/-- Products of some output rows: per position the taps inside, times the real channels of the span. -/
def cvMacs (x : CvD) (rs : List Nat) : Nat :=
  rs.foldl (fun n r => n + (List.range x.outW).foldl (fun n c =>
    n + ((List.range x.kh).filter fun a => (x.vRow r a).isSome).length * ((List.range x.kw).filter fun b => (x.vCol c b).isSome).length) 0) 0 *
  (List.range x.cout).foldl (fun n o => n + (if x.stem then x.cin else min x.ck (x.cin - x.chan0 o))) 0

/-- Blocks with a reserved exponent in an input row (R320): stored blocks of 32 elements, or compressed ones of 64. -/
def cvRowBad (x : CvD) (l : List IEl) : Nat :=
  let w := if x.inComp = 0 then 32 else 64
  ((List.range (ceilDiv l.length w)).filter fun q => ((l.drop (w * q)).take w).any fun e => e.2.2).length

/-- Blocks with a reserved exponent in a row of weights. -/
def NRow.badCount (r : NRow) : Nat := if r.fmt.isBlock then (r.ex.filter fun b => decide (120 < sgn 8 b.1)).length else 0

/-- What executing a command gave: outputs, saturations, blocks with reserved exponents met, and products. -/
structure CvDone where
  s : State
  els : List OutEl
  sat : Nat
  bad : Nat
  macs : Nat
  deriving Repr

/-- Execute: read, compute and write the first `n` output rows; each sent row is pushed after its write (R300, R312). -/
def State.cvExecute (s : State) (v : Via) (c : Cmd) (x : CvD) (cluster n : Nat) (halo : List HaloRow) (padPsn : Bool) (use : Option ScaleUse) : CvDone :=
  let rs := x.rows.take n
  let (s, rows) := (x.needRows rs).foldl (fun (sr : State × Tab (List IEl)) vr =>
    match sr.1.cvRow v x halo vr with
    | (s, r) => (s, sr.2 ++ [(vr, r)])) (s, [])
  let (s, ws) := s.readRows v (cvFmt x.wK) x.wA x.wX x.cout x.k
  let (s, bs) := if x.bias then
      (match s.readBytes v x.biasA (4 * x.cout) with
      | (s, b) => (s, unpack 32 x.cout b))
    else (s, [])
  let i : CvIn := ⟨rows, ws, bs, padPsn, use⟩
  let tabs (t : Nat) : ActTab := if x.stem then s.stemTab (x.act - 1) else s.actTab t (x.act - 1)
  let e := (use.map (·.e)).getD 0
  let free := s.free
  let cp := ceilDiv x.cout 32 * 32
  let s := { s with free := free + (n + 1) * (x.outW * cp) + n * (65 * ceilDiv x.outL 64) }
  let bad := if n = 0 then 0 else rows.foldl (fun m e => m + cvRowBad x e.2) 0 + ws.foldl (fun m w => m + w.badCount) 0
  let st := rowStride x.outK x.outComp x.outL
  let ex := rowExps x.outK x.outComp x.outL
  (List.range rs.length).foldl (fun (d : CvDone) k =>
    let r := rs.getD k 0
    let o := cvRowOut x i tabs cluster free k r
    let (b, xs) := encodeRow x e (free + (n + 1) * (x.outW * cp) + k * (65 * ceilDiv x.outL 64)) o.els
    let s := (d.s.writeBytes v (x.outA + r * st) b).writeBytes v (addOff x.outA x.outX + r * ex) xs
    let s := if x.stem then s else (x.sends r).foldl (fun s t =>
      { s with halo := s.halo ++ [⟨t.1, t.2.1, c.ctx, x.seqOut, t.2.2, x.outK, x.outComp, x.outL, b ++ xs, 1, none⟩] }) s
    { d with s := s, els := d.els ++ o.els, sat := d.sat + o.sat }) ⟨s, [], 0, bad, cvMacs x rs⟩

/-! ### The Convolution command (R300, R310, R312 to R314, R321) -/

/-- Slots of a channel for rows of a size (R311). -/
def haloSlots (size : Nat) : Nat := min 16 (131072 / max size 1)
/-- Slots of a channel in use or reserved. -/
def State.haloUsed (s : State) (cluster : Nat) (above : Bool) : Nat := (s.halo.filter fun h => h.cluster == cluster && h.above == above).length
/-- The rows a command will send, by channel. -/
def CvD.sendList (x : CvD) : List (Nat × Bool × Nat) := x.rows.flatMap x.sends

/-- Reserve a slot for each row the command will send, when all are free (R312). -/
def State.haloReserve (s : State) (c : Cmd) (x : CvD) : Option State :=
  let l := x.sendList
  let size := rowSize x.outK x.outComp x.outL
  let fits (cl : Nat) (ab : Bool) : Bool := decide (s.haloUsed cl ab + (l.filter fun t => t.1 == cl && t.2.1 == ab).length ≤ haloSlots size)
  if l.all fun t => fits t.1 t.2.1 then
    some { s with halo := s.halo ++ l.map fun t => ⟨t.1, t.2.1, c.ctx, x.seqOut, t.2.2, x.outK, x.outComp, x.outL, [], 0, some c⟩ }
  else none

/-- Release the slots a command holds reserved. -/
def State.haloRelease (s : State) (c : Cmd) : State :=
  { s with halo := s.halo.filter fun h => !(h.stage == 0 && h.by_ == some c) }

/-- The halo rows a command reads: channel and index (R313). -/
def CvD.haloNeed (x : CvD) : List (Bool × Nat) :=
  (x.needRows x.rows).filterMap fun v =>
    if v < x.recvTop then some (true, v) else if x.recvTop + x.inH ≤ v then some (false, v - x.recvTop - x.inH) else none

/-- A present halo row (R313). -/
def State.haloFind (s : State) (cluster ctx : Nat) (x : CvD) (k : Bool × Nat) : Option HaloRow :=
  s.halo.find? fun h => h.cluster == cluster && h.above == k.1 && h.idx == k.2 && h.stage == 2 && h.ctx == ctx && h.seq == x.seqIn

/-- Mark the rows whose slots this command returns when it retires: it covers the last output row that reads them (R314). -/
def State.haloMark (s : State) (c : Cmd) (x : CvD) (cluster : Nat) : State :=
  let all := List.range x.outH
  let lastRow (v : Nat) : Option Nat := (all.filter fun r => (List.range x.kh).any fun i => x.vRow r i == some v).getLast?
  { s with halo := s.halo.map fun h =>
      let v := if h.above then h.idx else x.recvTop + x.inH + h.idx
      let mine := h.cluster == cluster && h.stage == 2 && h.ctx == c.ctx && h.seq == x.seqIn && (if h.above then decide (h.idx < x.recvTop) else decide (h.idx < x.recvBot))
      if mine && (match lastRow v with
          | some r => x.rows.contains r
          | none => false) then { h with by_ := some c } else h }

/-- Read the extension record of a command (R307). -/
def State.cvExt (s : State) (v : Via) (a : Nat) : State × List PByte := s.readBytes v a 64

/-- A command ends without effect. -/
def State.cvPlain (s : State) (c : Cmd) (unit status detail : Nat) (bumps : List (Nat × Nat)) : State :=
  (s.haloRelease c).startQ { Run.plain c unit status detail with bumps := bumps }

/-- The accumulators of the named tiles hold unspecified values afterwards (R300). -/
def State.cvSpoil (s : State) (x : CvD) (cluster : Nat) : State :=
  (x.tiles cluster).foldl (fun s t =>
    (List.range x.accCount).foldl (fun s k =>
      { s.setTile t (mxSpoil x.mx (s.tile t) s.free k) with free := s.free + 1024 }) s) s

/-- Run a dispatched command on an instance of the Convolution or Stem engine (R303 to R309, R320, R321, R325). `stop` is the number of rows finished when an access failed, if one did; `fl` are the flags of its own engine, `bk` the engine's counters of products, formats, poison and faults. -/
def State.cvGo (s : State) (q : QCmd) (x : CvD) (unit : Nat) (halo : List HaloRow) (padPsn : Bool) (stop : Option Nat) (fl : Nat) (bk : List Nat) (bumps : List (Nat × Nat)) : State :=
  let c := q.cmd
  let v := s.viaCmd c
  let (s, use) : State × Option ScaleUse := if x.scaled then
      (match s.scaleStart v x.scale (cvFmt x.outK) with
      | (s, u) => (s, some u))
    else (s, none)
  let d := s.cvExecute v c x unit (match stop with
    | some k => min k x.rowCount
    | none => x.rowCount) halo padPsn use
  let nP := (d.els.filter (·.psn)).length
  let fault := stop.isSome
  d.s.startQ
    { cmd := c, unit := unit, status := worst fault (anyPsn d.els) (decide (0 < d.bad))
      detail := b2n (decide (0 < d.sat)) + 2 * b2n (d.els.any fun o => o.clip || o.mid) + fl
      value := min nP (2 ^ 31 - 1)
      scale := if fault then [] else (use.map fun u => u.finish (obsAll d.els)).getD []
      assay := assayAll (assaySet c.tenant x.tag) d.els
      bumps := [(bk.getD 0 0, d.macs), (bk.getD 1 0, d.bad), (bk.getD 2 0, b2n (decide (0 < nP))), (bk.getD 3 0, b2n fault)] ++ bumps
      tiles := if x.stem then [] else x.tiles unit, link := 0, commit := none }

/-- Run a dispatched Convolution command on the tiles it names. -/
def State.cvRun (s : State) (q : QCmd) (x : CvD) (cluster : Nat) (padPsn : Bool) (stop : Option Nat) : State :=
  let c := q.cmd
  let n := c.tenant
  let halo := x.haloNeed.filterMap fun k => s.haloFind cluster c.ctx x k
  let s := ((s.haloMark c x cluster).haloRelease c).cvSpoil x cluster
  s.cvGo q x cluster halo padPsn stop (8 * b2n x.pointwise + 16 * b2n (q.since != 0))
    [A.CV_MAC_COUNT cluster n, A.CV_FORMAT_COUNT cluster n, A.CV_POISON_COUNT cluster n, A.CV_FAULT_COUNT cluster n] [(A.CV_POINTWISE cluster n, b2n x.pointwise)]

/-- Validate a Convolution or Stem command and wait for what its arrays need; the extension record is read once and kept (R307). `k` goes on with the descriptor, the record, and whether an access was refused; a no-op returns OK (R310). `inv` ends the command with INVALID, `fault` with FAULT. -/
def State.cvCheck (s : State) (q : QCmd) (stem : Bool) (unit : Nat) (limit : Bool) (inv : QCmd → CvD → Nat → State → State) (fault : QCmd → CvD → List PByte → State → State)
    (k : QCmd → CvD → List PByte → State → State) : State :=
  let c := q.cmd
  let v := s.viaCmd c
  let ea := field c.desc 56 8
  let go (f : Bool) (s : State) : State :=
    let (s, eb) := if q.conv = [] then s.cvExt v ea else (s, q.conv)
    let q := { q with conv := eb }
    let ext := eb.map (·.1)
    let x := cvD stem c.desc ext
    match s.cvValidate v c x ext unit with
    | some d => inv q x d s
    | none =>
      s.pass q v (s.cvReach v x) limit f (inv q x 6) fun f s =>
        match s.cvScales v x f with
        | some d => inv q x d s
        | none =>
          if x.rowCount = 0 ∨ x.cout = 0 ∨ x.outW = 0 then s.cvPlain c unit stOk 0 []
          else if f || ppsn eb 0 16 || ppsn eb 32 32 then fault q x eb s
          else k q x eb s
  if q.conv = [] then s.pass q v (s.reach v ea 64 false locLocal) limit false (go false) go else go false s

/-- Dispatch a Convolution command (R301, R308, R310, R312, R313): credit first, then the halo rows. A command that ends early returns the slots of the rows it was the last to read, like any other (R314). -/
def State.cvDispatch (s : State) (q : QCmd) (cluster : Nat) (stop : Option Nat) : State :=
  let c := q.cmd
  let bump := [(A.CV_FAULT_COUNT cluster c.tenant, 1)]
  s.cvCheck q false cluster stop.isSome
    (fun _ x d s => (if d ≤ 2 then s else s.haloMark c x cluster).cvPlain c cluster stInvalid d [])
    (fun _ x eb s => (if ppsn eb 32 16 then s else s.haloMark c x cluster).cvPlain c cluster stFault 0 bump)
    fun q x eb s =>
      let (s, held) := if q.slots = 1 ∨ x.sendList = [] then (s, true) else (match s.haloReserve c x with
        | some s => (s, true)
        | none => (s, false))
      let q1 := { q with slots := b2n (held && x.sendList != []), hold := .none }
      let rows := x.haloNeed.map fun k => s.haloFind cluster c.ctx x k
      if !held || rows.any (·.isNone) then s.setAside q1 4
      else if rows.any fun h => h.any fun h => h.fmt != x.inK || h.comp != x.inComp || h.len != x.inL then
        (s.haloMark c x cluster).cvPlain c cluster stFault 0x0D1 bump
      -- its work follows the Matrix commands the named tiles have issued (R300)
      else if (x.tiles cluster).any fun t => (s.running 0 t).isSome || s.ebuf.any fun e => e.eng == 0 && e.tile == t then s.setQ q1
      else s.cvRun q1 x cluster (ppsn eb 28 3) stop

/-- CONV_COMMAND (R300, R301): the Convolution engine of a cluster dispatches its next command. `stop` is the number of output rows finished when an access was refused or reached its stall limit, if one was (R321). -/
def execConvCommand (cluster : Nat) (stop : Option Nat) (s : State) : Out :=
  engStart 3 cluster (fun _ => true) s fun q s => s.cvDispatch q cluster stop

/-- Examine a set-aside command again (R301): it is dispatched anew once its rows and credit are there, and the interval counts in CV_HALO_WAIT (R313). -/
def State.cvReexamine (s : State) (q : QCmd) (cluster : Nat) : State :=
  let c := q.cmd
  let x := cvD false c.desc (q.conv.map (·.1))
  let ready := x.haloNeed.all fun k => (s.haloFind cluster c.ctx x k).isSome
  let (s, held) := if q.slots = 1 ∨ x.sendList = [] then (s, true) else (match s.haloReserve c x with
    | some s => (s, true)
    | none => (s, false))
  let q1 := { q with slots := b2n (held && x.sendList != []) }
  if ready && held then (s.count (A.CV_HALO_WAIT cluster c.tenant) (s.asideNs q)).setQ { q1 with aside := 0 }
  else s.setQ q1

/-- CV_SET_ASIDE_REEXAMINE (R301): the engine re-examines the `idx`-th command of its queue. -/
def execCvSetAsideReexamine (cluster idx : Nat) (s : State) : Out :=
  match (s.queueOf 3 cluster)[idx]? with
  | none => .next s
  | some q => if q.aside ≠ 4 ∨ !s.isOn (16 + cluster) then .next s else .next (s.cvReexamine q cluster)

/-- HALO_ROW_ARRIVAL (R312, R313): the oldest row pushed to a channel arrives and is present; the rows of one channel arrive in the order in which they were pushed. -/
def execHaloRowArrival (cluster : Nat) (above : Bool) (s : State) : Out :=
  match findIdx (fun h : HaloRow => h.cluster == cluster && h.above == above && h.stage == 1) s.halo 0 with
  | none => .next s
  | some k =>
    if !s.isOn (16 + cluster) then .next (s.demandWake (16 + cluster))
    else match s.halo[k]? with
    | some h => .next { s with halo := listSet s.halo k { h with stage := 2 } }
    | none => .next s

/-- CV_HALO_LIMIT_EXPIRY (R313, R314): a command set aside too long fails with 0x0D0, releases its slots and writes nothing. -/
def execCvHaloLimitExpiry (cluster idx : Nat) (s : State) : Out :=
  match (s.queueOf 3 cluster)[idx]? with
  | none => .next s
  | some q =>
    if q.aside ≠ 4 ∨ s.asideNs q ≤ s.limitNs (A.CV_HALO_LIMIT cluster) then .next s
    else
      let n := q.cmd.tenant
      .next (((s.count (A.CV_HALO_WAIT cluster n) (s.asideNs q)).haloMark q.cmd (cvD false q.cmd.desc (q.conv.map (·.1))) cluster).cvPlain q.cmd cluster stFault 0x0D0
        [(A.CV_FAULT_COUNT cluster n, 1), (A.CV_HALO_TIMEOUT cluster n, 1)])

/-- Rows a job sent that are still in a channel are discarded when it ends, and counted; slots it only held reserved are released (R314). -/
def State.haloDiscard (s : State) (ctx tenant : Nat) : State :=
  let gone := s.halo.filter fun h => h.ctx == ctx && h.stage != 0
  let s := gone.foldl (fun s h => s.count (A.CV_HALO_DISCARD h.cluster tenant) 1) s
  { s with halo := s.halo.filter fun h => h.ctx != ctx }

/-- CV_RESULT (R314, R321, R323): the running Convolution command retires, returns its result and the slots of the rows it was the last to read. -/
def execCvResult (cluster cycles ns : Nat) (s : State) : Out :=
  match s.running 3 cluster with
  | none => .next s
  | some r =>
    if !s.resultReady r then .next s
    else
      let n := r.cmd.tenant
      let overran := overrun (s.fget (A.CV_NP_LIMIT cluster) F.CV_NP_LIMIT_NS) (s.clkLevel cluster) ns
      let s := (s.count (A.CV_CMD_COUNT cluster n) 1).count (A.CV_BUSY_CYCLES cluster n) cycles
      let s := if overran then (s.count (A.CV_NP_OVERRUN cluster n) 1).fsrOverrun r.cmd (16 + cluster) cluster else s
      let s := { s with halo := s.halo.filter fun h => h.by_ != some r.cmd }
      .next (s.endRun { r with detail := r.detail + (if 32 ≤ r.detail ∨ r.status = stInvalid then 0 else 4 * b2n overran) })

/-! ### The Stem command (R324 to R327) -/

/-- Run the next Stem command. -/
def State.stemGo (s : State) (q : QCmd) (stop : Option Nat) : State :=
  let c := q.cmd
  let n := c.tenant
  s.cvCheck q true 0 stop.isSome (fun _ _ d s => s.cvPlain c 0 stInvalid d []) (fun _ _ _ s => s.cvPlain c 0 stFault 0 [(A.ST_FAULT_COUNT n, 1)])
    fun q x eb s => s.cvGo q x 0 [] (ppsn eb 28 3) stop 0 [A.ST_MAC_COUNT n, A.ST_FORMAT_COUNT n, A.ST_POISON_COUNT n, A.ST_FAULT_COUNT n] []

/-- A command of an engine of D14 whose wait for the domain has reached its stall limit ends with FAULT (R168, R479); otherwise the engine goes on. -/
def State.d14Limit (s : State) (eng : Nat) (limit : Bool) (k : Out) : Out :=
  match limit, s.engNext eng 0 with
  | true, some q =>
    if s.isOn 14 ∨ q.hold.doms.isNone then .next s
    else .next ((s.countLimit q.cmd.part 1 [14]).cvPlain q.cmd 0 stFault 0 [(engFaultReg eng 0 q.cmd.tenant, 1)])
  | _, _ => k

/-- STEM_COMMAND (R324): the Stem engine runs its next command. `limit` says that the wake of D14 reached its stall limit (R168); `stop` is as for a Convolution command. -/
def execStemCommand (limit : Bool) (stop : Option Nat) (s : State) : Out :=
  s.d14Limit 4 limit (engStart 4 0 (fun _ => true) s fun q s => s.stemGo q stop)

/-- ST_RESULT (R326): the running Stem command returns; its limit is not scaled. -/
def execStResult (cycles ns : Nat) (s : State) : Out :=
  match s.running 4 0 with
  | none => .next s
  | some r =>
    if !s.resultReady r then .next s
    else
      let n := r.cmd.tenant
      let overran := overrun (s.fget A.ST_NP_LIMIT F.ST_NP_LIMIT_NS) 2 ns
      let s := (s.count (A.ST_CMD_COUNT n) 1).count (A.ST_BUSY_CYCLES n) cycles
      let s := if overran then (s.count (A.ST_NP_OVERRUN n) 1).fsrOverrun r.cmd 14 0 else s
      .next (s.endRun { r with detail := r.detail + 4 * b2n (overran && r.status != stInvalid) })

end Sys2Proof.Machine
end

