-- ==== Sys2Proof/Machine/PostProc.lean ====
section
/-!
DEFINITION. The Post-processing unit: candidates, box decoding, suppression and the box records (R328 to R334, R336).
-/
namespace Sys2Proof.Machine

/-- The fields of a Post-processing descriptor (R328). -/
structure PpD where
  inFmt : NFmt
  clip : Bool
  agnostic : Bool
  t16 : Bool
  ncls : Nat
  stride : Nat
  iou : Nat
  gw : Nat
  gh : Nat
  scoreMin : Nat
  maxOut : Nat
  presel : Nat
  inA : Nat
  inX : Int
  imgW : Nat
  imgH : Nat
  outA : Nat
  deriving DecidableEq, Repr

/-- Read a descriptor (R328); PRESEL 0 selects 4,096. -/
def ppD (d : List Nat) : PpD :=
  let ops := field d 0 1
  ⟨if ops % 4 = 0 then .s8 else if ops % 4 = 1 then .t16 else .f32, bit ops 2, bit ops 3, bit ops 4, field d 1 1, field d 2 1, field d 3 1,
   field d 4 2, field d 6 2, field d 8 4, field d 0xC 2, if field d 0xE 2 = 0 then 4096 else field d 0xE 2,
   field d 0x10 8, sgn 32 (field d 0x18 4), field d 0x1C 2, field d 0x1E 2, field d 0x20 8⟩

/-- The elements of a cell's row (R329). -/
def PpD.len (x : PpD) : Nat := 4 + x.ncls
/-- The number of cells. -/
def PpD.cells (x : PpD) : Nat := x.gw * x.gh

/-- Validation up to the reach of the arrays (R328): reserved fields 0x001, ranges 0x002, misalignment 0x005. An IN_EXP_OFF that must be 0 and is not is a range failure (log entry 30). -/
def ppValidate (d : List Nat) (x : PpD) : Option Nat :=
  let ops := field d 0 1
  if ops % 4 = 3 ∨ 32 ≤ ops ∨ !zeroBytes d 0x28 24 then some 1
  else if x.ncls = 0 ∨ x.stride = 0 ∨ 128 < x.stride ∨ 65536 < x.cells ∨ 1024 < x.maxOut ∨ 4096 < x.presel ∨
      (f32 x.scoreMin).isNan ∨ f32 x.scoreMin = .inf false ∨ (x.inFmt ≠ .s8 ∧ x.inX ≠ 0) then some 2
  else if x.inA % x.inFmt.align ≠ 0 ∨ x.outA % 32 ≠ 0 then some 5
  else none

/-- The reach of the arrays (R219, R328): every cell, and the records MAX_OUT allows (log entry 30). -/
def State.ppReach (s : State) (v : Via) (x : PpD) : Reach :=
  (s.reachRows v x.inFmt x.inA x.inX x.cells x.len false).and
    (if x.maxOut = 0 then .ok [] else s.reach v x.outA (32 * x.maxOut) true locLocal)

/-- A candidate (R329, R330): cell, class, score, corners, and whether the clamp changed it. -/
structure Cand where
  cell : Nat
  cls : Nat
  score : FVal
  x0 : Int
  y0 : Int
  x1 : Int
  y1 : Int
  clipped : Bool
  deriving DecidableEq, Repr

/-- The class with the largest logit among the classes from `i` on, with the logit; ties go to the lowest, NaN is skipped (R329). -/
def bestClass : List FVal → Nat → Option (Nat × FVal) → Option (Nat × FVal)
  | [], _, b => b
  | l :: ls, i, b =>
    bestClass ls (i + 1) (if l.isNan then b else match b with
      | some (j, m) => if m.lt l then some (i, l) else some (j, m)
      | none => some (i, l))

/-- The candidate of a cell, with its corners still zero (R329). -/
def PpD.pick (x : PpD) (n : Nat) (r : NRow) : Option (Nat × Nat × FVal) :=
  match bestClass ((List.range x.ncls).map fun j => r.val (4 + j)) 0 none with
  | some (c, m) => if m.lt (f32 x.scoreMin) then none else some (n, c, m)
  | none => none

/-- A corner (R330): ((g + 0.5) ± d) × 16 × STRIDE in F32 with one rounding per operation, then I32. -/
def corner (g : Nat) (plus : Bool) (d : FVal) (stride : Nat) : Int :=
  let a := rnd (.fin false (2 * g + 1) (-1))
  let b := rnd (if plus then a.add d else a.sub d)
  ((rnd ((rnd (b.mul (.fin false 16 0))).mul (.fin false stride 0)))).toIntSat false (-2147483648) 2147483647

/-- Decode a candidate's box (R330). -/
def PpD.decode (x : PpD) (n c : Nat) (m : FVal) (d : List FVal) : Cand :=
  let at_ (i : Nat) := d.getD i .nan
  let gx := n % x.gw
  let gy := n / x.gw
  let p0 := corner gx false (at_ 0) x.stride
  let q0 := corner gy false (at_ 1) x.stride
  let p1 := corner gx true (at_ 2) x.stride
  let q1 := corner gy true (at_ 3) x.stride
  if x.clip then
    let w : Int := (16 * x.imgW : Nat)
    let h : Int := (16 * x.imgH : Nat)
    let k : Cand := ⟨n, c, m, clampI 0 w p0, clampI 0 h q0, clampI 0 w p1, clampI 0 h q1, false⟩
    { k with clipped := decide (k.x0 ≠ p0 ∨ k.y0 ≠ q0 ∨ k.x1 ≠ p1 ∨ k.y1 ≠ q1) }
  else ⟨n, c, m, p0, q0, p1, q1, false⟩

/-- Put a candidate into a list sorted by descending score; those of equal score keep ascending cell numbers (R331). -/
def candIns (c : Nat × Nat × FVal × List FVal) : List (Nat × Nat × FVal × List FVal) → List (Nat × Nat × FVal × List FVal)
  | [] => [c]
  | a :: t => if a.2.2.1.lt c.2.2.1 then c :: a :: t else a :: candIns c t

/-- The area of a box (R331). -/
def Cand.area (c : Cand) : Int := max 0 (c.x1 - c.x0) * max 0 (c.y1 - c.y0)

/-- Does a kept box suppress a candidate (R331)? -/
def PpD.suppresses (x : PpD) (q c : Cand) : Bool :=
  let iw := max 0 (min c.x1 q.x1 - max c.x0 q.x0)
  let ih := max 0 (min c.y1 q.y1 - max c.y0 q.y0)
  let inter := iw * ih
  let uni := c.area + q.area - inter
  (x.agnostic || q.cls == c.cls) && decide (0 < uni) && decide ((x.iou : Int) * uni < inter * 256)

/-- The suppression loop (R331): the kept boxes in order, and whether MAX_OUT ended it. -/
def PpD.suppress (x : PpD) : List Cand → List Cand → List Cand × Bool
  | [], out => (out, false)
  | c :: cs, out =>
    if out.length = x.maxOut then (out, true)
    else if out.any fun q => x.suppresses q c then x.suppress cs out
    else x.suppress cs (out ++ [c])

/-- A box record (R332). -/
def PpD.record (x : PpD) (c : Cand) : List Nat :=
  let score := if x.t16 then (NFmt.narrow .t16 false 0 c.score).1 else toF32 c.score
  natLe 4 (unsgn 32 c.x0) ++ natLe 4 (unsgn 32 c.y0) ++ natLe 4 (unsgn 32 c.x1) ++ natLe 4 (unsgn 32 c.y1) ++
  natLe 4 score ++ natLe 2 c.cls ++ natLe 2 (b2n c.clipped) ++ natLe 4 c.cell ++ natLe 4 0

/-- Read the cells (R329): candidates in cell order with their box elements, and whether a cell is poisoned or has a reserved exponent. -/
def State.ppCells (s : State) (v : Via) (x : PpD) : State × List (Nat × Nat × FVal × List FVal) × Bool × Bool :=
  (List.range x.cells).foldl (fun a n =>
    match a.1.readRow v x.inFmt (x.inA + n * x.inFmt.stride x.len) (addOff x.inA x.inX + n * ceilDiv x.len 32) x.len with
    | (s, r) =>
      let cs := match x.pick n r with
        | some (n, c, m) => a.2.1 ++ [(n, c, m, (List.range 4).map r.val)]
        | none => a.2.1
      (s, cs, a.2.2.1 || r.psn, a.2.2.2 || r.bad)) (s, [], false, false)

/-- Run a valid command: candidates, selection, sorting, decoding, suppression and the records (R329 to R333). -/
def State.ppRun (s : State) (v : Via) (c : Cmd) (x : PpD) : State :=
  let n := c.tenant
  match s.ppCells v x with
  | (s, cs, psn, bad) =>
    let sorted := cs.foldl (fun l c => candIns c l) []
    let trunc := decide (x.presel < cs.length)
    let r := x.suppress ((sorted.take x.presel).map fun q => x.decode q.1 q.2.1 q.2.2.1 q.2.2.2) []
    let s := s.writeBytes v x.outA ((r.1.flatMap x.record).map fun b => (b, psn || bad))
    s.startQ
      { cmd := c, unit := 0, status := worst false psn bad, detail := b2n trunc + 4 * b2n r.2, value := r.1.length
        scale := [], assay := none
        bumps := [(A.PP_CAND_IN n, cs.length), (A.PP_BOX_OUT n, r.1.length), (A.PP_PRESEL_TRUNC n, b2n trunc),
                  (A.PP_POISON_COUNT n, b2n ((psn || bad) && decide (0 < r.1.length)))]
        tiles := [], link := 0, commit := none }

/-- Run the next Post-processing command. `stop` says that an access got an error response or reached its stall limit: FAULT, and no record is written (R333). -/
def State.ppGo (s : State) (q : QCmd) (stop : Bool) : State :=
  let c := q.cmd
  let v := s.viaCmd c
  let x := ppD c.desc
  match ppValidate c.desc x with
  | some d => s.cvPlain c 0 stInvalid d []
  | none =>
    s.pass q v (s.ppReach v x) stop false (fun s => s.cvPlain c 0 stInvalid 6 []) fun f s =>
      if stop || f then s.cvPlain c 0 stFault 0 [(A.PP_FAULT_COUNT c.tenant, 1)] else s.ppRun v c x

/-- PP_COMMAND (R328 to R333): the Post-processing unit runs its next command. `limit` says that the wake of D14 reached its stall limit (R168). -/
def execPpCommand (limit stop : Bool) (s : State) : Out :=
  s.d14Limit 5 limit (engStart 5 0 (fun _ => true) s fun q s => s.ppGo q stop)

/-- PP_RESULT (R333, R334): the running command returns; its limit is not scaled. -/
def execPpResult (cycles ns : Nat) (s : State) : Out :=
  match s.running 5 0 with
  | none => .next s
  | some r =>
    let n := r.cmd.tenant
    let overran := overrun (s.fget A.PP_NP_LIMIT F.PP_NP_LIMIT_NS) 2 ns
    let s := (s.count (A.PP_CMD_COUNT n) 1).count (A.PP_BUSY_CYCLES n) cycles
    let s := if overran then (s.count (A.PP_NP_OVERRUN n) 1).fsrOverrun r.cmd 14 0 else s
    .next (s.endRun { r with detail := r.detail + 2 * b2n (overran && r.status != stInvalid) })

end Sys2Proof.Machine
end

