-- ==== Sys2Proof/Machine/Headgate.lean ====
section
/-!
DEFINITION. The Headgate: rings, doorbells, acceptance, the journal, ring commands and completion (R337 to R374).
-/
namespace Sys2Proof.Machine

/-! ### Look-ups -/

/-- The ring allocation entry of a ring (R43). -/
def State.ringE (s : State) (r : Nat) : Option RingE := s.ringEs.find? fun e => decide (e.first ≤ r) && decide (r < e.first + e.count)

/-- The tenant a ring belongs to (R43, R44). -/
def State.ringTenant (s : State) (r : Nat) : Option Nat := (s.ringE r).bind fun e => (s.partE e.part).map (·.tenant)

/-- The local address of a ring's storage (R38, HG_RING_BASE). -/
def State.ringBase (s : State) (r : Nat) : Nat :=
  match s.ringE r with
  | none => 0
  | some e =>
    let o := (r - e.first) * e.size
    frameAddr ((Tab.get s.plat.ringFrames [] e.first).getD (o / pageSize) 0) + o % pageSize

/-- Bytes of a ring's packet area (R337). -/
def State.ringArea (s : State) (r : Nat) : Nat := ((s.ringE r).map fun e => e.size - 256).getD 0

/-- A ring's state. -/
def State.ringSt (s : State) (r : Nat) : RingSt := Tab.get s.hg.rings RingSt.reset r

/-- The local address of a byte count in a ring's packet area (R337). -/
def State.ringAt (s : State) (r n : Nat) : Nat := s.ringBase r + 256 + n % s.ringArea r

/-- The Headgate's fields of the control area (R338). -/
def State.syncCtl (s : State) (r : Nat) : State :=
  let x := s.ringSt r
  let b := s.ringBase r
  let s := s.homePut (b + 0x40) (clean (natLe 4 x.acceptNext ++ natLe 4 0 ++ natLe 8 x.cons ++ natLe 8 x.acceptTime ++
    natLe 4 x.refused ++ natLe 4 x.refuseSeq ++ natLe 4 x.refuseInfo))
  s.homePut (b + 0x80) (clean (natLe 4 x.completeNext ++ natLe 4 0 ++ natLe 8 x.release))

/-- Set a ring's state and write its control area. -/
def State.setRing (s : State) (r : Nat) (x : RingSt) : State :=
  ({ s with hg := { s.hg with rings := Tab.set s.hg.rings RingSt.reset r x } }).syncCtl r

/-- A context record. -/
def State.ctx (s : State) (c : Nat) : Ctx := Tab.get s.hg.ctx Ctx.free c

/-- Write a context record. -/
def State.setCtx (s : State) (c : Nat) (x : Ctx) : State := { s with hg := { s.hg with ctx := Tab.set s.hg.ctx Ctx.free c x } }

/-- A context returns to FREE; SAVE_ADDR stays (R367, R368). -/
def State.freeCtx (s : State) (c : Nat) : State := s.setCtx c { Ctx.free with save := (s.ctx c).save }

/-- A partition's schedule. -/
def State.sch (s : State) (p : Nat) : PartS := Tab.get s.hg.parts PartS.idle p

/-- Write a partition's schedule. -/
def State.setSch (s : State) (p : Nat) (x : PartS) : State := { s with hg := { s.hg with parts := Tab.set s.hg.parts PartS.idle p x } }

/-- The lowest-numbered vault of a partition's TILE_MASK, where its journal lies (R38, R360). -/
def PartE.vault0 (e : PartE) : Nat := ((bitsOf 128 e.tiles).head?).getD 0

/-- The vault that holds a partition's journal now: where its first journal frame lies. -/
def State.journalVault (s : State) (p : Nat) : Nat := ((Tab.get s.plat.journal [] p).headD 0) / 384

/-- Journal entries of a partition (R360). -/
def State.jrUsed (s : State) (p : Nat) : Nat := (s.hg.jr.filter fun e => e.part == p).length

/-- Is a ring drained (R374)? -/
def State.drained (s : State) (r : Nat) : Bool :=
  let x := s.ringSt r
  !x.enabled && x.completeNext == x.acceptNext

/-- Set RESCAN of a ring. -/
def State.rescan (s : State) (r : Nat) : State := { s with hg := { s.hg with rescan := NSet.add r s.hg.rescan } }

/-- Can packets be accepted (R351, R642, R645): a plat is applied, no warm reset runs, and the boot program has ended? -/
def State.accepting (s : State) : Bool := s.plat.cur.isSome && s.rs.warm.isNone && !s.rs.boot

/-- Domains that must be On for an effect: it waits for their wakes (R478), and aborts an entry under way (R476). -/
def needOn (ds : List Nat) (s : State) (k : State) : State :=
  let down := ds.filter fun d => !s.isOn d
  if down = [] then ds.foldl (fun s d => s.abortEntry d) k else down.foldl (fun s d => (s.abortEntry d).demandWake d) s

/-- The domains a T1 address needs. -/
def t1Doms (a : Nat) : List Nat := [16 + vaultOf a / 8, 32 + layerOf a]

/-- The domains the surviving journal copies of a partition need (R360, R619). -/
def State.journalDoms (s : State) (p : Nat) : List Nat :=
  ((Tab.get s.plat.journal [] p).filter fun f => !s.isLost (frameAddr f)).flatMap fun f => t1Doms (frameAddr f)

/-! ### Doorbells (R343 to R345) -/

/-- The tenants of the plat. -/
def State.tenants (s : State) : List Nat := s.tenEs.map (·.id)

/-- Is there room for a doorbell of the tenant (R344, R602)? In confidential mode each tenant has a share of the queue. -/
def State.dbRoom (s : State) (n : Nat) : Bool :=
  if s.confMode then
    decide ((s.hg.dbq.filter fun r => s.ringTenant r == some n).length < 4096 / (max 1 s.tenants.length))
  else decide (s.hg.dbq.length < 4096)

/-- A doorbell of a tenant for a ring (R343, R344): false when it is refused. -/
def State.doorbell (s : State) (n r : Nat) : State × Bool :=
  if s.ringTenant r ≠ some n then (s.bump (A.HG_DB_REFUSED n), false)
  else if !(s.ringSt r).enabled then (s.rescan r, true)
  else if s.hg.dbq.contains r then (s, true)
  else if s.dbRoom n then
    let s := { s with hg := { s.hg with dbq := s.hg.dbq ++ [r] } }
    let d := s.hg.dbq.length
    (if s.fget A.HG_DBQ_STATUS F.HG_DBQ_STATUS_HIGH_WATER < d then s.fset A.HG_DBQ_STATUS F.HG_DBQ_STATUS_HIGH_WATER d else s, true)
  else ((s.rescan r).bump A.HG_DBQ_OVERFLOW, true)

/-- May the requester reach the tenant page of tenant `n` (R375)? -/
def State.hgPageOk (s : State) (who : Who) (n : Nat) : Bool :=
  decide (n < 8) && (who == .tenant n || (who == .debug && ((s.tenE n).any fun e => e.debug)))

/-- DOORBELL (R343, R344). -/
def execDoorbell (who : Who) (n ring : Nat) (s : State) : Out :=
  if s.hgPageOk who n then .next (s.doorbell n (ring % 65536)).1 else .next s

/-! ### Acceptance (R337 to R350) -/

/-- A refusal (R347): recorded in the control area and the partition's counter, and signalled to the host (R565) or, in confidential mode, by an egress record (R573). -/
def State.refuse (s : State) (r seq reason : Nat) (stop : Bool) : State :=
  let x := s.ringSt r
  let info := 7 + reason * 16 + b2n stop * 4096
  let s := s.setRing r { x with refused := satAdd 32 x.refused 1, refuseSeq := seq, refuseInfo := info, stopped := stop }
  match s.ringE r with
  | none => s
  | some e =>
    let s := s.bump (A.HG_P_REFUSED e.part)
    match s.partE e.part with
    | none => s
    | some p =>
      let s := (s.fset (A.HI_T_LAST_REFUSED p.tenant) F.HI_T_LAST_REFUSED_RING r).tenantEvent p.tenant 0
      if s.confMode then s.egressAdd p.tenant 3 r (natLe 4 seq ++ natLe 4 info ++ natLe 56 0) else s

/-- STOPPED clears at an acceptance or a skip (R347). -/
def RingSt.goOn (x : RingSt) : RingSt :=
  { x with stopped := false, refuseInfo := if bit x.refuseInfo 12 then x.refuseInfo - 4096 else x.refuseInfo }

/-- The bytes a packet takes (R340). -/
def packetLen (plen : Nat) : Nat := 64 + ceilDiv plen 64 * 64

/-- Is PROGRAM aligned, of the forms of R138, and reachable by the tenant (R347)? Whether the table lies in T0 or T1 is found at release (R353). -/
def State.progOk (s : State) (n prog : Nat) : Bool :=
  prog % 64 == 0 &&
  (match s.resolve n (BitVec.ofNat 64 prog) 8 false with
  | .bad _ => false
  | _ => true)

/-- The tiles a group reaches, ascending (R42). -/
def State.groupTiles (s : State) (g : Nat) : List Nat :=
  match s.grpEs.find? fun e => e.id == g with
  | some e => (bitsOf 128 e.tiles).filter fun t => !s.retired.has t
  | none => []

/-- The tile of each rank of a group (R102, R398). -/
def State.rankMap (s : State) (g : Nat) : List Nat :=
  match Tab.get s.hg.maps [] g with
  | [] => s.groupTiles g
  | m => m

/-- What the examination of a header gives (R340, R347). -/
inductive Exam where
  | skipMarker (cons : Nat)
  | refuse (reason seq : Nat)
  | dup (len seq : Nat)
  | packet (len : Nat)
  deriving DecidableEq, Repr

/-- Examine the header at CONS_BYTES in the order of R347. -/
def State.examine (s : State) (r : Nat) (x : RingSt) (prod : Nat) (h : List PByte) : Exam :=
  let area := s.ringArea r
  let kind := pnat h 0 1
  let seq := pnat h 4 4
  let plen := pnat h 8 4
  let at_ := x.cons % area
  let len := packetLen plen
  let d := (seq + 2 ^ 32 - x.acceptNext) % 2 ^ 32
  if kind ≠ 1 ∧ kind ≠ 2 then .refuse 1 seq
  else if kind = 2 then
    if ppsn h 0 1 then .refuse 2 seq
    else if at_ = 0 then .refuse 4 seq
    else .skipMarker ((x.cons - at_ + area) % 2 ^ 64)
  else if ppsn h 0 64 then .refuse 2 seq
  else if pnat h 1 1 / 8 ≠ 0 ∨ pnat h 2 2 ≠ 0 ∨ pnat h 0xC 4 ≠ 0 then .refuse 3 seq
  else if area - 64 < plen ∨ (prod + 2 ^ 64 - x.cons) % 2 ^ 64 < len ∨ area < at_ + len then .refuse 4 seq
  else if 2 ^ 31 ≤ d then .dup len seq
  else if d ≠ 0 then .refuse 6 seq
  else match s.ringTenant r with
  | some n => if s.progOk n (pnat h 0x10 8) then .packet len else .refuse 7 seq
  | none => .refuse 7 seq

/-- PROD_BYTES of a ring. -/
def State.ringProd (s : State) (r : Nat) : Nat := pnat (s.homePB (s.ringBase r) 8) 0 8

/-- A control area that carries poison is rewritten from the ring's state before the ring is served (R363); PROD_BYTES is the producer's (R338) and stays unless it is itself poisoned: the journal does not hold it, and it is then set to CONS_BYTES (log entry 34). -/
def State.mendCtl (s : State) (r : Nat) : State :=
  if (s.homePB (s.ringBase r) 256).any (·.2) then
    let p := if (s.homePB (s.ringBase r) 8).any (·.2) then (s.ringSt r).cons else pnat (s.homePB (s.ringBase r) 8) 0 8
    (s.homePut (s.ringBase r) (clean (natLe 8 p ++ natLe 248 0))).syncCtl r
  else s

/-- The entry of a ring that is being written to the journal. -/
def State.writing (s : State) (r : Nat) : Option JEnt := s.hg.jr.find? fun e => e.ring == r && e.st == .writing

/-- Serve a ring (R340, R345 to R349): pass skip markers and repeated packets, and give the first good packet its journal entry. -/
def State.serve (s : State) (r : Nat) : Nat → State
  | 0 => s.rescan r
  | fuel + 1 =>
    let x := s.ringSt r
    let prod := s.ringProd r
    let gap := (prod + 2 ^ 64 - x.cons) % 2 ^ 64
    if !x.enabled || (s.writing r).isSome || gap == 0 || decide (2 ^ 63 ≤ gap) then s
    else
      let h := s.homePB (s.ringAt r x.cons) 64
      match s.examine r x prod h with
      | .skipMarker c => (s.setRing r { x.goOn with cons := c }).serve r fuel
      | .refuse k seq => s.refuse r seq k true
      | .dup len seq =>
        let s := s.refuse r seq 5 false
        (s.setRing r { (s.ringSt r).goOn with cons := (x.cons + len) % 2 ^ 64 }).serve r fuel
      | .packet len =>
        match s.ringE r with
        | none => s
        | some e =>
          if 32768 ≤ s.jrUsed e.part then (s.rescan r).bump (A.HG_P_JOURNAL_FULL e.part)
          else { s with hg := { s.hg with jr := s.hg.jr ++ [⟨e.part, r, pnat h 4 4, x.cons, len, pnat h 8 4, pnat h 1 1, pnat h 0x10 8, 0, .writing, 0xFFFF, 0, 0, 0, false, 0⟩] } }

/-- The tenant whose acceptance slot it is in confidential mode (R602). -/
def State.slotTenant (s : State) : Option Nat :=
  if s.confMode then s.tenants[s.now / 2048 % max 1 s.tenants.length]? else none

/-- May a ring be served now? -/
def State.serveable (s : State) (r : Nat) : Bool := !s.confMode || (s.slotTenant.isSome && s.ringTenant r == s.slotTenant)

/-- The PRIORITY of a ring (R43). -/
def State.ringPrio (s : State) (r : Nat) : Nat := ((s.ringE r).map (·.prio)).getD 0

/-- The first ring of the highest PRIORITY in a list. -/
def State.byPrio (s : State) (rs : List Nat) : Option Nat :=
  [3, 2, 1, 0].findSome? fun p => rs.find? fun r => s.ringPrio r == p

/-- What the Headgate serves next (R345): the oldest doorbell of the highest PRIORITY, or a RESCAN bit when the queue is empty or 64 entries have been served. A ring that a full journal stopped waits until an entry frees (R346). -/
def State.nextServe (s : State) : Option (Nat × Bool) :=
  let full (r : Nat) : Bool := s.hg.rescan.has r && (s.ringE r).any fun e => decide (32768 ≤ s.jrUsed e.part)
  let q := s.hg.dbq.filter fun r => s.serveable r && !full r
  let rs := s.hg.rescan.filter fun r => s.serveable r && (s.ringSt r).enabled && !full r
  let scan := s.byPrio ((rs.filter fun r => decide (s.hg.last < r)) ++ rs.filter fun r => decide (r ≤ s.hg.last))
  match s.byPrio q, scan with
  | some r, none => some (r, false)
  | none, some r => some (r, true)
  | some r, some k => if 64 ≤ s.hg.served then some (k, true) else some (r, false)
  | none, none => none

/-- HG_SERVE_RING (R345 to R349): the Headgate takes a doorbell entry or a RESCAN bit and serves its ring. -/
def execHgServeRing (s : State) : Out :=
  if !s.accepting || !s.isOn 13 then .next s
  else match s.nextServe with
  | none => .next s
  | some (r, scan) =>
    .next (needOn (t1Doms (s.ringBase r)) s
      (let hg := if scan then { s.hg with rescan := NSet.rem r s.hg.rescan, last := r, served := 0 }
        else { s.hg with dbq := s.hg.dbq.filter (fun q => q != r), served := s.hg.served + 1 }
      (({ s with hg := hg } : State).mendCtl r).serve r (s.ringArea r / 64 + 1)))

/-- Replace a journal entry. -/
def State.setJ (s : State) (old new : JEnt) : State :=
  { s with hg := { s.hg with jr := s.hg.jr.map fun e => if e = old then new else e } }

/-! ### Completion (R342, R357) -/

/-- The completion record (R342). -/
def JEnt.record (e : JEnt) : List Nat :=
  natLe 4 e.seq ++ [e.status % 16 + 16 * b2n e.retried, e.cause % 256] ++ natLe 2 e.ctx ++ natLe 4 e.result ++ natLe 4 0 ++
  natLe 8 e.acceptTime ++ natLe 8 e.endTime

/-- A packet's end becomes final (R357 step 1). -/
def State.finish (s : State) (e : JEnt) (ctx status cause result : Nat) : State :=
  s.setJ e { e with st := .done, ctx := ctx, status := status, cause := cause, result := result, endTime := s.time }

/-- Publish the completion of a ring's oldest packet (R357 steps 3 to 6). -/
def State.publish (s : State) (e : JEnt) : State :=
  let x := s.ringSt e.ring
  let s := s.homePut (s.ringAt e.ring e.count + 0x20) (clean e.record)
  let s := s.setRing e.ring { x with completeNext := (x.completeNext + 1) % 2 ^ 32, release := (e.count + e.len) % 2 ^ 64 }
  let s := { s with hg := { s.hg with jr := s.hg.jr.filter fun f => f != e } }
  let s := if e.ctx = 0xFFFF then s else s.freeCtx e.ctx
  let s := s.fadd (A.HG_P_COMPLETED e.part) (63, 0) 1
  let s := if e.status = 4 then s.bump (A.HG_P_ABORTED e.part) else if e.status = 5 then s.bump (A.HG_P_FAULTED e.part) else s
  let n := ((s.partE e.part).map (·.tenant)).getD 0
  let s := if e.status = 1 then s.fsr 3 { domain := 13, tenant := some n, part := e.part, ctx := e.ctx, ring := e.ring, seq := e.seq, cause := e.cause } else s
  if s.confMode then s.egressAdd n 1 (e.ring + 65536 * (e.flags / 2 % 2)) (e.record ++ natLe 32 0)
  else
    let s := s.cqWrite n e.ring e.seq e.record
    if bit e.flags 1 then s else s.ringVec n e.ring

/-- COMPLETION_PUBLISH (R357): the oldest packet of a ring whose status is final gets its completion. -/
def execCompletionPublish (ring : Nat) (s : State) : Out :=
  match s.hg.jr.find? fun e => e.ring == ring with
  | none => .next s
  | some e =>
    if e.st ≠ .done ∨ !s.isOn 13 then .next s
    else .next (needOn (s.journalDoms e.part ++ t1Doms (s.ringBase ring)) s (s.publish e))

/-! ### Ring commands, results and save addresses (R359, R368, R373) -/

/-- A refused ring command (R373). -/
def State.cmdRefused (s : State) (n : Nat) : State := s.fset (A.HG_RING_STATUS n) F.HG_RING_STATUS_CMD_REFUSED 1

/-- The contexts whose jobs serve a ring's dispatched packets. -/
def State.ringJobs (s : State) (r : Nat) : List Nat := (s.hg.jr.filter fun e => e.ring == r && e.st == .dispatched).map (·.ctx)

/-- A job is ended by an abort or a reset (R358): it stops, its engine commands run on, and it completes with the given status once nothing of it is left. A job that has already ended, or is being ended, keeps its status. -/
def State.killJob (s : State) (c status cause : Nat) : State :=
  let x := s.ctx c
  if x.st = 3 ∨ x.st = 0 ∨ x.kill.isSome then s
  else
    let s := s.setCtx c { x with kill := some (status, cause) }
    match s.job c with
    | some j => s.setJob c (some { j with ending := true })
    | none => s

/-- A write of HG_RESULT by a thread of the job bound to `writer` (R359): false when it names another context. -/
def State.hgResult (s : State) (writer : Option Nat) (c v : Nat) : State × Bool :=
  if writer = some c ∧ (s.ctx c).st = 1 then (s.setCtx c { s.ctx c with result := v }, true) else (s, false)

/-- HG_RESULT_WRITE (R359): a thread of a tile writes HG_RESULT in the page of its tenant. -/
def execHgResultWrite (tile ctx value : Nat) (s : State) : Out :=
  .next (s.hgResult (s.tile tile).job (ctx % 1024) (value % 2 ^ 32)).1

/-- A write of HG_CTX_SAVE of tenant `n` (R368). -/
def State.ctxSave (s : State) (n a : Nat) : State :=
  let c := s.fget (A.HG_CTX_SEL n) F.HG_CTX_SEL_CONTEXT
  let own := s.ringEs.any fun e => decide (e.ctx0 ≤ c) && decide (c < e.ctx0 + e.ctxN) && (s.partE e.part).any fun p => p.tenant == n
  if own && (s.ctx c).st == 0 then s.setCtx c { s.ctx c with save := a % 2 ^ 64 } else s.cmdRefused n

/-- HG_CTX_SAVE_WRITE (R368). -/
def execHgCtxSaveWrite (who : Who) (n addr : Nat) (s : State) : Out :=
  if s.hgPageOk who n then .next (s.ctxSave n addr) else .next s

/-- A write of HG_RING_TICK_PROG (R375): ignored while the selected ring is enabled or is not the tenant's. -/
def State.tickProg (s : State) (n a : Nat) : State :=
  let r := s.fget (A.HG_RING_SEL n) F.HG_RING_SEL_RING
  if s.ringTenant r = some n ∧ !(s.ringSt r).enabled then s.setRing r { s.ringSt r with tickProg := a % 2 ^ 64 } else s

end Sys2Proof.Machine
end

