-- ==== Sys2Proof/Machine/Sched.lean ====
section
/-!
DEFINITION. Jobs: dispatch, start, end, ticks, slices, the save and restore sequence, reply slots and rank exchanges (R100 to R106, R352 to R356, R367 to R401).
-/
namespace Sys2Proof.Machine

/-! ### Binding (R352, R354, R380, R381) -/

/-- Is a packet ready, its tick class and the free context apart (R352)? -/
def State.readyPacket (s : State) (e : JEnt) : Bool :=
  e.st == .accepted && (s.ringSt e.ring).enabled &&
  (s.hg.jr.takeWhile fun f => !(f.ring == e.ring && f.seq == e.seq)).all fun f =>
    f.ring != e.ring || (f.st != .accepted && f.st != .writing && !bit e.flags 0)

/-- May the packet whose journal entry is being written be dispatched before its acceptance (R350)? It would be ready once accepted. -/
def State.readyEarly (s : State) (e : JEnt) : Bool :=
  e.st == .writing && e.ctx == 0xFFFF && s.readyPacket { e with st := .accepted }

/-- A FREE context of a ring allocation entry, the lowest (R352). -/
def State.freeContext (s : State) (e : RingE) : Option Nat :=
  ((List.range e.ctxN).map fun i => e.ctx0 + i).find? fun c => (s.ctx c).st == 0

/-- Is a group held by a retirement (R618), or does it reach a tile of a partition with a fault under classification (R364, R615)? -/
def State.groupHeld (s : State) (g : Nat) : Bool := s.hg.held.has g || (s.rankMap g).any fun t => s.hg.unsure.has t

/-- The order in which ready packets are offered (R352): higher PRIORITY, earlier acceptance, lower ring. -/
def State.offerBefore (s : State) (a b : JEnt) : Bool :=
  let pa := s.ringPrio a.ring
  let pb := s.ringPrio b.ring
  decide (pb < pa) || (pa == pb && (decide (a.acceptTime < b.acceptTime) || (a.acceptTime == b.acceptTime && decide (a.ring < b.ring))))

/-- The packet offered first among some. -/
def State.bestPacket (s : State) : List JEnt → Option JEnt
  | [] => none
  | e :: es =>
    match s.bestPacket es with
    | some f => if s.offerBefore f e then some f else some e
    | none => some e

/-- The bound jobs of a partition (R378): those whose contexts are RUNNING or SAVED. -/
def State.boundOf (s : State) (p : Nat) : List Nat :=
  (s.hg.ctx.filter fun kv => kv.2.part == p && (kv.2.st == 1 || kv.2.st == 2)).map (·.1)

/-- Bind a job to a context: it joins the jobs that wait for the partition's tiles. -/
def State.bind (s : State) (c : Nat) (x : Ctx) : State :=
  let h := s.sch x.part
  (s.setCtx c { x with st := 1, save := (s.ctx c).save }).setSch x.part { h with waiting := h.waiting ++ [c] }

/-- Bind a packet's job (R352); one not yet accepted stays so, and its job is gated (R350). -/
def State.bindPacket (s : State) (e : JEnt) (re : RingE) (c : Nat) (cls : Option Nat) (t : Nat) : State :=
  let s := s.setJ e { e with st := if e.st = .writing then .writing else .dispatched, ctx := c }
  s.bind c { Ctx.free with retried := e.retried, grp := re.group, part := re.part, ring := e.ring, seq := e.seq, program := e.program,
                           hdr := s.ringAt e.ring e.count, plen := e.plen, tval := if cls.isSome then t else e.acceptTime, cls := cls }

/-- JOB_DISPATCH (R350, R352, R380, R381): the ready packet of a partition that is offered first is bound to the lowest free context; with none ready, one whose acceptance is under way may be dispatched early (log entry 74). -/
def execJobDispatch (part : Nat) (s : State) : Out :=
  if !s.isOn 13 then .next s
  else match s.partE part with
  | none => .next s
  | some p =>
    if p.policy = 0 ∧ s.boundOf part ≠ [] then .next s
    else
      let offered (ready : JEnt → Bool) : Option JEnt := s.bestPacket (s.hg.jr.filter fun e => e.part == part && ready e &&
        (s.ringE e.ring).any fun re => re.tick == 0xFF && (s.freeContext re).isSome && !s.groupHeld re.group)
      match (offered s.readyPacket).orElse fun _ => offered s.readyEarly with
      | none => .next s
      | some e =>
        match s.ringE e.ring with
        | none => .next s
        | some re =>
          (match s.freeContext re with
          | none => .next s
          | some c => .next (needOn (s.journalDoms part) s (s.bindPacket e re c none 0)))

/-! ### Ticks (R354, R355, R384 to R386) -/

/-- Does the governor hold a cluster of some tiles below its MAX_LEVEL (R385)? -/
def State.throttled (s : State) (ts : List Nat) : Bool :=
  ts.any fun t => decide (s.fget (A.LK_C_LEVEL (t / 8)) F.LK_C_LEVEL_GOV_CAP < s.fget (A.LK_C_LEVEL (t / 8)) F.LK_C_LEVEL_MAX)

/-- A tick finds a job of its class still bound (R384, R385). -/
def State.tickOverrun (s : State) (k t c : Nat) : State :=
  let x := s.ctx c
  let p := x.part
  let s := s.bump (A.HG_SCH_TICK_OVERRUN p k)
  let s := if s.throttled (s.rankMap x.grp) then s.bump (A.HG_SCH_THROTTLED_OVERRUN p) else s
  if x.overran then s
  else
    let s := s.wr (A.HG_SCH_LAST_OVERRUN p) (BitVec.ofNat 64 (x.seq + x.ring * 2 ^ 32 + k * 2 ^ 48 + 2 ^ 51))
    let s := s.wr (A.HG_SCH_LAST_OVERRUN_TIME p) (BitVec.ofNat 64 t)
    let s := s.setCtx c { x with overran := true }
    s.fsr 0x0E { domain := 13, tenant := (s.partE p).map (·.tenant), part := p, ctx := c, ring := x.ring, seq := x.seq, cause := 3 }

/-- A tick release that cannot start (R355): CAUSE 1 no program, 2 program table fault, 3 poisoned entry. -/
def State.tickFail (s : State) (p ring ctx cause : Nat) : State :=
  (s.bump (A.HG_P_TICK_FAIL p)).fsr 0x15
    { domain := 13, tenant := (s.partE p).map (·.tenant), part := p, ctx := ctx, ring := ring, cause := cause }

/-- The release a tick makes for one ring allocation entry (R354, R355, R386). -/
def State.tickEntry (s : State) (k t : Nat) (re : RingE) : State :=
  if !((List.range re.count).any fun i => (s.ringSt (re.first + i)).enabled) then s
  else match s.freeContext re with
  | none => s.bump (A.HG_SCH_TICK_SKIPPED re.part)
  | some c =>
    match s.bestPacket (s.hg.jr.filter fun e => decide (re.first ≤ e.ring) && decide (e.ring < re.first + re.count) && s.readyPacket e) with
    | some e => s.bindPacket e re c (some k) t
    | none =>
      let s := s.bump (A.HG_P_TICK_RELEASE re.part)
      let prog := (s.ringSt re.first).tickProg
      if prog = 0 then s.tickFail re.part re.first 0xFFFF 1
      else s.bind c { Ctx.free with tick := true, grp := re.group, part := re.part, ring := 0xFFFF, program := prog, tval := t, cls := some k }

/-- The domains that the releases of a tick class need (R360): the journals of the partitions that make one. -/
def State.tickDoms (s : State) (k : Nat) : List Nat :=
  (s.ringEs.filter fun re => re.tick == k && (List.range re.count).any fun i => (s.ringSt (re.first + i)).enabled).flatMap fun re => s.journalDoms re.part

/-- TICK_RELEASE (R354, R384, R386): the oldest tick made and not yet taken counts overruns of its class and makes one release for each bound entry; the journals these write wake first (R22). -/
def execTickRelease (s : State) : Out :=
  match s.hg.ticks with
  | [] => .next s
  | (k, t) :: ts =>
    if s.plat.cur.isNone then .next { s with hg := { s.hg with ticks := ts } }
    else .next (needOn (13 :: s.tickDoms k) s
      (let s := { s with hg := { s.hg with ticks := ts } }
      let late := (s.hg.ctx.filter fun kv => kv.2.cls == some k && (kv.2.st == 1 || kv.2.st == 2)).map (·.1)
      let s := late.foldl (fun s c => s.tickOverrun k t c) s
      (s.ringEs.filter fun re => re.tick == k).foldl (fun s re => s.tickEntry k t re) s))

/-! ### The end of a job (R105, R111, R356 to R358, R397) -/

/-- The order in which statuses rank (R14). -/
def statusRank (x : Nat) : Nat :=
  match x with
  | 5 => 0 | 1 => 1 | 2 => 2 | 3 => 3 | 4 => 4 | _ => 5

/-- The first status of a list in the order of R14, with the first cause that gave it (R356). -/
def worstStat : List (Nat × Nat) → Nat × Nat
  | [] => (0, 0)
  | x :: xs =>
    let y := worstStat xs
    if statusRank y.1 < statusRank x.1 then y else x

/-- The status a context's job would complete with now (R356, R369). -/
def State.statusNow (s : State) (c : Nat) : Nat × Nat :=
  let js := match s.job c with
    | some j => j.stats
    | none => []
  worstStat (js ++ (s.ctx c).kill.toList)

/-- A wear count. -/
def State.wearOf (s : State) (t : Nat) : Nat := (s.rd (A.HG_SCH_TILE_WEAR t)).toNat

/-- The ranks on the most and the least worn tile of a group, the lower rank on ties (R397). -/
def State.wearEnds (s : State) (m : List Nat) : Nat × Nat :=
  (List.range m.length).foldl (fun ab r =>
    let w := s.wearOf (m.getD r 0)
    (if s.wearOf (m.getD ab.1 0) < w then r else ab.1, if w < s.wearOf (m.getD ab.2 0) then r else ab.2)) (0, 0)

/-- The proposal of a rank exchange at a job's end (R397). -/
def State.wearPropose (s : State) (g : Nat) : State :=
  let gap := s.fget A.HG_WEAR_GAP F.HG_WEAR_GAP_HOURS
  let m := s.rankMap g
  if !((s.grpEs.find? fun e => e.id == g).any fun e => e.rotate) || gap == 0 || s.flag (A.HG_SCH_WEAR_CTRL g) F.HG_SCH_WEAR_CTRL_PROPOSED then s
  else
    let (a, b) := s.wearEnds m
    if s.wearOf (m.getD b 0) + gap * 3600000 ≤ s.wearOf (m.getD a 0) then
      ((s.fset (A.HG_SCH_WEAR_SWAP g) F.HG_SCH_WEAR_SWAP_RANK_A a).fset (A.HG_SCH_WEAR_SWAP g) F.HG_SCH_WEAR_SWAP_RANK_B b).fset
        (A.HG_SCH_WEAR_CTRL g) F.HG_SCH_WEAR_CTRL_PROPOSED 1
    else s

/-- Clear a thread's entries in the lists of stalled accesses. -/
def State.unstall (s : State) (key : Nat) : State :=
  { s with stallq := s.stallq.filter (fun e => e.1 != key), resumeq := s.resumeq.filter fun e => e.2.1 != key }

/-- The tiles of a job become free; its threads hold no work (R101). -/
def State.clearTiles (s : State) (ts : List Nat) : State :=
  ts.foldl (fun s t =>
    (List.range 16).foldl (fun s n => (s.setThread t n Thread.idle).unstall (t * 16 + n)) (s.setTile t { s.tile t with job := none })) s

/-- Messages queued or held when a job ends are discarded and counted (R111). -/
def State.discardMsgs (s : State) (c : Nat) (j : Job) : State :=
  (List.range j.tiles.length).foldl (fun s r =>
    let t := j.tiles.getD r 0
    let k := (List.range 16).foldl (fun k n =>
      k + (Tab.get j.held [] (r * 16 + n)).length + Tab.get j.savedMq 0 (r * 16 + n) +
        (if (s.tile t).job = some c then (s.thread t n).mq.length else 0)) 0
    s.fadd (A.TI_MSG_DISCARD t) (31, 0) k) s

/-- The bound job of a partition that has waited longest and whose group is not held. -/
def State.nextWaiting (s : State) (p : Nat) : Option Nat := (s.sch p).waiting.find? fun c => !s.groupHeld (s.ctx c).grp

/-- When no job holds the tiles of a partition, the job that has waited longest comes next (R380, R381): one that was saved begins its restore; one that never started waits for JOB_START. -/
def State.admitNext (s : State) (p : Nat) : State :=
  let h := s.sch p
  match h.cur, s.nextWaiting p with
  | none, some c =>
    if (s.ctx c).st = 2 then s.setSch p { h with cur := some c, phase := .restore, waiting := h.waiting.filter fun d => d != c, tEnd := s.now } else s
  | _, _ => s

/-- A job leaves its partition's schedule. -/
def State.unschedule (s : State) (p c : Nat) : State :=
  let h := s.sch p
  let h := { h with waiting := h.waiting.filter fun d => d != c }
  (s.setSch p (if h.cur = some c then { h with cur := none, phase := .run } else h)).admitNext p

/-- Remove what is left of a job: messages, halo rows, its tiles, its record, its place in the schedule. -/
def State.dropJob (s : State) (c : Nat) : State :=
  let x := s.ctx c
  let s := match s.job c with
    | none => s
    | some j =>
      let s := s.discardMsgs c j
      let s := s.haloDiscard c j.tenant
      let s := s.clearTiles (j.tiles.filter fun t => (s.tile t).job == some c)
      s.setJob c none
  let s := { s with hg := { s.hg with wdrawn := s.hg.wdrawn.filter fun w => w.cmd.ctx != c } }
  s.unschedule x.part c

/-- A packet whose journal entry was being written stays unaccepted (R349, R350): a job dispatched for it ends without effect, and its ring is examined again. -/
def State.unaccept (s : State) (e : JEnt) : State :=
  let s : State := { s with hg := { s.hg with jr := s.hg.jr.filter fun f => f != e } }
  let s := if e.ctx = 0xFFFF then s else (s.dropJob e.ctx).freeCtx e.ctx
  s.rescan e.ring

/-- A ring becomes disabled (R373): no further packet of it is accepted. -/
def State.disableRing (s : State) (r : Nat) : State :=
  let s := s.setRing r { s.ringSt r with enabled := false }
  match s.writing r with
  | some e => s.unaccept e
  | none => s

/-- The threads of a gated job find the time of acceptance in s6 of each rank's thread 0 (R103, log entry 74). -/
def State.openGate (s : State) (c : Nat) : State :=
  let s := s.setCtx c { s.ctx c with tval := s.time }
  match s.job c with
  | some j => j.tiles.foldl (fun s t => s.setThread t 0 ((s.thread t 0).setX 6 (BitVec.ofNat 64 s.time) false)) s
  | none => s

/-- PACKET_ACCEPT (R349): both journal copies hold the entry; ACCEPT_NEXT, CONS_BYTES and ACCEPT_TIME advance, the gate of a job dispatched early opens (R350), and the ring's service goes on. A packet that is no longer the next of an enabled ring stays unaccepted. -/
def execPacketAccept (ring : Nat) (s : State) : Out :=
  match s.writing ring with
  | none => .next s
  | some e =>
    let x := s.ringSt ring
    if !x.enabled || e.seq != x.acceptNext || e.count != x.cons then .next (s.unaccept e)
    else .next (needOn (s.journalDoms e.part) s
      (let s := s.setJ e { e with st := if e.ctx = 0xFFFF then .accepted else .dispatched, acceptTime := s.time }
      let s := if e.ctx = 0xFFFF then s else s.openGate e.ctx
      let x := (s.ringSt ring).goOn
      let s := s.setRing ring { x with acceptNext := (x.acceptNext + 1) % 2 ^ 32, cons := (x.cons + e.len) % 2 ^ 64, acceptTime := s.time }
      let s := s.fadd (A.HG_P_ACCEPTED e.part) (63, 0) 1
      s.serve ring (s.ringArea ring / 64 + 1)))

/-- A job has ended with a status (R357, R367): its journal entry becomes DONE and its context ENDING; a tick release owes no completion and its context returns to FREE. -/
def State.endJob (s : State) (c status cause : Nat) : State :=
  let x := s.ctx c
  let s := s.wearPropose x.grp
  let s := s.dropJob c
  if x.tick then s.freeCtx c
  else
    let s := s.setCtx c { x with st := 3, status := status, cause := cause, endTime := s.time, since := s.now - x.since }
    match s.hg.jr.find? fun e => e.ctx == c && e.st == .dispatched with
    | some e => s.finish e c status cause x.result
    | none => s

/-- A packet whose job ended by a warm reset, device software reset or tile fault is dispatched once more when it allows that (R365); otherwise its job ends with the status. -/
def State.retryOrEnd (s : State) (c status cause : Nat) : State :=
  let x := s.ctx c
  match s.hg.jr.find? fun e => e.ctx == c && e.st == .dispatched with
  | some e =>
    if bit e.flags 2 && !e.retried then
      let s := (s.dropJob c).freeCtx c
      (s.setJ e { e with st := .accepted, ctx := 0xFFFF, retried := true }).bump (A.HG_P_RETRIED x.part)
    else s.endJob c status cause
  | none => s.endJob c status cause

/-- Has the job nothing left that its end waits for (R105, R131, R357, R358)? Its threads are idle or stopped, its engine commands have returned, its stores are performed, its reply slots are free, and its packet is accepted (R350). One that is being stopped for a save has ended too where nothing of it was withdrawn (R382). -/
def State.jobOver (s : State) (c : Nat) : Bool :=
  let x := s.ctx c
  x.slots.isEmpty && !s.gatedCtx c && !(s.ebuf.any fun d => d.ctx == c) && !(s.eng.q.any fun q => q.cmd.ctx == c) && !(s.runs.any fun r => r.cmd.ctx == c) &&
  (match s.job c with
  | none => x.kill.isSome
  | some j =>
    (j.ending || (x.st == 1 && (j.running || !(s.hg.wdrawn.any fun w => w.cmd.ctx == c)))) &&
    (j.saved || j.tiles.all fun t => (List.range 16).all fun n =>
      let u := s.thread t n
      (j.ending || u.st == .idle) && !(u.acc.any Acc.isStore)))

/-! ### Retirement (R617, R618) -/

/-- The groups whose flattened set holds a tile. -/
def State.groupsOf (s : State) (t : Nat) : List Nat := (s.grpEs.filter fun g => (s.groupTiles g.id).contains t).map (·.id)

/-- The contexts of started jobs of some groups in a state (1 RUNNING, 2 SAVED). -/
def State.groupJobs (s : State) (gs : List Nat) (st : Nat) : List Nat :=
  (s.hg.ctx.filter fun kv => gs.contains kv.2.grp && kv.2.started && kv.2.st == st).map (·.1)

/-- A group left with no tile (R618): its rings are disabled and its ACCEPTED packets complete. -/
def State.emptyGroup (s : State) (g : Nat) : State :=
  let rings := (s.ringEs.filter fun re => re.group == g).flatMap fun re => (List.range re.count).map fun i => re.first + i
  let s := rings.foldl (fun s r => s.disableRing r) s
  (s.hg.jr.filter fun e => rings.contains e.ring && e.st == .accepted).foldl (fun s e => s.finish e 0xFFFF 5 0x30 0) s

/-- Retire a tile (R617, R618): it leaves its groups, whose ranks are given again and which are held until ACK; its SAVED jobs end; entries that map its T0 window are POISONED; the record is RETIRED. `synd` and the job of `e` go into the record; CAUSE 1 is a verdict, 2 software. -/
def State.retireTile (s : State) (t cause : Nat) (e : ClsE) : State :=
  let gs := s.groupsOf t
  let p := s.tilePart t
  let s := (s.groupJobs gs 2).foldl (fun s c => s.killJob c 5 0x30) s
  let s : State := { s with retired := NSet.add t s.retired,
                            hg := { s.hg with maps := gs.foldl (fun m g => Tab.set m [] g []) s.hg.maps,
                                              held := gs.foldl (fun h g => NSet.add g h) s.hg.held } }
  let s := s.fset (A.FL_RETIRED (t / 32)) (t % 32, t % 32) 1
  let s := s.poisonEnts fun w => entTier w == 0 && entFrame w % 128 == t
  let s := gs.foldl (fun s g => (s.fset (A.HG_SCH_WEAR_CTRL g) F.HG_SCH_WEAR_CTRL_PROPOSED 0).fset (A.HG_SCH_WEAR_CTRL g) F.HG_SCH_WEAR_CTRL_COMMIT 0) s
  let s := (gs.filter fun g => (s.groupTiles g).isEmpty).foldl (fun s g => s.emptyGroup g) s
  s.fsr 0x06 { domain := 16 + t / 8, tenant := p.map (·.tenant), unit := t, part := (p.map (·.id)).getD 0xFF, cls := 2, ctx := e.ctx,
               ring := e.ring, seq := e.seq, cause := cause, synd := e.synd }

/-- Retirements by software take effect once no running job of their groups is left and no plat is being applied (R59, R618). -/
def State.retireDue (s : State) : State :=
  if s.plat.shadow.isSome then s
  else
    let due := s.fl.retiring.filter fun e => (s.groupJobs (s.groupsOf e.unit) 1).isEmpty
    due.foldl (fun s e => if s.retired.has e.unit then s else s.retireTile e.unit 2 e)
      { s with fl := { s.fl with retiring := s.fl.retiring.filter fun e => !due.contains e } }

/-- Engine commands of an ending job that were withdrawn never run; those still queued run to their results (R131, R390). -/
def State.isRetry (x : Ctx) : Bool := match x.kill with
  | some (_, k) => k == 0x30
  | none => false

/-- The last end condition of a context's job holds (R105, R356 to R358). -/
def State.jobEnd (s : State) (ctx : Nat) : State :=
  let x := s.ctx ctx
  if (x.st ≠ 1 ∧ x.st ≠ 2) ∨ !s.isOn 13 ∨ !s.jobOver ctx then s
  else
    let (st, k) := s.statusNow ctx
    needOn (s.journalDoms x.part) s (if State.isRetry x && k == 0x30 then s.retryOrEnd ctx st k else s.endJob ctx st k).retireDue

/-! ### The start of a job (R102, R103, R353, R355, R378, R379, R388, R398) -/

/-- A committed exchange takes effect (R398). -/
def State.wearApply (s : State) (g : Nat) : State :=
  let a := A.HG_SCH_WEAR_CTRL g
  let busy := s.hg.ctx.any fun kv => kv.2.grp == g && kv.2.started && (kv.2.st == 1 || kv.2.st == 2)
  if s.flag a F.HG_SCH_WEAR_CTRL_COMMIT && s.flag a F.HG_SCH_WEAR_CTRL_PROPOSED && !busy then
    let m := s.rankMap g
    let i := s.fget (A.HG_SCH_WEAR_SWAP g) F.HG_SCH_WEAR_SWAP_RANK_A
    let j := s.fget (A.HG_SCH_WEAR_SWAP g) F.HG_SCH_WEAR_SWAP_RANK_B
    let m := listSet (listSet m i (m.getD j 0)) j (m.getD i 0)
    let s := { s with hg := { s.hg with maps := Tab.set s.hg.maps [] g m } }
    ((s.fset a F.HG_SCH_WEAR_CTRL_APPLIED 1).fset a F.HG_SCH_WEAR_CTRL_PROPOSED 0).fset a F.HG_SCH_WEAR_CTRL_COMMIT 0
  else s

/-- What reading the program table gives (R353). -/
inductive Prog where
  | entries (l : List Nat)
  | fault
  | poison
  | wait
  deriving DecidableEq, Repr

/-- Read each rank's entry, each tile through its own view (R353); a cluster that is Off holds no line. -/
def State.readProg (s : State) (n prog : Nat) (tiles : List Nat) : State × Prog :=
  match s.reach (viaHome n) prog (8 * tiles.length) false locNear with
  | .bad => (s, .fault)
  | .moving _ => (s, .wait)
  | .ok ds =>
    match s.admits ds with
    | .refused => (s, .fault)
    | .wait => (s.domTouch ds, .wait)
    | .run =>
      let r := (List.range tiles.length).foldl (fun (a : State × List (List PByte)) r =>
        let v := if (a.1.dom (16 + tiles.getD r 0 / 8)).st = .off then viaHome n else a.1.viaTile (tiles.getD r 0)
        match a.1.readBytes v (prog + 8 * r) 8 with
        | (s, b) => (s, a.2 ++ [b])) (s.domTouch ds, [])
      if r.2.any fun b => b.any (·.2) then (r.1, .poison) else (r.1, .entries (r.2.map fun b => pnat b 0 8))

/-- Thread 0 of a tile at release (R103). -/
def Thread.released (c rank n hdr plen tval entry cyc : Nat) : Thread :=
  let t : Thread := { Thread.idle with st := .ready, pc := BitVec.ofNat 64 (entry / 4 * 4), cyc0 := cyc }
  [(1, c), (2, rank), (3, n), (4, hdr), (5, plen), (6, tval)].foldl
    (fun t p => t.setX (BitVec.ofNat 5 p.1) (BitVec.ofNat 64 p.2) false) t

/-- The tile cycles of a cluster (R137, R482). -/
def State.tileCycles (s : State) (tile : Nat) : Nat := Tab.get s.ticks 0 (tile / 8) / 2560

/-- Dispatch to a tile (R478): where its cluster is not On, thread 0 of the tile stands STALLED behind the cluster's wake, or takes ACCESS at once when the domain does not wake on an access. -/
def State.dispatchTo (s : State) (tile : Nat) : State :=
  let ds := [16 + tile / 8]
  let t := s.thread tile 0
  match s.domCheck ds with
  | .go => s.domTouch ds
  | .refuse => s.raise tile 0 excAccess 0 t.pc
  | .wait down =>
    { (s.domTouch ds).setThread tile 0 { t with st := .stalled, hold := .wake down 1, holdVa := t.pc } with
      stallq := s.stallq ++ [(tile * 16, 0)] }

/-- Release a job onto the tiles of its group (R102, R103). -/
def State.release (s : State) (c : Nat) (tiles entries : List Nat) : State :=
  let x := s.ctx c
  let n := ((s.partE x.part).map (·.tenant)).getD 0
  let s := s.setJob c (some ⟨tiles, n, x.part, true, false, x.kill.isSome, [], [], [], [], []⟩)
  let s := (List.range tiles.length).foldl (fun s r =>
    let t := tiles.getD r 0
    let s := s.setTile t { s.tile t with job := some c }
    let s := (List.range 16).foldl (fun s k =>
      (s.setThread t k { Thread.idle with cyc0 := s.tileCycles t }).wr (A.TI_EXC_CAUSE t k) 0) s
    s.setThread t 0 (Thread.released c r tiles.length x.hdr x.plen x.tval (entries.getD r 0) (s.tileCycles t))) s
  tiles.foldl (fun s t => s.dispatchTo t) s

/-- A slice begins (R381, R388): debt shortens it by at most three quarters. -/
def State.beginSlice (s : State) (p c : Nat) : State :=
  match s.partE p with
  | none => s
  | some e =>
    let x := s.ctx c
    let repay := min x.debt (e.sliceUs * 750)
    let s := s.setCtx c { x with debt := x.debt - repay }
    let s := s.setSch p { s.sch p with phase := .run, t0 := s.now, slice := e.sliceUs * 1000 - repay }
    if e.policy = 1 then s.fadd (A.HG_SCH_SLICES p) (63, 0) 1 else s

/-- A job's program cannot be read (R353, R355): it ends before any instruction runs. -/
def State.progFail (s : State) (c status cause : Nat) : State :=
  let x := s.ctx c
  let s := if x.tick then s.tickFail x.part ((s.ringEs.find? fun e => decide (e.ctx0 ≤ c) && decide (c < e.ctx0 + e.ctxN)).map (·.first) |>.getD 0) c cause else s
  s.endJob c status 0x12

/-- JOB_START (R379): the bound job of a partition that has waited longest starts when no job holds the tiles. One that is gated (R350) ends for its program only once its packet is accepted. -/
def execJobStart (part : Nat) (s : State) : Out :=
  let h := s.sch part
  match h.cur, s.nextWaiting part with
  | none, some c =>
    let x := s.ctx c
    if x.st ≠ 1 ∨ x.kill.isSome ∨ !s.accepting then .next s
    else
      let s := s.wearApply x.grp
      let tiles := s.rankMap x.grp
      .next (match s.readProg (((s.partE part).map (·.tenant)).getD 0) x.program tiles with
        | (s, .wait) => s
        | (s, .fault) => if s.gatedCtx c then s else s.progFail c 5 2
        | (s, .poison) => if s.gatedCtx c then s else s.progFail c 1 3
        | (s, .entries es) =>
          let s := s.setCtx c { s.ctx c with started := true, release := s.time, since := s.now }
          let s := s.setSch part { h with cur := some c, waiting := h.waiting.filter fun d => d != c }
          (s.release c tiles es).beginSlice part c)
  | _, _ => .next s

/-! ### Reply slots (R370 to R372, R394) -/

/-- A reply slot. -/
def Ctx.slot (x : Ctx) (i : Nat) : RSlot := Tab.get x.slots RSlot.free i

/-- Write a reply slot of a context. -/
def State.setSlot (s : State) (c i : Nat) (r : RSlot) : State :=
  s.setCtx c { s.ctx c with slots := Tab.set (s.ctx c).slots RSlot.free i r }

/-- The value a slot's data gives its register, extended by SIZE (R371). -/
def RSlot.value (r : RSlot) : Word :=
  if r.sx then BitVec.ofInt 64 (sgn (8 * r.size) r.data) else BitVec.ofNat 64 (r.data % 2 ^ (8 * r.size))

/-- Consume a done slot in the thread it serves (R372): a load or atomic writes its register and the thread goes on, or raises its exception at its instruction; a store's error is kept for the thread's next point, or, where a TEND left the store behind, recorded with that TEND (R129). -/
def State.consumeSlot (s : State) (c i : Nat) : State :=
  let r := (s.ctx c).slot i
  match s.job c with
  | none => s.setSlot c i RSlot.free
  | some j =>
    let tile := j.tiles.getD r.rank 0
    let t := s.thread tile r.thr
    let tend := ((t.acc.find? fun a => r.acc != 0 && a.id == r.acc).bind (·.tend)).orElse fun _ => r.tend
    let t := { t with acc := t.acc.filter fun a => !(r.acc != 0 && a.id == r.acc) }
    let s := s.setSlot c i RSlot.free
    if r.kind = 2 then
      if r.code = 0 then s.setThread tile r.thr t
      else match tend with
      | some pc => (s.setThread tile r.thr t).recordExc tile r.thr excStore r.code pc (BitVec.ofNat 64 r.data) |>.noteStat c (excStatus excStore r.code) excStore
      | none => s.setThread tile r.thr { t with serr := t.serr ++ [⟨r.code, BitVec.ofNat 64 r.data⟩] }
    else
      let t := { t with st := .ready, hold := .none }
      if r.code = 0 then s.setThread tile r.thr { t.setX (BitVec.ofNat 5 r.reg) r.value r.psn with pc := t.pc + 4, instret := t.instret + 1 }
      else (s.setThread tile r.thr t).raise tile r.thr r.code 0 t.holdVa

/-- A reply or its timeout lands in a pending slot (R372). When its job runs again, it is applied to the tile at once. -/
def State.landSlot (s : State) (c i : Nat) (data code : Nat) (psn : Bool) : State :=
  let r := (s.ctx c).slot i
  let s := s.setSlot c i { r with st := 2, data := if r.kind = 2 then r.data else data % 2 ^ 64, code := code, psn := psn }
  let s := { s with reqs := s.reqs.filter fun q => q.slot != some (c, i) }
  match s.job c with
  | some j => if j.running then s.consumeSlot c i else s
  | none => s.setSlot c i RSlot.free

/-- REPLY_ARRIVAL (R372, R394, R684): a remote reply for a reply slot arrives, naming the request's tag; one whose slot is done or free is discarded and counted. The thread's cluster wakes first when its job runs. -/
def execReplyArrival (ctx slot tag data code : Nat) (psn : Bool) (s : State) : Out :=
  let r := (s.ctx ctx).slot slot
  if r.st ≠ 1 ∨ r.tag ≠ tag ∨ 64 ≤ slot then .next (s.bump A.HG_LATE_REPLY)
  else match s.job ctx with
  | some j => if j.running then .next (needOn [16 + j.tiles.getD r.rank 0 / 8] s (s.landSlot ctx slot data code psn)) else .next (s.landSlot ctx slot data code psn)
  | none => .next (s.landSlot ctx slot data code psn)

/-- A request has timed out (R531, R532): GEN of its access slot increments, and the slot stays reserved. -/
def State.reserveWire (s : State) (q : RReq) : State :=
  match q.wire with
  | some (w, _, _) => { s with bl := { s.bl with gens := Tab.set s.bl.gens 0 w ((Tab.get s.bl.gens 0 w + 1) % 16), reserved := s.bl.reserved ++ [(w, q.since)] } }
  | none => s

/-- The request under a reply slot times out. -/
def State.reserveSlot (s : State) (c i : Nat) : State := (s.reqs.filter fun q => q.slot == some (c, i)).foldl (fun s q => s.reserveWire q) s

/-- REPLY_SLOT_TIMEOUT (R372, R532): the link-level timeout passes for a pending slot. -/
def execReplySlotTimeout (ctx slot : Nat) (s : State) : Out :=
  let r := (s.ctx ctx).slot slot
  let land := fun (s : State) => (s.reserveSlot ctx slot).landSlot ctx slot 0 excRemote false
  if r.st ≠ 1 ∨ s.now < r.since + s.blTimeout then .next s
  else match s.job ctx with
  | some j => if j.running then .next (needOn [16 + j.tiles.getD r.rank 0 / 8] s (land s)) else .next (land s)
  | none => .next (land s)

/-- The remote parts of a thread's outstanding scalar accesses and stores that a save turns into reply slots (R370): those with nothing local left to perform. -/
def Thread.slotAccs (t : Thread) : List Acc :=
  t.acc.filter fun a => (a.tend.isNone || a.isStore) && a.todo.flatten.all (fun p => p.tag != 0) &&
    match a.kind with
    | .vload _ => false
    | _ => !a.todo.isEmpty

/-- The free reply slots of a context, ascending (R370). -/
def Ctx.freeSlots (x : Ctx) : List Nat := (List.range 64).filter fun i => (x.slot i).st == 0

/-- Turn one part of an outstanding access into a reply slot (R370, R371); the part's request goes on under it. -/
def State.toSlot (s : State) (c rank thr : Nat) (a : Acc) (p : Part) : State :=
  match (s.ctx c).freeSlots with
  | [] => s
  | i :: _ =>
    let tag := p.tag - 1
    let since := match s.reqs.find? fun q => q.tag == tag with
      | some q => q.since
      | none => s.now
    let r : RSlot := match a.kind with
      | .load rd n sx => ⟨1, 0, rank, thr, rd, 0, false, n, sx, 0, tag, since, 0, none⟩
      | .amo _ rd n => ⟨1, 1, rank, thr, rd, 0, false, n, true, 0, tag, since, 0, none⟩
      | _ => ⟨1, 2, rank, thr, 0xFF, 0, false, p.n, false, p.va.toNat, tag, since, 0, a.tend⟩
    { s.setSlot c i r with reqs := s.reqs.map fun q => if q.tag = tag then { q with slot := some (c, i), data := if q.kind = .read then [p.loc.key % 128, p.n] else q.data } else q }

/-- Turn the outstanding remote accesses of a stopped job into reply slots, as far as slots are free (R370). -/
def State.toSlots (s : State) (c : Nat) (j : Job) : State :=
  (List.range j.tiles.length).foldl (fun s r =>
    let tile := j.tiles.getD r 0
    (List.range 16).foldl (fun s n =>
      (s.thread tile n).slotAccs.foldl (fun s a =>
        let ps := a.todo.flatten
        if (s.ctx c).freeSlots.length < ps.length then s
        else
          let t := s.thread tile n
          if t.acc.any fun b => b.id == a.id then
            ps.foldl (fun s p => s.toSlot c r n a p) (s.setThread tile n { t with acc := t.acc.filter fun b => b.id != a.id })
          else s) s) s) s

/-- Slots that stayed pending at an earlier resumption leave the thread's access at the next save (R372). -/
def State.detachSlots (s : State) (c : Nat) (j : Job) : State :=
  (List.range 64).foldl (fun s i =>
    let r := (s.ctx c).slot i
    if r.st = 1 ∧ r.acc ≠ 0 then
      let tile := j.tiles.getD r.rank 0
      let t := s.thread tile r.thr
      let tend := (t.acc.find? fun a => a.id == r.acc).bind (·.tend)
      (s.setThread tile r.thr { t with acc := t.acc.filter fun a => a.id != r.acc }).setSlot c i { r with acc := 0, tend := tend }
    else s) s

/-! ### Slices, saving and restoring (R381 to R393) -/

/-- The ranks a context's save area must hold: the size of the group its ring allocation entry names (R393). -/
def State.saveRanks (s : State) (c : Nat) : Nat :=
  match s.ringEs.find? fun e => decide (e.ctx0 ≤ c) && decide (c < e.ctx0 + e.ctxN) with
  | some e => (s.rankMap e.group).length
  | none => 0

/-- Does a context's SAVE_ADDR keep the rules of R393? -/
def State.saveOk (s : State) (c n : Nat) : Bool :=
  let a := (s.ctx c).save
  let ar := area a 1
  decide (a < 2 ^ 43) && a % 4096 == 0 && (ar == .t1 || ar == .obj) &&
  (match s.reach (viaHome n) a (4096 + 131072 * s.saveRanks c) true locNear with
  | .bad => false
  | _ => true)

/-- A save that is not possible (R383): counted and recorded. -/
def State.noSave (s : State) (p c : Nat) : State :=
  let x := s.ctx c
  (s.bump (A.HG_SCH_NOSAVE p)).fsr 0x0F
    { domain := 13, tenant := (s.partE p).map (·.tenant), part := p, ctx := c, ring := x.ring, seq := x.seq }

/-- Withdraw every command of a job that has not started executing (R390 step 3). -/
def State.withdraw (s : State) (c p : Nat) : State :=
  let queued := (s.eng.q.filter fun q => q.cmd.ctx == c).map fun q =>
    Wdrawn.mk q.cmd (findIdx (fun x => x.cmd.same q.cmd) (s.queueOf q.cmd.eng (engUnit q.cmd.eng q.cmd.tile)) 0)
  let buffered := (s.ebuf.filter fun d => d.ctx == c).map fun d => Wdrawn.mk d none
  let w := queued ++ buffered
  let s := queued.foldl (fun s q => s.haloRelease q.cmd) s
  let s := { s with eng := { s.eng with q := s.eng.q.filter fun q => q.cmd.ctx != c }, ebuf := s.ebuf.filter fun d => d.ctx != c,
                    hg := { s.hg with wdrawn := s.hg.wdrawn ++ w } }
  s.fadd (A.HG_SCH_WITHDRAWN p) (31, 0) w.length

/-- Place withdrawn commands back ahead of new ones (R383, R391): those from engine queues first in queue order, then those from tile buffers. -/
def State.replace (s : State) (w : List Wdrawn) : State :=
  let byOrder := (List.range 16).flatMap fun i => w.filter fun x => x.order == some i
  let cmds := (byOrder ++ w.filter fun x => x.order.isNone).map (·.cmd)
  let s := { s with ebuf := cmds ++ s.ebuf }
  cmds.foldl (fun s c => if c.eng = 0 then s else s.engFill c.eng (engUnit c.eng c.tile) 16) s

/-- SLICE_END (R381 to R383, R390): the slice of a partition's running job expires. It continues when no other job waits or it cannot be saved; otherwise it stops, its commands that have not started are withdrawn and its remote accesses take reply slots. -/
def execSliceEnd (part : Nat) (s : State) : Out :=
  let h := s.sch part
  match s.partE part, h.cur with
  | some e, some c =>
    if e.policy ≠ 1 ∨ h.phase ≠ .run ∨ s.gatedCtx c ∨ s.now < h.t0 + h.slice * 256 ∨ (s.ctx c).kill.isSome then .next s
    else match s.job c with
    | none => .next s
    | some j =>
      if j.ending || s.jobOver c then .next s
      else if h.waiting = [] then .next (s.beginSlice part c)
      else if !s.saveOk c j.tenant then .next ((s.noSave part c).beginSlice part c)
      else
        let s := s.setSch part { h with phase := .stop, tEnd := s.now }
        let s := s.setJob c (some { j with running := false })
        let s := (s.withdraw c part).detachSlots c j
        let s := s.toSlots c j
        let left := (j.tiles.flatMap fun t => (List.range 16).map fun n => (s.thread t n).slotAccs.length).foldl (· + ·) 0
        .next (if left = 0 then s else s.bump (A.HG_P_REPLY_WAIT part))
  | _, _ => .next s

/-- The level of the slowest cluster of some tiles, by the clocks in force (R389, R482). -/
def State.slowest (s : State) (ts : List Nat) : Nat := ts.foldl (fun m t => min m (s.clkLevel (t / 8))) 3

/-- Has a thread an instruction that issued and stands stalled behind a wake or a move, or is to proceed after one (R387)? -/
def State.midInstr (s : State) (tile n : Nat) : Bool :=
  let t := s.thread tile n
  (t.st == .stalled && t.hold.charge.isSome) ||
  s.resumeq.any fun e => e.2.1 == tile * 16 + n && e.2.2 == 0

/-- JOB_QUIESCENT (R370, R387, R389): nothing of a stopping job is left in its tiles; slice debt is charged. `stalled` is the part of the debt spent in WAKE and MIGRATE stalls (ns). -/
def execJobQuiescent (part stalled : Nat) (s : State) : Out :=
  let h := s.sch part
  match h.cur, h.phase with
  | some c, .stop =>
    (match s.job c with
    | none => .next s
    | some j =>
      if j.ending || s.jobOver c then .next s
      else
        let s := s.toSlots c j
        if (s.runs.any fun r => r.cmd.ctx == c) || (j.tiles.any fun t => (List.range 16).any fun n => !(s.thread t n).acc.isEmpty || s.midInstr t n) then .next s
        else
          let debt := (s.now - h.tEnd) / 256 - 1000
          let x := s.ctx c
          let s := s.setCtx c { x with debt := satAdd 32 x.debt debt }
          let s := s.fadd (A.HG_SCH_DEBT_NS part) (63, 0) debt
          let s := if (s.rd (A.HG_SCH_MAX_DEBT_NS part)).toNat < debt then s.wr (A.HG_SCH_MAX_DEBT_NS part) (BitVec.ofNat 64 (min debt (2 ^ 32 - 1))) else s
          let s := if overrun 50000 (s.slowest j.tiles) (debt - stalled) then
              (s.bump (A.HG_SCH_SLICE_OVERRUN part)).fsr 0x0E
                { domain := 13, tenant := some j.tenant, part := part, ctx := c, ring := x.ring, seq := x.seq, cause := 2 }
            else s
          .next (s.setSch part { h with phase := .save, tEnd := s.now }))
  | _, _ => .next s

/-- Zero bytes. -/
def zeros (n : Nat) : List PByte := List.replicate n (0, false)

/-- Clean little-endian bytes of a number. -/
def le (n v : Nat) : List PByte := clean (natLe n v)

/-- Little-endian bytes of a number that carries a poison mark or not (R393: every stored value carries its mark into the save area). -/
def lep (n v : Nat) (p : Bool) : List PByte := (natLe n v).map fun b => (b, p)

/-- The mark of a value read back from a save area: its own recorded mark `f r`, or the poison of its granule where no value of that granule (`k` values each) had a mark when it was saved (R393, R608). -/
def backMark (f : Nat → Bool) (k r : Nat) (g : Bool) : Bool := f r || (g && !((List.range k).any fun i => f (r / k * k + i)))

/-- Pad a byte string with zeros to a length. -/
def padTo (n : Nat) (l : List PByte) : List PByte := l ++ zeros (n - l.length)

/-- A thread state's number (R132). -/
def TState.num : TState → Nat
  | .idle => 0 | .ready => 1 | .waitMsg => 2 | .waitEng => 3 | .stalled => 4 | .saved => 5 | .halted => 6

/-- A message as 64 bytes; its marks go with its words (R393). -/
def Msg.bytes (m : Msg) : List PByte :=
  (natLe 8 m.hdr.toNat).map (fun b => (b, m.hpsn)) ++
  (List.range 7).flatMap fun i => (natLe 8 (m.pay.getD i 0).toNat).map fun b => (b, m.ppsn.getD i false)

/-- A message read back from its 64 bytes. -/
def msgOfBytes (b : List PByte) : Msg :=
  ⟨BitVec.ofNat 64 (pnat b 0 8), (List.range 7).map fun i => BitVec.ofNat 64 (pnat b (8 + 8 * i) 8), ppsn b 0 8,
   (List.range 7).map fun i => ppsn b (8 + 8 * i) 8⟩

/-- A mask of poison marks over 32 positions. -/
def markWord (f : Nat → Bool) : Nat := maskOf ((List.range 32).filter f)

/-- A thread's block of a save area (R393). -/
def State.saveThread (s : State) (tile n : Nat) : List PByte :=
  let t := s.thread tile n
  let x (r : Nat) : Nat := if r = 0 then 0 else (Tab.get t.x 0 r).toNat
  let slot (i : Nat) : List PByte := match Tab.get t.slots none i with
    | some sl => le 8 (engHandle i sl.eng sl.seq).toNat ++ le 8 ((sl.res.map (·.toNat)).getD 0)
    | none => zeros 16
  let a := ((List.range 32).flatMap fun r => lep 8 (x r) (r != 0 && t.xp.has r)) ++
    ((List.range 1024).flatMap fun i => lep 4 (Tab.get t.v 0 i).toNat (t.vp.has i)) ++
    le 4 (markWord fun r => r != 0 && t.xp.has r) ++
    le 4 (t.st.num + 8 * b2n t.hmode + 16 * t.credits) ++ le 8 t.pc.toNat ++
    ((List.range 8).flatMap fun r => le 4 (if r = 0 then 0xFFFFFFFF else (Tab.get t.p 0 r).toNat)) ++
    ((List.range 32).flatMap fun r => le 4 (markWord fun i => t.vp.has (32 * r + i))) ++
    le 8 t.handler.toNat ++ le 8 t.epc.toNat ++ le 8 (t.cause + 16 * t.sub + 256 * b2n t.hmode) ++ le 8 t.eaddr.toNat ++
    le 8 (s.cycles tile t) ++ le 8 t.instret ++
    le 8 (if t.st = .waitMsg ∨ (t.st = .waitEng ∧ t.waitAcc = none) then t.deadline.toNat else 0) ++ le 8 (t.seq + 1) ++ zeros 16 ++
    ((List.range 8).flatMap slot)
  let m := padTo 512 (t.mq.flatMap Msg.bytes) ++ padTo 256 (t.bq.flatMap Msg.bytes) ++
    le 2 (t.mq.length + 16 * t.bq.length + 128 * t.serr.length) ++ zeros 6 ++
    padTo 512 (t.serr.flatMap fun e => le 8 e.sub ++ le 8 e.addr.toNat)
  padTo 6144 (a ++ m)

/-- A tile's block of a save area (R393). -/
def State.saveTile (s : State) (tile : Nat) (w : List Wdrawn) : List PByte :=
  let x := s.tile tile
  let mine := w.filter fun d => d.cmd.tile == tile
  padTo 131072 (((List.range 16).flatMap fun n => s.saveThread tile n) ++
    ((List.range 4096).flatMap fun i => lep 4 (Tab.get x.acc 0 i).toNat (x.accp.has i)) ++
    ((List.range 512).flatMap fun i => le 1 (maskOf ((List.range 8).filter fun b => x.accp.has (8 * i + b)))) ++
    ((List.range 256).flatMap fun i => le 4 (s.rd (A.MX_ACT_CFG tile 0 + 4 * i)).toNat) ++
    padTo 2560 (mine.flatMap fun d =>
      le 8 (engHandle d.cmd.slot d.cmd.eng d.cmd.seq).toNat ++ le 1 d.cmd.thr ++ le 1 d.cmd.eng ++ zeros 2 ++
      le 4 (d.order.getD 0xFFFFFFFF) ++ padTo 64 (clean d.cmd.desc)) ++
    le 4 mine.length)

/-- Write the save area of a job (R390 step 6, R393). -/
def State.writeSave (s : State) (c : Nat) (j : Job) : State :=
  let a := (s.ctx c).save
  let w := s.hg.wdrawn.filter fun d => d.cmd.ctx == c
  let s := s.writeHome j.tenant a (padTo 4096 (le 4 j.tiles.length ++ le 4 1 ++ le 8 s.time))
  let s := (List.range j.tiles.length).foldl (fun s r => s.writeHome j.tenant (a + 4096 + 131072 * r) (s.saveTile (j.tiles.getD r 0) w)) s
  { s with hg := { s.hg with wdrawn := s.hg.wdrawn.filter fun d => d.cmd.ctx != c } }

/-- Give the reply slots of a job that goes on to its threads (R372): done slots are consumed; a pending one keeps its thread or store outstanding. -/
def State.resumeSlots (s : State) (c : Nat) (j : Job) : State :=
  (List.range 64).foldl (fun s i =>
    let r := (s.ctx c).slot i
    if r.st = 2 then s.consumeSlot c i
    else if r.st = 1 then
      let tile := j.tiles.getD r.rank 0
      let t := s.thread tile r.thr
      let id := t.accId + 1
      let part : Part := ⟨0, .lost 3, BitVec.ofNat 64 r.data, r.size, 0, false, r.tag + 1⟩
      let kind : AccKind := if r.kind = 0 then .load r.reg r.size r.sx else if r.kind = 1 then .amo 0 r.reg r.size else .store false
      let t := { t with accId := id, acc := t.acc ++ [⟨id, kind, [[part]], [], [], 3, 0, r.tend, s.arb.stamp, s.now, none⟩] }
      let t := if r.kind = 2 then t else { t with st := .stalled, hold := .link }
      (s.stamped.setThread tile r.thr t).setSlot c i { r with acc := id, tend := none }
    else s) s

/-- The threads of a job that could not be saved go on, and its commands return to the head of their buffers (R383). -/
def State.unsave (s : State) (p c : Nat) (j : Job) : State :=
  let w := s.hg.wdrawn.filter fun d => d.cmd.ctx == c
  let s := { s with hg := { s.hg with wdrawn := s.hg.wdrawn.filter fun d => d.cmd.ctx != c } }
  let s := s.setJob c (some { j with running := true })
  ((s.resumeSlots c j).replace w).beginSlice p c

/-- SAVE_WRITTEN (R383, R390, R392): the save area is written, the context becomes SAVED and the next job comes. `fail`: the first write received an error response. -/
def execSaveWritten (part : Nat) (fail : Bool) (s : State) : Out :=
  let h := s.sch part
  match h.cur, h.phase with
  | some c, .save =>
    (match s.job c with
    | none => .next s
    | some j =>
      if j.ending || s.jobOver c then .next s
      else if fail then .next ((s.noSave part c).unsave part c j)
      else
        let n := (List.range j.tiles.length).foldl (fun (m : Tab Nat) r =>
          (List.range 16).foldl (fun m k => Tab.set m 0 (r * 16 + k) (s.thread (j.tiles.getD r 0) k).mq.length) m) []
        let s := s.writeSave c j
        let s := s.clearTiles j.tiles
        let s := s.setJob c (some { j with saved := true, running := false, savedMq := n })
        let s := s.setCtx c { s.ctx c with st := 2 }
        let s := s.fadd (A.HG_SCH_SAVES part) (63, 0) 1
        let s := s.fadd (A.HG_SCH_SAVE_NS part) (63, 0) ((s.now - h.tEnd) / 256)
        .next ((s.setSch part { h with cur := none, phase := .run, waiting := h.waiting ++ [c] }).admitNext part))
  | _, _ => .next s

/-- A thread read back from its block (R391, R392, R393). A thread that was STALLED executes its instruction again, unless a reply slot holds its access. -/
def State.restoreThread (s : State) (tile : Nat) (b : List PByte) (held heldB : List Msg) (back : Nat) : Thread :=
  let stw := pnat b 0x1104 4
  let st := stw % 8
  let counts := pnat b 0x1580 2
  let mq := ((List.range (counts % 16)).map fun i => msgOfBytes ((b.drop (0x1280 + 64 * i)).take 64)) ++ held
  let bq := ((List.range (counts / 16 % 8)).map fun i => msgOfBytes ((b.drop (0x1480 + 64 * i)).take 64)) ++ heldB
  let cause := pnat b 0x11C0 8
  let slots : Tab (Option Slot) := (List.range 8).foldl (fun m i =>
    let h := pnat b (0x1200 + 16 * i) 8
    let r := pnat b (0x1208 + 16 * i) 8
    Tab.set m none i (if h = 0 then none else some ⟨h / 8 % 16, h / 256, if r = 0 then none else some (BitVec.ofNat 64 r)⟩)) []
  let arg : Word := BitVec.ofNat 64 (pnat b 0x11E0 8)
  let ready := st == 4 || (st == 2 && !(mq.isEmpty && bq.isEmpty)) ||
    (st == 3 && !((Tab.get slots none (arg.toNat % 8)).any fun sl => engHandle (arg.toNat % 8) sl.eng sl.seq == arg && sl.res.isNone))
  { st := if st = 0 then .idle else if st = 1 ∨ ready then .ready else if st = 2 then .waitMsg else .waitEng
    pc := BitVec.ofNat 64 (pnat b 0x1108 8)
    x := (List.range 32).foldl (fun m r => if r = 0 then m else Tab.set m 0 r (BitVec.ofNat 64 (pnat b (8 * r) 8))) []
    xp := (List.range 32).filter fun r => r != 0 && backMark (fun r => bit (pnat b 0x1100 4) r) 2 r (ppsn b (8 * r) 8)
    v := (List.range 1024).foldl (fun m i => Tab.set m 0 i (BitVec.ofNat 32 (pnat b (0x100 + 4 * i) 4))) []
    vp := (List.range 1024).filter fun i => backMark (fun i => bit (pnat b (0x1130 + 4 * (i / 32)) 4) (i % 32)) 4 i (ppsn b (0x100 + 4 * i) 4)
    p := (List.range 8).foldl (fun m r => if r = 0 then m else Tab.set m 0 r (BitVec.ofNat 32 (pnat b (0x1110 + 4 * r) 4))) []
    handler := BitVec.ofNat 64 (pnat b 0x11B0 8)
    epc := BitVec.ofNat 64 (pnat b 0x11B8 8)
    cause := cause % 16
    sub := cause / 16 % 16
    eaddr := BitVec.ofNat 64 (pnat b 0x11C8 8)
    hmode := bit stw 3
    cyc0 := s.tileCycles tile - pnat b 0x11D0 8
    instret := pnat b 0x11D8 8
    credits := min 4 (stw / 16 % 8 + back)
    mq := mq
    bq := bq
    deadline := arg
    slots := slots
    seq := pnat b 0x11E8 8 - 1
    acc := []
    accId := 0
    serr := (List.range (counts / 128 % 64)).map fun i => ⟨pnat b (0x1588 + 16 * i) 8 % 16, BitVec.ofNat 64 (pnat b (0x1590 + 16 * i) 8)⟩
    hold := .none
    holdVa := 0
    waitAcc := none }

/-- Restore one tile of a job from its block, and give the commands it held withdrawn (R391). -/
def State.restoreTile (s : State) (c : Nat) (j : Job) (r : Nat) : State × List Wdrawn :=
  let tile := j.tiles.getD r 0
  let b := s.readHome j.tenant ((s.ctx c).save + 4096 + 131072 * r) 131072
  let s := (List.range 16).foldl (fun s n =>
    let k := r * 16 + n
    s.setThread tile n (s.restoreThread tile ((b.drop (0x1800 * n)).take 0x1800) (Tab.get j.held [] k) (Tab.get j.heldB [] k) (Tab.get j.credBack 0 k))) s
  let acc := (List.range 4096).foldl (fun (m : Tab Lane) i => Tab.set m 0 i (BitVec.ofNat 32 (pnat b (0x18000 + 4 * i) 4))) []
  let accp := (List.range 4096).filter fun i => backMark (fun i => bit (pnat b (0x1C000 + i / 8) 1) (i % 8)) 4 i (ppsn b (0x18000 + 4 * i) 4)
  let s := s.setTile tile ⟨some c, acc, accp, .none⟩
  let s := (List.range 256).foldl (fun s i => if i % 64 < 48 then s.wr (A.MX_ACT_CFG tile 0 + 4 * i) (BitVec.ofNat 64 (pnat b (0x1C200 + 4 * i) 4)) else s) s
  (s, (List.range (min 32 (pnat b 0x1D000 4))).map fun i =>
    let o := 0x1C600 + 80 * i
    let h := pnat b o 8
    let ord := pnat b (o + 12) 4
    ⟨⟨tile, pnat b (o + 8) 1, h % 8, h / 256, c, j.tenant, j.part, pnat b (o + 9) 1, ((b.drop (o + 16)).take 64).map (·.1)⟩,
     if ord < 16 then some ord else none⟩)

/-- RESTORE_DONE (R372, R391, R392): a restore completes and the context becomes RUNNING. -/
def execRestoreDone (part : Nat) (s : State) : Out :=
  let h := s.sch part
  match h.cur, h.phase with
  | some c, .restore =>
    (match s.job c with
    | none => .next s
    | some j =>
      if j.ending then .next s
      else .next (needOn ((j.tiles.map fun t => 16 + t / 8).eraseDups) s
        (let r := (List.range j.tiles.length).foldl (fun (a : State × List Wdrawn) r =>
          match a.1.restoreTile c j r with
          | (s, w) => (s, a.2 ++ w)) (s, [])
        let s := r.1.setJob c (some { j with saved := false, running := true, held := [], heldB := [], credBack := [], savedMq := [] })
        let s := (s.resumeSlots c j).replace r.2
        let s := s.setCtx c { s.ctx c with st := 1 }
        let s := s.fadd (A.HG_SCH_SAVE_NS part) (63, 0) ((s.now - h.tEnd) / 256)
        s.beginSlice part c)))
  | _, _ => .next s

/-! ### Ring commands (R373) -/

/-- A ring command (R373) written by tenant `n` for the ring it has selected. -/
def State.ringCmd (s : State) (n op : Nat) : State :=
  let r := s.fget (A.HG_RING_SEL n) F.HG_RING_SEL_RING
  let x := s.ringSt r
  if op = 0 ∨ 6 ≤ op then s.lockViolation (A.HG_RING_CMD n) 2
  else if s.ringTenant r ≠ some n then s.cmdRefused n
  else match op with
  | 1 => (s.setRing r { x with enabled := true }).rescan r
  | 2 => s.disableRing r
  | 3 =>
    if x.enabled then s.cmdRefused n
    else (s.hg.jr.filter fun e => e.ring == r && e.st == .accepted).foldl (fun s e => s.finish e 0xFFFF 4 0x20 0) s
  | 4 => (s.ringJobs r).foldl (fun s c => s.killJob c 4 0x20) s
  | _ =>
    if !s.drained r then s.cmdRefused n
    else
      let v := (s.rd (A.HG_RING_CMD_VALUE n)).toNat
      let p := s.ringProd r
      s.setRing r { x with acceptNext := v, completeNext := v, cons := p, release := p }

/-- A ring command by its row. -/
def ringRow (op : Nat) (who : Who) (n : Nat) (s : State) : Out :=
  if s.hgPageOk who n then .next (s.ringCmd n op) else .next s

/-- ENABLE (R373). -/
def execEnable (who : Who) (n : Nat) (s : State) : Out := ringRow 1 who n s
/-- DISABLE (R373). -/
def execDisable (who : Who) (n : Nat) (s : State) : Out := ringRow 2 who n s
/-- ABORT_QUEUED (R373). -/
def execAbortQueued (who : Who) (n : Nat) (s : State) : Out := ringRow 3 who n s
/-- ABORT_JOBS (R373). -/
def execAbortJobs (who : Who) (n : Nat) (s : State) : Out := ringRow 4 who n s
/-- SET_RESUME (R373). -/
def execSetResume (who : Who) (n : Nat) (s : State) : Out := ringRow 5 who n s

/-! ### Rank exchanges (R398, R400) -/

/-- May the requester reach the wear block of a group (R400)? -/
def State.wearOk (s : State) (who : Who) (g : Nat) : Bool :=
  match s.grpEs.find? fun e => e.id == g with
  | some e => (s.partE e.part).any fun p => who == .tenant p.tenant
  | none => false

/-- A write of HG_SCH_WEAR_CTRL (R400). -/
def State.wearWrite (s : State) (g v : Nat) : State :=
  let a := A.HG_SCH_WEAR_CTRL g
  let s := if bit v 3 then s.fset a F.HG_SCH_WEAR_CTRL_APPLIED 0 else s
  if bit v 2 then (s.fset a F.HG_SCH_WEAR_CTRL_PROPOSED 0).fset a F.HG_SCH_WEAR_CTRL_COMMIT 0
  else if bit v 1 && s.flag a F.HG_SCH_WEAR_CTRL_PROPOSED then s.fset a F.HG_SCH_WEAR_CTRL_COMMIT 1
  else s

/-- WEAR_COMMIT (R398). -/
def execWearCommit (who : Who) (group : Nat) (s : State) : Out := if s.wearOk who group then .next (s.wearWrite group 2) else .next s
/-- WEAR_DECLINE (R398). -/
def execWearDecline (who : Who) (group : Nat) (s : State) : Out := if s.wearOk who group then .next (s.wearWrite group 4) else .next s

end Sys2Proof.Machine
end

