-- ==== Sys2Proof/Machine/Audio.lean ====
section
/-!
DEFINITION. The acoustic front end in D0 and D3: the audio ring, the energy detector and the Seep event, the fetch command, and the wide stream (R404 to R410, R414, R426 to R445).
-/
namespace Sys2Proof.Machine

/-! ### Look-ups -/

/-- The tenant in AU_HIST_TENANT, when VALID (R424). -/
def State.auTenant (s : State) : Option Nat :=
  if s.flag A.AU_HIST_TENANT F.AU_HIST_TENANT_VALID then some (s.fget A.AU_HIST_TENANT F.AU_HIST_TENANT_TENANT) else none

/-- May the requester access the audio and Runnel registers (R424)? -/
def State.auOk (s : State) (who : Who) : Bool :=
  (who == .boot && s.plat.cur.isNone) || s.auTenant.any fun n => who == .tenant n || (who == .debug && ((s.tenE n).any fun e => e.debug))

/-- AU_HIST_INDEX: the next sample index (R405). -/
def State.auIdx (s : State) : Nat := (s.rd A.AU_HIST_INDEX).toNat

/-- A signed 16-bit sample of a slot: channel 0 MA, 1 MB, 2 BC (R405). -/
def slotSample (v ch : Nat) : Nat := v / 2 ^ (16 * ch) % 2 ^ 16

/-- A sample rounded elsewhere and saturated to `w` bits (R431). -/
def saturate (w : Nat) (x : Int) : Int := clampI (-(2 ^ (w - 1))) (2 ^ (w - 1) - 1) x

/-! ### The fetch command (R408, R409) -/

/-- Entries a history ring holds. -/
def histDepth (ring : Nat) : Nat := if ring = 0 then 65536 else if ring = 1 then 512 else 64

/-- The write index of a history ring. -/
def State.histW (s : State) (ring : Nat) : Nat :=
  if ring = 0 then s.auIdx else if ring = 1 then s.auIdx / 160 else (s.rd A.AU_GLANCE_INDEX).toNat

/-- Bytes that a fetch writes for one entry. -/
def histEntry (ring chans : Nat) : Nat := if ring = 0 then 2 * popcount 3 chans else if ring = 1 then 16 else 256

/-- The bytes of an entry as a fetch packs it, with its poison. -/
def State.histBytes (s : State) (ring chans i : Nat) : List PByte :=
  if ring = 0 then
    let v := Tab.get s.au.ring 0 (i % 65536)
    let z := s.au.bad.has (i % 65536)
    (bitsOf 3 chans).flatMap fun c => (natLe 2 (slotSample v c)).map fun b => (b, z)
  else if ring = 1 then clean (Tab.get s.au.elog (List.replicate 16 0) (i % 512))
  else clean (Tab.get s.au.glance (List.replicate 256 0) (i % 64))

/-- Set the end of a fetch. -/
def State.fetchEnd (s : State) (status detail : Nat) : State :=
  let s := s.fset A.AU_FETCH_STATUS F.AU_FETCH_STATUS_BUSY 0
  let s := s.fset A.AU_FETCH_STATUS F.AU_FETCH_STATUS_STATUS status
  let s := s.fset A.AU_FETCH_STATUS F.AU_FETCH_STATUS_DETAIL detail
  { s with au := { s.au with fetch := none } }

/-- Copy the entries of the running fetch that are written and can be copied now; an entry overwritten before it is copied is written as zero and counted (R409). -/
def State.fetchCopy (s : State) : Nat → State
  | 0 => s
  | fuel + 1 =>
    match s.au.fetch with
    | none => s
    | some f =>
      let w := s.histW f.ring
      let n := histEntry f.ring f.chans
      if f.left = 0 ∨ w ≤ f.next then s
      else match s.reach (viaHome f.tenant) f.dst n true locNear with
      | .moving _ => s
      | .bad => s.fetchEnd stFault 0
      | .ok ds =>
        match s.domCheck ds with
        | .wait _ => s.domTouch ds
        | .refuse => s.fetchEnd stFault 0
        | .go =>
          let lost := f.next + histDepth f.ring < w
          let bs := if lost then clean (List.replicate n 0) else s.histBytes f.ring f.chans f.next
          let s := s.writeBytes (viaHome f.tenant) f.dst bs
          let s := if lost then s.fadd A.AU_FETCH_STATUS F.AU_FETCH_STATUS_LOST 1 else s
          let s := { s with au := { s.au with fetch := some { f with next := f.next + 1, left := f.left - 1, dst := f.dst + n, psn := f.psn || bs.any (·.2) } } }
          s.fetchCopy fuel

/-- Copy what can be copied. -/
def State.fetchRun (s : State) : State :=
  match s.au.fetch with
  | none => s
  | some f => s.fetchCopy f.left

/-- A write of AU_FETCH_CMD (R408, R409); CANCEL is AU_FETCH_CANCEL. -/
def State.fetchCmd (s : State) (w : Nat) : State :=
  let busy := s.flag A.AU_FETCH_STATUS F.AU_FETCH_STATUS_BUSY
  if (bits w 18 17 = 3 ∧ !bit w 23) ∨ bits w 31 24 ≠ 0 then s.lockViolation A.AU_FETCH_CMD 2
  else if bit w 23 then (if busy then s.fetchEnd stAborted 0 else s)
  else if busy then s.fset A.AU_FETCH_STATUS F.AU_FETCH_STATUS_OVERRUN 1
  else
    let n := bits w 16 0
    let ring := bits w 18 17
    let chans := bits w 21 19
    let h := histDepth ring
    let src := (s.rd A.AU_FETCH_SRC).toNat
    let dst := (s.rd A.AU_FETCH_DST).toNat
    let wi := s.histW ring
    let s := s.fset A.AU_FETCH_STATUS F.AU_FETCH_STATUS_LOST 0
    if n = 0 then s.fetchEnd stOk 0
    else if h < n ∨ (ring = 0 ∧ chans = 0) ∨ (ring ≠ 0 ∧ chans ≠ 0) then s.fetchEnd stInvalid 1
    else if src + h < wi then s.fetchEnd stInvalid 2
    else if wi < src + n ∧ (!bit w 22 ∨ wi + h < src + n) then s.fetchEnd stInvalid 3
    else match s.auTenant with
    | none => s.fetchEnd stFault 0
    | some t =>
      match s.reach (viaHome t) dst (n * histEntry ring chans) true locNear with
      | .bad => s.fetchEnd stFault 0
      | _ =>
        let s := s.fset A.AU_FETCH_STATUS F.AU_FETCH_STATUS_BUSY 1
        ({ s with au := { s.au with fetch := some ⟨ring, t, src, n, dst, chans, false⟩ } } : State).fetchRun

/-- The word of AU_FETCH_CMD. -/
def fetchWord (count ring chans : Nat) (wait cancel : Bool) : Nat :=
  count % 2 ^ 17 + ring % 4 * 2 ^ 17 + chans % 8 * 2 ^ 19 + b2n wait * 2 ^ 22 + b2n cancel * 2 ^ 23

/-- AU_FETCH (R409): AU_FETCH_CMD is written to start a copy; entries that are written are copied at once (log entry 36). -/
def execAuFetch (who : Who) (count ring chans : Nat) (wait : Bool) (s : State) : Out :=
  if s.auOk who then .next (s.fetchCmd (fetchWord count ring chans wait false)) else .next s

/-- AU_FETCH_CANCEL (R409). -/
def execAuFetchCancel (who : Who) (s : State) : Out :=
  if s.auOk who then .next (s.fetchCmd (fetchWord 0 0 0 false true)) else .next s

/-- AU_FETCH_DONE (R409): the fetch ends once its last entry is copied; `fail` is an error response or a stall limit at its destination. -/
def execAuFetchDone (fail : Bool) (s : State) : Out :=
  let s := s.fetchRun
  match s.au.fetch with
  | none => .next s
  | some f =>
    if fail then .next (s.fetchEnd stFault 0)
    else if f.left = 0 then .next (s.fetchEnd (if f.psn then stPoison else stOk) 0)
    else .next s

/-! ### Narrow samples (R405, R431, R433, R434, R440) -/

/-- The effective calibration of a channel (R433): factory value plus delta, clamped. -/
def State.calEff (s : State) (c : Nat) : Nat :=
  let f := (s.rd (A.AU_CAL_FUSE c)).toNat
  let d := (s.rd (A.AU_CAL_DELTA c)).toNat
  let g := sgn 16 f + sgn 16 d
  let y := sgn 16 (f / 65536) + sgn 16 (d / 65536)
  let g1 := clampI (-2048) 2048 g
  let y1 := clampI (-1536) 1536 y
  unsgn 16 g1 + unsgn 15 y1 * 2 ^ 16 + b2n (g1 != g || y1 != y) * 2 ^ 31

/-- Calibration takes effect at a 16 kHz sample boundary (R434). -/
def State.calApply (s : State) : State :=
  (List.range 9).foldl (fun s c => s.wr (A.AU_CAL_EFF c) (BitVec.ofNat 64 (s.calEff c))) s

/-- AUDIO_SAMPLE (R405): a 16 kHz sample instant. `ma`, `mb` and `bc` are the decimated, calibrated and rounded values before saturation (the filters' coefficients are not in the specification); `ue` are slots whose SRAM words have taken an uncorrectable error. -/
def execAudioSample (ma mb bc : Int) (ue : List Nat) (s : State) : Out :=
  let i := s.auIdx
  let s := s.calApply
  let mute := s.flag A.AU_MUTE F.AU_MUTE_MUTE
  let onB := !s.flag A.AU_CLK_CFG F.AU_CLK_CFG_LISTEN_MICS
  let onC := s.flag A.AU_CLK_CFG F.AU_CLK_CFG_BC_EN
  let clip := ([(true, ma), (onB, mb), (onC, bc)].filter fun p => p.1 && saturate 16 p.2 != p.2).length
  let s := s.fadd A.AU_NARROW_CLIP F.AU_NARROW_CLIP_COUNT clip
  let val := fun (on : Bool) (x : Int) => if mute || !on then 0 else unsgn 16 (saturate 16 x)
  let v := val true ma + val onB mb * 2 ^ 16 + val onC bc * 2 ^ 32
  let first := i % 160 == 0
  let au := s.au
  let au := { au with ring := Tab.set au.ring 0 (i % 65536) v, bad := ue.foldl (fun b k => NSet.add (k % 65536) b) (NSet.rem (i % 65536) au.bad),
                      muted := mute || (au.muted && !first), t0 := if first then s.time else au.t0 }
  let s := ({ s with au := au } : State).wr A.AU_HIST_INDEX (BitVec.ofNat 64 (i + 1))
  .next s.fetchRun

/-! ### The energy detector and the Seep event (R406, R410, R437 to R439) -/

/-- A Seep event fires at the end of frame `f` whose run began at frame `f0` (R410, R411): PENDING is wake source 1 (R480). An Off D1 holds no counter. -/
def State.seep (s : State) (f0 f : Nat) : State :=
  let s := s.bump A.AU_EVENT_COUNT
  if s.flag A.AU_EVENT_CTRL F.AU_EVENT_CTRL_PENDING then s.bump A.AU_EVENT_MERGED
  else
    let s := s.wr A.AU_EVENT_ONSET (BitVec.ofNat 64 (160 * f0))
    let s := s.wr A.AU_EVENT_FIRE (BitVec.ofNat 64 (160 * (f + 1)))
    let s := s.fset A.AU_EVENT_CTRL F.AU_EVENT_CTRL_PENDING 1
    let s := if (s.rn.st = 5 ∨ s.rn.st = 3) ∧ (s.dom 1).st ≠ .off then s.bump A.RN_EVENTS_UNSERVED else s
    s.srcAssert 1 false

/-- Is the detector's source zero by the front end's settings (R439)? -/
def State.detSilent (s : State) : Bool :=
  let src := bits s.au.cfg 2 0
  (src == 1 && s.flag A.AU_CLK_CFG F.AU_CLK_CFG_LISTEN_MICS) || (src == 3 && !s.flag A.AU_CLK_CFG F.AU_CLK_CFG_BC_EN)

/-- The floor after a frame (R438). -/
def floorAfter (floor e down rise fmin : Nat) : Nat :=
  max fmin (if e < floor then floor - (floor - e) / 2 ^ down else floor + min rise (e - floor))

/-- AUDIO_FRAME_END (R406, R437, R438): the detector judges the frame that has just ended. `e` is the measured energy of the source that SRC selects (the band-pass is not given exactly; R437 bounds it). A floor written during the frame is the floor of the next (log entry 37). -/
def execAudioFrameEnd (e : Nat) (s : State) : Out :=
  let i := s.auIdx
  if i % 160 ≠ 0 ∨ i / 160 ≤ s.au.judged then .next s
  else
    let f := i / 160 - 1
    let a := s.au
    let silent := s.detSilent
    let e := if silent then 0 else min e 30720
    let above := !a.muted && !silent && decide (a.floor + a.margin ≤ e)
    let floor := if a.floorW then s.fget A.AU_FLOOR F.AU_FLOOR_FLOOR
      else if a.muted then a.floor
      else min 32767 (floorAfter a.floor e (bits a.cfg 10 7) (bits a.cfg 18 11) a.floorMin)
    let run := if above then a.run + 1 else 0
    let on := bits a.cfg 6 3
    let fired := on != 0 && run == on
    let ent := natLe 8 a.t0 ++ natLe 2 e ++ natLe 2 a.floor ++ natLe 4 (b2n above + 2 * b2n a.muted + 4 * b2n fired)
    let s := s.wr A.AU_ENERGY (BitVec.ofNat 64 (e + b2n above * 32768))
    let s := s.fset A.AU_FLOOR F.AU_FLOOR_FLOOR floor
    let s := { s with au := { a with elog := Tab.set a.elog (List.replicate 16 0) (f % 512) ent, muted := false, judged := f + 1, run := run, floor := floor, floorW := false,
                                     cfg := (s.rd A.AU_DET_CFG).toNat, margin := s.fget A.AU_DET_MARGIN F.AU_DET_MARGIN_MARGIN,
                                     floorMin := s.fget A.AU_FLOOR_MIN F.AU_FLOOR_MIN_FLOOR_MIN } }
    let s := if fired then s.seep (f + 1 - run) f else s
    .next s.fetchRun

/-- ACK clears PENDING (R410). -/
def State.seepAck (s : State) : State := s.fset A.AU_EVENT_CTRL F.AU_EVENT_CTRL_PENDING 0

/-- AU_EVENT_ACK (R410); a firing of the same cycle is the command that follows it. -/
def execAuEventAck (who : Who) (s : State) : Out := if s.auOk who then .next s.seepAck else .next s

/-- STUCK_DETECT (R432): channel `c` (M0 to M7, then BC) has been constant for 1 ms; M2 to M7 have a clock only while D3 is On. -/
def execStuckDetect (c : Nat) (s : State) : Out :=
  if 8 < c ∨ (2 ≤ c ∧ c ≤ 7 ∧ !s.isOn 3) then .next s
  else .next (s.fset A.AU_STATUS (4 + c, 4 + c) 1)

/-! ### The wide stream (R414, R428, R435, R436, R441, R442) -/

/-- All ones in a 64-bit register. -/
def ones64 : Word := BitVec.allOnes 64

/-- D3 has left On (R414, R428): the wide chain and its buffer are gone, AU_WIDE_START reads all ones. -/
def State.wideStop (s : State) : State :=
  let s := (s.fset A.AU_STATUS F.AU_STATUS_WIDE_ON 0).wr A.AU_WIDE_START ones64
  { s with au := { s.au with settled := false, wbuf := [], wx := [] } }

/-- PDM_CLOCK_SWITCH (R427, R428): at a 16 kHz sample boundary PDM_CLK0 takes the rate that D3's state asks for. -/
def execPdmClockSwitch (s : State) : Out :=
  if s.isOn 3 then .next (s.fset A.AU_STATUS F.AU_STATUS_CLK0_RATE 2)
  else .next (s.wideStop.fset A.AU_STATUS F.AU_STATUS_CLK0_RATE (s.fget A.AU_CLK_CFG F.AU_CLK_CFG_LISTEN_RATE))

/-- WIDE_CHAIN_SETTLED (R414): WIDE_START is the first multiple of 160 at or after the current index. -/
def execWideChainSettled (s : State) : Out :=
  if !s.isOn 3 || s.fget A.AU_STATUS F.AU_STATUS_CLK0_RATE != 2 || s.au.settled then .next s
  else
    let w := ceilDiv s.auIdx 160 * 160
    let s := (s.wr A.AU_WIDE_START (BitVec.ofNat 64 w)).wr A.AU_WIDE_INDEX (BitVec.ofNat 64 (3 * w))
    let s := s.fset A.AU_STATUS F.AU_STATUS_WIDE_ON (s.fget A.AU_WIDE_CTRL F.AU_WIDE_CTRL_WIDE_EN)
    .next { s with au := { s.au with settled := true, wm := 3 * w } }

/-- Slots of the wide ring (R441). -/
def wideSlots (ctrl : Nat) : Nat := 2 ^ (bits ctrl 4 2 + (if bit ctrl 1 then 16 else 17))

/-- The bytes of one wide slot (R441). -/
def wideBytes (ctrl : Nat) (xs : List Int) : List Nat :=
  (List.range 8).flatMap fun c =>
    let x := if bit ctrl (8 + c) then xs.getD c 0 else 0
    if bit ctrl 1 then natLe 4 (unsgn 32 (saturate 24 x)) else natLe 2 (unsgn 16 (saturate 16 x))

/-- Is the wide ring good (R441)? -/
def State.wideRingOk (s : State) : Bool :=
  let base := (s.rd A.AU_WIDE_BASE).toNat
  let pages := s.fget A.AU_WIDE_CTRL F.AU_WIDE_CTRL_PAGES
  base % pageSize == 0 &&
  (match s.auTenant with
  | none => false
  | some n =>
    match s.reach (viaHome n) base (2 ^ pages * pageSize) true (fun l => locNear l && (match s.dst (BitVec.ofNat 64 base) with
        | .here a => area a 1 != .t0
        | _ => false)) with
    | .ok _ => true
    | .moving _ => true
    | .bad => false)

/-- A write of AU_WIDE_CTRL (R441): while WIDE_EN is 1 only WIDE_EN takes the write; setting it checks the ring. -/
def State.wideCtrl (s : State) (w : Nat) : State :=
  if s.flag A.AU_WIDE_CTRL F.AU_WIDE_CTRL_WIDE_EN then
    if bit w 0 then s else (s.fset A.AU_WIDE_CTRL F.AU_WIDE_CTRL_WIDE_EN 0).fset A.AU_STATUS F.AU_STATUS_WIDE_ON 0
  else
    let s := s.fset A.AU_WIDE_CTRL F.AU_WIDE_CTRL_WIDTH (bits w 1 1)
    let s := if bits w 4 2 = 7 then s else s.fset A.AU_WIDE_CTRL F.AU_WIDE_CTRL_PAGES (bits w 4 2)
    let s := s.fset A.AU_WIDE_CTRL F.AU_WIDE_CTRL_CH_MASK (bits w 15 8)
    if !bit w 0 then s
    else if s.wideRingOk then
      (s.fset A.AU_WIDE_CTRL F.AU_WIDE_CTRL_WIDE_EN 1).fset A.AU_STATUS F.AU_STATUS_WIDE_ON (b2n s.au.settled)
    else s.fset A.AU_STATUS F.AU_STATUS_WIDE_ERR 1

/-- WIDE_ENABLE (R441): AU_WIDE_CTRL is written with WIDE_EN set; the access wakes D3 (R70). -/
def execWideEnable (who : Who) (width : Bool) (pages mask : Nat) (s : State) : Out :=
  if s.auOk who then .next (needOn [3] s (s.wideCtrl (1 + 2 * b2n width + pages % 8 * 4 + mask % 256 * 256))) else .next s

/-- A wide sample that is not written (R442). -/
def State.wideDrop (s : State) (m : Nat) : State :=
  ((s.bump A.AU_WIDE_DROP).wr A.AU_WIDE_DROP_INDEX (BitVec.ofNat 64 m)).wr A.AU_WIDE_INDEX (BitVec.ofNat 64 (m + 1))

/-- A wide write that gets an error response (R442): a drop; after 16 in a row the stream stops with WIDE_ERR. -/
def State.wideErr (s : State) (m : Nat) : State :=
  let s := s.wideDrop m
  let k := s.au.werr + 1
  if k < 16 then { s with au := { s.au with werr := k } }
  else
    let s := (s.fset A.AU_WIDE_CTRL F.AU_WIDE_CTRL_WIDE_EN 0).fset A.AU_STATUS F.AU_STATUS_WIDE_ON 0
    let s := s.fset A.AU_STATUS F.AU_STATUS_WIDE_ERR 1
    { s with au := { s.au with werr := 0, wbuf := [] } }

/-- Write the buffered wide samples that can be written (R442), oldest first. -/
def State.wideFlush (s : State) : Nat → State
  | 0 => s
  | fuel + 1 =>
    match s.au.wbuf, s.auTenant with
    | (m, xs) :: rest, some n =>
      let ctrl := (s.rd A.AU_WIDE_CTRL).toNat
      let bs := wideBytes ctrl xs
      let a := (s.rd A.AU_WIDE_BASE).toNat + m % wideSlots ctrl * bs.length
      let s1 := { s with au := { s.au with wbuf := rest } }
      match s.reach (viaHome n) a bs.length true locNear with
      | .moving _ => s
      | .bad => (s1.wideErr m).wideFlush fuel
      | .ok ds =>
        match s.domCheck ds with
        | .wait _ => s.domTouch ds
        | .refuse => (s1.wideErr m).wideFlush fuel
        | .go =>
          let s2 := (s1.writeBytes (viaHome n) a (clean bs)).wr A.AU_WIDE_INDEX (BitVec.ofNat 64 (m + 1))
          ({ s2 with au := { s2.au with werr := 0 } } : State).wideFlush fuel
    | _, _ => s

/-- A Q1.15 filter over the newest 32 inputs of a channel, rounded to nearest even (R431, R435). -/
def State.matched (s : State) (c : Nat) (hist : List Int) : Int :=
  let sum := (List.range 32).foldl (fun (t : Int) k => t + sgn 16 (s.rd (A.AU_MF_COEF c k)).toNat * hist.getD k 0) 0
  let q := sum / 32768
  let r := sum % 32768
  if 16384 < r ∨ (r = 16384 ∧ q % 2 = 1) then q + 1 else q

/-- WIDE_SAMPLE (R442): a 48 kHz instant. `xs` are the eight channels' values at the chain's output before saturation, calibrated in the native mode, and the inputs of the matched filter with ALIGN_MODE 1 (R435). -/
def execWideSample (xs : List Int) (s : State) : Out :=
  if !s.au.settled || !s.isOn 3 then .next s
  else
    let m := s.au.wm
    let lm6 := s.flag A.AU_CLK_CFG F.AU_CLK_CFG_ALIGN_MODE
    let hist := (List.range 8).map fun c => (xs.getD c 0 :: s.au.wx.getD c []).take 32
    let ys := if lm6 then (List.range 8).map fun c => s.matched c (hist.getD c []) else xs
    let s := { s with au := { s.au with wm := m + 1, wx := hist } }
    if !s.flag A.AU_WIDE_CTRL F.AU_WIDE_CTRL_WIDE_EN then .next s
    else
      let s := match s.au.wbuf with
        | (k, _) :: rest => if s.au.wbuf.length < 192 then s else ({ s with au := { s.au with wbuf := rest } } : State).wideDrop k
        | [] => s
      let s := { s with au := { s.au with wbuf := s.au.wbuf ++ [(m, ys)] } }
      .next (s.wideFlush s.au.wbuf.length)

/-- DRIFT_WINDOW_END (R436): a window ends with the band-energy differences of M1 to M7 against M0 in 1/256 dB; a quiet window posts nothing. -/
def execDriftWindowEnd (quiet : Bool) (diff : List Int) (s : State) : Out :=
  if quiet || !s.isOn 3 || !s.flag A.AU_RECAL_CTRL F.AU_RECAL_CTRL_RECAL_EN then .next s
  else .next ((List.range 7).foldl (fun s c => s.wr (A.AU_DRIFT c) (BitVec.ofNat 64 (unsgn 16 (diff.getD c 0) + 65536))) s)

end Sys2Proof.Machine
end

