-- ==== Sys2Proof/Machine/Crypto.lean ====
section
/-!
DEFINITION. The cryptographic functions the specification names: SHA-384, HMAC and HKDF, AES-256-GCM, and ECDSA and ECDH over P-384 (R33, R539, R568, R578, R586, R595, R597). Each is that of its published standard (log entry 47). Bytes are numbers below 256, the most significant of a number first.
-/
namespace Sys2Proof.Machine

/-- The bytes of a number, most significant first. -/
def natBe (n v : Nat) : List Nat := (natLe n v).reverse

/-- The number some bytes spell, most significant first. -/
def beNat (bs : List Nat) : Nat := bs.foldl (fun v b => v * 256 + b % 256) 0

/-! ### SHA-384, HMAC, HKDF -/

/-- The round constants of SHA-384. -/
def shaK : List Nat :=
  [0x428a2f98d728ae22, 0x7137449123ef65cd, 0xb5c0fbcfec4d3b2f, 0xe9b5dba58189dbbc] ++
  [0x3956c25bf348b538, 0x59f111f1b605d019, 0x923f82a4af194f9b, 0xab1c5ed5da6d8118] ++
  [0xd807aa98a3030242, 0x12835b0145706fbe, 0x243185be4ee4b28c, 0x550c7dc3d5ffb4e2] ++
  [0x72be5d74f27b896f, 0x80deb1fe3b1696b1, 0x9bdc06a725c71235, 0xc19bf174cf692694] ++
  [0xe49b69c19ef14ad2, 0xefbe4786384f25e3, 0xfc19dc68b8cd5b5, 0x240ca1cc77ac9c65] ++
  [0x2de92c6f592b0275, 0x4a7484aa6ea6e483, 0x5cb0a9dcbd41fbd4, 0x76f988da831153b5] ++
  [0x983e5152ee66dfab, 0xa831c66d2db43210, 0xb00327c898fb213f, 0xbf597fc7beef0ee4] ++
  [0xc6e00bf33da88fc2, 0xd5a79147930aa725, 0x6ca6351e003826f, 0x142929670a0e6e70] ++
  [0x27b70a8546d22ffc, 0x2e1b21385c26c926, 0x4d2c6dfc5ac42aed, 0x53380d139d95b3df] ++
  [0x650a73548baf63de, 0x766a0abb3c77b2a8, 0x81c2c92e47edaee6, 0x92722c851482353b] ++
  [0xa2bfe8a14cf10364, 0xa81a664bbc423001, 0xc24b8b70d0f89791, 0xc76c51a30654be30] ++
  [0xd192e819d6ef5218, 0xd69906245565a910, 0xf40e35855771202a, 0x106aa07032bbd1b8] ++
  [0x19a4c116b8d2d0c8, 0x1e376c085141ab53, 0x2748774cdf8eeb99, 0x34b0bcb5e19b48a8] ++
  [0x391c0cb3c5c95a63, 0x4ed8aa4ae3418acb, 0x5b9cca4f7763e373, 0x682e6ff3d6b2b8a3] ++
  [0x748f82ee5defb2fc, 0x78a5636f43172f60, 0x84c87814a1f0ab72, 0x8cc702081a6439ec] ++
  [0x90befffa23631e28, 0xa4506cebde82bde9, 0xbef9a3f7b2c67915, 0xc67178f2e372532b] ++
  [0xca273eceea26619c, 0xd186b8c721c0c207, 0xeada7dd6cde0eb1e, 0xf57d4f7fee6ed178] ++
  [0x6f067aa72176fba, 0xa637dc5a2c898a6, 0x113f9804bef90dae, 0x1b710b35131c471b] ++
  [0x28db77f523047d84, 0x32caab7b40c72493, 0x3c9ebe0a15c9bebc, 0x431d67c49c100d4c] ++
  [0x4cc5d4becb3e42b6, 0x597f299cfc657e2a, 0x5fcb6fab3ad6faec, 0x6c44198c4a475817]

/-- The initial state of SHA-384. -/
def shaIv : List Nat :=
  [0xcbbb9d5dc1059ed8, 0x629a292a367cd507, 0x9159015a3070dd17, 0x152fecd8f70e5939] ++
  [0x67332667ffc00b31, 0x8eb44a8768581511, 0xdb0c2e0d64f98fa7, 0x47b5481dbefa4fa4]

/-- Rotate a 64-bit word right. -/
def rotr (n x : Nat) : Nat := x / 2 ^ n ||| x * 2 ^ (64 - n) % 2 ^ 64

/-- One word more of the message schedule, newest first. -/
def shaNext (w : List Nat) : Nat :=
  let a := w.getD 1 0
  let b := w.getD 14 0
  ((rotr 19 a ^^^ rotr 61 a ^^^ a / 64) + w.getD 6 0 + (rotr 1 b ^^^ rotr 8 b ^^^ b / 128) + w.getD 15 0) % 2 ^ 64

/-- The message schedule of a block, oldest word first. -/
def shaSched (blk : List Nat) : List Nat :=
  let w0 := ((List.range 16).map fun i => beNat (slice blk (8 * i) 8)).reverse
  ((List.range 64).foldl (fun w _ => shaNext w :: w) w0).reverse

/-- One round over the eight working words. -/
def shaRound (s : List Nat) (kw : Nat × Nat) : List Nat :=
  match s with
  | [a, b, c, d, e, f, g, h] =>
    let t1 := h + (rotr 14 e ^^^ rotr 18 e ^^^ rotr 41 e) + ((e &&& f) ^^^ ((2 ^ 64 - 1 - e) &&& g)) + kw.1 + kw.2
    let t2 := (rotr 28 a ^^^ rotr 34 a ^^^ rotr 39 a) + ((a &&& b) ^^^ (a &&& c) ^^^ (b &&& c))
    [(t1 + t2) % 2 ^ 64, a, b, c, (d + t1) % 2 ^ 64, e, f, g]
  | _ => s

/-- The state after a block of 128 bytes. -/
def shaBlock (s blk : List Nat) : List Nat :=
  (s.zip ((shaK.zip (shaSched blk)).foldl shaRound s)).map fun p => (p.1 + p.2) % 2 ^ 64

/-- The state after whole blocks of some bytes. -/
def shaFeed (s bs : List Nat) : List Nat := (List.range (bs.length / 128)).foldl (fun s i => shaBlock s (slice bs (128 * i) 128)) s

/-- The digest once the last bytes have come: `len` bytes were given in all, `tail` of them are not yet in the state. -/
def shaEnd (s tail : List Nat) (len : Nat) : List Nat :=
  let pad := (239 - tail.length % 128) % 128
  ((shaFeed s (tail ++ [128] ++ List.replicate pad 0 ++ natBe 16 (8 * len))).take 6).flatMap fun w => natBe 8 w

/-- SHA-384 of some bytes. -/
def sha384 (bs : List Nat) : List Nat := shaEnd (shaFeed shaIv bs) (bs.drop (bs.length / 128 * 128)) bs.length

/-- HMAC-SHA-384. -/
def hmac (key msg : List Nat) : List Nat :=
  let k := if 128 < key.length then sha384 key else key
  let k := k ++ List.replicate (128 - k.length) 0
  sha384 (k.map (· ^^^ 0x5C) ++ sha384 (k.map (· ^^^ 0x36) ++ msg))

/-- HKDF-Expand with SHA-384 to at most 96 bytes. -/
def hkdfExpand (prk info : List Nat) (n : Nat) : List Nat :=
  let t1 := hmac prk (info ++ [1])
  (t1 ++ (if 48 < n then hmac prk (t1 ++ info ++ [2]) else [])).take n

/-- HKDF-Extract with SHA-384. -/
def hkdfExtract (salt ikm : List Nat) : List Nat := hmac salt ikm

/-- The bytes of an ASCII string. -/
def ascii (s : String) : List Nat := s.toList.map Char.toNat

/-! ### AES-256-GCM -/

/-- The substitution box of AES. -/
def aesSbox : List Nat :=
  [0x63, 0x7c, 0x77, 0x7b, 0xf2, 0x6b, 0x6f, 0xc5, 0x30, 0x1, 0x67, 0x2b, 0xfe, 0xd7, 0xab, 0x76] ++
  [0xca, 0x82, 0xc9, 0x7d, 0xfa, 0x59, 0x47, 0xf0, 0xad, 0xd4, 0xa2, 0xaf, 0x9c, 0xa4, 0x72, 0xc0] ++
  [0xb7, 0xfd, 0x93, 0x26, 0x36, 0x3f, 0xf7, 0xcc, 0x34, 0xa5, 0xe5, 0xf1, 0x71, 0xd8, 0x31, 0x15] ++
  [0x4, 0xc7, 0x23, 0xc3, 0x18, 0x96, 0x5, 0x9a, 0x7, 0x12, 0x80, 0xe2, 0xeb, 0x27, 0xb2, 0x75] ++
  [0x9, 0x83, 0x2c, 0x1a, 0x1b, 0x6e, 0x5a, 0xa0, 0x52, 0x3b, 0xd6, 0xb3, 0x29, 0xe3, 0x2f, 0x84] ++
  [0x53, 0xd1, 0x0, 0xed, 0x20, 0xfc, 0xb1, 0x5b, 0x6a, 0xcb, 0xbe, 0x39, 0x4a, 0x4c, 0x58, 0xcf] ++
  [0xd0, 0xef, 0xaa, 0xfb, 0x43, 0x4d, 0x33, 0x85, 0x45, 0xf9, 0x2, 0x7f, 0x50, 0x3c, 0x9f, 0xa8] ++
  [0x51, 0xa3, 0x40, 0x8f, 0x92, 0x9d, 0x38, 0xf5, 0xbc, 0xb6, 0xda, 0x21, 0x10, 0xff, 0xf3, 0xd2] ++
  [0xcd, 0xc, 0x13, 0xec, 0x5f, 0x97, 0x44, 0x17, 0xc4, 0xa7, 0x7e, 0x3d, 0x64, 0x5d, 0x19, 0x73] ++
  [0x60, 0x81, 0x4f, 0xdc, 0x22, 0x2a, 0x90, 0x88, 0x46, 0xee, 0xb8, 0x14, 0xde, 0x5e, 0xb, 0xdb] ++
  [0xe0, 0x32, 0x3a, 0xa, 0x49, 0x6, 0x24, 0x5c, 0xc2, 0xd3, 0xac, 0x62, 0x91, 0x95, 0xe4, 0x79] ++
  [0xe7, 0xc8, 0x37, 0x6d, 0x8d, 0xd5, 0x4e, 0xa9, 0x6c, 0x56, 0xf4, 0xea, 0x65, 0x7a, 0xae, 0x8] ++
  [0xba, 0x78, 0x25, 0x2e, 0x1c, 0xa6, 0xb4, 0xc6, 0xe8, 0xdd, 0x74, 0x1f, 0x4b, 0xbd, 0x8b, 0x8a] ++
  [0x70, 0x3e, 0xb5, 0x66, 0x48, 0x3, 0xf6, 0xe, 0x61, 0x35, 0x57, 0xb9, 0x86, 0xc1, 0x1d, 0x9e] ++
  [0xe1, 0xf8, 0x98, 0x11, 0x69, 0xd9, 0x8e, 0x94, 0x9b, 0x1e, 0x87, 0xe9, 0xce, 0x55, 0x28, 0xdf] ++
  [0x8c, 0xa1, 0x89, 0xd, 0xbf, 0xe6, 0x42, 0x68, 0x41, 0x99, 0x2d, 0xf, 0xb0, 0x54, 0xbb, 0x16]

/-- A byte through the substitution box. -/
def aesSub (b : Nat) : Nat := aesSbox.getD b 0

/-- Twice a byte in the field of AES. -/
def aesX (b : Nat) : Nat := if 128 ≤ b then (b * 2 ^^^ 0x11B) % 256 else b * 2

/-- Exclusive or of two byte strings. -/
def xorBytes (a b : List Nat) : List Nat := (a.zip b).map fun p => p.1 ^^^ p.2

/-- One 4-byte word more of the key schedule, newest first: word number `i`, with the round constant's byte. -/
def aesKeyNext (w : List (List Nat)) (i : Nat) : List Nat :=
  let t := w.headD []
  let t :=
    if i % 8 = 0 then
      match (t.drop 1 ++ t.take 1).map aesSub with
      | b :: r => (b ^^^ 2 ^ (i / 8 - 1)) :: r
      | [] => []
    else if i % 8 = 4 then t.map aesSub
    else t
  xorBytes (w.getD 7 []) t

/-- The fifteen round keys of 16 bytes. -/
def aesKeys (key : List Nat) : List (List Nat) :=
  let w0 := ((List.range 8).map fun i => slice key (4 * i) 4).reverse
  let w := ((List.range 52).foldl (fun w i => aesKeyNext w (i + 8) :: w) w0).reverse
  (List.range 15).map fun r => (slice w.flatten (16 * r) 16)

/-- The rows of a block shifted. -/
def aesShift (s : List Nat) : List Nat := (List.range 16).map fun i => s.getD ((i + 4 * (i % 4)) % 16) 0

/-- One column mixed. -/
def aesMixCol (c : List Nat) : List Nat :=
  (List.range 4).map fun i =>
    let g (k : Nat) : Nat := c.getD ((i + k) % 4) 0
    aesX (g 0) ^^^ (aesX (g 1) ^^^ g 1) ^^^ g 2 ^^^ g 3

/-- A block encrypted under round keys. -/
def aesBlock (ks : List (List Nat)) (b : List Nat) : List Nat :=
  let s := xorBytes b (ks.getD 0 [])
  let s := (List.range 13).foldl (fun s r =>
    let s := aesShift (s.map aesSub)
    xorBytes ((List.range 4).flatMap fun c => aesMixCol (slice s (4 * c) 4)) (ks.getD (r + 1) [])) s
  xorBytes (aesShift (s.map aesSub)) (ks.getD 14 [])

/-- Multiplication in the field of GHASH, the first bit of a block the most significant. -/
def ghashMul (x y : Nat) : Nat :=
  ((List.range 128).foldl (fun (zv : Nat × Nat) i =>
    let z := if bit x (127 - i) then zv.1 ^^^ zv.2 else zv.1
    (z, if zv.2 % 2 = 1 then zv.2 / 2 ^^^ 0xE1 * 2 ^ 120 else zv.2 / 2)) (0, y)).1

/-- Bytes filled to whole blocks. -/
def padBlock (bs : List Nat) : List Nat := bs ++ List.replicate ((16 - bs.length % 16) % 16) 0

/-- GHASH of whole blocks. -/
def ghash (h : Nat) (bs : List Nat) : Nat :=
  (List.range (bs.length / 16)).foldl (fun y i => ghashMul (y ^^^ beNat (slice bs (16 * i) 16)) h) 0

/-- The counter-mode stream of a 12-byte IV, `n` bytes from counter 2. -/
def gcmStream (ks : List (List Nat)) (iv : List Nat) (n : Nat) : List Nat :=
  ((List.range (ceilDiv n 16)).flatMap fun i => aesBlock ks (iv ++ natBe 4 (i + 2))).take n

/-- The tag of a ciphertext. -/
def gcmTag (ks : List (List Nat)) (iv aad ct : List Nat) : List Nat :=
  let h := beNat (aesBlock ks (List.replicate 16 0))
  let s := ghash h (padBlock aad ++ padBlock ct ++ natBe 8 (8 * aad.length) ++ natBe 8 (8 * ct.length))
  xorBytes (natBe 16 s) (aesBlock ks (iv ++ natBe 4 1))

/-- AES-256-GCM encryption: ciphertext and tag. -/
def gcmSeal (key iv aad pt : List Nat) : List Nat × List Nat :=
  let ks := aesKeys key
  let ct := xorBytes pt (gcmStream ks iv pt.length)
  (ct, gcmTag ks iv aad ct)

/-- AES-256-GCM decryption: none when the tag does not match. -/
def gcmOpen (key iv aad ct tag : List Nat) : Option (List Nat) :=
  let ks := aesKeys key
  if gcmTag ks iv aad ct = tag then some (xorBytes ct (gcmStream ks iv ct.length)) else none

/-! ### P-384 -/

/-- The field prime of P-384. -/
def p384p : Nat := 2 ^ 384 - 2 ^ 128 - 2 ^ 96 + 2 ^ 32 - 1
/-- The order of P-384. -/
def p384n : Nat := 0xffffffffffffffffffffffffffffffffffffffffffffffffc7634d81f4372ddf581a0db248b0a77aecec196accc52973
/-- The constant b of P-384. -/
def p384b : Nat := 0xb3312fa7e23ee7e4988e056be3f82d19181d9c6efe8141120314088f5013875ac656398d8a2ed19d2a85c8edd3ec2aef
/-- The generator of P-384. -/
def p384g : Nat × Nat :=
  (0xaa87ca22be8b05378eb1c71ef320ad746e1d3b628ba79b9859f741e082542a385502f25dbf55296c3a545e3872760ab7,
   0x3617de4a96262c6f5d9e98bf9292dc29f8f41dbd289a147ce9da3113b5f0b8c00a60b1ce1d7e819d7a431d7c90ea0e5f)

/-- A power modulo a number, over the low `k` bits of the exponent. -/
def powMod (m : Nat) : Nat → Nat → Nat → Nat
  | 0, _, _ => 1 % m
  | k + 1, b, e =>
    let r := powMod m k (b * b % m) (e / 2)
    if e % 2 = 1 then b * r % m else r

/-- The inverse modulo a prime below 2^384. -/
def invMod (m a : Nat) : Nat := powMod m 384 (a % m) (m - 2)

/-- A point of P-384 while it is computed: the numbers x / z² and y / z³; z = 0 is the point at infinity. -/
abbrev EcProj := Nat × Nat × Nat

/-- A difference in the field of P-384. -/
def subP (a b : Nat) : Nat := (a + (p384p - b % p384p)) % p384p

/-- Twice a point. -/
def ecDouble : EcProj → EcProj
  | (x, y, z) =>
    let g := y * y % p384p
    let b := x * g % p384p
    let a := 3 * subP x (z * z) * (x + z * z) % p384p
    let x3 := subP (a * a) (8 * b)
    (x3, subP (a * subP (4 * b) x3) (8 * g * g), 2 * y * z % p384p)

/-- The sum of two points. -/
def ecSum : EcProj → EcProj → EcProj
  | (x1, y1, z1), (x2, y2, z2) =>
    if z1 = 0 then (x2, y2, z2)
    else if z2 = 0 then (x1, y1, z1)
    else
      let w1 := z1 * z1 % p384p
      let w2 := z2 * z2 % p384p
      let u1 := x1 * w2 % p384p
      let s1 := y1 * z2 % p384p * w2 % p384p
      let h := subP (x2 * w1) u1
      let r := subP (y2 * z1 % p384p * w1) s1
      if h = 0 then (if r = 0 then ecDouble (x1, y1, z1) else (1, 1, 0))
      else
        let h2 := h * h % p384p
        let x3 := subP (r * r) (h * h2 + 2 * u1 * h2)
        (x3, subP (r * subP (u1 * h2) x3) (s1 * (h * h2 % p384p)), h * z1 % p384p * z2 % p384p)

/-- A multiple of a point, over the low `k` bits of the factor. -/
def ecTimes : Nat → Nat → EcProj → EcProj
  | 0, _, _ => (1, 1, 0)
  | k + 1, e, p =>
    let r := ecTimes k (e / 2) (ecDouble p)
    if e % 2 = 1 then ecSum p r else r

/-- The coordinates of a point as they are computed with; none is the point at infinity. -/
def ecIn : Option (Nat × Nat) → EcProj
  | some (x, y) => (x, y, 1)
  | none => (1, 1, 0)

/-- The coordinates of a point that was computed. -/
def ecOut : EcProj → Option (Nat × Nat)
  | (x, y, z) =>
    if z % p384p = 0 then none
    else
      let i := invMod p384p z
      some (x * i * i % p384p, y * i % p384p * i * i % p384p)

/-- Addition on P-384. -/
def ecAdd (p q : Option (Nat × Nat)) : Option (Nat × Nat) := ecOut (ecSum (ecIn p) (ecIn q))

/-- A multiple of a point on P-384, over the low `k` bits of the factor. -/
def ecMul (k e : Nat) (p : Option (Nat × Nat)) : Option (Nat × Nat) := ecOut (ecTimes k e (ecIn p))

/-- A point from its 96 bytes, when it lies on the curve. -/
def ecPoint (bs : List Nat) : Option (Nat × Nat) :=
  let x := beNat (bs.take 48)
  let y := beNat (slice bs 48 48)
  if bs.length = 96 ∧ x < p384p ∧ y < p384p ∧ y * y % p384p = (x * x * x + (p384p - 3) * x + p384b) % p384p then some (x, y) else none

/-- The 96 bytes of a point. -/
def ecBytes : Option (Nat × Nat) → List Nat
  | some (x, y) => natBe 48 x ++ natBe 48 y
  | none => List.replicate 96 0

/-- ECDSA verification over P-384 of a digest under a public key of 96 bytes, with the signature's two numbers of 48 bytes each. -/
def ecdsaOk (key digest sig : List Nat) : Bool :=
  let r := beNat (sig.take 48)
  let s := beNat (slice sig 48 48)
  match ecPoint key with
  | none => false
  | some q =>
    if r = 0 ∨ p384n ≤ r ∨ s = 0 ∨ p384n ≤ s ∨ sig.length ≠ 96 then false
    else
      let w := invMod p384n s
      match ecAdd (ecMul 384 (beNat digest * w % p384n) (some p384g)) (ecMul 384 (r * w % p384n) (some q)) with
      | some (x, _) => x % p384n == r
      | none => false

/-- The shared secret of ECDH: the 48 bytes of the x coordinate. -/
def ecdh (d : Nat) (point : List Nat) : Option (List Nat) :=
  ((ecPoint point).bind fun q => ecMul 384 d (some q)).map fun p => natBe 48 p.1

/-- The public key of a secret number. -/
def ecPublic (d : Nat) : List Nat := ecBytes (ecMul 384 d (some p384g))

/-- An ECDSA signature of a digest with a secret number and a nonce. -/
def ecdsaSign (d k : Nat) (digest : List Nat) : List Nat :=
  match ecMul 384 k (some p384g) with
  | some (x, _) =>
    let r := x % p384n
    natBe 48 r ++ natBe 48 (invMod p384n k * (beNat digest + r * d) % p384n)
  | none => List.replicate 96 0

end Sys2Proof.Machine
end

