-- ==== Sys2Proof/Machine/Camera.lean ====
section
/-!
DEFINITION. The CSI-2 receivers, the image pipeline, and the glance port (R407, R446 to R469).
-/
namespace Sys2Proof.Machine

/-! ### Exact rounding and layouts -/

/-- Round to nearest with ties to even a quotient of integers (R454). -/
def rneI (a : Int) (d : Nat) : Int :=
  let q := a / (d : Int)
  let r := a % (d : Int)
  if (d : Int) < 2 * r ∨ (2 * r = d ∧ q % 2 = 1) then q + 1 else q

/-- Bits of a pixel of a data type (R446): 8 for YUV422. -/
def dtBits (dt : Nat) : Nat := if dt = 0x2B then 10 else if dt = 0x2C then 12 else if dt = 0x2D then 14 else 8

/-- Is a data type supported (R446)? -/
def dtOk (dt : Nat) : Bool := [0x2A, 0x2B, 0x2C, 0x2D, 0x1E].contains dt

/-- Bytes and pixels of one packed group of a data type, as CSI-2 packs it (log entry 42); a YUV422 unit is a byte. -/
def dtGroup (dt : Nat) : Nat × Nat := if dt = 0x2B then (5, 4) else if dt = 0x2C then (3, 2) else if dt = 0x2D then (7, 4) else (1, 1)

/-- The pixels of one packed group (log entry 42). -/
def unpackGroup (dt : Nat) (g : List Nat) : List Nat :=
  let b := fun i => g.getD i 0
  if dt = 0x2B then (List.range 4).map fun i => b i * 4 + bits (b 4) (2 * i + 1) (2 * i)
  else if dt = 0x2C then [b 0 * 16 + b 2 % 16, b 1 * 16 + b 2 / 16]
  else if dt = 0x2D then
    let lo := b 4 + b 5 * 256 + b 6 * 65536
    (List.range 4).map fun i => b i * 64 + bits lo (6 * i + 5) (6 * i)
  else [b 0]

/-- The whole groups of a line, unpacked. -/
def unpackLine (dt : Nat) (bs : List Nat) : List Nat :=
  let (gb, _) := dtGroup dt
  (List.range (bs.length / gb)).flatMap fun k => unpackGroup dt (slice bs (gb * k) gb)

/-! ### Streams -/

/-- Fields of a stream's configuration. -/
structure IsCfg where
  rx : Nat
  vc : Nat
  dt : Nat
  cfa : Nat
  fmt : Nat
  poisonBad : Bool
  w : Nat
  h : Nat
  nbuf : Nat
  tenant : Nat
  buf : Nat
  rec_ : Nat
  stats : Nat
  deriving DecidableEq, Repr

/-- The configuration of a stream. -/
def State.isCfg (s : State) (n : Nat) : IsCfg :=
  { rx := s.fget (A.IS_S_CFG n) F.IS_S_CFG_RX, vc := s.fget (A.IS_S_CFG n) F.IS_S_CFG_VC, dt := s.fget (A.IS_S_CFG n) F.IS_S_CFG_DT,
    cfa := s.fget (A.IS_S_CFG n) F.IS_S_CFG_CFA, fmt := s.fget (A.IS_S_CFG n) F.IS_S_CFG_OUT_FMT,
    poisonBad := s.flag (A.IS_S_CFG n) F.IS_S_CFG_POISON_BAD,
    w := s.fget (A.IS_S_SIZE n) F.IS_S_SIZE_WIDTH, h := s.fget (A.IS_S_SIZE n) F.IS_S_SIZE_HEIGHT, nbuf := s.fget (A.IS_S_NBUF n) F.IS_S_NBUF_NBUF,
    tenant := s.fget (A.IS_S_TENANT n) F.IS_S_TENANT_TENANT, buf := (s.rd (A.IS_S_BUF_BASE n)).toNat, rec_ := (s.rd (A.IS_S_REC_BASE n)).toNat,
    stats := (s.rd (A.IS_S_STATS_BASE n)).toNat }

/-- Is a stream enabled? -/
def State.isOnStream (s : State) (n : Nat) : Bool := s.flag (A.IS_S_CFG n) F.IS_S_CFG_EN

/-- A stream's record. -/
def State.isSt (s : State) (n : Nat) : IsSt := Tab.get s.cam.streams IsSt.idle n

/-- Write a stream's record, with DEPTH of its queue. -/
def State.setIs (s : State) (n : Nat) (x : IsSt) : State :=
  ({ s with cam := { s.cam with streams := Tab.set s.cam.streams IsSt.idle n x } } : State).fset (A.IS_S_QSTATUS n) F.IS_S_QSTATUS_DEPTH x.queue.length

/-- Bytes of an output row (R452). -/
def IsCfg.rowBytes (c : IsCfg) : Nat :=
  if c.fmt = 0 then 6 * c.w else if c.fmt = 1 then 3 * c.w else if c.fmt = 3 then 2 * c.w else if c.dt = 0x2A then c.w else 2 * c.w

/-- The row stride (R452). -/
def IsCfg.stride (c : IsCfg) : Nat := ceilDiv c.rowBytes 64 * 64

/-- A line's expected length in bytes (R451). -/
def IsCfg.lineBytes (c : IsCfg) : Nat := if c.dt = 0x1E then 2 * c.w else c.w * dtBits c.dt / 8

/-- May the requester access a stream's registers (R468)? -/
def State.isOk (s : State) (who : Who) (n : Nat) : Bool :=
  (who == .boot && s.plat.cur.isNone) ||
  (s.flag (A.IS_S_TENANT n) F.IS_S_TENANT_VALID &&
    (let t := s.fget (A.IS_S_TENANT n) F.IS_S_TENANT_TENANT
     who == .tenant t || (who == .debug && ((s.tenE t).any fun e => e.debug))))

/-- The default parameter set (R458). -/
def IsParam.default : IsParam :=
  ⟨0, [1024, 1024, 1024], 1024, [0, 0, 0, 0], 16383, [1024, 0, 0, 0, 1024, 0, 0, 0, 1024], [0, 0, 0], (List.range 3).flatMap fun _ => (List.range 257).map fun i => min (16 * i) 4095⟩

/-! ### The ISP's writes (R453) -/

/-- Perform the waiting writes of the ISP in order until one must wait; a write that is refused is lost (log entry 43). -/
def State.isFlush (s : State) : Nat → State
  | 0 => s
  | fuel + 1 =>
    match s.cam.out with
    | [] => s
    | (n, _, a, bs) :: rest =>
      let t := (s.isCfg n).tenant
      let s1 := { s with cam := { s.cam with out := rest } }
      match s.reach (viaHome t) a bs.length true locNear with
      | .moving _ => s
      | .bad => s1.isFlush fuel
      | .ok ds =>
        match s.domCheck ds with
        | .wait _ => s.domTouch ds
        | .refuse => s1.isFlush fuel
        | .go => (s1.writeBytes (viaHome t) a bs).isFlush fuel

/-- Queue a write of a stream's frame and perform what can be performed. -/
def State.isWrite (s : State) (n f a : Nat) (bs : List PByte) : State :=
  let s := { s with cam := { s.cam with out := s.cam.out ++ [(n, f, a, bs)] } }
  s.isFlush s.cam.out.length

/-- A frame's record (R461). -/
def IsFrame.record (x : IsFrame) (done : Bool) : List Nat :=
  let badN := (x.lines.filter (·.bad)).length
  let dropN := (x.lines.filter (·.dropped)).length
  natLe 8 x.idx ++ [if done then 2 else 1, b2n x.incomplete + 2 * b2n (badN != 0) + 4 * b2n x.parErr + 8 * b2n (x.lenErr != 0) + 16 * b2n x.poisoned] ++
  natLe 2 x.num ++ natLe 4 x.par.tag ++ natLe 8 x.fs ++ natLe 8 x.fe ++ natLe 2 (min x.recv 65535) ++ natLe 2 (min badN 65535) ++ natLe 2 (min x.lenErr 65535) ++
  natLe 2 (min dropN 65535) ++ natLe 8 x.audio ++ natLe 16 0

/-- Write a frame's record in its slot (R461). -/
def State.isRecord (s : State) (n : Nat) (x : IsFrame) (done : Bool) : State :=
  let c := s.isCfg n
  s.isWrite n x.idx (c.rec_ + 64 * (x.idx % max 1 c.nbuf)) (clean (x.record done))

/-! ### Colour reconstruction (R454, R455) -/

/-- The colour at CFA position `q` (IS_S_CFG.CFA): 0 R, 1 G, 2 B. -/
def cfaColour (cfa q : Nat) : Nat :=
  ((match cfa with
  | 0 => [0, 1, 1, 2]
  | 1 => [1, 0, 2, 1]
  | 2 => [1, 2, 0, 1]
  | _ => [2, 1, 1, 0]) : List Nat).getD q 1

/-- A coordinate mirrored at the image's edges (R454). -/
def mirror (n : Nat) (i : Int) : Nat :=
  if i < 0 then (-i).toNat else if (n : Int) ≤ i then (2 * (n : Int) - 2 - i).toNat else i.toNat

/-- The raw value of a site: lines not received, lines dropped, and pixels missing from a short line read as zero (R451, R464). -/
def IsFrame.raw (x : IsFrame) (r c : Nat) : Nat :=
  match x.lines[r]? with
  | some l => if l.dropped then 0 else l.px.getD c 0
  | none => 0

/-- The black-subtracted value of a site (R454). -/
def IsFrame.site (x : IsFrame) (cfg : IsCfg) (r c : Nat) : Nat := x.raw r c * 2 ^ (14 - dtBits cfg.dt) - x.par.black.getD (2 * (r % 2) + c % 2) 0

/-- The gained value of a site (R454). -/
def IsFrame.plane (x : IsFrame) (cfg : IsCfg) (r c : Int) : Int :=
  let r := mirror cfg.h r
  let c := mirror cfg.w c
  let k := cfaColour cfg.cfa (2 * (r % 2) + c % 2)
  let gain := min (rneI ((x.par.wb.getD k 0 : Int) * x.par.dgain) 1024) 0xFFFF
  min (rneI ((x.site cfg r c : Int) * gain) 1024) 16383

/-- R, G and B of a pixel by bilinear interpolation (R454). -/
def IsFrame.demosaic (x : IsFrame) (cfg : IsCfg) (r c : Nat) : Int × Int × Int :=
  let p := fun (dr dc : Int) => x.plane cfg (r + dr) (c + dc)
  let q := 2 * (r % 2) + c % 2
  let hor := p 0 (-1) + p 0 1
  let ver := p (-1) 0 + p 1 0
  let cross := rneI (hor + ver) 4
  let diag := rneI (p (-1) (-1) + p (-1) 1 + p 1 (-1) + p 1 1) 4
  match cfaColour cfg.cfa q with
  | 0 => (p 0 0, cross, diag)
  | 2 => (diag, cross, p 0 0)
  | _ => if cfaColour cfg.cfa (2 * (r % 2) + (1 - c % 2)) = 0 then (rneI hor 2, p 0 0, rneI ver 2) else (rneI ver 2, p 0 0, rneI hor 2)

/-- The three components after the colour matrix (R454). -/
def IsFrame.comps (x : IsFrame) (cfg : IsCfg) (r c : Nat) : List Int :=
  let (a, b, d) := x.demosaic cfg r c
  (List.range 3).map fun j =>
    let m := fun k => x.par.ccm.getD (3 * j + k) 0
    clampI 0 16383 (rneI (m 0 * a + m 1 * b + m 2 * d) 1024 + x.par.off.getD j 0)

/-- The tone curve of component `j` (R454). -/
def IsFrame.toned (x : IsFrame) (j : Nat) (o : Int) : Int :=
  let i := o.toNat / 64
  let f : Int := o % 64
  let t := fun k => (x.par.tone.getD (257 * j + k) 0 : Int)
  t i + rneI ((t (i + 1) - t i) * f) 64

/-- An output row (R452, R454, R455). -/
def IsFrame.row (x : IsFrame) (cfg : IsCfg) (r : Nat) : List Nat :=
  if cfg.fmt = 2 then (List.range cfg.w).flatMap fun c => natLe (if cfg.dt = 0x2A then 1 else 2) (x.raw r c)
  else if cfg.fmt = 3 then (List.range (2 * cfg.w)).map fun c => x.raw r c
  else (List.range cfg.w).flatMap fun c =>
    let o := x.comps cfg r c
    (List.range 3).flatMap fun j =>
      let y := x.toned j (o.getD j 0)
      if cfg.fmt = 0 then natLe 2 (unsgn 12 y) else [(min (rneI y 16) 255).toNat]

/-- Is an output row poisoned (R463): with POISON_BAD, when it reads a site of a bad line? -/
def IsFrame.rowPsn (x : IsFrame) (cfg : IsCfg) (r : Nat) : Bool :=
  let bad := fun (k : Nat) => (x.lines[k]?).any (·.bad)
  cfg.poisonBad && (bad r || (decide (cfg.fmt < 2) && (bad (mirror cfg.h ((r : Int) - 1)) || bad (mirror cfg.h ((r : Int) + 1)))))

/-! ### Statistics (R455 to R457) -/

/-- Has a site been received? -/
def IsFrame.has (x : IsFrame) (r c : Nat) : Bool := (x.lines[r]?).any fun l => !l.dropped && decide (c < l.px.length)

/-- Add one to a bin. -/
def bin1 (h : List Nat) (i : Nat) : List Nat := listSet h i (h.getD i 0 + 1)

/-- The zone that a coordinate lies in, of `k` zones over `n`. -/
def zoneOf (n k i : Nat) : Nat := ((List.range k).find? fun z => decide (i < n * (z + 1) / k)).getD 0

/-- Four histograms of one frame: R, G, B and luminance (R457). -/
def IsFrame.hists (x : IsFrame) (cfg : IsCfg) : List (List Nat) :=
  let zero := List.replicate 4 (List.replicate 256 0)
  if cfg.fmt = 2 then zero
  else if cfg.fmt = 3 then
    (List.range cfg.h).foldl (fun h r => (List.range cfg.w).foldl (fun h c =>
      if x.has r (2 * c + 1) then listSet h 3 (bin1 (h.getD 3 []) (x.raw r (2 * c + 1) / 4)) else h) h) zero
  else
    (List.range cfg.h).foldl (fun h r => (List.range cfg.w).foldl (fun h c =>
      if !x.has r c then h
      else
        let o := x.comps cfg r c
        let y := rneI (77 * o.getD 0 0 + 150 * o.getD 1 0 + 29 * o.getD 2 0) 256
        ((List.range 3).map fun j => bin1 (h.getD j []) ((o.getD j 0).toNat / 64)) ++ [bin1 (h.getD 3 []) (y.toNat / 64)]) h) zero

/-- One zone's entry (R456, R457): averages of R, G and B, and the count of saturated sites. -/
def IsFrame.zone (x : IsFrame) (cfg : IsCfg) (i j : Nat) : List Nat :=
  let cols := (List.range (cfg.w * (i + 1) / 32 - cfg.w * i / 32)).map fun k => cfg.w * i / 32 + k
  let rows := (List.range (cfg.h * (j + 1) / 24 - cfg.h * j / 24)).map fun k => cfg.h * j / 24 + k
  let sites := rows.flatMap fun r => (cols.filter fun c => x.has r c).map fun c => (cfaColour cfg.cfa (2 * (r % 2) + c % 2), r, c)
  let avg := fun k =>
    let l := (sites.filter fun p => p.1 == k).map fun p => x.site cfg p.2.1 p.2.2
    if l = [] then 0 else (rneI (l.foldl (· + ·) 0 : Nat) l.length).toNat
  let sat := (sites.filter fun p => decide (x.par.sat ≤ x.raw p.2.1 p.2.2 * 2 ^ (14 - dtBits cfg.dt))).length
  (List.range 3).flatMap (fun k => natLe 2 (avg k)) ++ natLe 2 sat

/-- A frame's statistics block (R456). -/
def IsFrame.stats (x : IsFrame) (cfg : IsCfg) : List Nat :=
  ((x.hists cfg).flatMap fun h => h.flatMap fun v => natLe 4 v) ++
  (if cfg.fmt = 3 then natLe 6144 0 else (List.range 24).flatMap fun j => (List.range 32).flatMap fun i => x.zone cfg i j)

/-! ### Frames (R448, R451, R461, R463, R464) -/

/-- Give rows below `upto` to memory: dropped rows are not written, rows not received are zero (R451, R464). -/
def State.isRows (s : State) (n : Nat) (x : IsFrame) (upto : Nat) : State × IsFrame :=
  let c := s.isCfg n
  (List.range (upto - x.rows)).foldl (fun p k =>
    let r := x.rows + k
    let (s, y) := p
    let a := c.buf + y.idx % max 1 c.nbuf * (c.h * c.stride) + r * c.stride
    match y.lines[r]? with
    | some l =>
      if l.dropped then (s, { y with rows := r + 1 })
      else
        let z := y.rowPsn c r
        (s.isWrite n y.idx a ((y.row c r).map fun b => (b, z)), { y with rows := r + 1, poisoned := y.poisoned || z })
    | none => (s.isWrite n y.idx a (clean (List.replicate c.rowBytes 0)), { y with rows := r + 1 })) (s, x)

/-- A frame ends (R451): the rest of its rows and its statistics go to memory, and it waits for its record to turn DONE. -/
def State.isEnd (s : State) (n : Nat) (cut : Bool) : State :=
  let st := s.isSt n
  match st.cur with
  | none => s
  | some x =>
    let c := s.isCfg n
    let inc := cut || decide (x.lines.length < c.h) || x.incomplete || x.lines.any (·.dropped)
    let x := { x with ended := true, fe := s.time, incomplete := inc }
    let (s, x) := s.isRows n x c.h
    let s := if c.stats = 0 then s else s.isWrite n x.idx (c.stats + 10240 * (x.idx % max 1 c.nbuf)) (clean (x.stats c))
    let s := s.bump (A.IS_S_FRAMES n)
    let s := if inc then s.bump (A.IS_S_INCOMPLETE n) else s
    s.setIs n { s.isSt n with cur := none, ended := (s.isSt n).ended ++ [x] }

/-- The pages of a range read as if none of them was moving: a moving page still holds its bytes in its source frame (R84). -/
def State.unmoved (s : State) (n a len : Nat) : State :=
  (pagePieces a len).foldl (fun s p =>
    let pg := (p.1 - objBase) / pageSize
    if area p.1 1 = .obj ∧ entMigrating (s.ent n pg) then s.setEnt n pg (s.ent n pg ^^^ 0x40#64) else s) s

/-- Give the pages of a range the entries they have in `s0`. -/
def State.remark (s s0 : State) (n a len : Nat) : State :=
  (pagePieces a len).foldl (fun s p =>
    let pg := (p.1 - objBase) / pageSize
    if area p.1 1 = .obj ∧ entMigrating (s0.ent n pg) then s.setEnt n pg (s0.ent n pg) else s) s

/-- Read and judge a parameter block (R458); a block that is not reached, or whose domains refuse the access, reads as poison. -/
def State.isReadParam (s : State) (n a : Nat) : State × Option IsParam :=
  let v := viaHome (s.isCfg n).tenant
  let (s, pb) := match (s.unmoved v.tenant a 1792).reach v a 1792 false locNear with
    | .ok ds =>
      let s1 := s.domTouch ds
      if s.domCheck ds == DomCheck.refuse then (s1, List.replicate 1792 (0, true))
      else
        let r := (s1.unmoved v.tenant a 1792).readBytes v a 1792
        (r.1.remark s v.tenant a 1792, r.2)
    | _ => (s, List.replicate 1792 (0, true))
  let bs := pb.map (·.1)
  let u16s := fun (o k : Nat) => (List.range k).map fun i => field bs (o + 2 * i) 2
  let p : IsParam := ⟨field bs 0 4, u16s 8 3, field bs 0xE 2, u16s 0x10 4, field bs 0x18 2, (u16s 0x20 9).map fun x => sgn 16 x,
    (u16s 0x32 3).map fun x => sgn 16 x, u16s 0x40 257 ++ u16s 0x280 257 ++ u16s 0x4C0 257⟩
  let ok := !(pb.any (·.2)) && zeroBytes bs 4 4 && zeroBytes bs 0x1A 6 && zeroBytes bs 0x38 8 && p.black.all (fun x => decide (x ≤ 16383)) && decide (p.sat ≤ 16383) &&
    p.off.all (fun x => decide (-16383 ≤ x) && decide (x ≤ 16383)) && p.tone.all (fun x => decide (x ≤ 4095))
  (s, if ok then some p else none)

/-- A Frame Start of a stream (R451, R460, R461). -/
def State.isStart (s : State) (n num : Nat) : State :=
  let s := s.isEnd n true
  let f := ((s.rd (A.IS_S_FRAME_INDEX n)).toNat + 1) % 2 ^ 64
  let s := s.wr (A.IS_S_FRAME_INDEX n) (BitVec.ofNat 64 f)
  let st := s.isSt n
  let due := st.queue.filter fun p => decide (p.2 ≤ f)
  let par := st.par.getD IsParam.default
  let (s, par, err) := match due.getLast? with
    | none => (s, par, false)
    | some (a, _) =>
      match s.isReadParam n a with
      | (s, some p) => (s, p, false)
      | (s, none) => (s.bump (A.IS_S_PARAM_ERR n), par, true)
  let s := s.fadd (A.IS_S_SUPERSEDED n) F.IS_S_SUPERSEDED_COUNT (due.length - 1)
  let x : IsFrame := ⟨f, num % 65536, s.time, 0, s.auIdx, par, err, [], 0, 0, 0, false, false, false⟩
  let s := s.setIs n { s.isSt n with cur := some x, par := some par, queue := st.queue.filter fun p => decide (f < p.2) }
  s.isRecord n x false

/-- The share of the line buffer of a stream is full (R464). -/
def State.isFull (s : State) (n : Nat) : Bool :=
  let en := ((List.range 16).filter s.isOnStream).length
  decide (524288 / max 1 en < ((s.cam.out.filter fun o => o.1 == n).length + 1) * (s.isCfg n).lineBytes)

/-- A line of a stream (R448, R451, R464). -/
def State.isLine (s : State) (n : Nat) (bs : List Nat) (bad full : Bool) : State :=
  let st := s.isSt n
  let c := s.isCfg n
  match st.cur with
  | none => s.fset (A.CA_STATUS c.rx) F.CA_STATUS_SYNC_ERR 1
  | some x =>
    let s := if bad then s.bump (A.IS_S_CRC_LINES n) else s
    let wrong := bs.length != c.lineBytes
    let x := { x with recv := x.recv + 1, lenErr := x.lenErr + b2n wrong }
    if c.h ≤ x.lines.length then s.setIs n { st with cur := some x }
    else
      let drop := full || s.isFull n
      let px := if drop then [] else unpackLine c.dt (bs.take c.lineBytes)
      let x := { x with lines := x.lines ++ [⟨px, bad, drop⟩], incomplete := x.incomplete || decide (bs.length < c.lineBytes) }
      let s := if drop then s.bump (A.IS_S_LINES_DROPPED n) else s.fadd A.IS_PIXELS F.IS_PIXELS_COUNT (min c.w px.length)
      let (s, x) := s.isRows n x (x.lines.length - 1)
      s.setIs n { s.isSt n with cur := some x }

/-- The enabled streams of a receiver and virtual channel that a test accepts. -/
def State.isMatch (s : State) (rx vc : Nat) (p : IsCfg → Bool) : List Nat :=
  (List.range 16).filter fun n => s.isOnStream n && (let c := s.isCfg n; c.rx == rx && c.vc == vc && p c)

/-- A packet reaches a receiver (R447, R448): its header is judged first. `hdr` is 0 for a good header, 1 for a corrected one, 2 for one that cannot be corrected. -/
def csiPacket (rx hdr : Nat) (s : State) (k : State → State) : Out :=
  if 4 ≤ rx ∨ !s.isOn 5 ∨ !s.flag (A.CA_CTRL rx) F.CA_CTRL_EN then .next s
  else
    let s := { s with cam := { s.cam with seen := Tab.set s.cam.seen 0 rx (s.now + 1) } }
    if 2 ≤ hdr then .next (s.bump (A.CA_ECC_UNCORR rx))
    else .next (k (if hdr = 1 then s.bump (A.CA_ECC_CORR rx) else s))

/-- CSI_FRAME_START (R451): a Frame Start short packet with its frame number. -/
def execCsiFrameStart (rx vc num hdr : Nat) (s : State) : Out :=
  csiPacket rx hdr s fun s =>
    match s.isMatch rx vc (fun _ => true) with
    | [] => s.bump (A.CA_UNMATCHED rx)
    | l => l.foldl (fun s n => s.isStart n num) s

/-- CSI_LONG_PACKET (R448): a long packet with its payload. `crc` says that its CRC failed, `sot` that its start of transmission had an error, `full` that input above the ISP's rate has filled the stream's share of the buffer. -/
def execCsiLongPacket (rx vc dt hdr : Nat) (crc sot full : Bool) (data : List Nat) (s : State) : Out :=
  csiPacket rx hdr s fun s =>
    let s := if sot then s.bump (A.CA_SOT_ERR rx) else s
    match if dtOk dt then s.isMatch rx vc (fun c => c.dt == dt) else [] with
    | [] => s.bump (A.CA_UNMATCHED rx)
    | l =>
      let s := if crc then s.bump (A.CA_CRC_ERR rx) else s
      l.foldl (fun s n => s.isLine n data crc full) s

/-- CSI_FRAME_END (R448, R451). -/
def execCsiFrameEnd (rx vc hdr : Nat) (s : State) : Out :=
  csiPacket rx hdr s fun s =>
    match s.isMatch rx vc (fun _ => true) with
    | [] => s.bump (A.CA_UNMATCHED rx)
    | l => l.foldl (fun s n => if (s.isSt n).cur.isSome then s.isEnd n false else s.fset (A.CA_STATUS rx) F.CA_STATUS_SYNC_ERR 1) s

/-- ISP_FRAME_DONE (R461): once every write of a stream's oldest ended frame is performed, its record turns DONE. -/
def execIspFrameDone (n : Nat) (s : State) : Out :=
  let s := s.isFlush s.cam.out.length
  match (s.isSt n).ended with
  | [] => .next s
  | x :: rest =>
    if s.cam.out.any fun o => o.1 == n && o.2.1 == x.idx then .next s
    else .next ((s.setIs n { s.isSt n with ended := rest }).isRecord n x true)

/-! ### Stream control (R450, R459, R460) -/

/-- The checks of setting EN (R450). -/
def State.isEnableOk (s : State) (n : Nat) : Bool :=
  let c := s.isCfg n
  let v := viaHome c.tenant
  let good := fun (a k : Nat) => a % 64 == 0 && s.reach v a k true locNear != .bad
  (List.range 16).all (fun m => m == n || !s.isOnStream m || (let d := s.isCfg m; !(d.rx == c.rx && d.vc == c.vc && d.dt == c.dt))) &&
  s.flag (A.IS_S_TENANT n) F.IS_S_TENANT_VALID && s.flag (A.CA_TENANT c.rx) F.CA_TENANT_VALID && s.fget (A.CA_TENANT c.rx) F.CA_TENANT_TENANT == c.tenant &&
  c.w % 4 == 0 && decide (16 ≤ c.w) && decide (c.w ≤ if c.fmt = 2 then 8192 else 4096) && c.h % 2 == 0 && decide (16 ≤ c.h) && decide (c.h ≤ 8192) &&
  ((c.fmt == 3) == (c.dt == 0x1E)) && dtOk c.dt && c.rec_ != 0 &&
  good c.buf (c.nbuf * c.h * c.stride) && good c.rec_ (64 * c.nbuf) && (c.stats == 0 || good c.stats (10240 * c.nbuf))

/-- Setting EN of a stream (R450, R451, R458). -/
def State.isEnable (s : State) (n : Nat) : State :=
  if s.isEnableOk n then
    let s := (s.fset (A.IS_S_CFG n) F.IS_S_CFG_EN 1).wr (A.IS_S_FRAME_INDEX n) (BitVec.allOnes 64)
    (s.setIs n { s.isSt n with cur := none, par := some IsParam.default, queue := [] }).fset A.IS_STATUS (n, n) 1
  else s.fset (A.IS_S_CFG n) F.IS_S_CFG_CFG_ERR 1

/-- Clearing EN of a stream (R450). -/
def State.isDisable (s : State) (n : Nat) : State :=
  let s := s.isEnd n true
  let s := s.fset (A.IS_S_CFG n) F.IS_S_CFG_EN 0
  (s.setIs n { s.isSt n with queue := [] }).fset A.IS_STATUS (n, n) 0

/-- A write of IS_S_CFG (R450): while EN is 1 only EN takes it. -/
def State.isCfgWrite (s : State) (n v : Nat) : State :=
  if s.isOnStream n then (if bit v 0 then s else s.isDisable n)
  else
    let s := [F.IS_S_CFG_RX, F.IS_S_CFG_VC, F.IS_S_CFG_CFA, F.IS_S_CFG_OUT_FMT, F.IS_S_CFG_POISON_BAD, F.IS_S_CFG_DELAY].foldl
      (fun s f => s.fset (A.IS_S_CFG n) f (bits v f.1 f.2)) s
    let s := if dtOk (bits v 12 7) then s.fset (A.IS_S_CFG n) F.IS_S_CFG_DT (bits v 12 7) else s
    let s := if bit v 21 then s.fset (A.IS_S_CFG n) F.IS_S_CFG_CFG_ERR 0 else s
    if bit v 0 then s.isEnable n else s

/-- A row that needs D4 and a stream's access. -/
def isRow (who : Who) (n : Nat) (s : State) (k : State → State) : Out :=
  if 16 ≤ n ∨ !s.isOk who n then .next s else .next (needOn [4] s (k s))

/-- IS_STREAM_ENABLE (R450). -/
def execIsStreamEnable (who : Who) (n : Nat) (s : State) : Out := isRow who n s fun s => if s.isOnStream n then s else s.isEnable n

/-- IS_STREAM_DISABLE (R450). -/
def execIsStreamDisable (who : Who) (n : Nat) (s : State) : Out := isRow who n s fun s => if s.isOnStream n then s.isDisable n else s

/-- A push is refused (R459). -/
def State.pushRefused (s : State) (n reason : Nat) : State :=
  (s.fset (A.IS_S_QSTATUS n) F.IS_S_QSTATUS_REFUSED 1).fset (A.IS_S_QSTATUS n) F.IS_S_QSTATUS_REASON reason

/-- A push of a parameter set (R459, R460). -/
def State.isPush (s : State) (n : Nat) (abs : Bool) : State :=
  let k1 := ((s.rd (A.IS_S_FRAME_INDEX n)).toNat + 1) % 2 ^ 64
  let a := (s.rd (A.IS_S_PUSH_ADDR n)).toNat
  let want := if abs then (s.rd (A.IS_S_PUSH_FRAME n)).toNat else k1 + s.fget (A.IS_S_CFG n) F.IS_S_CFG_DELAY
  let st := s.isSt n
  if !s.isOnStream n then s.pushRefused n 3
  else if a % 64 ≠ 0 ∨ s.reach (viaHome (s.isCfg n).tenant) a 1792 false locNear = .bad then s.pushRefused n 2
  else
    let s := if want < k1 then s.bump (A.IS_S_LATE n) else s
    let ap := max want k1
    let same := st.queue.any fun p => p.2 == ap
    if !same ∧ 8 ≤ st.queue.length then (s.pushRefused n 1).bump (A.IS_S_PUSH_FULL n)
    else
      let s := if same then s.bump (A.IS_S_SUPERSEDED n) else s
      let s := s.setIs n { st with queue := (st.queue.filter fun p => p.2 != ap) ++ [(a, ap)] }
      s.wr (A.IS_S_LAST_APPLY n) (BitVec.ofNat 64 ap)

/-- A write of IS_S_PUSH_CMD (R459, R460): with both bits set the queue is emptied first. -/
def State.isPushCmd (s : State) (n v : Nat) : State :=
  if 8 ≤ v then s.lockViolation (A.IS_S_PUSH_CMD n) 2
  else
    let s := if bit v 2 then s.setIs n { s.isSt n with queue := [] } else s
    if bit v 0 then s.isPush n (bit v 1) else s

/-- PUSH (R459). -/
def execPush (who : Who) (n : Nat) (abs : Bool) (s : State) : Out := isRow who n s fun s => s.isPushCmd n (1 + 2 * b2n abs)

/-- CLEAR (R460). -/
def execClear (who : Who) (n : Nat) (s : State) : Out := isRow who n s fun s => s.isPushCmd n 4

/-! ### Lanes of a receiver (R446) -/

/-- DESKEW_SEQUENCE (R446, R467): a receiver completes a deskew sequence. -/
def execDeskewSequence (rx : Nat) (s : State) : Out :=
  csiPacket rx 0 s fun s => s.fset (A.CA_STATUS rx) F.CA_STATUS_DESKEW_DONE 1

/-- ULPS_ENTRY_EXIT (R446, R467): the lanes of a receiver enter or leave ULPS. -/
def execUlpsEntryExit (rx : Nat) (enter : Bool) (s : State) : Out :=
  if 4 ≤ rx ∨ !s.isOn 5 ∨ !s.flag (A.CA_CTRL rx) F.CA_CTRL_EN then .next s
  else .next (s.fset (A.CA_STATUS rx) F.CA_STATUS_ULPS (b2n enter))

/-! ### The glance port (R407, R465, R466) -/

/-- The luminance plane of the lines received, with the plane's width and height (R465). -/
def glancePlane (fmt order w h : Nat) (lines : List (List Nat)) : Nat × Nat × List (List Nat) :=
  let ls := lines.take h
  match fmt with
  | 0 => (w, h, ls.map fun l => (l.take w).map fun d => d % 4096 / 16)
  | 1 => (w, h, ls.map fun l => (l.take w).map fun d => d % 4096 / 16)
  | 2 => (w / 2, h / 2, (List.range (ls.length / 2)).map fun r =>
      let a := (ls.getD (2 * r) []).take w
      let b := (ls.getD (2 * r + 1) []).take w
      (List.range (min a.length b.length / 2)).map fun c =>
        (a.getD (2 * c) 0 % 4096 + a.getD (2 * c + 1) 0 % 4096 + b.getD (2 * c) 0 % 4096 + b.getD (2 * c + 1) 0 % 4096) / 64)
  | _ => (w, h, ls.map fun l =>
      let y := l.take (2 * w)
      (List.range ((y.length + (1 - order)) / 2)).map fun c => y.getD (2 * c + order) 0 % 4096 / 16)

/-- rne of 256 × sum ÷ count (R466). -/
def mean256 (l : List Nat) : Nat := if l = [] then 0 else (rneI (256 * l.foldl (· + ·) 0 : Nat) l.length).toNat

/-- GLANCE_FRAME_END (R465, R466): a frame of the glance port ends. `lines` are the words on GP_D at the PCLK edges with GP_HSYNC active, line by line; the frame's VSYNC was `ago` time units and `back` samples earlier. -/
def execGlanceFrameEnd (lines : List (List Nat)) (ago back : Nat) (s : State) : Out :=
  if !s.isOn 2 || !s.flag A.GP_CTRL F.GP_CTRL_EN then .next s
  else
    let fmt := s.fget A.GP_CTRL F.GP_CTRL_PIXFMT
    let w := s.fget A.GP_SIZE F.GP_SIZE_WIDTH
    let h := s.fget A.GP_SIZE F.GP_SIZE_HEIGHT
    let len := if fmt = 3 then 2 * w else w
    let inc := decide (lines.length < h) || (lines.take h).any fun l => decide (l.length < len)
    let overran := decide (h < lines.length) || (lines.take h).any fun l => decide (len < l.length)
    let (pw, ph, pl) := glancePlane fmt (s.fget A.GP_CTRL F.GP_CTRL_YUV_ORDER) w h lines
    let all := pl.flatMap fun l => l
    let zone := fun (i j : Nat) => mean256 (((pl.take (ph * (j + 1) / 6)).drop (ph * j / 6)).flatMap fun l => (l.take (pw * (i + 1) / 8)).drop (pw * i / 8))
    let zs := (List.range 6).flatMap fun j => (List.range 8).map fun i => zone i j
    let prev := if inc then none else s.cam.means
    let mot := match prev with
      | none => List.replicate 48 0
      | some p => (List.range 48).map fun k => min (rneI ((zs.getD k 0 : Int) - (p.getD k 0 : Int)).natAbs 256).toNat 255
    let th := s.fget A.GP_MOTION F.GP_MOTION_MOTION_THRESH
    let hist := all.foldl (fun b l => bin1 b (l / 16)) (List.replicate 16 0)
    let stats := natLe 2 (mean256 all) ++ [(mot.filter fun m => decide (th ≤ m)).length, b2n s.cam.means.isNone + 2 * b2n inc] ++
      natLe 4 (all.filter fun l => l == 255).length ++ natLe 4 (mot.foldl (· + ·) 0) ++ natLe 4 0 ++ (zs.flatMap fun z => natLe 2 z) ++ mot ++ (hist.flatMap fun v => natLe 4 v)
    let g := (s.rd A.AU_GLANCE_INDEX).toNat
    let ent := natLe 8 g ++ natLe 8 ((s.time + 2 ^ 64 - ago) % 2 ^ 64) ++ natLe 8 (s.auIdx - back) ++ natLe 8 0 ++ stats
    let s := { s with au := { s.au with glance := Tab.set s.au.glance (List.replicate 256 0) (g % 64) ent }, cam := { s.cam with means := if inc then s.cam.means else some zs } }
    let s := (s.wr A.AU_GLANCE_INDEX (BitVec.ofNat 64 (g + 1))).bump A.GP_FRAMES
    let s := if inc then s.bump A.GP_INCOMPLETE else s
    let s := if inc || overran then s.fset A.GP_STATUS F.GP_STATUS_SIZE_ERR 1 else s
    .next s.fetchRun

end Sys2Proof.Machine
end

