-- ==== Sys2Proof/Machine/Runnel.lean ====
section
/-!
DEFINITION. The Runnel core: its states, the evaluation of frames, decisions and handoff records, and model images (R411 to R425).
-/
namespace Sys2Proof.Machine

/-- Show the state of the core in RN_STATUS (R411, R425): LOADING while a load runs. -/
def State.rnSync (s : State) : State :=
  s.fset A.RN_STATUS F.RN_STATUS_STATE (if s.rn.load.isSome then 4 else s.rn.st)

/-- Set the core's record and show its state. -/
def State.setRn (s : State) (r : RnSt) : State := ({ s with rn := r } : State).rnSync

/-- A command was ignored (R425). -/
def State.rnRefused (s : State) : State := s.fset A.RN_STATUS F.RN_STATUS_CMD_REFUSED 1

/-- The oldest frame that the audio ring holds, as a sample index (R412, R423). -/
def State.oldestFrame (s : State) : Nat := ceilDiv (s.auIdx - 65536) 160 * 160

/-- Runnel enters LISTENING with an onset (R412): D3 is requested with D3_ON 1. -/
def State.listen (s : State) (onset : Nat) (trig : Bool) : State :=
  let start := max ((onset - s.fget A.RN_LOOKBACK F.RN_LOOKBACK_SAMPLES) / 160 * 160) s.oldestFrame
  let s := s.bump A.RN_WAKES
  let s := s.setRn { s.rn with st := 1, next := start, gnext := (s.rd A.AU_GLANCE_INDEX).toNat, conf := [], quiet := 0, decided := [], onset := onset, trig := trig }
  if s.fget A.RN_CASCADE_CFG F.RN_CASCADE_CFG_D3_ON = 1 then (s.abortEntry 3).demandWake 3 else s

/-- RUNNEL_WAKE (R411, R412, R418): D1 is ready with PENDING set, and a core in SLEEP starts to listen. -/
def execRunnelWake (s : State) : Out :=
  if !s.isOn 1 || s.rn.st != 0 || !s.flag A.AU_EVENT_CTRL F.AU_EVENT_CTRL_PENDING then .next s
  else .next (s.listen (s.rd A.AU_EVENT_ONSET).toNat false)

/-! ### Decisions and handoff records (R413, R415, R416) -/

/-- The threshold word of a model in force for frame `f` (R413). -/
def State.thresh (s : State) (m f : Nat) : Nat :=
  match (Tab.get s.rn.old [] m).find? fun p => decide (f < p.1) with
  | some p => p.2
  | none => (s.rd (A.RN_THRESH m)).toNat

/-- A write of RN_THRESH takes effect from the first frame that begins after it (R413): the word it replaces is kept for the frames before. -/
def State.threshWrite (s : State) (m v : Nat) : State :=
  let f := s.auIdx / 160 + 1
  let was := (s.rd (A.RN_THRESH m)).toNat
  let old := Tab.get s.rn.old [] m
  let old := if old.any fun p => p.1 == f then old else old ++ [(f, was)]
  let s := { s with rn := { s.rn with old := Tab.set s.rn.old [] m old } }
  s.wr (A.RN_THRESH m) (BitVec.ofNat 64 (v % 2 ^ 24))

/-- Is a T16 score at least a threshold? -/
def scoreMeets (score on : Nat) : Bool :=
  let a := fmtT16.dec (score % 65536)
  let b := fmtT16.dec (on % 65536)
  !a.isNan && !b.isNan && !(a.lt b)

/-- A frame's energy log entry had a flag set (R406). -/
def State.logFlag (s : State) (f b : Nat) : Bool := bit (field (Tab.get s.au.elog [] (f % 512)) 12 4) b

/-- The handoff record of a decision (R416). -/
def State.handoff (s : State) (m cls score start dec : Nat) : List Nat :=
  let r := s.rn
  let wide := (s.rd A.AU_WIDE_START).toNat
  let muted := (List.range ((dec - start) / 160)).any fun k => s.logFlag (start / 160 + k) 1
  let flags := b2n (start < wide) + 2 * b2n (!s.au.settled || decide (dec < wide)) + 4 * b2n muted + 8 * b2n r.late + 16 * b2n r.trig
  [1, 1, if r.trig then 0xFF else m, flags] ++ natLe 2 cls ++ natLe 2 score ++ natLe 8 (r.seq + 1) ++ natLe 8 r.onset ++ natLe 8 start ++ natLe 8 dec ++
  natLe 8 wide ++ natLe 8 s.time ++ natLe 8 (r.lastG.getD (2 ^ 64 - 1)) ++
  ((List.range 8).flatMap fun k => natLe 2 (if k < ((r.image.map (·.models.length)).getD 0) then r.scores.getD k 0 else 0)) ++
  natLe 8 ((r.image.map (·.serial)).getD 0) ++ natLe 40 0

/-- The bytes a placement of a handoff packet takes at a count: 192, after the bytes to the end of the area when it does not fit before it (R340). -/
def placeGap (area prod : Nat) : Nat := if area < prod % area + 192 then area - prod % area else 0

/-- Can Runnel place a packet on the Leat ring now (R415)? -/
def State.leatReady (s : State) : Bool :=
  let r := s.fget A.RN_LEAT_RING F.RN_LEAT_RING_RING
  let x := s.ringSt r
  let prod := s.ringProd r
  s.auTenant.isSome && s.ringTenant r == s.auTenant && x.enabled && !x.stopped && decide (192 ≤ s.ringArea r) && prod == x.cons &&
  decide (prod + placeGap (s.ringArea r) prod + 192 ≤ x.release + s.ringArea r)

/-- Runnel hands a record on (R415): with TARGET 1 it asserts the pin; else the record waits to be placed, four at most. -/
def State.handOn (s : State) (rec_ : List Nat) : State :=
  let s := { s with rn := { s.rn with seq := s.rn.seq + 1, late := false } }
  let s := (List.range 16).foldl (fun s k => s.wr (A.RN_LAST_RECORD + 8 * k) (BitVec.ofNat 64 (field rec_ (8 * k) 8))) s
  if s.flag A.RN_CASCADE_CFG F.RN_CASCADE_CFG_TARGET then s.fset A.RN_STATUS F.RN_STATUS_PIN_ASSERTED 1
  else
    let now := s.rn.held = [] ∧ s.leatReady
    if !now ∧ 4 ≤ s.rn.held.length then s.bump A.RN_HANDOFF_DROPPED
    else
      let s := if now then s else s.bump A.RN_HANDOFF_HELD
      { s with rn := { s.rn with held := s.rn.held ++ [rec_] } }

/-- The models of an evaluation decide (R413): `ms` are those evaluated, `dec` the DECISION_INDEX of each record. Answers whether one decided. -/
def State.decide_ (s : State) (ms : List Nat) (frame dec : Nat) (scores classes starts : List Nat) : State × Bool :=
  let met := fun m => scoreMeets (scores.getD m 0) (bits (s.thresh m frame) 15 0)
  let conf := ms.foldl (fun c m => Tab.set c 0 m (if met m then Tab.get c 0 m + 1 else 0)) s.rn.conf
  let win := ms.filter fun m =>
    let k := bits (s.thresh m frame) 23 16
    decide (k ≠ 0) && decide (k ≤ Tab.get conf 0 m) && (Tab.get? s.rn.decided m).isNone
  let s := { s with rn := { s.rn with conf := conf, scores := scores } }
  match win with
  | [] => (s, false)
  | m :: rest =>
    let s := (s.bump A.RN_DECISIONS).fadd A.RN_DECISIONS_MERGED F.RN_DECISIONS_MERGED_COUNT rest.length
    let s := s.handOn (s.handoff m (classes.getD m 0) (scores.getD m 0) (starts.getD m 0 / 160 * 160) dec)
    let s := s.setRn { s.rn with st := 2, decided := Tab.ins m 0 s.rn.decided, quiet := 0 }
    (if s.fget A.RN_CASCADE_CFG F.RN_CASCADE_CFG_D3_ON = 2 then (s.abortEntry 3).demandWake 3 else s, true)

/-- The models of the image in use that a test accepts, in ascending order. -/
def RnSt.pick (r : RnSt) (p : RnModel → Bool) : List Nat :=
  match r.image with
  | none => []
  | some i => (List.range i.models.length).filter fun m => (i.models[m]?).any p

/-- A model that decided may decide again REFRACTORY frames later (R411, R423). -/
def State.refractory (s : State) (d : Tab Nat) : Tab Nat :=
  let n := s.fget A.RN_HOLD F.RN_HOLD_REFRACTORY
  (d.map fun p => (p.1, p.2 + 1)).filter fun p => decide (p.2 ≤ n)

/-- Evaluate one 10 ms frame (R412, R413). -/
def State.evalFrame (s : State) (scores classes starts : List Nat) : State :=
  let w := s.auIdx
  let lost := s.oldestFrame - s.rn.next
  let s := if lost = 0 then s else
    let s := s.fadd A.RN_LATE F.RN_LATE_COUNT (lost / 160)
    { s with rn := { s.rn with next := s.oldestFrame, late := true } }
  let i := s.rn.next
  if w < i + 160 then s
  else
    let s := if (List.range 160).any fun k => s.au.bad.has ((i + k) % 65536) then s.bump A.RN_POISON_FRAMES else s
    let s := { s with rn := { s.rn with next := i + 160, decided := s.refractory s.rn.decided } }
    match s.decide_ (s.rn.pick fun m => m.kind != 2) (i / 160) (i + 160) scores classes starts with
    | (s, true) => s
    | (s, false) => { s with rn := { s.rn with quiet := if s.logFlag (i / 160) 0 then 0 else s.rn.quiet + 1 } }

/-- Evaluate one glance entry (R407, R411); an overwritten entry is passed over. -/
def State.evalGlance (s : State) (scores classes starts : List Nat) : State :=
  let w := (s.rd A.AU_GLANCE_INDEX).toNat
  let g := max s.rn.gnext (w - 64)
  if w ≤ g then s
  else
    let e := Tab.get s.au.glance [] (g % 64)
    let s := { s with rn := { s.rn with gnext := g + 1, lastG := some g } }
    (s.decide_ (s.rn.pick fun m => m.kind == 2) (s.rn.next / 160) (field e 16 8) scores classes starts).1

/-- RUNNEL_FRAME_EVAL (R411 to R413): the core evaluates the next frame or glance entry. The scores, classes and phrase starts are what its models give; they come from the image's bodies, which Runnel firmware interprets. -/
def execRunnelFrameEval (glance : Bool) (scores classes starts : List Nat) (s : State) : Out :=
  if !s.isOn 1 || !(s.rn.st == 1 || s.rn.st == 2) then .next s
  else .next (if glance then s.evalGlance scores classes starts else s.evalFrame scores classes starts)

/-- RUNNEL_HOLD_EXPIRY (R411, R423): HOLD_FRAMES frames in LISTENING without an ABOVE frame and without a decision. -/
def execRunnelHoldExpiry (s : State) : Out :=
  if !s.isOn 1 || s.rn.st != 1 || decide (s.rn.quiet < max 1 (s.fget A.RN_HOLD F.RN_HOLD_HOLD_FRAMES)) then .next s
  else .next (s.seepAck.setRn { s.rn with st := 0, trig := false })

/-- RUNNEL_REFRACTORY_END (R411): HOLD returns to LISTENING. -/
def execRunnelRefractoryEnd (s : State) : Out :=
  if !s.isOn 1 || s.rn.st != 2 || s.refractory s.rn.decided != [] then .next s
  else .next (s.setRn { s.rn with st := 1, decided := [] })

/-! ### Placing a handoff packet (R339, R340, R415) -/

/-- Place a record on the Leat ring and ring the doorbell. -/
def State.placeHandoff (s : State) (r n : Nat) (rec_ : List Nat) : State :=
  let x := s.ringSt r
  let prod := s.ringProd r
  let gap := placeGap (s.ringArea r) prod
  let s := if gap = 0 then s else s.homePut (s.ringAt r prod) (clean (2 :: natLe 63 0))
  let hdr := [1, 4] ++ natLe 2 0 ++ natLe 4 x.acceptNext ++ natLe 4 128 ++ natLe 4 0 ++ natLe 8 (s.rd A.RN_LEAT_PROG).toNat ++ natLe 8 (field rec_ 8 8) ++ natLe 32 0
  let s := s.homePut (s.ringAt r (prod + gap)) (clean (hdr ++ rec_))
  let s := s.homePut (s.ringBase r) (clean (natLe 8 (prod + gap + 192)))
  (s.doorbell n r).1

/-- RUNNEL_HANDOFF_PLACE (R415): the oldest waiting record becomes a packet of the Leat ring, once every packet placed before has been consumed. After a reset of D1 the core first rings the doorbell until it has. -/
def execRunnelHandoffPlace (s : State) : Out :=
  let r := s.fget A.RN_LEAT_RING F.RN_LEAT_RING_RING
  match s.auTenant with
  | none => .next s
  | some n =>
    if !s.isOn 1 || s.ringTenant r != some n || (s.rn.held == [] && s.rn.synced) then .next s
    else
      .next (needOn (13 :: t1Doms (s.ringBase r)) s
        (if s.ringProd r = (s.ringSt r).cons then
          let s := { s with rn := { s.rn with synced := true } }
          (match s.rn.held with
          | rec_ :: rest => if s.leatReady then ({ s with rn := { s.rn with held := rest } } : State).placeHandoff r n rec_ else s
          | [] => s)
        else if s.rn.synced then s else (s.doorbell n r).1))

/-- RN_PIN_CLEAR (R415): clearing PIN_ASSERTED drives WAKE_GPIO low. -/
def execRnPinClear (who : Who) (s : State) : Out :=
  if s.auOk who then .next (needOn [1] s (s.fset A.RN_STATUS F.RN_STATUS_PIN_ASSERTED 0)) else .next s

/-! ### Model images (R421, R422) -/

/-- T1 or T2 of this device. -/
def locT12 : Loc → Bool
  | .mem a => area a 1 != .t0
  | .lost _ => true
  | _ => false

/-- The first failing check of a list of (offset, passed). -/
def firstFail (l : List (Nat × Bool)) : Option Nat := (l.find? fun p => !p.2).map (·.1)

/-- One model entry at index `m` (R421). -/
def rnModel (bs : List Nat) (m : Nat) : RnModel :=
  let o := 0x20 + 32 * m
  ⟨field bs o 1, field bs (o + 1) 1, field bs (o + 2) 2, field bs (o + 4) 4, field bs (o + 0x10) 2, field bs (o + 0x12) 1⟩

/-- The checks of one model entry, in order of offset (R421). -/
def rnModelChecks (bs : List Nat) (len m : Nat) : List (Nat × Bool) :=
  let o := 0x20 + 32 * m
  let e := rnModel bs m
  let off := field bs (o + 8) 4
  let n := field bs (o + 0xC) 4
  let sum := (List.range (m + 1)).foldl (fun t k => t + (rnModel bs k).params) 0
  let clear := (List.range m).all fun k =>
    let p := 0x20 + 32 * k
    let off2 := field bs (p + 8) 4
    decide (off2 + field bs (p + 0xC) 4 ≤ off) || decide (off + n ≤ off2)
  [(o, decide (e.kind ≤ 2)), (o + 1, if e.kind = 2 then e.input == 2 else decide (e.input ≤ 1)),
   (o + 2, decide (1 ≤ e.classes) && decide (e.classes ≤ 16)), (o + 4, decide (sum ≤ 1500000)),
   (o + 8, off % 64 == 0 && decide (off < len) && clear), (o + 0xC, decide (off + n ≤ len)), (o + 0x13, zeroBytes bs (o + 0x13) 13)]

/-- Is IMAGE_LENGTH good (R421)? -/
def rnLenOk (len : Nat) : Bool := len % 64 == 0 && decide (320 ≤ len) && decide (len ≤ 1835008)

/-- Check an image (R421): the offset of the first failing field, or the image. A poisoned byte fails the CRC (log entry 38). -/
def rnCheck (pb : List PByte) : Option Nat × RnImage :=
  let bs := pb.map (·.1)
  let count := field bs 6 1
  let len := field bs 8 4
  let head := [(0, field bs 0 4 == 0x4C4E5552), (4, field bs 4 2 == 1), (6, decide (1 ≤ count) && decide (count ≤ 8)), (7, field bs 7 1 == 0), (8, rnLenOk len)]
  let img : RnImage := ⟨(List.range count).map (rnModel bs), field bs 0x10 8, bs⟩
  match firstFail head with
  | some o => (some o, img)
  | none =>
    (firstFail ([(0xC, !(pb.any (·.2)) && crc32c (putBytes bs 0xC (natLe 4 0)) == field bs 0xC 4), (0x18, zeroBytes bs 0x18 8)] ++
      (List.range count).flatMap (rnModelChecks bs len)), img)

/-- The load ends INVALID with the offset of the failing field; the models in use stay (R422). -/
def State.loadFail (s : State) (o : Nat) : State :=
  let s := (s.wr A.RN_LOAD_STATUS (BitVec.ofNat 64 (stInvalid + o * 16))).bump A.RN_LOAD_FAIL
  s.setRn { s.rn with load := none }

/-- Read and check the image of a running load (R422). An address out of place is reported with offset 0 (log entry 38). -/
def State.loadCheck (s : State) (a : Nat) : State :=
  match s.auTenant with
  | none => s.loadFail 0
  | some n =>
    let v := viaHome n
    match s.reach v a 32 false locT12 with
    | .moving _ => s
    | .bad => s.loadFail 0
    | .ok ds =>
      match s.domCheck ds with
      | .wait _ => s.domTouch ds
      | .refuse => s.loadFail 0
      | .go =>
        let (s, hd) := s.readBytes v a 32
        let len := pnat hd 8 4
        if !rnLenOk len then s.loadFail (((rnCheck hd).1).getD 8)
        else match s.reach v a len false locT12 with
        | .moving _ => s
        | .bad => s.loadFail 0
        | .ok ds =>
          match s.domCheck ds with
          | .wait _ => s.domTouch ds
          | .refuse => s.loadFail 0
          | .go =>
            let (s, bs) := s.readBytes v a len
            match rnCheck bs with
            | (some o, _) => s.loadFail o
            | (none, img) => s.setRn { s.rn with load := some (a, some img) }

/-- The new models come into use (R422). -/
def State.swapIn (s : State) (img : RnImage) : State :=
  let first := if s.rn.st = 1 ∨ s.rn.st = 2 then s.rn.next else ceilDiv s.auIdx 160 * 160
  let s := (s.wr A.RN_SWAP_INDEX (BitVec.ofNat 64 first)).wr A.RN_LOAD_STATUS 0
  let s := s.fset A.RN_STATUS F.RN_STATUS_MODELS img.models.length
  let s := (List.range img.models.length).foldl (fun s m => match img.models[m]? with
    | some e => s.wr (A.RN_THRESH m) (BitVec.ofNat 64 (e.on + e.confirm * 65536))
    | none => s) s
  s.setRn { s.rn with st := if s.rn.st = 5 then 0 else s.rn.st, image := some img, load := none, conf := [], old := [], scores := [] }

/-- RUNNEL_LOAD_SWAP (R422): at a frame boundary a checked image is swapped in; an image above 1 MiB is copied and its CRC computed again, and a difference leaves NO_MODEL. -/
def execRunnelLoadSwap (s : State) : Out :=
  if !s.isOn 1 then .next s
  else match s.rn.load with
  | none => .next s
  | some (a, none) => .next (s.loadCheck a)
  | some (a, some img) =>
    if img.bytes.length ≤ 1048576 then .next (s.swapIn img)
    else match s.auTenant with
    | none => .next (s.loadFail 0)
    | some n =>
      let (s, bs) := s.readBytes (viaHome n) a img.bytes.length
      let raw := bs.map (·.1)
      if bs.any (·.2) || crc32c (putBytes raw 0xC (natLe 4 0)) != field raw 0xC 4 then
        let s := (s.loadFail 0xC).fset A.RN_STATUS F.RN_STATUS_MODELS 0
        .next (s.setRn { s.rn with st := 5, image := none })
      else .next (s.swapIn { img with bytes := raw, serial := field raw 0x10 8, models := (List.range img.models.length).map (rnModel raw) })

/-! ### Commands (R411, R412, R422) -/

/-- A write of RN_CMD (R425): LOAD 1, STOP 2, LISTEN 3, TRIGGER 4. A command that its state does not take is ignored (log entry 39). -/
def State.rnCmd (s : State) (op : Nat) : State :=
  if op = 1 then
    if s.rn.load.isSome then s.rnRefused
    else
      let a := (s.rd A.RN_LOAD_ADDR).toNat
      if a % 64 ≠ 0 then s.loadFail 0 else (s.setRn { s.rn with load := some (a, none) }).loadCheck a
  else if op = 2 then
    if s.rn.st ≤ 2 then s.setRn { s.rn with st := 3, decided := [], conf := [], trig := false } else s.rnRefused
  else if op = 3 then
    if s.rn.st = 3 then
      (if s.flag A.AU_EVENT_CTRL F.AU_EVENT_CTRL_PENDING then s.listen (s.rd A.AU_EVENT_ONSET).toNat false else s.setRn { s.rn with st := 0 })
    else s.rnRefused
  else if op = 4 then
    if s.rn.st = 0 then s.listen s.auIdx true else s.rnRefused
  else s.lockViolation A.RN_CMD 2

/-- A command by its row; an access to a register of D1 wakes it first (R70). -/
def rnRow (op : Nat) (who : Who) (s : State) : Out :=
  if !s.auOk who then .next s else .next (needOn [1] s (s.rnCmd op))

/-- LOAD (R422). -/
def execLoad (who : Who) (s : State) : Out := rnRow 1 who s
/-- STOP (R411). -/
def execStop (who : Who) (s : State) : Out := rnRow 2 who s
/-- LISTEN (R411). -/
def execListen (who : Who) (s : State) : Out := rnRow 3 who s
/-- TRIGGER (R412). -/
def execTrigger (who : Who) (s : State) : Out := rnRow 4 who s

/-- D1 has left Off (R411, R425): NO_MODEL, and every RN field at its reset value but the locked ones, which are restored from the retained copy. -/
def State.rnReset (s : State) : State :=
  let keep := [A.RN_CASCADE_CFG, A.RN_LEAT_RING, A.RN_LEAT_PROG].map fun a => (a, s.rd a)
  let s := { s with regs := Tab.clear s.regs A.RN_STATUS 0x1000 }
  (keep.foldl (fun s p => s.wr p.1 p.2) s).setRn RnSt.reset

end Sys2Proof.Machine
end

