-- ==== Sys2Proof/Machine/Power.lean ====
section
/-!
DEFINITION. The Lock-keeper: entry of domains, refusers, wakes and wake sources, performance levels, the headroom governor, temperature and wear (R396, R470 to R500, R681 to R685).
-/
namespace Sys2Proof.Machine

/-! ### What a domain loses when it is Off (R470, R471, R651, R683) -/

/-- Put the registers of a domain back to their reset values; locked fields are restored from their copies in D0, and addresses that `keep` names are kept (R683). -/
def State.wipeRegs (s : State) (d : Nat) (keep : Nat → Bool) : State :=
  { s with regs := s.regs.filterMap fun p =>
      if regDom p.1 ≠ d ∨ p.1 < 0x7000000000 ∨ keep p.1 then some p
      else
        match regAt p.1 with
        | none => some p
        | some h =>
          let v := h.reg.flds.foldl (fun v f => if f.acc = .rwl then setBits v f.hi f.lo (bits p.2.toNat f.hi f.lo) else v) (regReset p.1).toNat
          if BitVec.ofNat 64 v = regReset p.1 then none else some (p.1, BitVec.ofNat 64 v) }

/-- Is an address in one of some inclusive ranges? -/
def inRanges (rs : List (Nat × Nat)) (a : Nat) : Bool := rs.any fun r => decide (r.1 ≤ a) && decide (a ≤ r.2)

/-- Registers that the applied plat or a block's chapter restores when the domain leaves Off (R445, R683). -/
def restoredReg (a : Nat) : Bool :=
  inRanges [(A.AU_WIDE_CTRL, A.AU_WIDE_BASE), (A.AU_MF_COEF 0 0, A.AU_MF_COEF 7 31), (A.HG_PLAT_STATUS, A.HG_PLAT_INFO), (A.HG_PLAT_DIGEST 0, A.HG_PLAT_DIGEST 11)] a ||
  (match regAt a with
    | some h => ["VC_QUOTA_T1", "VC_QUOTA_T2", "VC_QUOTA_T3", "XM_TRAIN", "XM_CFG", "XM_CAP", "XM_CTRL", "XM_STATUS", "HG_SCH_TILE_WEAR", "HG_SCH_WEAR_CTRL", "HG_SCH_WEAR_SWAP", "SC_EPOCH", "IO_ADDR", "HI_T_OBJ_BASE"].contains h.reg.name
    | none => false)

/-- Every poisoned granule and byte of a range is zero again. -/
def State.zeroRange (s : State) (a n : Nat) : State := s.zeroFill a n

/-- The contents of a DRAM layer are lost (R471): it reads as zero, and lost granules are whole again. -/
def State.zeroLayer (s : State) (l : Nat) : State :=
  { s with mem := s.mem.filter (fun c => !(decide (c.1 < t2Base) && layerOf c.1 == l)),
           psn := s.psn.filter fun g => !(decide (16 * g < t2Base) && layerOf (16 * g) == l) }

/-- The ring storage and journal of partitions that lie in a layer are rebuilt (R680): control areas zero, tick programs 0, contexts FREE with SAVE_ADDR 0. -/
def State.rebuildRings (s : State) (l : Nat) : State :=
  let inLayer := fun (k : Nat) => layerOf (frameAddr k) == l
  let lost := (s.partEs.filter fun p => (Tab.get s.plat.journal [] p.id).any inLayer ||
    s.ringEs.any fun re => re.part == p.id && (Tab.get s.plat.ringFrames [] re.first).any inLayer).map (·.id)
  let rings := (s.ringEs.filter fun re => lost.contains re.part).flatMap fun re => (List.range re.count).map fun i => re.first + i
  let ctxs := (s.ringEs.filter fun re => lost.contains re.part).flatMap fun re => (List.range re.ctxN).map fun i => re.ctx0 + i
  let s := rings.foldl (fun s r => { s with hg := { s.hg with rings := Tab.set s.hg.rings RingSt.reset r RingSt.reset } }) s
  ctxs.foldl (fun s c => s.setCtx c Ctx.free) s

/-- A port that is Off loses its blocks, keys and master secret; the requests it had sent end with REMOTE_TIMEOUT at their own timeout. -/
def State.portLost (s : State) (n : Nat) : State := { s with bl := { s.bl with ports := Tab.set s.bl.ports BlPort.reset n BlPort.reset } }

/-- The counters and queues of the vaults of cluster `c`, which its domain loses in Off (R97, R651). -/
def ArbSt.loseCluster (x : ArbSt) (c : Nat) : ArbSt :=
  let ours := fun (v : Nat) => v / 8 == c
  { x with turn := x.turn.filter (fun kv => !ours kv.1), bytes := x.bytes.filter (fun kv => !ours (kv.1 / 8)), wait := x.wait.filter fun kv => !ours (kv.1 / 8) }

/-- The counters and queues of external controller `k`, which its domain loses in Off (R98, R651). -/
def ArbSt.loseControl (x : ArbSt) (k : Nat) : ArbSt :=
  let ours := fun (c : Nat) => c / 2 == k
  { x with last := x.last.filter (fun kv => !ours kv.1), grants := x.grants.filter (fun kv => !ours kv.1), chBytes := x.chBytes.filter (fun kv => !ours kv.1),
           qmax := Tab.set x.qmax 0 k 0 }

/-- A domain is Off: its state is lost (R470, R471, R651). -/
def State.loseDomain (s : State) (d : Nat) : State :=
  let s := s.wipeRegs d restoredReg
  if d = 1 then s.rnReset
  else if d = 2 then { s with cam := { s.cam with means := none } }
  else if d = 3 then s.wideStop
  else if 9 ≤ d ∧ d ≤ 12 then s.portLost (d - 9)
  else if d = 7 then { s with host := s.host.cleared .down }
  else if d = 38 then { s with io := { s.io with dr := 0 } }
  else if d = 39 then { s with io := { s.io with rx := [], tx := [], urx := [], utx := [] } }
  else if d = 4 then { s with cam := { s.cam with streams := [], out := [] } }
  else if 16 ≤ d ∧ d ≤ 31 then
    let c := d - 16
    let s := (List.range 8).foldl (fun s i =>
      let t := 8 * c + i
      let s := (List.range 16).foldl (fun s n => s.setThread t n Thread.idle) (s.setTile t Tile.idle)
      s.zeroRange (t0Base + t * pageSize) pageSize) s
    let s := if s.sc.st.any fun x => x.cluster == c then s.scClear c else s
    { s with caches := s.caches.filter (fun e => !(decide (c * 4096 ≤ e.1) && decide (e.1 < (c + 1) * 4096))),
             tlb := tlbClear c s.tlb, arb := s.arb.loseCluster c,
             halo := s.halo.filter fun r => r.cluster != c }
  else if 32 ≤ d ∧ d ≤ 35 then (s.zeroLayer (d - 32)).rebuildRings (d - 32)
  else if d = 36 ∨ d = 37 then { s with arb := s.arb.loseControl (d - 36) }.zeroRange (t2Base + (d - 36) * 0x800000000) 0x800000000
  else s

/-- What a domain loses in Retention (R471): the glance port's previous means; the wide chain of D3 stops (R428). -/
def State.retainDomain (s : State) (d : Nat) : State :=
  if d = 2 then { s with cam := { s.cam with means := none } } else if d = 3 then s.wideStop else s

/-! ### Refusers (R474) -/

/-- The depth of a state (R472). -/
def DState.depth : DState → Nat
  | .on => 0
  | .ret => 1
  | .off => 2

/-- Is every thread of a cluster idle in the sense of R101? -/
def State.tilesIdle (s : State) (c : Nat) : Bool :=
  s.threads.all fun p => p.1 / 128 != c || (p.2.st == .idle || p.2.st == .waitMsg || p.2.st == .waitEng)

/-- Does an access of a thread that is under way need the domain? -/
def State.accNeeds (s : State) (d : Nat) : Bool :=
  s.threads.any fun p => p.2.acc.any fun a => (a.todo.any fun g => g.any fun q => (s.locDoms q.loc).contains d) || (p.1 / 128 + 16 == d && a.todo != [])

/-- A port's state (R542). -/
def State.blPort (s : State) (n : Nat) : BlPort := Tab.get s.bl.ports BlPort.reset n

/-- Write a port's state. -/
def State.setPort (s : State) (n : Nat) (p : BlPort) : State := { s with bl := { s.bl with ports := Tab.set s.bl.ports BlPort.reset n p } }

/-- Has a port something queued, unacknowledged or awaited (R543)? -/
def State.portBusy (s : State) (n : Nat) : Bool :=
  let p := s.blPort n
  p.q != [] || p.replay != [] || p.cur != [] || s.reqs.any fun q => q.wire.any fun w => w.2.2 == n

/-- Is an access to or from the domain in progress or queued (R474)? The identity's upper byte names a stream, or is 0xFF. -/
def State.busyDom (s : State) (d : Nat) : Option Nat :=
  let eng := fun (e : Nat) (u : Nat) => decide (16 ≤ d) && decide (d ≤ 31) && decide (e ≤ 3) && (engUnit e u == (if e = 0 then u else d - 16)) && u / 8 + 16 == d
  let cmds := s.ebuf ++ s.eng.q.map (·.cmd) ++ s.runs.map (·.cmd)
  if s.accNeeds d then some 0xFF00
  else if cmds.any fun c => eng c.eng c.tile || (d == 14 && decide (4 ≤ c.eng)) then some 0xFF00
  else if (d == 4 || d == 5) && (List.range 16).any s.isOnStream then some (((List.range 16).find? s.isOnStream).getD 0 * 256)
  else if d == 2 && s.flag A.GP_CTRL F.GP_CTRL_EN then some 0xFF00
  else if d == 3 && s.au.wbuf != [] then some 0xFF00
  else if d == 13 && (s.hg.dbq != [] || s.hg.rescan != [] || s.hg.jr.any fun e => e.st == .writing) then some 0xFF00
  else if s.vc.moves.any (fun m => m.lane && (d == 15 || (s.moveDoms m).contains d)) then some 0xFF00
  else if (d == 7 || d == 8) && (s.host.exports != [] || s.host.egress != [] || s.hg.jr.any fun e => e.st == .done) then some 0xFF00
  else if 9 ≤ d ∧ d ≤ 12 ∧ s.portBusy (d - 9) then some 0xFF00
  else none

/-- The partitions with journal or ring-storage frames in a layer that still need them (R22, R680). -/
def State.layerPart (s : State) (l : Nat) : Option Nat :=
  let inLayer := fun (k : Nat) => layerOf (frameAddr k) == l
  (s.partEs.find? fun p =>
    ((Tab.get s.plat.journal [] p.id).any inLayer || s.ringEs.any fun re => re.part == p.id && (Tab.get s.plat.ringFrames [] re.first).any inLayer) &&
    (s.jrUsed p.id != 0 ||
      s.ringEs.any fun re => re.part == p.id &&
        (((List.range re.count).any fun i => (s.ringSt (re.first + i)).enabled) ||
         (List.range re.ctxN).any fun i => (s.ctx (re.ctx0 + i)).st != 0 || (s.ctx (re.ctx0 + i)).slots != []))).map (·.id)

/-- LIVE_STATE (R474): what of a domain is still in use, as tile, vault or channel and tenant. -/
def State.liveState (s : State) (d : Nat) : Option Nat :=
  if 16 ≤ d ∧ d ≤ 31 then
    match s.threads.find? fun p => p.1 / 128 + 16 == d && p.2.st != .idle with
    | some p => some (p.1 / 16 + 256 * s.tenantAt (p.1 / 16))
    | none => (s.vc.ents.find? fun p => entValid p.2 && entTier p.2 == 0 && entFrame p.2 % 128 / 8 + 16 == d).map fun p => entFrame p.2 % 128 + 256 * (p.1 / 524288)
  else if 32 ≤ d ∧ d ≤ 35 then
    (s.vc.frames.find? fun p => p.2.alloc && decide (p.1 < 65536) && layerOf (frameAddr p.1) + 32 == d && !s.reservedFrames.contains p.1).map fun p => vaultOf (frameAddr p.1) + 256 * p.2.owner
  else if d = 36 ∨ d = 37 then
    (s.vc.frames.find? fun p => p.2.alloc && decide (65536 ≤ p.1) && chanDom (chanOf (frameAddr p.1)) == d).map fun p => chanOf (frameAddr p.1) + 256 * p.2.owner
  else none

/-- The level wake sources that are asserted (R480). -/
def State.levelOn (s : State) (i : Nat) : Bool :=
  if i = 0 then s.pw.i2c
  else if i = 1 then s.flag A.AU_EVENT_CTRL F.AU_EVENT_CTRL_PENDING
  else if 28 ≤ i ∧ i ≤ 35 then s.flag (A.TU_TC_CTRL (i - 28)) F.TU_TC_CTRL_FIRED
  else s.pw.src.has i

/-- An asserted level source that holds a domain awake. -/
def State.wakeHolds (s : State) (d : Nat) : Option Nat :=
  (List.range 40).find? fun i => !s.isEdge i && s.levelOn i && s.flag (A.LK_WAKE_CFG i) F.LK_WAKE_CFG_EN && bit (s.rd (A.LK_WAKE_MAP i)).toNat d

/-- A domain that depends on `d` and would be left in a shallower state (R472). -/
def State.dependent (s : State) (d : Nat) (target : DState) : Option Nat :=
  (List.range 40).find? fun e => (domDeps e).contains d && (decide ((if s.isOn e then 0 else (s.dom e).st.depth) < target.depth) || (s.dom e).waking || s.wakeq.contains e)

/-- PLAT_POLICY (R474, R566); the external memory controllers stay On while boot firmware runs (R643). -/
def State.policyRefuses (s : State) (d : Nat) (target : DState) (forced : Bool) : Bool :=
  d == 0 || (forced && (s.domE d).idle == 0) || ((d == 36 || d == 37) && s.rs.boot) ||
  ((d == 7 || d == 8) && target == .off && !(s.host.d3hot && (s.host.link == .l2 || s.host.link == .down))) ||
  (d == 8 && target == .ret && s.host.link != .l1)

/-- The tenants that own a tile, vault or channel in a domain (R599). -/
def State.domTenants (s : State) (d : Nat) : List Nat :=
  let own (p : PartE) : Bool :=
    if 16 ≤ d ∧ d ≤ 31 then bits (p.tiles ||| p.extra) (8 * (d - 16) + 7) (8 * (d - 16)) != 0
    else if 32 ≤ d ∧ d ≤ 35 then (p.tiles ||| p.extra) != 0
    else if d = 36 ∨ d = 37 then bits p.chans (2 * (d - 36) + 1) (2 * (d - 36)) != 0
    else false
  (s.partEs.filter own).map (·.tenant)

/-- Does a tenant allow debug (R37)? -/
def State.debugOk (s : State) (n : Nat) : Bool := (s.tenE n).any fun e => e.debug

/-- Does the DB_HOLD bit of a domain have effect (R599)? -/
def State.holdAllowed (s : State) (d : Nat) : Bool :=
  match s.domTenants d with
  | [] => s.tenEs.all fun e => e.debug
  | ts => ts.all s.debugOk

/-- Does debug hold the domain On (R599), or the TAP hold D39 (R664)? -/
def State.debugHolds (s : State) (d : Nat) : Bool :=
  (bit (s.rd A.DB_HOLD).toNat d && s.holdAllowed d && s.isOn 38) || (d == 39 && (s.io.tap == 3 || s.io.tap == 4 || s.io.tap == 5))

/-- NOTARY_HOLD (R474, R598): the mailbox command, or 0 for a key operation, that holds a domain. -/
def State.notaryHolds (s : State) (d : Nat) (off : Bool) : Option Nat :=
  if d = 6 then
    match (List.range 9).findSome? fun p => (Tab.get s.nt.pages none p).map (·.op) with
    | some op => some op
    | none =>
      if s.nt.bind.isSome || s.bl.ports.any (fun p => p.2.keying || p.2.kx.isSome) then some 0
      else if off && s.bl.ports.any (fun p => p.2.master.isSome) then some 0
      else none
  else if (d = 13 ∨ d = 15 ∨ (32 ≤ d ∧ d ≤ 35)) ∧ s.plat.shadow.isSome then some 1
  else if 9 ≤ d ∧ d ≤ 12 ∧ ((s.blPort (d - 9)).keying || (s.blPort (d - 9)).kx.isSome) then some 0
  else if d = 7 ∧ s.nt.bind.isSome then some 0
  else none

/-- The refusers from PLAT_POLICY on (R474). -/
def State.lowRefuser (s : State) (d : Nat) (target : DState) (forced : Bool) : Option (Nat × Nat) :=
  if s.policyRefuses d target forced then some (4, 0)
  else match (if target = .off then s.liveState d else none) with
  | some x => some (5, x)
  | none =>
    match s.dependent d target with
    | some e => some (6, e)
    | none => (s.wakeHolds d).map fun i => (7, i)

/-- What keeps a DRAM layer from Off as outstanding traffic (R22, R75, R680). -/
def State.layerTraffic (s : State) (d : Nat) : Option Nat :=
  if d < 32 ∨ 35 < d then none
  else match s.hg.jr.head? with
  | some e => some (13 + 256 * e.part)
  | none =>
    match s.layerPart (d - 32) with
    | some p => some (13 + 256 * p)
    | none => if (d = 32 ∨ d = 34) ∧ s.vc.ents.any (fun e => entValid e.2) then some (15 + 0xFF00) else none

/-- The first refuser of an entry in the order of R474, with its identity. -/
def State.refuser (s : State) (d : Nat) (target : DState) (forced : Bool) : Option (Nat × Nat) :=
  let off := target == .off
  match s.busyDom d with
  | some x => some (1, (if d = 5 ∧ (List.range 16).any s.isOnStream then 4 else d) + x)
  | none =>
    match (if off then s.layerTraffic d else none) with
    | some x => some (1, x)
    | none =>
      if s.debugHolds d then some (2, 0)
      else match s.notaryHolds d off with
      | some x => some (3, x)
      | none => s.lowRefuser d target forced

/-! ### Entry (R473 to R477, R681) -/

/-- FORCE of a domain. -/
def State.force (s : State) (d : Nat) : Nat := s.fget (A.LK_D_CTRL d) F.LK_D_CTRL_FORCE

/-- FORCE 2 and 3 return to 0 (R498). -/
def State.unforce (s : State) (d : Nat) : State := if 2 ≤ s.force d then s.fset (A.LK_D_CTRL d) F.LK_D_CTRL_FORCE 0 else s

/-- A refusal is counted, and kept as the last refuser (R475). -/
def State.noteRefusal (s : State) (d : Nat) (r : Nat × Nat) : State :=
  let s := s.bump (A.LK_D_REFUSED d)
  let s := s.fset (A.LK_D_STATUS d) F.LK_D_STATUS_REFUSER r.1
  s.fset (A.LK_D_STATUS d) F.LK_D_STATUS_IDENT r.2

/-- The dirty lines of a cluster. -/
def State.dirtyLines (s : State) (c : Nat) : List Line := (s.linesIn c 0xFFFF 0 (2 ^ 60)).filter fun l => l.dirty != 0

/-- The preparation of a cluster's entry to Off (R285, R473): dirty lines are written back and Scan states saved, as far as their homes can be reached now; what stopped it. -/
def State.prepCluster (s : State) (c : Nat) : State × SaveTry :=
  let ls := s.dirtyLines c
  let judge (l : Line) : DomCheck := s.domCheck (s.locDoms (.mem l.addr))
  let s1 := (ls.filter fun l => judge l == .go).foldl (fun s l => (s.writeBack l).putLine c { l with dirty := 0 }) s
  match s1.scSaveAll c with
  | (s2, e) =>
    if ls.any fun l => judge l == .refuse then (s2, .fail)
    else match ls.find? fun l => judge l != .go with
    | some l => (s2, if e = .fail then .fail else .wait (.ok (s.locDoms (.mem l.addr))))
    | none => (s2, e)

/-- What the preparation of domain `d` stops for: an error response aborts the entry, and a domain that is not On is woken (R285, R473, R478). -/
def State.prepNote (s : State) (d : Nat) : SaveTry → State
  | .ready => s
  | .fail => s.abortEntry d
  | .wait (.ok ds) => s.domTouch (ds.filter fun e => e != d)
  | .wait _ => s

/-- The preparation of an entry (R473): for a cluster on its way to Off, dirty lines are written back and Scan states saved; a port asks its partner before Retention (R543). -/
def State.prepare (s : State) (d : Nat) (target : DState) : State :=
  if 16 ≤ d ∧ d ≤ 31 ∧ target = .off then
    match s.prepCluster (d - 16) with
    | (s, e) => s.prepNote d e
  else if 9 ≤ d ∧ d ≤ 12 ∧ target = .ret then s.setPort (d - 9) { s.blPort (d - 9) with retAsk := true }
  else s

/-- Begin an entry that no refuser stops. -/
def State.startEntry (s : State) (d : Nat) (target : DState) : State :=
  (s.setDom d { s.dom d with entering := some target }).prepare d target

/-- An entry is asked for (R473 to R475): checked, and begun or refused. Off that is refused falls back to Retention when IDLE_STATE is Off. -/
def State.tryEntry (s : State) (d : Nat) (target : DState) (forced : Bool) : State :=
  match s.refuser d target forced with
  | none => s.startEntry d target
  | some r =>
    let s := s.noteRefusal d r
    if target = .off ∧ (s.domE d).idle = 2 ∧ (s.dom d).st = .on then
      match s.refuser d .ret forced with
      | none => s.startEntry d .ret
      | some r => (s.noteRefusal d r).unforce d
    else s.unforce d

/-- IDLE_STATE of a domain as a state (R45). -/
def DomE.target (e : DomE) : Option DState := if e.idle = 1 then some .ret else if e.idle = 2 then some .off else none

/-- Is a domain idle (R473)? D8 counts as idle only with the link in L1, in L2 or down (R566). -/
def State.domIdle (s : State) (d : Nat) : Bool :=
  (s.busyDom d).isNone && (!(decide (16 ≤ d) && decide (d ≤ 31)) || s.tilesIdle (d - 16)) && !(d == 8 && s.host.link == .l0)

/-- DOMAIN_IDLE_EXPIRY (R473, R475): a domain that has been idle for its IDLE_DELAY asks to enter its IDLE_STATE. -/
def execDomainIdleExpiry (d : Nat) (s : State) : Out :=
  let x := s.dom d
  if d = 0 ∨ 40 ≤ d ∨ x.st ≠ .on ∨ x.waking ∨ x.entering.isSome ∨ s.force d = 1 ∨ !s.domIdle d then .next s
  else match (s.domE d).target with
  | none => .next s
  | some t => .next (s.tryEntry d t false)

/-- A write of FORCE is acted on (R681). -/
def State.actForce (s : State) (d f : Nat) : State :=
  let x := s.dom d
  if f = 0 then s
  else if f = 1 then (if d = 0 ∨ x.st = .on then s else s.demandWake d)
  else
    let target := if f = 2 then DState.ret else DState.off
    if d ≠ 0 ∧ target.depth ≤ x.st.depth then s.unforce d
    else s.tryEntry d target true

/-- A write of FORCE (R498, R681): one that meets a wake or an entry waits for its end. -/
def State.lkForce (s : State) (d f : Nat) : State :=
  let s := s.fset (A.LK_D_CTRL d) F.LK_D_CTRL_FORCE f
  let x := s.dom d
  if x.waking ∨ x.entering.isSome then s.setDom d { x with force := f + 4 } else s.actForce d f

/-- A FORCE that waited for a wake or an entry to end (R681). -/
def State.pendingForce (s : State) (d : Nat) : State :=
  let x := s.dom d
  if x.force = 0 then s else (s.setDom d { x with force := 0 }).actForce d (x.force - 4)

/-- Does the requester own a tile of a cluster? -/
def State.ownsCluster (s : State) (n c : Nat) : Bool := (List.range 8).any fun i => s.ownsTile n (8 * c + i)

/-- May the requester write the Lock-keeper's global registers: LK_ADMIN's tenant, or boot firmware before a plat (R497, R643)? -/
def State.lkAdmin (s : State) : Who → Bool
  | .tenant n => s.admin == some n
  | .boot => s.rs.boot && s.plat.cur.isNone
  | _ => false

/-- May the requester write LK_D_CTRL of a domain (R497)? -/
def State.lkForceOk (s : State) (who : Who) (d : Nat) : Bool :=
  s.lkAdmin who || (match who with
    | .tenant n => decide (16 ≤ d) && decide (d ≤ 31) && s.ownsCluster n (d - 16)
    | _ => false)

/-- LK_FORCE (R681): a write of LK_D_CTRL. -/
def execLkForce (who : Who) (d force : Nat) (s : State) : Out :=
  if 40 ≤ d ∨ 4 ≤ force ∨ !s.lkForceOk who d then .next s else .next (s.lkForce d force)

/-! ### Wakes (R478 to R486) -/

/-- The level at a GPIO pin that a wake source stands for (R480, R500): POL names the level or the edge's end. -/
def State.gpioLevel (s : State) (i : Nat) (on : Bool) : State :=
  if i < 2 ∨ 25 < i then s
  else
    let high := on != s.flag (A.LK_WAKE_CFG i) F.LK_WAKE_CFG_POL
    { s with io := { s.io with gpio := setBits s.io.gpio (i - 2) (i - 2) (b2n high) } }

/-- WAKE_SOURCE_ASSERT (R480): an outside source asserts; `commit`: within the commit window of an entry of its domains. A level source stays asserted, and wakes again what the entry then took down. -/
def execWakeSourceAssert (idx : Nat) (commit : Bool) (s : State) : Out :=
  if 40 ≤ idx ∨ (28 ≤ idx ∧ idx ≤ 35) ∨ idx = 0 ∨ idx = 1 then .next s
  else
    let s : State := if s.isEdge idx then s else { s with pw := { s.pw with src := NSet.add idx s.pw.src } }
    .next ((s.gpioLevel idx true).srcAssert idx commit)

/-- WAKE_SOURCE_DEASSERT (R480): an outside level source returns to its inactive level. -/
def execWakeSourceDeassert (idx : Nat) (s : State) : Out :=
  .next (({ s with pw := { s.pw with src := NSet.rem idx s.pw.src } } : State).gpioLevel idx false)

/-- The level wake sources that stand asserted wake every domain of their maps that is not On (R480): the source of an event held in a commit window (R477). -/
def State.levelWakes (s : State) (d : Nat) : State := if s.isOn d then s else match s.wakeHolds d with
  | some _ => s.demandWake d
  | none => s

/-- DOMAIN_ENTRY_COMMIT (R473, R476): preparation and the commit window have ended, and the domain is in its new state; `fail`: a write-back or save of the preparation received an error response, which aborts the entry. A port in agreement with its partner only (R543). A cluster takes Off only with its lines written back and its Scan states saved (R285), and memory only while no packet and no frame has come to need it since the check (R22, R474). A level source held in the window wakes the domain again (R477). Where the entry was aborted before, a FORCE written meanwhile takes effect (R681). -/
def execDomainEntryCommit (d : Nat) (fail : Bool) (s : State) : Out :=
  match (s.dom d).entering with
  | none => .next (if (s.dom d).waking then s else s.pendingForce d)
  | some t =>
    if fail then .next ((s.abortEntry d).pendingForce d)
    else if 9 ≤ d ∧ d ≤ 12 ∧ t = .ret ∧ (s.blPort (d - 9)).retAsk then .next s
    else if t = .off ∧ 32 ≤ d ∧ ((s.layerTraffic d).isSome ∨ (s.liveState d).isSome) then .next ((s.abortEntry d).pendingForce d)
    else match (if t = .off ∧ 16 ≤ d ∧ d ≤ 31 then s.prepCluster (d - 16) else (s, .ready)) with
    | (s, .ready) =>
      let s := if t = .off then s.loseDomain d else s.retainDomain d
      let s := s.setDom d { s.dom d with st := t, entering := none }
      .next ((((s.bump (A.LK_D_ENTRIES d)).unforce d).pendingForce d).levelWakes d)
    | (s, .fail) => .next ((s.abortEntry d).pendingForce d)
    | (s, e) => .next (s.prepNote d e)

/-- I2C_ADDRESS_MATCH (R481, R662): a bus header with the static or the dynamic address latches wake source 0. -/
def execI2cAddressMatch (addr : Nat) (s : State) : Out :=
  if addr = s.fget A.IO_ADDR F.IO_ADDR_STATIC_ADDR ∨ (s.flag A.IO_ADDR F.IO_ADDR_DYN_VALID ∧ addr = s.fget A.IO_ADDR F.IO_ADDR_DYN_ADDR) then
    if s.isOn 39 then .next (s.abortEntry 39)
    else .next (({ s with pw := { s.pw with i2c := true } } : State).srcAssert 0 false)
  else .next s

/-- A cluster's effective level (R482). -/
def State.effLevel (s : State) (c : Nat) : Nat :=
  let f := s.fget (A.LK_C_LEVEL c)
  min (min (f F.LK_C_LEVEL_REQ) (f F.LK_C_LEVEL_MAX)) (min (f F.LK_C_LEVEL_GOV_CAP) (f F.LK_C_LEVEL_THERM_CAP))

/-- The core voltage of a level in tenths of a millivolt times ten (R482): millivolts. -/
def levelMv (l : Nat) : Nat := if l = 0 then 600 else if l = 1 then 680 else if l = 2 then 750 else 850

/-- Voltage reached by a cluster (R483, R685): from where a ramp began, at 10 mV/µs toward the voltage of its effective level. -/
def State.voltNow (s : State) (c : Nat) : Nat :=
  let (v, t) := Tab.get s.pw.volt (levelMv 2, 0) c
  let goal := levelMv (s.fget (A.LK_C_LEVEL c) F.LK_C_LEVEL_EFFECTIVE)
  let step := (s.now - t) / 256 * 10 / 1000
  if v ≤ goal then min goal (v + step) else max goal (v - step)

/-- The effective level of a cluster is set anew (R482, R483, R685): a lower clock changes at once; a higher one waits for the ramp; a cluster that is not On only records the level it will take. -/
def State.setLevel (s : State) (c : Nat) : State :=
  let l := s.effLevel c
  if l = s.fget (A.LK_C_LEVEL c) F.LK_C_LEVEL_EFFECTIVE then s
  else
    let v := s.voltNow c
    let s := s.fset (A.LK_C_LEVEL c) F.LK_C_LEVEL_EFFECTIVE l
    if !s.isOn (16 + c) then { s with pw := { s.pw with clk := Tab.set s.pw.clk 2 c l, volt := Tab.set s.pw.volt (levelMv 2, 0) c (levelMv l, s.now) } }
    else
      let s : State := { s with pw := { s.pw with volt := Tab.set s.pw.volt (levelMv 2, 0) c (v, s.now) } }
      if l < s.clkLevel c then { s with pw := { s.pw with clk := Tab.set s.pw.clk 2 c l } } else s

/-- VDD_CORE for the levels now in force (R495): 30 mV above the highest voltage of any On cluster, at least 780 mV while a VDD_CORE domain is On, else 550 mV. D0, D1, D2 and the DRAM layers do not draw from it (R494). -/
def State.vddCore (s : State) : Nat :=
  let on := (List.range 40).filter fun d => d != 0 && d != 1 && d != 2 && !(decide (32 ≤ d) && decide (d ≤ 35)) && s.isOn d
  if on = [] then 550
  else (List.range 16).foldl (fun m c => if s.isOn (16 + c) then max m (levelMv (s.fget (A.LK_C_LEVEL c) F.LK_C_LEVEL_EFFECTIVE) + 30) else m) 780

/-- Command the regulator when VDD_CORE must change (R495). -/
def State.syncCore (s : State) : State :=
  let v := s.vddCore
  if v = s.pw.vout then s else { s with pw := { s.pw with vout := v } }

/-- The wake reserve of a domain in milliwatts (R485). -/
def State.reserveMw (s : State) (d : Nat) : Nat :=
  if 16 ≤ d ∧ d ≤ 31 then
    let l := s.effLevel (d - 16)
    if l = 0 then 2500 else if l = 1 then 4000 else if l = 2 then 6000 else 9000
  else if 32 ≤ d ∧ d ≤ 35 then 2000
  else if d = 36 ∨ d = 37 then 1500
  else if 9 ≤ d ∧ d ≤ 12 then 2500
  else 500

/-- Does a wake fit (R485): P plus the reserve within 98% of the limit? -/
def State.wakeFits (s : State) (d : Nat) : Bool :=
  decide ((s.fget A.LK_PWR_NOW F.LK_PWR_NOW_MW + s.reserveMw d) * 100 ≤ s.fget A.LK_PWR_LIMIT F.LK_PWR_LIMIT_MW * 98)

/-- The clusters that are On. -/
def State.onClusters (s : State) : List Nat := (List.range 16).filter fun c => s.isOn (16 + c)

/-- WAKE_PRIORITY of a cluster (R45). -/
def State.clusterPrio (s : State) (c : Nat) : Nat := (s.domE (16 + c)).prio

/-- Change the governor cap of a cluster. -/
def State.setGov (s : State) (c l : Nat) : State := (s.fset (A.LK_C_LEVEL c) F.LK_C_LEVEL_GOV_CAP l).setLevel c

/-- In confidential mode every On cluster carries the lowest cap that any would carry (R487). -/
def State.uniformGov (s : State) : State :=
  if s.confMode then
    let m := s.onClusters.foldl (fun m c => min m (s.fget (A.LK_C_LEVEL c) F.LK_C_LEVEL_GOV_CAP)) 3
    s.onClusters.foldl (fun s c => s.setGov c m) s
  else s

/-- GOV_ACTIVE and THERM_ACTIVE follow the caps in force (R497). -/
def State.syncActive (s : State) : State :=
  let g := s.fget A.LK_STATUS F.LK_STATUS_VAULT_LIMIT != 0 || (List.range 16).any fun c => s.fget (A.LK_C_LEVEL c) F.LK_C_LEVEL_GOV_CAP != 3
  let t := (List.range 16).any fun c => s.fget (A.LK_C_LEVEL c) F.LK_C_LEVEL_THERM_CAP != 3
  let s := s.fset A.LK_STATUS F.LK_STATUS_GOV_ACTIVE (b2n g)
  let s := s.fset A.LK_STATUS F.LK_STATUS_THERM_ACTIVE (b2n t)
  s.fset A.LK_STATUS F.LK_STATUS_UNIFORM (b2n s.confMode)

/-- A step down of the governor (R484): the On clusters of the lowest WAKE_PRIORITY below `top` that are not at L0 go down one level; with all at L0, and `vault`, an eighth of vault issue is withheld. -/
def State.govLower (s : State) (top : Nat) (vault : Bool) : State :=
  let cs := s.onClusters.filter fun c => decide (s.clusterPrio c < top) && s.effLevel c != 0
  match cs with
  | [] =>
    if vault && decide (s.fget A.LK_STATUS F.LK_STATUS_VAULT_LIMIT < 7) then
      (s.fset A.LK_STATUS F.LK_STATUS_VAULT_LIMIT (s.fget A.LK_STATUS F.LK_STATUS_VAULT_LIMIT + 1)).syncActive
    else s
  | c0 :: _ =>
    let lo := cs.foldl (fun m c => min m (s.clusterPrio c)) (s.clusterPrio c0)
    let s := (cs.filter fun c => s.clusterPrio c == lo).foldl (fun s c => s.setGov c (s.effLevel c - 1)) s
    (s.uniformGov.syncCore).syncActive

/-- The thermal caps in force (R489): a cluster's own, or in confidential mode the lowest of the On clusters for each of them. -/
def State.applyCaps (s : State) : State :=
  let own := fun c => Tab.get s.pw.tcap 3 c
  let lo := s.onClusters.foldl (fun m c => min m (own c)) 3
  let s := (List.range 16).foldl (fun s c =>
    (s.fset (A.LK_C_LEVEL c) F.LK_C_LEVEL_THERM_CAP (if s.confMode && s.isOn (16 + c) then lo else own c)).setLevel c) s
  (s.syncCore).syncActive

/-- The order of waiting wakes (R486): domains that others in the queue depend on, then higher WAKE_PRIORITY, then earlier request, then lower number. -/
def State.wakeBefore (s : State) (a b : Nat) : Bool :=
  let dep (d : Nat) : Bool := s.wakeq.any fun e => (domDeps e).contains d
  if dep a != dep b then dep a
  else decide ((s.domE b).prio < (s.domE a).prio)

/-- The next wake: queued domains stand in order of request, those of one chain dependencies first. -/
def State.nextWake (s : State) : Option Nat :=
  match s.wakeq with
  | [] => none
  | d :: ds => some (ds.foldl (fun b e => if s.wakeBefore e b then e else b) d)

/-- Is a wake in progress? -/
def State.wakingNow (s : State) : Option Nat := (List.range 40).find? fun d => (s.dom d).waking

/-- DOMAIN_WAKE_START (R485, R486): the next queued wake begins when none is in progress, no thermal trip holds the device, every domain it depends on is On and its reserve fits; else the governor lowers lower-priority clusters and the wake waits, counted once. -/
def execDomainWakeStart (s : State) : Out :=
  match s.nextWake with
  | none => .next s
  | some d =>
    if s.wakingNow.isSome || s.pw.trip || !((domDeps d).all s.isOn) then .next s
    else if s.wakeFits d then
      let s := s.setDom d { s.dom d with waking := true }
      let s := if 9 ≤ d ∧ d ≤ 12 ∧ (s.dom d).st = .off then s.fset (A.BL_STATUS (d - 9)) F.BL_STATUS_STATE 1 else s
      .next { s with wakeq := s.wakeq.filter (fun e => e != d), pw := { s.pw with held := if s.pw.held = some d then none else s.pw.held } }
    else
      let s1 := s.govLower (s.domE d).prio false
      if s.pw.held = some d then .next s1
      else .next ({ s1 with pw := { s1.pw with held := some d } }.bump A.LK_GOV_HELD)

/-- The resumption group of the accesses that a domain's wake releases. -/
def wakeGroup (d n : Nat) : Nat := 2 ^ 40 + n * 64 + d

/-- Release the accesses whose domains are all On, in order of arrival (R478). -/
def State.resumeWake (s : State) (d : Nat) : State :=
  let free (e : Nat × Nat) : Bool :=
    match (s.thread (e.1 / 16) (e.1 % 16)).hold.doms with
    | some ds => ds.all s.isOn
    | none => false
  let go := s.stallq.filter free
  let s := { s with stallq := s.stallq.filter (fun e => !free e),
                    resumeq := s.resumeq ++ go.map fun e => (wakeGroup d s.tagNext, e.1, e.2), tagNext := s.tagNext + 1 }
  go.foldl (fun s e =>
    let t := s.thread (e.1 / 16) (e.1 % 16)
    s.setThread (e.1 / 16) (e.1 % 16)
      { t with st := .ready, hold := .none, acc := t.acc.map fun a => if a.id = e.2 then { a with wake := [] } else a }) s

/-- The waking domain is On, and its stalled accesses may proceed (R471, R478). In confidential mode a cluster takes the caps that the other On clusters carry (R487, R489). D39 clears the address-match latch (R481). -/
def State.domainReady (s : State) (d : Nat) : State :=
  let x := s.dom d
  if !x.waking then s
  else
    let s := s.setDom d { x with st := .on, waking := false }
    let s := s.bump (A.LK_D_WAKES d)
    let s : State := if d = 39 then { s with pw := { s.pw with i2c := false } } else s
    let s := if 16 ≤ d ∧ d ≤ 31 then (if s.confMode then s.uniformGov.applyCaps else s.setLevel (d - 16)) else s
    (s.syncCore.resumeWake d).pendingForce d

/-! ### Levels and the governor (R483 to R487) -/

/-- LEVEL_RAMP_DONE (R483, R667, R685): the voltage of a cluster's effective level is reached, and the clock changes to it; not while the regulator has left a command unacknowledged. -/
def execLevelRampDone (c : Nat) (s : State) : Out :=
  let l := s.fget (A.LK_C_LEVEL c) F.LK_C_LEVEL_EFFECTIVE
  if 16 ≤ c ∨ s.clkLevel c = l ∨ s.voltNow c ≠ levelMv l ∨ (s.pw.unacked ∧ s.clkLevel c < l) then .next s
  else .next { s with pw := { s.pw with clk := Tab.set s.pw.clk 2 c l, volt := Tab.set s.pw.volt (levelMv 2, 0) c (levelMv l, s.now) } }

/-- A rail's energy in milliwatt nanoseconds over a time, carried below a millijoule. -/
def State.addEnergy (s : State) (r mw ns : Nat) : State :=
  let x := Tab.get s.pw.mj 0 r + mw * ns
  let s : State := { s with pw := { s.pw with mj := Tab.set s.pw.mj 0 r (x % 10 ^ 9) } }
  s.fadd (A.LK_RAIL_MJ r) (63, 0) (x / 10 ^ 9)

/-- GOVERNOR_SAMPLE (R484, R493): the power of the eleven rails is sampled; every second sample in a row above the limit lowers caps, then vault issue. -/
def execGovernorSample (rails : List Nat) (s : State) : Out :=
  let dt := (s.now - s.pw.last) / 256
  let s := (List.range 11).foldl (fun s r =>
    let mw := min (rails.getD r 0) (2 ^ 18 - 1)
    (s.fset (A.LK_RAIL_MW r) F.LK_RAIL_MW_MW mw).addEnergy r mw dt) s
  let p := min (rails.foldl (· + ·) 0) (2 ^ 18 - 1)
  let s := s.fset A.LK_PWR_NOW F.LK_PWR_NOW_MW p
  let lim := s.fget A.LK_PWR_LIMIT F.LK_PWR_LIMIT_MW
  let low := if p * 10 < lim * 9 then (match s.pw.low with
    | some t => some t
    | none => some s.now) else none
  let s : State := { s with pw := { s.pw with last := s.now, low := low, overran := if lim < p then s.pw.overran + 1 else 0 } }
  if s.pw.overran ≠ 0 ∧ s.pw.overran % 2 = 0 then .next (s.govLower 4 true) else .next s

/-- GOVERNOR_RAISE (R484, R487): after 1 ms below 90% of the limit the vault limit goes, else one cap step up, highest WAKE_PRIORITY first; in confidential mode all On clusters together. -/
def execGovernorRaise (s : State) : Out :=
  match s.pw.low with
  | none => .next s
  | some t =>
    if s.now < t + 256 * 1000000 then .next s
    else
      let s : State := { s with pw := { s.pw with low := some s.now } }
      if s.fget A.LK_STATUS F.LK_STATUS_VAULT_LIMIT ≠ 0 then
        .next (s.fset A.LK_STATUS F.LK_STATUS_VAULT_LIMIT (s.fget A.LK_STATUS F.LK_STATUS_VAULT_LIMIT - 1)).syncActive
      else
        let cs := (List.range 16).filter fun c => decide (s.fget (A.LK_C_LEVEL c) F.LK_C_LEVEL_GOV_CAP < 3)
        let hi := cs.foldl (fun m c => max m (s.clusterPrio c)) 0
        let up := if s.confMode then cs else cs.filter fun c => s.clusterPrio c == hi
        .next ((up.foldl (fun s c => s.setGov c (s.fget (A.LK_C_LEVEL c) F.LK_C_LEVEL_GOV_CAP + 1)) s).syncCore).syncActive

/-- PMBUS_VOUT_RETRY (R667): a VOUT_COMMAND write is answered, or not; one that is not acknowledged is repeated after 1 ms. -/
def execPmbusVoutRetry (ack : Bool) (s : State) : Out := .next { s with pw := { s.pw with unacked := !ack } }

/-! ### Temperature (R488 to R492) -/

/-- A plat's calibration delta of an item (R650). -/
def State.calDelta (s : State) (item : Nat) : Int :=
  (((s.plat.cur.map (·.cals)).getD []).filter fun e => e.item == item).foldl (fun x e => x + e.delta) 0

/-- T_c in quarter degrees with its calibration (R488, R650). -/
def State.tempC (s : State) (c : Nat) : Int := s.pw.logic.getD c 0 + s.calDelta (0x100 + c)

/-- The DRAM sensor of layer `n` above cluster `c` with its calibration. -/
def State.tempD (s : State) (n c : Nat) : Int := s.pw.dram.getD (16 * n + c) 0 + s.calDelta (0x110 + 16 * n + c)

/-- M_c (R488). -/
def State.tempM (s : State) (c : Nat) : Int := max (max (s.tempD 0 c) (s.tempD 1 c)) (max (s.tempD 2 c) (s.tempD 3 c))

/-- The thresholds of R489 in quarter degrees with OFFSET subtracted. -/
def State.thrQ (s : State) (deg : Int) : Int := 4 * (deg - s.fget A.LK_THERM_CFG F.LK_THERM_CFG_OFFSET)

/-- The thermal cap of temperatures shifted up by `q` quarter degrees (R489). -/
def State.thermCap (s : State) (c : Nat) (q : Int) : Nat :=
  let lv (t a b d : Int) : Nat := if t ≤ s.thrQ a then 3 else if t ≤ s.thrQ b then 2 else if t ≤ s.thrQ d then 1 else 0
  min (lv (s.tempC c + q) 85 90 93) (lv (s.tempM c + q) 85 88 92)

/-- The refresh code of a layer's hottest sensor (R491, R499). -/
def refCode (t : Int) : Nat := if t ≤ 180 then 0 else if t ≤ 340 then 1 else if t ≤ 380 then 2 else 3

/-- The refresh code of a layer. -/
def State.layerRef (s : State) (n : Nat) : Nat := refCode ((List.range 16).foldl (fun m c => max m (s.tempD n c)) (s.tempD n 0))

/-- A thermal trip (R490): every domain but D0 goes Off at once without preparation, as a loss of power; jobs, journal and plat are gone, and the trip holds until it is cleared. -/
def State.tripOff (s : State) : State :=
  let s := (List.range 40).foldl (fun s d => if d = 0 then s else (s.loseDomain d).setDom d { Dom.reset with st := .off }) s
  { s with wakeq := [], stallq := [], extq := [], resumeq := [], pw := { s.pw with trip := true } }

/-- THERMAL_CAP_RAISE (R489): 10 ms at least 2 degrees below the threshold that lowered it, a cluster's cap goes up one level. -/
def execThermalCapRaise (c : Nat) (s : State) : Out :=
  match Tab.get s.pw.cool none c with
  | none => .next s
  | some t =>
    if 16 ≤ c ∨ s.now < t + 256 * 10000000 ∨ 3 ≤ Tab.get s.pw.tcap 3 c then .next s
    else
      let n := Tab.get s.pw.tcap 3 c + 1
      let s : State := { s with pw := { s.pw with tcap := Tab.set s.pw.tcap 3 c n, cool := Tab.set s.pw.cool none c (if n < 3 ∧ n < s.thermCap c 8 then some s.now else none) } }
      .next s.applyCaps

/-- The largest `n` with `n ^ 40 ≤ x`, found from its highest bit down. -/
def root40 (x : Nat) : Nat → Nat → Nat
  | 0, n => n
  | k + 1, n => if (n + 2 ^ k) ^ 40 ≤ x then root40 x k (n + 2 ^ k) else root40 x k n

/-- 2 to the power `q` ÷ 40 in units of 2^−16, rounded down, or up where the implementation rounds so (R396, log entry 45). -/
def wearFactor (q : Int) : Nat :=
  let e := (640 + q).toNat
  root40 (2 ^ e) (e / 40 + 1) 0 + (if Config.wearUp q then 1 else 0)

/-- Four times the weight of a level (R396). -/
def wearWeight (l : Nat) : Nat := if l = 0 then 1 else if l = 1 then 2 else if l = 2 then 4 else 10

/-- WEAR_COUNT_UPDATE (R396): a millisecond passes; every tile of a cluster that is On takes the wear of its level and temperature. -/
def execWearCountUpdate (s : State) : Out :=
  .next (s.onClusters.foldl (fun s c =>
    let add := wearWeight (s.fget (A.LK_C_LEVEL c) F.LK_C_LEVEL_EFFECTIVE) * wearFactor (s.tempC c - 340)
    (List.range 8).foldl (fun s i =>
      let t := 8 * c + i
      let x := Tab.get s.pw.wear 0 t + add
      let s : State := { s with pw := { s.pw with wear := Tab.set s.pw.wear 0 t (x % 2 ^ 18) } }
      s.fadd (A.HG_SCH_TILE_WEAR t) F.HG_SCH_TILE_WEAR_MS (x / 2 ^ 18)) s) s)

/-- DRAM_REFRESH (R491): a refresh of a vault at the rate of its layer; it holds the vault for at most 0.5 µs. -/
def execDramRefresh (v : Nat) (s : State) : Out := .next (s.background .t1 v 500)

end Sys2Proof.Machine
end

