-- ==== Sys2Proof/Machine/Messages.lean ====
section
/-!
DEFINITION. Messages between threads: targets, bounces, credits and delivery (R107 to R112).
-/
namespace Sys2Proof.Machine

/-- The context a target names (R107). -/
def tgtCtx (w : Word) : Nat := bits w.toNat 23 14
/-- The rank a target names (R107). -/
def tgtRank (w : Word) : Nat := bits w.toNat 30 24
/-- The thread a target names (R107). -/
def tgtThr (w : Word) : Nat := bits w.toNat 34 31
/-- The device a target names (R107). -/
def tgtDev (w : Word) : Nat := bits w.toNat 13 0

/-- The rank of a tile in a job's group (R102). -/
def Job.rank (j : Job) (tile : Nat) : Nat := (findIdx (fun t => t == tile) j.tiles 0).getD 0

/-- Does the identifier name this device or a routed peer? -/
def State.reachDev (s : State) (d : Nat) : Bool := d == s.devId || (s.route d).isSome

/-- The words of a message with its marks, as a request carries them: header, payload, then the marks. -/
def Msg.toData (m : Msg) : List Nat := natLe 8 m.hdr.toNat ++ (m.pay.flatMap fun w => natLe 8 w.toNat) ++ [b2n m.hpsn] ++ m.ppsn.map b2n

/-- The tenant that owns a context under the plat (R43, R68). -/
def State.ctxTenant (s : State) (c : Nat) : Option Nat :=
  match s.ringEs.find? fun e => decide (e.ctx0 ≤ c) && decide (c < e.ctx0 + e.ctxN) with
  | some e => (s.partE e.part).map (·.tenant)
  | none => none

/-- Why a message that has reached this device is bounced, in the order of R110: TENANT 2, NO_JOB 1, BAD_RANK 4; none when it is deliverable. A context is bound to its job from its dispatch on (R111, R367). -/
def State.bounceReason (s : State) (n : Nat) (w : Word) : Option Nat :=
  match s.ctxTenant (tgtCtx w) with
  | some m =>
    if m ≠ n then some 2
    else (match s.job (tgtCtx w) with
    | none => if (s.ctx (tgtCtx w)).st = 1 then none else some 1
    | some j => if j.tiles.length ≤ tgtRank w then some 4 else none)
  | none => some 1

/-- The message returned to its sender (R108): the target's identity in the header, BOUNCE and the reason, payload intact. -/
def bounceMsg (m : Msg) (w : Word) (reason : Nat) : Msg :=
  let tl := bits m.hdr.toNat 53 35
  { m with hdr := BitVec.ofNat 64 (w.toNat % 2 ^ 35 + tl * 2 ^ 35 + 2 ^ 54 + reason * 2 ^ 55 + 2 ^ 63) }

/-- A credit returns to a thread (R109); one that waits for it leaves STALLED. -/
def Thread.gainCredit (t : Thread) : Thread :=
  if t.st = .stalled ∧ t.hold = .credit then { t with credits := min 4 (t.credits + 1), st := .ready, hold := .none }
  else { t with credits := min 4 (t.credits + 1) }

/-- Frames of this device wait for a port (R527); `inp` is the port whose frame this one answers, 8 for a doorbell. -/
def State.frameOut (s : State) (inp : Nat) (f : LFrame) : State :=
  { s with bl := { s.bl with outq := s.bl.outq ++ [⟨inp, f, s.now, none⟩] } }

/-- Send a response, unless its request came more than BL_TIMEOUT ÷ 2 ago (R532). -/
def State.respond (s : State) (inp t : Nat) (f : LFrame) : State :=
  if t + s.blTimeout / 2 < s.now then s.bump A.BL_STALE_RSP else s.frameOut inp f

/-- POISON of a message's payload: a unit holds two words (R521, R522). -/
def Msg.unitPsn (m : Msg) : Nat := maskOf ((List.range 4).filter fun u => m.ppsn.getD (2 * u) false || m.ppsn.getD (2 * u + 1) false)

/-- The MSG_RSP of a message that a peer sent (R522, R523, R532, R533): reason 0 when it was taken, else the bounce reason with the payload returned. `via` holds SRC, TAG, GEN, the time the message came and its port. -/
def State.msgRsp (s : State) (m : NetMsg) (reason : Nat) : State :=
  match m.via with
  | some [src, tag, gen, t, inp] =>
    s.respond inp t (if reason = 0 then ⟨0xB, 0, src, s.devId, m.tenant, 255, tag, 0, 0, 0, gen, []⟩
      else ⟨0xB, 0, src, s.devId, m.tenant, 255, tag, 0, m.msg.unitPsn, reason * 16, gen, (m.msg.pay.flatMap fun w => natLe 8 w.toNat) ++ List.replicate 8 0⟩)
  | _ => s

/-- A credit returns to the sender of a message (R109): to its thread, or to the record of its saved job. -/
def State.creditBack (s : State) (m : NetMsg) (ctx rank : Nat) : State :=
  if !m.srcLocal then s.msgRsp m 0
  else if (s.tile m.srcTile).job = some ctx then
    let s := s.setThread m.srcTile m.srcThr (s.thread m.srcTile m.srcThr).gainCredit
    { s with stallq := s.stallq.filter fun e => !(e == (m.srcTile * 16 + m.srcThr, 0) && (s.thread m.srcTile m.srcThr).st == .ready) }
  else match s.job ctx with
  | some j =>
    let k := rank * 16 + m.srcThr
    if j.saved then s.setJob ctx (some { j with credBack := Tab.set j.credBack 0 k (Tab.get j.credBack 0 k + 1) }) else s
  | none => s

/-- The sender's context and rank, from the header. -/
def Msg.src (m : Msg) : Nat × Nat := (bits m.hdr.toNat 23 14, bits m.hdr.toNat 30 24)

/-- The thread a message comes from: of this device by its tile, thread, context and rank; of a peer by SRC and TAG[15:5] (R529). -/
def NetMsg.sender (m : NetMsg) : List Nat :=
  if m.srcLocal then [m.srcTile, m.srcThr, m.msg.src.1, m.msg.src.2]
  else match m.via with
    | some (src :: tag :: _) => [src, tag / 32]
    | _ => []

/-- The context and rank a bounce goes back to. -/
def NetMsg.bounceTo (m : NetMsg) : Nat × Nat := match m.via with
  | some [c, r] => (c, r)
  | _ => (1024, 0)

/-- Is an earlier message of the same sender to the same target still on its way (R112)? -/
def State.behind (s : State) (idx : Nat) (m : NetMsg) : Bool :=
  (s.net.take idx).any fun n => n.srcLocal == m.srcLocal && n.sender == m.sender && n.target == m.target && n.bounce == m.bounce

/-- Deliver a message that reached its target's job (R109, R111): into the thread's queue, waking it; into the record of a saved job; or it waits in the network while the eight slots are full. -/
def State.deliver (s : State) (idx : Nat) (m : NetMsg) (j : Job) : State :=
  let c := tgtCtx m.target
  let gone : State := { s with net := listDel s.net idx }
  let wait : State := { s with net := listSet s.net idx { m with waiting := true } }
  if j.saved then
    let k := tgtRank m.target * 16 + tgtThr m.target
    let q := Tab.get j.held [] k
    if 8 ≤ q.length + Tab.get j.savedMq 0 k then wait
    else (gone.setJob c (some { j with held := Tab.set j.held [] k (q ++ [m.msg]) })).creditBack m m.msg.src.1 m.msg.src.2
  else
    let tile := j.tiles.getD (tgtRank m.target) 0
    let t := s.thread tile (tgtThr m.target)
    if !s.isOn (16 + tile / 8) then s.demandWake (16 + tile / 8)
    else if 8 ≤ t.mq.length then wait
    else
      let st := if t.st = .waitMsg then TState.ready else t.st
      (gone.setThread tile (tgtThr m.target) { t with mq := t.mq ++ [m.msg], st := st }).creditBack m m.msg.src.1 m.msg.src.2

/-- Judge message `idx` of the network at its target's device (R110, R111, R112): bounce it or deliver it; one for a job that has not been released yet waits (log entry 71). -/
def State.judgeMessage (s : State) (idx : Nat) (m : NetMsg) : State :=
  let back (r : Nat) : State :=
    if m.srcLocal then { s with net := listDel s.net idx ++ [{ m with msg := bounceMsg m.msg m.target r, bounce := true, waiting := false, via := some [m.msg.src.1, m.msg.src.2] }] }
    else ({ s with net := listDel s.net idx } : State).msgRsp m r
  if !s.reachDev (tgtDev m.target) then back 3
  else match s.bounceReason m.tenant m.target with
  | some r => back r
  | none =>
    match s.job (tgtCtx m.target) with
    | some j => s.deliver idx m j
    | none => { s with net := listSet s.net idx { m with waiting := true } }

end Sys2Proof.Machine
end

