-- ==== Sys2Proof/Machine/Brefen.lean ====
section
/-!
DEFINITION. The Brefen link: blocks, frames, routing, remote requests and their answers, sealing, bring-up and port faults (R514 to R550, R597, R598).
-/
namespace Sys2Proof.Machine

/-! ### Frames (R521 to R523) -/

/-- The 16-byte header of a frame (R521). -/
def LFrame.header (f : LFrame) : Nat :=
  f.ty % 16 + f.vc % 2 * 2 ^ 4 + f.dst % 2 ^ 14 * 2 ^ 6 + f.src % 2 ^ 14 * 2 ^ 20 + f.tenant % 8 * 2 ^ 34 + f.hops % 256 * 2 ^ 37 +
  f.tag % 2 ^ 16 * 2 ^ 45 + f.pay.length / 16 % 16 * 2 ^ 61 + f.addr % 2 ^ 43 * 2 ^ 65 + f.poison % 256 * 2 ^ 108 + f.op % 256 * 2 ^ 116 + f.gen % 16 * 2 ^ 124

/-- The bytes of a frame. -/
def LFrame.bytes (f : LFrame) : List Nat := natLe 16 f.header ++ f.pay

/-- A frame from its header and payload. -/
def LFrame.ofHeader (h : Nat) (pay : List Nat) : LFrame :=
  ⟨bits h 3 0, bits h 4 4, bits h 19 6, bits h 33 20, bits h 36 34, bits h 44 37, bits h 60 45, bits h 107 65, bits h 115 108, bits h 123 116, bits h 127 124, pay⟩

/-- Is a TYPE defined (R522)? -/
def frameType (t : Nat) : Bool := decide (1 ≤ t ∧ t ≤ 6) || decide (8 ≤ t ∧ t ≤ 12) || t == 14 || t == 15

/-- Is a frame a request, a response, or a management frame (R522)? -/
def LFrame.cls (f : LFrame) : Nat := if f.ty ≤ 6 then 2 else if f.ty ≤ 12 then 1 else 0

/-- The receive buffer a frame uses (R524). -/
def LFrame.buf (f : LFrame) : Nat := if f.ty ≤ 6 then f.vc else if f.ty ≤ 12 then 2 + f.vc else 4

/-- The credit units of a frame (R524). -/
def LFrame.units (f : LFrame) : Nat := 1 + f.pay.length / 16

/-- The path of a frame: SRC and TAG[15:5] (R529). -/
def LFrame.path (f : LFrame) : Nat := f.src * 2048 + f.tag / 32

/-- Payload bytes filled to whole units of 16. -/
def payload (bs : List Nat) : List Nat := padBlock bs

/-! ### Ports and routes (R527, R528) -/

/-- STATE of a port (R549). -/
def State.blState (s : State) (n : Nat) : Nat := s.fget (A.BL_STATUS n) F.BL_STATUS_STATE

/-- Is a port UP or DEGRADED? -/
def State.blUsable (s : State) (n : Nat) : Bool := s.isOn (9 + n) && (s.blState n == 2 || s.blState n == 3)

/-- Is sealing on at a port (R539)? -/
def State.blSealed (s : State) (n : Nat) : Bool := s.confMode || s.flag (A.BL_CFG n) F.BL_CFG_SEAL

/-- Where a frame to a device goes: no route, a port, no port that can carry it. -/
inductive Way where
  | noRoute
  | down
  | port (n : Nat)
  deriving DecidableEq, Repr

/-- The port for a destination and a spreading index (R47, R528): among the UP or DEGRADED ports of the route with SPREAD, else its port. A port that is Off, training or retraining is waited for; one that is DOWN is not. -/
def State.way (s : State) (dst idx : Nat) : Way :=
  match s.route dst with
  | none => .noRoute
  | some e =>
    let ps := bitsOf 4 e.ports
    let us := if e.spread then ps.filter s.blUsable else []
    match us, ps.filter fun n => s.blState n != 5 with
    | _ :: _, _ => .port (us.getD (idx % us.length) 0)
    | [], p :: _ => .port p
    | [], [] => .down

/-- Is an identifier's route being drained for a plat (R55)? -/
def State.draining (s : State) (dst : Nat) : Bool := s.plat.drain.any fun r => decide (r.1 ≤ dst) && decide (dst ≤ r.2)

/-! ### How requests of this device end (R531, R545) -/

/-- Remove a request. -/
def State.dropReq (s : State) (tag : Nat) : State := { s with reqs := s.reqs.filter fun q => q.tag != tag }

/-- A message that comes back to its sender with a reason travels as a bounce (R109, R110). -/
def State.reqBounce (s : State) (q : RReq) (reason : Nat) : State :=
  let w := BitVec.ofNat 64 q.addr
  let m : Msg := ⟨BitVec.ofNat 64 (field q.data 0 8), (List.range 7).map fun i => BitVec.ofNat 64 (field q.data (8 + 8 * i) 8),
    q.data.getD 64 0 == 1, (List.range 7).map fun i => q.data.getD (65 + i) 0 == 1⟩
  { s with net := s.net ++ [⟨q.tile, q.thr, true, w, q.tenant, bounceMsg m w reason, true, false, some [m.src.1, m.src.2]⟩] }

/-- A thread whose held access has ended goes on behind its instruction. -/
def Thread.passOn (t : Thread) : Thread := { t with st := .ready, hold := .none, pc := t.pc + 4, instret := t.instret + 1 }

/-- A fault record sent to a peer that meets an error counts FL_FWD_ERR (R632), a host access HI_T_WIN_MISS (R555). An access ends with an exception code (R128, R129): a load or an atomic raises it at its instruction, a store keeps it for the thread's next point; parts of a store still under way go on. -/
def State.accError (s : State) (q : RReq) (code : Nat) : State :=
  let s := if q.tile = 128 then s.bump A.FL_FWD_ERR else if q.tile = 129 then (s.bump (A.HI_T_WIN_MISS q.tenant)).hostGot q.tag (List.replicate 128 0xFF) 0 else s
  let t := s.thread q.tile q.thr
  if q.acc = 0 then
    if t.st = .stalled ∧ t.hold = .link then
      (s.setThread q.tile q.thr { t with st := .ready, hold := .none }).raise q.tile q.thr code 0 t.holdVa
    else s
  else match t.acc.find? fun a => a.id == q.acc with
  | none => s
  | some a =>
    let va := ((a.todo.flatten.find? fun p => p.tag == q.tag + 1).map (·.va)).getD 0
    if a.isStore then
      let s := s.storeError q.tile q.thr { a with todo := [[⟨0, .lost 3, va, 0, 0, false, 0⟩]] } code
      let rest := (a.todo.map fun g => g.filter fun p => p.tag != q.tag + 1).filter fun g => g != []
      let t := s.thread q.tile q.thr
      if rest = [] then s else s.setThread q.tile q.thr { t with acc := t.acc ++ [{ a with todo := rest }] }
    else
      let t := { t with acc := t.acc.filter fun b => b.id != a.id }
      if a.tend.isSome then s.setThread q.tile q.thr t
      else (s.setThread q.tile q.thr { t with st := .ready, hold := .none }).raise q.tile q.thr code 0 va

/-- A request ends with an exception code: in its reply slot, as a bounce, or at its access. -/
def State.reqError (s : State) (q : RReq) (code : Nat) : State :=
  let s := s.dropReq q.tag
  match q.kind, q.slot with
  | .message, _ => s.reqBounce q 3
  | .carry, _ => s.reqBounce q 3
  | _, some (c, i) => s.landSlot c i 0 code false
  | _, none => s.accError q code

/-- A request times out (R531, R532). -/
def State.reqTimeout (s : State) (q : RReq) : State := (s.reserveWire q).reqError q excRemote

/-- BL_REQUEST_TIMEOUT (R531): BL_TIMEOUT has passed since a request's issue without a response. A request kept in a reply slot has its own timeout (R372). -/
def execBlRequestTimeout (tag : Nat) (s : State) : Out :=
  match s.reqs.find? fun q => q.tag == tag with
  | none => .next s
  | some q => if q.slot.isSome ∨ s.now < q.since + s.blTimeout then .next s else .next (s.reqTimeout q)

/-- SLOT_RESERVATION_END (R532): 33 × BL_TIMEOUT has passed since the issue of a timed-out request. -/
def execSlotReservationEnd (idx : Nat) (s : State) : Out :=
  match s.bl.reserved[idx]? with
  | none => .next s
  | some (_, t) => if s.now < t + 33 * s.blTimeout then .next s else .next { s with bl := { s.bl with reserved := listDel s.bl.reserved idx } }

/-! ### Sending frames (R523, R526 to R528) -/

/-- UNDELIVERED for a request (R522, R527): the payload of a message comes back with it. A response that cannot be delivered is discarded and counted at the port. -/
def State.undelivered (s : State) (n : Nat) (f : LFrame) (reason : Nat) : State :=
  let s := s.bump (A.BL_UNDELIVERED n)
  if f.cls = 2 ∧ f.ty ≠ 6 then
    s.frameOut n (if f.ty = 4 ∨ f.ty = 5 then ⟨0xC, 0, f.src, s.devId, f.tenant, 255, f.tag, 0, f.poison, reason * 16, f.gen, f.pay⟩
      else ⟨0xC, 0, f.src, s.devId, f.tenant, 255, f.tag, 0, 0, reason * 16, f.gen, []⟩)
  else s

/-- The frame of a request (R521 to R523). R155 and R162 tell apart marks that one payload unit, or none, holds: POISON bits 1 and 2 of an ATOMIC mark its operand and its compare value, bit 4 of a message its header (DESIGN CHOICE, log entry 73). -/
def State.reqFrame (s : State) (q : RReq) (tag gen : Nat) : LFrame :=
  let f : LFrame := ⟨1, 0, q.dev, s.devId, q.tenant, 255, tag, q.addr, 0, 0, gen, []⟩
  match q.kind with
  | .read => { f with op := Nat.log2 q.len }
  | .write =>
    let pay := payload (q.data.take q.len)
    { f with ty := 2, op := Nat.log2 q.len, pay := pay, poison := maskOf ((List.range (pay.length / 16)).filter fun u => q.data.getD (q.len + u) 0 == 1) }
  | .atomic => { f with ty := 3, op := q.data.headD 0 + (if q.len = 8 then 16 else 0), pay := slice q.data 1 16, poison := if q.data.getD 17 0 + q.data.getD 18 0 = 0 then 0 else 1 + 2 * q.data.getD 17 0 + 4 * q.data.getD 18 0 }
  | _ =>
    let w := BitVec.ofNat 64 q.addr
    let h := field q.data 0 8
    let pz := maskOf ((List.range 4).filter fun u => q.data.getD (65 + 2 * u) 0 == 1 || (u != 3 && q.data.getD (66 + 2 * u) 0 == 1))
    { f with ty := if q.kind = .carry then 5 else 4, addr := tgtCtx w + tgtRank w * 2 ^ 10 + tgtThr w * 2 ^ 17 + bits h 50 35 * 2 ^ 21 + bits h 53 51 * 2 ^ 37,
             pay := slice q.data 8 56 ++ List.replicate 8 0, poison := pz + 16 * q.data.getD 64 0 }

/-- A free access slot of a thread (R521, R532): one no sent request and no reservation holds. -/
def State.freeWire (s : State) (tile thr : Nat) : Option Nat :=
  let base := (tile * 16 + thr) % 2048 * 32
  ((List.range 32).map (base + ·)).find? fun w => s.reqs.all (fun q => q.wire.all fun x => x.1 != w) && s.bl.reserved.all fun r => r.1 != w

/-- VC on leaving by a port (R526): `inp` is the arrival port, or none for a frame of this device. -/
def State.leaveVc (s : State) (n : Nat) (inp : Option Nat) (vc : Nat) : Nat :=
  let vc := match inp with
    | some a => if s.flag (A.BL_CFG n) F.BL_CFG_DIM = s.flag (A.BL_CFG a) F.BL_CFG_DIM then vc else 0
    | none => vc
  if s.flag (A.BL_CFG n) F.BL_CFG_DATELINE then 1 else vc

/-- Queue a frame at a port. -/
def State.enqueue (s : State) (n : Nat) (x : QFrame) : State :=
  let p := s.blPort n
  s.setPort n { p with q := p.q ++ [x] }

/-- Does a thread's new request wait for requests of that thread to the same route that left by another port (R528)? They did so under another set of usable ports. -/
def State.otherPort (s : State) (q : RReq) (n : Nat) : Bool :=
  s.reqs.any fun r => r.tile == q.tile && r.thr == q.thr && decide (s.route r.dev = s.route q.dev) &&
    r.wire.any fun x => x.2.2 != n

/-- Take one request to the port its route gives, as a frame with a TAG and a GEN: it waits while its route drains, while requests sent under another set of usable ports are outstanding, or while its thread has no free slot; without a route, or with every port DOWN, it ends at once (R527, R545). -/
def State.pullReq (s : State) (q : RReq) : State :=
  if q.wire.isSome ∨ s.draining q.dev then s
  else match s.way q.dev (q.tile + q.thr) with
  | .noRoute => (s.bump A.BL_NO_ROUTE).reqError q excAccess
  | .down => s.reqError q excAccess
  | .port n =>
    match (if s.otherPort q n then none else s.freeWire q.tile q.thr) with
    | none => s
    | some w =>
      let g := Tab.get s.bl.gens 0 w
      let f := s.reqFrame q w g
      let s : State := { s with reqs := s.reqs.map fun (r : RReq) => if r.tag = q.tag then { r with wire := some (w, g, n) } else r }
      s.enqueue n ⟨8, { f with vc := s.leaveVc n none 0 }, s.now, some q.tag⟩

/-- Take one of this device's responses, UNDELIVERED frames and doorbells to its port (R528). A response that no route takes is counted at the port its request came by (R527). -/
def State.pullOut (s : State) (x : QFrame) : State :=
  let f := x.fr
  match s.way f.dst (if f.ty = 6 then f.tag / 512 + f.tag / 32 % 16 else f.src + f.tag / 32) with
  | .noRoute => s.bump (if x.inp < 4 then A.BL_UNDELIVERED x.inp else A.BL_NO_ROUTE)
  | .down => match (s.route f.dst).map fun e => bitsOf 4 e.ports with
    | some (n :: _) => s.bump (A.BL_UNDELIVERED n)
    | _ => s
  | .port n => s.enqueue n { x with inp := 8, fr := { f with vc := s.leaveVc n none 0 } }

/-- Take everything this device has issued to the ports. -/
def State.pullAll (s : State) : State :=
  let s := s.reqs.foldl (fun s q => s.pullReq q) s
  let out := s.bl.outq
  let keep := out.filter fun x => s.draining x.fr.dst && x.fr.ty == 6
  let s : State := { s with bl := { s.bl with outq := keep } }
  (out.filter fun x => !(s.draining x.fr.dst && x.fr.ty == 6)).foldl (fun s x => s.pullOut x) s

/-! ### Credits (R524, R604) -/

/-- The key of a credit count: the buffer, and in confidential mode the tenant. -/
def State.credKey (s : State) (f : LFrame) : Nat := f.buf * 16 + (if s.confMode && decide (f.ty < 14) then f.tenant else 15)

/-- Is a frame outside the credit scheme: the LINK frame of bring-up, which brings the first credits, and in confidential mode every management frame, for which R604 returns no credit (log entry 48)? -/
def State.creditFree (s : State) (f : LFrame) : Bool := decide (f.ty ≥ 14) && (s.confMode || (f.ty == 14 && f.pay.headD 0 == 0))

/-- The units a frame takes from the credits of its buffer. -/
def State.cost (s : State) (f : LFrame) : Nat := if s.creditFree f then 0 else f.units

/-- Do a port's credits cover a frame (R524)? -/
def State.credOk (s : State) (n : Nat) (f : LFrame) : Bool := decide (s.cost f ≤ Tab.get (s.blPort n).credit 0 (s.credKey f))

/-- Does a frame wait for credit at a port (R549)? -/
def State.creditWaits (s : State) (n : Nat) : Bool := (s.blPort n).q.any fun x => !s.credOk n x.fr

/-- A received frame has left its buffer: its units are owed to the partner. -/
def State.owe (s : State) (n : Nat) (f : LFrame) : State :=
  let p := s.blPort n
  let k := s.credKey f
  s.setPort n { p with ret := Tab.set p.ret 0 k (Tab.get p.ret 0 k + s.cost f) }

/-! ### Blocks (R517 to R519, R537 to R540) -/

/-- The inputs of a class at a port, in round robin after the one served last (R537). -/
def nextInput (last : Nat) (has : Nat → Bool) : Option Nat :=
  ((List.range 9).map fun i => (last + 1 + i) % 9).find? has

/-- May a frame go in the next block: keys for a sealed port, the tenant of the wheel's turn in confidential mode (R538, R539)? -/
def State.mayCarry (s : State) (n : Nat) (turn : Option Nat) (f : LFrame) : Bool :=
  (f.ty ≥ 14 || !s.blSealed n || (s.blPort n).txKey.isSome) &&
  (match turn with
    | none => true
    | some 840 => f.ty ≥ 14
    | some b => f.ty < 14 && s.tenants.getD (b % max 1 s.tenants.length) 8 == f.tenant)

/-- Frames of one path and class to one device (R529). -/
def LFrame.samePath (f g : LFrame) : Bool := f.path == g.path && f.dst == g.dst && f.cls == g.cls

/-- The first frame of a queue that may go, but none before an earlier frame of its path, which credits may hold back (R529). -/
def firstInOrder (ok : QFrame → Bool) : List QFrame → List QFrame → Option QFrame
  | _, [] => none
  | seen, x :: xs => if ok x && !(seen.any fun y => y.fr.samePath x.fr) then some x else firstInOrder ok (seen ++ [x]) xs

/-- The next frame a port takes (R537): management first, then responses, then requests, and in round robin across inputs; frames of one path keep their order (R529). -/
def State.pickLinkFrame (s : State) (n : Nat) (turn : Option Nat) : Option QFrame :=
  let p := s.blPort n
  [0, 1, 2].findSome? fun c =>
    let pick (i : Nat) : Option QFrame :=
      firstInOrder (fun x => s.credOk n x.fr && s.mayCarry n turn x.fr) [] (p.q.filter fun x => x.inp == i && x.fr.cls == c)
    (nextInput p.rr fun i => (pick i).isSome).bind pick

/-- The stream a frame's bytes belong to: one, or in confidential mode one a tenant and one for management (R538). -/
def streamKey (turn : Option Nat) (tenants : List Nat) : Nat :=
  match turn with
  | none => 0
  | some 840 => 0
  | some b => 1 + tenants.getD (b % max 1 tenants.length) 0

/-- Remove the first occurrence of a queued frame. -/
def removeFrame (x : QFrame) : List QFrame → List QFrame
  | [] => []
  | y :: ys => if y = x then ys else y :: removeFrame x ys

/-- Fill a data field of `cap` bytes: the rest of the frame being sent, then whole frames as they come; the offset at which the first frame begins. -/
def State.fillBlock (s : State) (n : Nat) (turn : Option Nat) (cap : Nat) : Nat → List Nat → Option Nat → State × List Nat × Option Nat
  | 0, acc, off => (s, acc, off)
  | fuel + 1, acc, off =>
    let k := streamKey turn s.tenants
    let p := s.blPort n
    let (rest, tag) := Tab.get p.cur ([], none) k
    if cap ≤ acc.length then (s, acc, off)
    else if rest ≠ [] then
      let m := min rest.length (cap - acc.length)
      (s.setPort n { p with cur := Tab.set p.cur ([], none) k (rest.drop m, if rest.drop m = [] then none else tag) }).fillBlock n turn cap fuel (acc ++ rest.take m) off
    else match s.pickLinkFrame n turn with
    | none => (s, acc, off)
    | some x =>
      let b := x.fr.bytes
      let ck := s.credKey x.fr
      let p := { p with q := removeFrame x p.q, rr := x.inp, credit := Tab.set p.credit 0 ck (Tab.get p.credit 0 ck - s.cost x.fr),
                        cur := Tab.set p.cur ([], none) k (b, x.req) }
      let s := (s.setPort n p).fadd (A.BL_TX_BYTES n) (63, 0) b.length
      let s := if x.inp < 8 then s.fadd (A.BL_FWD_FRAMES n) (63, 0) 1 else s
      s.fillBlock n turn cap fuel acc (off.orElse fun _ => some (acc.length / 16))

/-- A block header (R518). -/
def blkHeader (bseq ack : Nat) (nak idle keysel : Bool) (cbuf ccount : Nat) (off : Option Nat) (counter : Nat) : Nat :=
  bseq % 4096 + ack % 4096 * 2 ^ 12 + b2n nak * 2 ^ 24 + b2n idle * 2 ^ 25 + b2n keysel * 2 ^ 26 + cbuf * 2 ^ 27 + ccount * 2 ^ 30 +
  (match off with
    | some o => 2 ^ 42 + o * 2 ^ 43
    | none => 0) + counter % 2 ^ 16 * 2 ^ 47

/-- Bytes filled with zeros to a length. -/
def zeroTo (n : Nat) (bs : List Nat) : List Nat := bs ++ List.replicate (n - bs.length) 0

/-- Bytes 0 to 151 and their check (R517). -/
def blkClose (bs : List Nat) : List Nat := bs ++ natLe 4 (crc32c bs) ++ natLe 4 0

/-- The IV of a sealed block (R539). -/
def linkIv (k : LKey) (counter : Nat) : List Nat := natLe 4 k.session ++ natLe 8 counter

/-- A block of a header and a data field, sealed under a key or open. -/
def mkBlock (key : Option LKey) (hdr : Nat) (data : List Nat) : List Nat :=
  match key with
  | some k =>
    let aad := natLe 8 hdr
    let (ct, tag) := gcmSeal k.key (linkIv k k.counter) aad (zeroTo 128 data)
    blkClose (aad ++ ct ++ tag)
  | none => blkClose (natLe 8 hdr ++ zeroTo 144 data)

/-- A port switches to its second key at a block boundary (R540). -/
def State.keySwitch (s : State) (n : Nat) : State :=
  let p := s.blPort n
  match p.txNew with
  | none => s
  | some k =>
    let s := s.setPort n { p with txKey := some k, txNew := none, txSel := !p.txSel, rekey := false }
    s.wr (A.BL_SEAL_TX_SESSION n) (BitVec.ofNat 64 k.session)

/-- Requests that had been sent through a port (R545). -/
def State.sentBy (s : State) (n : Nat) : List RReq := s.reqs.filter fun q => q.wire.any fun w => w.2.2 == n

/-- What a port that goes DOWN or trains again does with its frames (R527, R545): forwarded requests go back as UNDELIVERED, responses are discarded and counted, local requests in the queue end with ACCESS, those sent with REMOTE_TIMEOUT, each counted. -/
def State.portFrames (s : State) (n : Nat) : State :=
  let p := s.blPort n
  let s := s.setPort n { p with q := [], cur := [], replay := [], resend := none, lastNak := none, rxBuf := [], nak := false, txSeq := 0, rxSeq := 0, credit := [], ret := [], ident := false, rekey := false }
  let s := (p.q.filter fun x => decide (x.inp < 8) || x.fr.cls == 1).foldl (fun s x => s.undelivered n x.fr 2) s
  let queued := p.q.filterMap (·.req)
  (s.sentBy n).foldl (fun s q =>
    let s := s.bump (A.BL_PORT_TIMEOUT n)
    if queued.contains q.tag then s.reqError q excAccess else s.reqTimeout q) s

/-- Every frame held from a port is discarded, wherever it waits (R544). -/
def State.dropFrom (s : State) (n : Nat) : State :=
  { s with bl := { s.bl with inbox := s.bl.inbox.filter (fun x => x.1 != n),
                             ports := s.bl.ports.map fun (e : Nat × BlPort) => (e.1, { e.2 with q := e.2.q.filter fun x => decide (8 ≤ x.inp) || x.inp / 2 != n }) } }

/-- A port goes DOWN with a cause (R544): its keys and its master secret are gone (R578), and the Fault ledger records it. After a protocol error every frame held from it is discarded. -/
def State.portDown (s : State) (n cause : Nat) : State :=
  let s := s.portFrames n
  let p := s.blPort n
  let s := s.setPort n { p with txKey := none, rxKey := none, txNew := none, rxNew := none, master := none, kx := none, keying := false, retAsk := false }
  let s : State := if cause = 4 then s.dropFrom n else s
  let s := (s.fset (A.BL_STATUS n) F.BL_STATUS_STATE 5).fset (A.BL_STATUS n) F.BL_STATUS_DOWN_CAUSE cause
  let s := s.fset (A.BL_STATUS n) F.BL_STATUS_PARTNER_VALID 0
  s.fsr 0x0C { domain := 9 + n, unit := n, cause := cause }

/-- A LINK frame of this device: its first payload byte is the kind, and values of two bytes follow (log entry 48). -/
def linkFrame (s : State) (kind : Nat) (vals : List Nat) : LFrame :=
  ⟨14, 0, 0, s.devId, 0, 255, 0, 0, 0, 0, 0, payload ([kind, 0] ++ vals.flatMap fun v => natLe 2 v)⟩

/-- The buffer sizes in units that a port grants at bring-up (R524, R604). -/
def State.grants (s : State) : List Nat :=
  (if s.confMode then (List.range 4).map fun _ => 16384 / max 1 s.tenants.length / 16 else [1024, 1024, 1024, 1024]) ++ [64]

/-- At bring-up a port sends its identifier and initial credits (R542 step 5). -/
def State.identify (s : State) (n : Nat) : State :=
  let p := s.blPort n
  if p.ident || s.blState n != 1 then s
  else (s.setPort n { p with ident := true }).enqueue n ⟨8, linkFrame s 0 (s.devId :: s.grants), s.now, none⟩

/-- A retention request goes to the partner when an entry has asked for it (R543). -/
def State.askRetention (s : State) (n : Nat) : State :=
  let p := s.blPort n
  if p.retAsk && !(p.q.any fun x => x.fr.ty == 14) && p.cur == [] && !(s.dom (9 + n)).entering.isNone && p.replay == [] then
    s.enqueue n ⟨8, linkFrame s 2 [], s.now, none⟩
  else s

/-- The credits a port returns in the next header: one buffer's count (R518), none in confidential mode (R604). -/
def State.creditBackTo (s : State) (n : Nat) : State × Nat × Nat :=
  let p := s.blPort n
  if s.confMode then (s, 0, 0)
  else match (List.range 5).find? fun b => Tab.get p.ret 0 (b * 16 + 15) != 0 with
  | none => (s, 0, 0)
  | some b =>
    let c := min 4095 (Tab.get p.ret 0 (b * 16 + 15))
    (s.setPort n { p with ret := Tab.set p.ret 0 (b * 16 + 15) (Tab.get p.ret 0 (b * 16 + 15) - c) }, b, c)

/-- In confidential mode credits return in LINK frames of block 840: the counts by tenant and buffer (R604). -/
def State.creditLink (s : State) (n : Nat) : State :=
  let p := s.blPort n
  if s.confMode && p.ret != [] then
    let vals := s.tenants.flatMap fun t => (List.range 4).map fun b => min 65535 (Tab.get p.ret 0 (b * 16 + t))
    (s.setPort n { p with ret := [] }).enqueue n ⟨8, linkFrame s 1 vals, s.now, none⟩
  else s

/-- The wheel's block for the next block of a port (R538): the position follows COUNTER (log entry 48). -/
def State.wheelTurn (s : State) (n : Nat) : Option Nat :=
  if s.confMode then (s.blPort n).txKey.map fun k => k.counter % 841 else none

/-- Put a block on the wire. -/
def State.emit (s : State) (n : Nat) (b : List Nat) : State :=
  let p := s.blPort n
  s.setPort n { p with out := p.out ++ [b], nak := false, txKey := p.txKey.map fun k => { k with counter := k.counter + 1 } }

/-- A new block of a port: non-idle when it carries frame bytes. -/
def State.newBlock (s : State) (n : Nat) : State :=
  let turn := s.wheelTurn n
  let s := if turn = some 840 then s.creditLink n else s
  let cap := if (s.blPort n).txKey.isSome then 128 else 144
  let full := decide (512 ≤ (s.blPort n).replay.length)
  match (if full then (s, [], none) else s.fillBlock n turn cap 40 [] none) with
  | (s, data, off) =>
    match s.creditBackTo n with
    | (s, cb, cc) =>
      let p := s.blPort n
      let idle := data = []
      let hdr := blkHeader p.txSeq ((p.rxSeq + 4095) % 4096) p.nak idle (p.txKey.isSome && p.txSel) cb cc off ((p.txKey.map (·.counter)).getD 0)
      let b := mkBlock p.txKey hdr data
      let s := s.emit n b
      let p := s.blPort n
      let s := if idle then s else s.setPort n { p with txSeq := (p.txSeq + 1) % 4096, replay := p.replay ++ [⟨(p.txSeq) % 4096, b, 0⟩] }
      match (s.blPort n).txKey with
      | some k => s.wr (A.BL_SEAL_COUNTER n) (BitVec.ofNat 64 k.counter)
      | none => s

/-- A block is sent again as stored (R519). -/
def State.resendBlock (s : State) (n seq : Nat) : State :=
  let p := s.blPort n
  match p.replay.find? fun b => b.seq == seq with
  | none => s.setPort n { p with resend := none }
  | some b =>
    let nxt := (seq + 1) % 4096
    s.setPort n { p with out := p.out ++ [b.bytes], replay := p.replay.map (fun c => if c.seq = seq then { c with sent := c.sent + 1 } else c),
                         resend := if p.replay.any fun c => c.seq == nxt then some nxt else none }

/-! ### Keys of a port (R539, R540, R597, R598) -/

/-- The key of a direction (R597): the sender's identifier and the session. -/
def linkKey (master : List Nat) (sender session : Nat) : LKey :=
  ⟨hkdfExpand master (ascii "brefen " ++ natLe 2 sender ++ natLe 4 session) 32, session, 0⟩

/-- PARTNER_ID of a port. -/
def State.partner (s : State) (n : Nat) : Nat := s.fget (A.BL_STATUS n) F.BL_STATUS_PARTNER_ID

/-- A first key, or one on a return from Off, is installed in both directions with SESSION one more (R540, R542). -/
def State.installKeys (s : State) (n : Nat) (master : List Nat) : State :=
  let p := s.blPort n
  let tx := linkKey master s.devId ((s.rd (A.BL_SEAL_TX_SESSION n)).toNat + 1)
  let rx := linkKey master (s.partner n) ((s.rd (A.BL_SEAL_RX_SESSION n)).toNat + 1)
  let s := s.setPort n { p with txKey := some tx, rxKey := some rx, txNew := none, rxNew := none, txSel := false, rxSel := false, rekey := false, master := some master, kx := none, keying := false }
  let s := s.wr (A.BL_SEAL_TX_SESSION n) (BitVec.ofNat 64 tx.session)
  let s := s.wr (A.BL_SEAL_RX_SESSION n) (BitVec.ofNat 64 rx.session)
  (s.wr (A.BL_SEAL_COUNTER n) 0).bump (A.BL_REKEYS n)

/-- BL_REKEY_THRESHOLD (R540): COUNTER has reached BL_REKEY_THRESH, and the port requests a key. -/
def execBlRekeyThreshold (port : Nat) (s : State) : Out :=
  let p := s.blPort port
  match p.txKey with
  | some k => if port < 4 ∧ (s.rd (A.BL_REKEY_THRESH port)).toNat ≤ k.counter ∧ p.txNew.isNone then .next (s.setPort port { p with rekey := true }) else .next s
  | none => .next s

/-- REKEY_KEY_INSTALL (R540, R598): the Notary installs a second key from the held master secret: the one this port requested for sending, or the one its partner requested for receiving. -/
def execRekeyKeyInstall (port : Nat) (rx : Bool) (s : State) : Out :=
  let p := s.blPort port
  match p.master, p.txKey, p.rxKey with
  | some m, some t, some r =>
    if 4 ≤ port ∨ !s.isOn 6 then .next (s.demandWake 6)
    else if rx then .next ((s.setPort port { p with rxNew := some (linkKey m (s.partner port) (r.session + 1)) }).bump (A.BL_REKEYS port))
    else if p.rekey then .next ((s.setPort port { p with txNew := some (linkKey m s.devId (t.session + 1)) }).bump (A.BL_REKEYS port))
    else .next s
  | _, _, _ => .next s

/-- The alias key of the running firmware (R578): a secret number and its public key. -/
def State.aliasSecret (s : State) : Nat := Config.aliasKey s.nt.fwN
/-- The alias public key. -/
def State.aliasPublic (s : State) : List Nat := ecPublic s.aliasSecret

/-- The certificate chain of slot 0 (R579): the fuse area's certificates, then the alias certificate. -/
def State.chain (s : State) : List Nat :=
  s.nt.fuse.cert ++ Config.aliasCert (s.nt.fuse.cert ++ s.aliasPublic ++ s.nt.fwN ++ natLe 4 s.nt.svnN ++ [s.nt.fuse.life, b2n s.confMode])

/-- An alias signature of a digest (R578). -/
def State.aliasSign (s : State) (digest : List Nat) : State × List Nat :=
  ({ s with nt := { s.nt with draw := s.nt.draw + 1 } }, ecdsaSign s.aliasSecret (Config.secret s.nt.draw) digest)

/-- Fresh random bytes of the Notary. -/
def State.random (s : State) (n : Nat) : State × List Nat :=
  ({ s with nt := { s.nt with draw := s.nt.draw + 1 } }, natLe n (Config.secret s.nt.draw))

/-- Send a KEY frame (R597): it joins the transcript. -/
def State.sendKey (s : State) (n msg : Nat) (kx : Kx) (body : List Nat) : State × Kx :=
  let pay := payload ([msg, kx.seq % 256] ++ body)
  let f : LFrame := ⟨15, 0, kx.peer, s.devId, 0, 255, 0, 0, 0, 0, 0, pay⟩
  (s.enqueue n ⟨8, f, s.now, none⟩, { kx with seq := kx.seq + 1, trans := kx.trans ++ pay })

/-- HELLO of this device (R597). -/
def State.sendHello (s : State) (n : Nat) (kx : Kx) : State × Kx :=
  match s.random 32 with
  | (s, r) => s.sendKey n 1 { kx with nonce := r } ([0, 0] ++ r ++ natLe 2 s.devId ++ natLe 4 s.chain.length)

/-- A piece of this device's chain from an offset (R597). -/
def State.sendCert (s : State) (n off : Nat) (kx : Kx) : State × Kx := s.sendKey n 2 kx (natLe 2 off ++ slice s.chain off 124)

/-- The ephemeral secret of a port's exchange (R597): drawn once, by its nonce. -/
def shareSecret (kx : Kx) : Nat := Config.secret (leNat kx.nonce)

/-- The ephemeral point of this device (R597). -/
def State.sendShare (s : State) (n : Nat) (kx : Kx) : State × Kx := s.sendKey n 3 kx ([0, 0] ++ ecPublic (shareSecret kx))

/-- The alias signature over the transcript (R597). -/
def State.sendSign (s : State) (n : Nat) (kx : Kx) : State × Kx :=
  match s.aliasSign (sha384 kx.trans) with
  | (s, g) => s.sendKey n 4 kx ([0, 0] ++ g)

/-- DONE (R597). -/
def State.sendDone (s : State) (n : Nat) (kx : Kx) : State × Kx := s.sendKey n 5 kx ([0, 0] ++ hmac kx.master kx.trans)

/-- Keep a port's exchange. -/
def State.setKx (s : State) (n : Nat) (kx : Kx) : State := s.setPort n { s.blPort n with kx := some kx, keying := true }

/-- An exchange that has seen nothing. -/
def Kx.start (peer : Nat) : Kx := ⟨1, 0, [], [], peer, 0, [], [], [], []⟩

/-- Before a sealed port carries traffic (R542 step 6, R597): keys from the held master secret, else the side with the lower identifier begins the exchange. -/
def State.sealPort (s : State) (n : Nat) : State :=
  match (s.blPort n).master with
  | some m => s.installKeys n m
  | none =>
    let kx := Kx.start (s.partner n)
    if s.devId < s.partner n then
      match s.sendHello n kx with
      | (s, kx) => s.setKx n kx
    else s.setKx n kx

/-- A sealed port that knows its partner and has no keys asks the Notary for them (R539, R542). -/
def State.kickSeal (s : State) (n : Nat) : State :=
  let p := s.blPort n
  if s.blSealed n && s.blState n == 1 && s.flag (A.BL_STATUS n) F.BL_STATUS_PARTNER_VALID && p.txKey.isNone && p.kx.isNone then needOn [6] s (s.sealPort n) else s

/-! ### A port's next block -/

/-- BL_BLOCK_SEND (R517 to R519, R526 to R528, R537 to R540): what the device has issued is taken to its ports; a port that is not On wakes; a port that runs sends its next block: one to be resent, else new frame bytes or an idle block. -/
def execBlBlockSend (port : Nat) (s : State) : Out :=
  if 4 ≤ port then .next s
  else
    let s := s.pullAll
    let st := s.blState port
    if !s.isOn (9 + port) then .next (if (s.blPort port).q = [] then s else s.demandWake (9 + port))
    else if st = 0 ∨ st = 4 ∨ st = 5 then .next s
    else if ((s.blPort port).txKey.any fun k => decide (2 ^ 63 ≤ k.counter)) && (s.blPort port).txNew.isNone then .next (s.portDown port 6)
    else
      let s := (((s.keySwitch port).identify port).kickSeal port).askRetention port
      match (s.blPort port).resend with
      | some q => .next (s.resendBlock port q)
      | none => .next (s.newBlock port)

/-! ### Receiving blocks (R519, R541, R544) -/

/-- A frame that has arrived goes on (R526, R527): to its port with its HOPS one less, or back. -/
def State.forward (s : State) (n : Nat) (f : LFrame) : State :=
  let s := s.owe n f
  if s.confMode && !s.tenants.contains f.tenant then s.undelivered n f 4
  else match s.way f.dst (f.src + f.tag / 32) with
  | .noRoute => s.undelivered n f 1
  | .down => s.undelivered n f 2
  | .port m =>
    if f.hops = 0 then s.undelivered n f 3
    else s.enqueue m ⟨2 * n + f.vc, { f with hops := f.hops - 1, vc := s.leaveVc m (some n) f.vc }, s.now, none⟩

/-- A complete frame arrives: served here, or forwarded (R527). -/
def State.arrive (s : State) (n : Nat) (f : LFrame) : State :=
  if f.ty ≥ 14 ∨ f.dst = s.devId then { s with bl := { s.bl with inbox := s.bl.inbox ++ [(n, f, s.now)] } }
  else s.forward n f

/-- Take the complete frames off a stream; a unit of zeros where a frame would begin fills the rest of its block (log entry 48). None for a reserved TYPE or LEN. -/
def State.parseFrames (s : State) (n k : Nat) : Nat → State × Bool
  | 0 => (s, true)
  | fuel + 1 =>
    let p := s.blPort n
    let b := Tab.get p.rxBuf [] k
    if b.length < 16 then (s, true)
    else
      let h := leNat (b.take 16)
      if h = 0 then (s.setPort n { p with rxBuf := Tab.set p.rxBuf [] k [] }, true)
      else
        let len := bits h 64 61
        if !frameType (bits h 3 0) || decide (8 < len) then (s, false)
        else if b.length < 16 + 16 * len then (s, true)
        else
          let f := LFrame.ofHeader h (slice b 16 (16 * len))
          let s := (s.setPort n { p with rxBuf := Tab.set p.rxBuf [] k (b.drop (16 + 16 * len)) }).fadd (A.BL_RX_BYTES n) (63, 0) (16 + 16 * len)
          (s.arrive n f).parseFrames n k fuel

/-- Events within the last millisecond. -/
def State.recent (s : State) (ts : List Nat) : List Nat := ts.filter fun t => decide (s.now < t + 256000000)

/-- A block that cannot be accepted: the next outgoing block carries NAK (R519). -/
def State.nakNext (s : State) (n : Nat) : State := s.setPort n { s.blPort n with nak := true }

/-- The partner's ACK and NAK (R519): a second NAK with the same ACK is ignored while the replay it asked for is being sent (log entry 48). -/
def State.takeAck (s : State) (n ack : Nat) (nak : Bool) : State :=
  let p := s.blPort n
  let acked (q : Nat) : Bool := decide ((ack + 4096 - q) % 4096 < 2048)
  let rest := p.replay.filter fun b => !acked b.seq
  let moved := rest.length != p.replay.length
  let last := if moved then none else p.lastNak
  let p := { p with replay := rest, lastNak := last, resend := match p.resend with
    | some q => if acked q then rest.head?.map (·.seq) else some q
    | none => none }
  if nak && !(last == some ack && p.resend.isSome) && rest != [] then
    (s.setPort n { p with resend := rest.head?.map (·.seq), lastNak := some ack, replays := s.recent p.replays ++ [s.now] }).bump (A.BL_REPLAY n)
  else s.setPort n p

/-- The counter a sealed block was sealed with, from its low bits, nearest to the one expected. -/
def fullCounter (expect lo : Nat) : Nat :=
  let c := expect / 65536 * 65536 + lo
  if expect + 32768 < c ∧ 65536 ≤ c then c - 65536 else if c + 32768 < expect then c + 65536 else c

/-- What opening a block gives: its data field, with the receive keys as they are after it. -/
inductive Opened where
  | data (d : List Nat) (counter : Nat) (fresh : Bool)
  | bad
  deriving DecidableEq, Repr

/-- Open a block's data field (R539, R540): under the key that KEYSEL names. -/
def BlPort.openBlock (p : BlPort) (hdr : Nat) (bs : List Nat) : Opened :=
  match p.rxKey with
  | none => .data (slice bs 8 144) 0 false
  | some k0 =>
    let fresh := bit hdr 26 != p.rxSel
    match (if fresh then p.rxNew else some k0) with
    | none => .bad
    | some k =>
      let c := fullCounter k.counter (bits hdr 62 47)
      match gcmOpen k.key (linkIv k c) (bs.take 8) (slice bs 8 128) (slice bs 136 16) with
      | some d => .data d c fresh
      | none => .bad

/-- A tag failure is counted; eight within 1 ms take the port DOWN (R541). -/
def State.tagFail (s : State) (n : Nat) : State :=
  let s := s.bump (A.BL_TAG_FAIL n)
  let p := s.blPort n
  let ts := s.recent p.tagFails ++ [s.now]
  let s := (s.setPort n { p with tagFails := ts }).nakNext n
  if 8 ≤ ts.length then s.portDown n 2 else s

/-- A valid block (R518, R519): its ACK, NAK and credits are taken; a non-idle block is accepted in order, and its bytes go to the stream of its tenant. -/
def State.acceptBlock (s : State) (n hdr : Nat) (d : List Nat) (counter : Nat) (fresh : Bool) : State :=
  let s := s.takeAck n (bits hdr 23 12) (bit hdr 24)
  let p := s.blPort n
  let cb := bits hdr 29 27 * 16 + 15
  let p := if s.confMode ∨ 5 ≤ bits hdr 29 27 then p else { p with credit := Tab.set p.credit 0 cb (Tab.get p.credit 0 cb + bits hdr 41 30) }
  let inOrder := bits hdr 11 0 == p.rxSeq
  if !inOrder then (s.setPort n p).nakNext n
  else
    let p := if fresh then { p with rxKey := p.rxNew, rxNew := none, rxSel := !p.rxSel } else p
    let p := { p with rxKey := p.rxKey.map fun k => { k with counter := max k.counter (counter + 1) } }
    let s := if fresh then s.wr (A.BL_SEAL_RX_SESSION n) (BitVec.ofNat 64 ((p.rxKey.map (·.session)).getD 0)) else s
    if bit hdr 25 then s.setPort n p
    else
      let turn := if s.confMode && p.rxKey.isSome then some (counter % 841) else none
      let k := streamKey turn s.tenants
      let old := Tab.get p.rxBuf [] k
      let d := if old = [] then (if bit hdr 42 then d.drop (16 * bits hdr 46 43) else []) else d
      let s := s.setPort n { p with rxSeq := (p.rxSeq + 1) % 4096, rxBuf := Tab.set p.rxBuf [] k (old ++ d) }
      match s.parseFrames n k 12 with
      | (s, true) => s
      | (s, false) => (s.bump (A.BL_PROTO_ERR n)).portDown n 4

/-- BL_BLOCK_RECEIVE (R517 to R519, R541): a received block of 160 bytes, whether its codeword could be corrected, and the symbols corrected on each lane. -/
def execBlBlockReceive (port : Nat) (fec : Bool) (corr bytes : List Nat) (s : State) : Out :=
  let st := s.blState port
  if 4 ≤ port ∨ !s.isOn (9 + port) ∨ st = 0 ∨ st = 4 ∨ st = 5 ∨ bytes.length ≠ 160 then .next s
  else
    let s := (List.range 8).foldl (fun s l => s.fadd (A.BL_LANE_CORR port l) (31, 0) (corr.getD l 0)) s
    let s := s.fadd (A.BL_FEC_CORR port) (63, 0) (corr.foldl (· + ·) 0)
    if !fec || crc32c (bytes.take 152) != field bytes 152 4 || field bytes 156 4 != 0 then .next ((s.bump (A.BL_CRC_ERR port)).nakNext port)
    else
      let hdr := field bytes 0 8
      match (s.blPort port).openBlock hdr bytes with
      | .bad => .next (s.tagFail port)
      | .data d c fresh => .next (s.acceptBlock port hdr d c fresh)

/-! ### Serving requests of peers (R529, R530, R533, R534) -/

/-- A frame of the inbox is done with. -/
def State.taken (s : State) (idx : Nat) : State :=
  match s.bl.inbox[idx]? with
  | some (n, f, _) => ({ s with bl := { s.bl with inbox := listDel s.bl.inbox idx } } : State).owe n f
  | none => s

/-- The earlier frames of the same path. -/
def State.ahead (s : State) (idx : Nat) (f : LFrame) : List LFrame :=
  ((s.bl.inbox.take idx).map fun x => x.2.1).filter fun g => g.path == f.path && g.cls == 2

/-- Answer a request that came by port `n` at time `t` (R532). -/
def State.answer (s : State) (n : Nat) (f : LFrame) (t : Nat) (ty status : Nat) (poison : Nat) (pay : List Nat) : State :=
  s.respond n t ⟨ty, 0, f.src, s.devId, f.tenant, 255, f.tag, 0, poison, status, f.gen, pay⟩

/-- May a peer's tenant reach `[a, a + n)` (R68, R530): a pinned frame or ring storage in T1, or an owned tile's SRAM? -/
def State.peerOk (s : State) (tenant a n : Nat) : Bool :=
  match area a n with
  | .t1 => s.physOk tenant a && ((s.frame (frameKey a)).alloc && (s.frame (frameKey a)).owner == tenant && (s.frame (frameKey a)).pinned ||
      s.ringEs.any fun e => (s.partE e.part).any (fun p => p.tenant == tenant) && (Tab.get s.plat.ringFrames [] e.first).contains (frameKey a))
  | .t0 => s.physOk tenant a
  | _ => false

/-- What a peer's access finds: the size and the bytes' address, ACCESS, a domain to wait for, or its stall limit. -/
inductive Peer where
  | go (n : Nat)
  | refuse (status : Nat)
  | wait (ds : List Nat)
  deriving DecidableEq, Repr

/-- Judge a READ, WRITE or ATOMIC at its target (R530): `limit` when it has reached its stall limit. -/
def State.peerJudge (s : State) (f : LFrame) (limit : Bool) : Peer :=
  let n := if f.ty = 3 then (if bit f.op 4 then 8 else 4) else 2 ^ (f.op % 8)
  if 128 < n ∨ f.addr % n ≠ 0 ∨ !s.peerOk f.tenant f.addr n then .refuse 3
  else match s.domCheck (s.locDoms (.mem f.addr)) with
  | .go => .go n
  | .refuse => .refuse 3
  | .wait ds => if limit then .refuse 4 else .wait ds

/-- A request of a peer waits for domains (R478, R530). -/
def State.peerWait (s : State) (ds : List Nat) : State := ds.foldl (fun s d => s.demandWake d) s

/-- Entries of the message holding buffer in use: in confidential mode those of one tenant (R533, R604). -/
def State.holdingFull (s : State) (tenant : Nat) : Bool :=
  let held := s.net.filter fun m => !m.srcLocal && m.waiting
  if s.confMode then decide (64 / max 1 s.tenants.length ≤ (held.filter fun m => m.tenant == tenant).length) else decide (64 ≤ held.length)

/-- While the holding buffer is full, no request is taken from the input behind a message that has to wait for it (R533). -/
def State.heldUp (s : State) (idx n : Nat) (f : LFrame) : Bool :=
  (s.bl.inbox.take idx).any fun x => x.1 == n && x.2.1.vc == f.vc && (x.2.1.ty == 4 || x.2.1.ty == 5) && s.holdingFull x.2.1.tenant

/-- The frame of the inbox a row serves, when it has the row's TYPE, no earlier request of its path must come first, and a request's input is not held up. -/
def State.served (s : State) (idx ty : Nat) (must : LFrame → LFrame → Bool) : Option (Nat × LFrame × Nat) :=
  match s.bl.inbox[idx]? with
  | some (n, f, t) => if f.ty = ty ∧ !((s.ahead idx f).any fun g => must f g) ∧ !(f.cls == 2 && s.heldUp idx n f) then some (n, f, t) else none
  | none => none

/-- Requests to one 128-byte line keep their order (R529). -/
def sameLine (f g : LFrame) : Bool := decide (g.ty ≤ 3) && f.addr / 128 == g.addr / 128

/-- The poison bits of `[a, a + n)` by 16-byte unit. -/
def State.peerPsn (s : State) (a n : Nat) : Nat := maskOf ((List.range (ceilDiv n 16)).filter fun u => s.homePsn (a + 16 * u) (min 16 n))

/-- READ (R76, R529, R530): served as class 2 of its vault, and answered with the bytes and their marks, or with a status. -/
def execRead (idx : Nat) (limit : Bool) (s : State) : Out :=
  match s.served idx 1 sameLine with
  | none => .next s
  | some (p, f, t) =>
    match s.peerJudge f limit with
    | .wait ds => .next (s.peerWait ds)
    | .refuse c => .next (((if c = 4 then s.bump (A.LK_D_STALL_LIMIT (s.limitDom (s.locDoms (.mem f.addr)))) else s).taken idx).answer p f t 8 c 0 (List.replicate 16 0))
    | .go n => .next (((((s.domTouch (s.locDoms (.mem f.addr))).taken idx).moved 255 f.addr n).answer p f t 8 0 (s.peerPsn f.addr n) (payload (s.homeBytes f.addr n))))

/-- What shares a part of the tracking of refusals: a VC, in confidential mode a tenant's frames on it (R533, R604). -/
def State.trackKey (s : State) (f : LFrame) : Nat := f.vc + if s.confMode then 2 * (f.tenant + 1) else 0

/-- The entries of one part (R533, R604). -/
def State.trackMax (s : State) : Nat := if s.confMode then 32 / max 1 s.tenants.length else 32

/-- A refused WRITE is remembered for the CARRYs behind it (R533): 32 source threads a port and VC. -/
def State.trackRefusal (s : State) (n : Nat) (f : LFrame) : State :=
  let p := s.blPort n
  if p.refused.any (fun r => r.1 == s.trackKey f && r.2.1 == f.path) ∨ s.trackMax ≤ (p.refused.filter fun r => r.1 == s.trackKey f).length then s
  else s.setPort n { p with refused := p.refused ++ [(s.trackKey f, f.path, s.now)] }

/-- Store a WRITE's bytes at home with their marks. -/
def State.peerStore (s : State) (f : LFrame) (n : Nat) : State :=
  (List.range (ceilDiv n 16)).foldl (fun s u => s.homeStore (f.addr + 16 * u) (slice f.pay (16 * u) (min 16 n)) (bit f.poison u)) s

/-- WRITE (R529, R530, R533): performed at home and acknowledged, or refused. -/
def execWrite (idx : Nat) (limit : Bool) (s : State) : Out :=
  match s.served idx 2 sameLine with
  | none => .next s
  | some (p, f, t) =>
    match s.peerJudge f limit with
    | .wait ds => .next (s.peerWait ds)
    | .refuse c => .next ((((if c = 4 then s.bump (A.LK_D_STALL_LIMIT (s.limitDom (s.locDoms (.mem f.addr)))) else s).taken idx).trackRefusal p f).answer p f t 9 c 0 [])
    | .go n => .next (((((s.domTouch (s.locDoms (.mem f.addr))).taken idx).moved 255 f.addr n).peerStore f n).answer p f t 9 0 0 [])

/-- ATOMIC (R121, R530): performed at home; the old value goes back. -/
def execAtomic (idx : Nat) (limit : Bool) (s : State) : Out :=
  match s.served idx 3 sameLine with
  | none => .next s
  | some (p, f, t) =>
    match s.peerJudge f limit with
    | .wait ds => .next (s.peerWait ds)
    | .refuse c => .next (((if c = 4 then s.bump (A.LK_D_STALL_LIMIT (s.limitDom (s.locDoms (.mem f.addr)))) else s).taken idx).answer p f t 10 c 0 (List.replicate 16 0))
    | .go n =>
      let s := ((s.domTouch (s.locDoms (.mem f.addr))).taken idx).moved 255 f.addr n
      let old := leNat (s.homeBytes f.addr n)
      let pold := s.homePsn f.addr n
      let px := bit f.poison 1 || (bit f.poison 0 && !bit f.poison 2)
      let pc := bit f.poison 2 || (bit f.poison 0 && !bit f.poison 1)
      let s1 := match amoStore (f.op % 16) n old pold (field f.pay 0 n) px (field f.pay 8 n) pc with
        | some (v, z) => s.homeStore f.addr (natLe n v) z
        | none => s
      .next (s1.answer p f t 10 0 (b2n pold) (payload (natLe n old)))

/-- The message a MESSAGE or CARRY frame carries (R108, R521, R522); SRC_CONTEXT and SRC_RANK, which the frame does not hold, are free values (log entry 3). -/
def State.frameMsg (s : State) (n t : Nat) (f : LFrame) : State × NetMsg :=
  let v := Config.freeValue s.free
  let w := BitVec.ofNat 64 (s.devId + bits f.addr 9 0 * 2 ^ 14 + bits f.addr 16 10 * 2 ^ 24 + bits f.addr 20 17 * 2 ^ 31)
  let len := bits f.addr 39 37
  let h := BitVec.ofNat 64 (f.src + v.toNat % 2 ^ 17 * 2 ^ 14 + f.tag / 32 % 16 * 2 ^ 31 + bits f.addr 36 21 * 2 ^ 35 + len * 2 ^ 51 + 2 ^ 63)
  let pay := (List.range 7).map fun i => if i < len then BitVec.ofNat 64 (field f.pay (8 * i) 8) else 0
  let psn := (List.range 7).map fun i => decide (i < len) && bit f.poison (i / 2)
  ({ s with free := s.free + 1 }, ⟨f.tag / 512, f.tag / 32 % 16, false, w, f.tenant, ⟨h, pay, bit f.poison 4, psn⟩, false, false, some [f.src, f.tag, f.gen, t, n]⟩)

/-- An earlier message of the path to the same target comes first (R112). -/
def sameTarget (f g : LFrame) : Bool := (g.ty == 4 || g.ty == 5) && f.addr % 2 ^ 21 == g.addr % 2 ^ 21

/-- The refusal entry of a source thread clears at its next MESSAGE or CARRY (R533). -/
def State.untrack (s : State) (n : Nat) (f : LFrame) : State :=
  let p := s.blPort n
  s.setPort n { p with refused := p.refused.filter fun r => !(r.1 == s.trackKey f && r.2.1 == f.path) }

/-- A message from a peer is judged like one of this device (R110, R111, R533); it waits behind an earlier one of its sender to its target (R112). -/
def State.takeMsg (s : State) (idx n t : Nat) (f : LFrame) : State :=
  let s := s.taken idx
  match s.frameMsg n t f with
  | (s, m) =>
    let s : State := { s with net := s.net ++ [m] }
    if s.behind (s.net.length - 1) m then { s with net := listSet s.net (s.net.length - 1) { m with waiting := true } }
    else s.judgeMessage (s.net.length - 1) m

/-- MESSAGE (R533): judged at once, unless the holding buffer of its input is full. -/
def execMessage (idx : Nat) (s : State) : Out :=
  match s.served idx 4 sameTarget with
  | none => .next s
  | some (p, f, t) => if s.holdingFull f.tenant then .next s else .next ((s.takeMsg idx p t f).untrack p f)

/-- CARRY (R533): after every WRITE ahead of it on its path; bounced UNREACHABLE when one of them was refused, or when the tracking of its input is full. -/
def execCarry (idx : Nat) (s : State) : Out :=
  match s.served idx 5 (fun f g => g.ty == 2 || sameTarget f g) with
  | none => .next s
  | some (p, f, t) =>
    let rf := (s.blPort p).refused.filter fun r => r.1 == s.trackKey f
    if (rf.any fun r => r.2.1 == f.path) || decide (s.trackMax ≤ rf.length) then
      match s.frameMsg p t f with
      | (s, m) => .next (((s.taken idx).untrack p f).msgRsp m 3)
    else if s.holdingFull f.tenant then .next s
    else .next ((s.takeMsg idx p t f).untrack p f)

/-- DOORBELL_FRAME (R534): after every WRITE ahead of it on its path, as a doorbell write of the sending tenant; the Headgate wakes on it. -/
def execDoorbellFrame (idx : Nat) (s : State) : Out :=
  match s.served idx 6 (fun _ g => g.ty == 2) with
  | none => .next s
  | some (_, f, _) => .next (needOn [13] s ((s.taken idx).doorbell f.tenant (f.addr % 65536)).1)

/-- CARRY_TRACK_EXPIRY (R533): a refusal entry of a port has stood for BL_TIMEOUT. -/
def execCarryTrackExpiry (port idx : Nat) (s : State) : Out :=
  let p := s.blPort port
  match p.refused[idx]? with
  | none => .next s
  | some (_, _, t) => if s.now < t + s.blTimeout ∨ 4 ≤ port then .next s else .next (s.setPort port { p with refused := listDel p.refused idx })

/-! ### Responses (R531, R533) -/

/-- The request a response answers: same TAG and GEN, from the device asked. -/
def State.reqOf (s : State) (f : LFrame) : Option RReq :=
  s.reqs.find? fun q => (q.wire.any fun w => w.1 == f.tag && w.2.1 == f.gen) && q.dev == f.src

/-- The request an UNDELIVERED frame ends; any device on the way may send it. -/
def State.reqUndel (s : State) (f : LFrame) : Option RReq := s.reqs.find? fun q => q.wire.any fun w => w.1 == f.tag && w.2.1 == f.gen

/-- A response that matches no request is discarded and counted; it ends the reservation of its slot (R531, R532). -/
def State.stale (s : State) (f : LFrame) : State :=
  let s := s.bump A.BL_STALE_RSP
  { s with bl := { s.bl with reserved := s.bl.reserved.filter fun r => r.1 != f.tag } }

/-- The cluster of the thread a request serves, which must be On to take its reply (R684). -/
def reqDoms (q : RReq) : List Nat := if q.slot.isSome || decide (128 ≤ q.tile) then [] else [16 + q.tile / 8]

/-- The parts of a thread's access that wait for the reply to a request. -/
def Acc.answered (a : Acc) (q : RReq) : List Part := a.todo.flatten.filter fun p => p.tag == q.tag + 1

/-- The value and the mark a READ_RSP brings for a part (R523). -/
def Part.reply (p : Part) (pay : List Nat) (poison : Nat) : Nat × Nat × Bool :=
  let o := p.loc.key % 128
  (p.lane, field pay o p.n, (List.range 8).any fun u => bit poison u && decide (16 * u < o + p.n) && decide (o < 16 * u + 16))

/-- Perform the parts of a thread's access that a READ_RSP brings (R117, R133): values by lane, and the access ends with its last part. A thread held at its latest access goes on when no part of it is at a peer. -/
def Thread.readDone (t : Thread) (q : RReq) (pay : List Nat) (poison : Nat) : Thread :=
  match t.acc.find? fun a => a.id == q.acc with
  | none => t
  | some a =>
    let got := (a.answered q).map fun p => p.reply pay poison
    let todo := (a.todo.map fun g => g.filter fun p => p.tag != q.tag + 1).filter fun g => g != []
    let t := t.advance a todo (a.got ++ got)
    if t.st = .stalled ∧ t.hold = .link ∧ q.acc = t.accId ∧ !(todo.any fun g => g.any fun p => p.tag != 0) then t.passOn else t

/-- A READ_RSP fills the line in the reader's cluster (R91), unless the cluster holds it already or has written to it or invalidated it since the READ was sent (R117, R122). -/
def State.fillPeer (s : State) (q : RReq) (pay : List Nat) (poison : Nat) : State :=
  let v := s.viaTile q.tile
  let k := (q.dev + 1) * 2 ^ 43 + q.addr
  if q.stale ∨ (s.findLine v.cl v.tenant k).isSome then s
  else match s.makeRoom v.cl v.ways k with
  | (s, some w) => s.putLine v.cl ⟨k, w, zeroTo 128 pay, 0, poison % 256⟩
  | (s, none) => s

/-- READ_RSP (R531, R684). -/
def execReadRsp (idx : Nat) (s : State) : Out :=
  match s.served idx 8 (fun _ _ => false) with
  | none => .next s
  | some (_, f, _) =>
    match s.reqOf f with
    | none => .next ((s.taken idx).stale f)
    | some q =>
      if q.kind ≠ .read then .next ((s.taken idx).stale f)
      else .next (needOn (reqDoms q) s (
        let s := s.taken idx
        let st := f.op % 16
        if st ≠ 0 then s.reqError q st
        else match q.slot with
        | some (c, i) =>
          let o := q.data.getD 0 0
          let n := q.data.getD 1 0
          s.landSlot c i (field f.pay o n) 0 ((List.range 8).any fun u => bit f.poison u && decide (16 * u < o + n) && decide (o < 16 * u + 16))
        | none =>
          if q.tile = 129 then (s.dropReq q.tag).hostGot q.tag f.pay f.poison else
          let s := (s.dropReq q.tag).fillPeer q f.pay f.poison
          let t := s.thread q.tile q.thr
          if q.acc = 0 then (if t.st = .stalled ∧ t.hold = .link then s.setThread q.tile q.thr { t with st := .ready, hold := .none } else s)
          else
            let bad := (t.acc.find? fun a => a.id == q.acc).any fun a => (a.answered q).any fun p => (p.reply f.pay f.poison).2.2
            (s.countFail (s.viaTile q.tile) (.peer q.dev q.addr) bad).setThread q.tile q.thr (t.readDone q f.pay f.poison)))

/-- A store's part has been performed at its peer. -/
def Thread.writeDone (t : Thread) (q : RReq) : Thread :=
  { t with acc := t.acc.filterMap fun a =>
      if a.id = q.acc then
        let todo := (a.todo.map fun g => g.filter fun p => p.tag != q.tag + 1).filter fun g => g != []
        if todo = [] then none else some { a with todo := todo }
      else some a }

/-- WRITE_ACK (R531). -/
def execWriteAck (idx : Nat) (s : State) : Out :=
  match s.served idx 9 (fun _ _ => false) with
  | none => .next s
  | some (_, f, _) =>
    match s.reqOf f with
    | none => .next ((s.taken idx).stale f)
    | some q =>
      if q.kind ≠ .write then .next ((s.taken idx).stale f)
      else
        let s := s.taken idx
        let st := f.op % 16
        if st ≠ 0 then .next (s.reqError q st)
        else match q.slot with
        | some (c, i) => .next (s.landSlot c i 0 0 false)
        | none => .next ((s.dropReq q.tag).setThread q.tile q.thr ((s.thread q.tile q.thr).writeDone q))

/-- ATOMIC_RSP (R152, R531, R684). -/
def execAtomicRsp (idx : Nat) (s : State) : Out :=
  match s.served idx 10 (fun _ _ => false) with
  | none => .next s
  | some (_, f, _) =>
    match s.reqOf f with
    | none => .next ((s.taken idx).stale f)
    | some q =>
      if q.kind ≠ .atomic then .next ((s.taken idx).stale f)
      else .next (needOn (reqDoms q) s (
        let s := s.taken idx
        let st := f.op % 16
        if st ≠ 0 then s.reqError q st
        else match q.slot with
        | some (c, i) => s.landSlot c i (field f.pay 0 q.len) 0 (bit f.poison 0)
        | none =>
          let t := s.thread q.tile q.thr
          match t.acc.find? fun a => a.id == q.acc with
          | some ⟨id, .amo _ rd n, _, _, _, _, _, _, _, _, _⟩ =>
            ((s.dropReq q.tag).countFail (s.viaTile q.tile) (.peer q.dev q.addr) (bit f.poison 0)).setThread q.tile q.thr
              (Thread.passOn { t.setX (BitVec.ofNat 5 rd) (loadValue n true (field f.pay 0 n)) (bit f.poison 0) with acc := t.acc.filter fun a => a.id != id })
          | _ => s.dropReq q.tag))

/-- MSG_RSP (R109, R533): the sender's credit returns, or the message comes back as a bounce. -/
def execMsgRsp (idx : Nat) (s : State) : Out :=
  match s.served idx 11 (fun _ _ => false) with
  | none => .next s
  | some (_, f, _) =>
    match s.reqOf f with
    | none => .next ((s.taken idx).stale f)
    | some q =>
      if q.kind ≠ .message ∧ q.kind ≠ .carry then .next ((s.taken idx).stale f)
      else
        let s := (s.taken idx).dropReq q.tag
        let reason := bits f.op 6 4
        if reason ≠ 0 then .next (s.reqBounce q reason)
        else
          let h : Word := BitVec.ofNat 64 (field q.data 0 8)
          .next (s.creditBack ⟨q.tile, q.thr, true, BitVec.ofNat 64 q.addr, q.tenant, ⟨h, [], false, []⟩, false, false, none⟩ (bits h.toNat 23 14) (bits h.toNat 30 24))

/-- UNDELIVERED (R527): the request it returns ends with ACCESS, a message with a bounce UNREACHABLE (R110). -/
def execUndelivered (idx : Nat) (s : State) : Out :=
  match s.served idx 12 (fun _ _ => false) with
  | none => .next s
  | some (_, f, _) =>
    match s.reqUndel f with
    | none => .next ((s.taken idx).stale f)
    | some q => .next (needOn (if q.kind = .message ∨ q.kind = .carry then [] else reqDoms q) s ((s.taken idx).reqError q excAccess))

/-! ### The key exchange (R597, R598) -/

/-- The side that begins. -/
def State.kxFirst (s : State) (n : Nat) : Bool := decide (s.devId < s.partner n)

/-- The KEY frame of the inbox that a row takes: MSG, and the exchange of its port, whose next message it is; it joins the transcript. The Notary must be On. -/
def State.keyFrame (s : State) (idx msg : Nat) : Option (Nat × List Nat × Kx) :=
  match s.bl.inbox[idx]? with
  | some (n, f, _) =>
    match (s.blPort n).kx with
    | some kx => if f.ty = 15 ∧ f.pay.headD 0 = msg ∧ kx.stage = msg then some (n, f.pay, { kx with trans := kx.trans ++ f.pay }) else none
    | none => none
  | none => none

/-- Reject the partner, or a failed check (R598): the port goes DOWN with cause KEY. -/
def State.kxFail (s : State) (n : Nat) : State := s.portDown n 6

/-- Run a row over a KEY frame; the Notary wakes for it. A KEY frame that is not the one the exchange expects fails it. -/
def keyRow (msg idx : Nat) (s : State) (k : State → Nat → List Nat → Kx → State) : Out :=
  match s.bl.inbox[idx]? with
  | some (n, f, _) =>
    if f.ty ≠ 15 ∨ f.pay.headD 0 ≠ msg then .next s
    else .next (needOn [6] s (match s.keyFrame idx msg with
      | some (n, pay, kx) => k (s.taken idx) n pay kx
      | none => (s.taken idx).kxFail n))
  | none => .next s

/-- HELLO (R597): the partner's nonce, identifier and chain length. -/
def execHello (idx : Nat) (s : State) : Out :=
  keyRow 1 idx s fun s n pay kx =>
    let own := kx.trans
    let kx := { kx with stage := 2, theirs := slice pay 4 32, chainLen := field pay 38 4, trans := own }
    if field pay 36 2 ≠ kx.peer then s.kxFail n
    else
      match (if s.kxFirst n then s.sendCert n 0 kx else s.sendHello n kx) with
      | (s, kx) => s.setKx n kx

/-- Judge a whole chain (R598): the alias key of a partner of production life cycle whose SVN is not below this device's floor and whose confidential mode is this device's. -/
def State.judgeChain (s : State) (chain : List Nat) : Option (List Nat) :=
  match Config.chainInfo s.nt.fuse.cert chain with
  | some (key, life, svn, conf) => if life = 1 ∧ s.nt.fuse.svnN ≤ svn ∧ conf = s.confMode then some key else none
  | none => none

/-- Both chains have passed over. -/
def State.chainsDone (s : State) (off : Nat) (kx : Kx) : Bool := decide (kx.chainLen ≤ kx.chain.length) && decide (s.chain.length ≤ off + 124)

/-- CERT (R597, R598): a piece of the partner's chain; each side sends as many pieces as the longer chain needs, and a whole chain is judged. -/
def execCert (idx : Nat) (s : State) : Out :=
  keyRow 2 idx s fun s n pay kx =>
    let off := field pay 2 2
    let kx := { kx with chain := kx.chain ++ (slice pay 4 124).take (kx.chainLen - kx.chain.length) }
    if kx.chainLen ≤ kx.chain.length ∧ (s.judgeChain (kx.chain.take kx.chainLen)).isNone then s.kxFail n
    else if s.kxFirst n then
      if s.chainsDone off kx then
        match s.sendShare n { kx with stage := 3 } with
        | (s, kx) => s.setKx n kx
      else
        match s.sendCert n (off + 124) kx with
        | (s, kx) => s.setKx n kx
    else
      match s.sendCert n off { kx with stage := if s.chainsDone off kx then 3 else 2 } with
      | (s, kx) => s.setKx n kx

/-- The master secret (R597): the nonces in order of identifier, and the shared secret. -/
def State.kxMaster (s : State) (n : Nat) (kx : Kx) : Option (List Nat) :=
  (ecdh (shareSecret kx) kx.point).map fun z => hkdfExtract (if s.kxFirst n then kx.nonce ++ kx.theirs else kx.theirs ++ kx.nonce) z

/-- SHARE (R597): the partner's ephemeral point. -/
def execShare (idx : Nat) (s : State) : Out :=
  keyRow 3 idx s fun s n pay kx =>
    let kx := { kx with point := slice pay 4 96, stage := 4 }
    match s.kxMaster n kx with
    | none => s.kxFail n
    | some m =>
      let kx := { kx with master := m }
      match (if s.kxFirst n then s.sendSign n kx else s.sendShare n kx) with
      | (s, kx) => s.setKx n kx

/-- SIGN (R597): the partner's signature over the transcript before it. -/
def execSign (idx : Nat) (s : State) : Out :=
  keyRow 4 idx s fun s n pay kx =>
    let before := kx.trans.take (kx.trans.length - pay.length)
    match s.judgeChain (kx.chain.take kx.chainLen) with
    | none => s.kxFail n
    | some key =>
      if !ecdsaOk key (sha384 before) (slice pay 4 96) then s.kxFail n
      else
        match (if s.kxFirst n then s.sendDone n { kx with stage := 5 } else s.sendSign n { kx with stage := 5 }) with
        | (s, kx) => s.setKx n kx

/-- DONE (R597): the HMAC of the transcript under the master secret; the keys are derived and installed. -/
def execDone (idx : Nat) (s : State) : Out :=
  keyRow 5 idx s fun s n pay kx =>
    let before := kx.trans.take (kx.trans.length - pay.length)
    if slice pay 4 48 ≠ hmac kx.master before then s.kxFail n
    else if s.kxFirst n then s.installKeys n kx.master
    else
      match s.sendDone n kx with
      | (s, kx) => s.installKeys n kx.master

/-! ### LINK frames, bring-up and port events (R542 to R545) -/

/-- Initial credits of a port from its partner's LINK frame (R524, R604). -/
def State.firstCredits (s : State) (n : Nat) (vals : List Nat) : State :=
  let p := s.blPort n
  let cr := (List.range 4).foldl (fun c b =>
    (if s.confMode then s.tenants else [15]).foldl (fun c t => Tab.set c 0 (b * 16 + t) (vals.getD b 0)) c) p.credit
  s.setPort n { p with credit := Tab.set cr 0 (4 * 16 + 15) (vals.getD 4 0) }

/-- Credits returned in confidential mode, by tenant and buffer (R604). -/
def State.moreCredits (s : State) (n : Nat) (vals : List Nat) : State :=
  let p := s.blPort n
  let keys := s.tenants.flatMap fun t => (List.range 4).map fun b => b * 16 + t
  s.setPort n { p with credit := (keys.zip vals).foldl (fun c e => Tab.set c 0 e.1 (Tab.get c 0 e.1 + e.2)) p.credit }

/-- LINK (R524, R542, R543): the partner's identifier and initial credits, credits, or a retention request and its answer. An identifier other than the expected one takes the port DOWN. -/
def execLink (idx : Nat) (s : State) : Out :=
  match s.bl.inbox[idx]? with
  | none => .next s
  | some (n, f, _) =>
    if f.ty ≠ 14 then .next s
    else
      let s := s.taken idx
      let vals := (List.range ((f.pay.length - 2) / 2)).map fun i => field f.pay (2 + 2 * i) 2
      let p := s.blPort n
      match f.pay.headD 0 with
      | 0 =>
        let id := vals.headD 0 % 2 ^ 14
        if s.flag (A.BL_CFG n) F.BL_CFG_EXPECT_EN ∧ id ≠ s.fget (A.BL_CFG n) F.BL_CFG_EXPECT_ID then .next (s.portDown n 3)
        else
          let s := (s.fset (A.BL_STATUS n) F.BL_STATUS_PARTNER_ID id).fset (A.BL_STATUS n) F.BL_STATUS_PARTNER_VALID 1
          .next ((s.firstCredits n (vals.drop 1)).identify n)
      | 1 => .next (s.moreCredits n vals)
      | 2 =>
        let quiet := p.q.isEmpty && p.replay.isEmpty && p.cur.isEmpty
        let s := s.enqueue n ⟨8, linkFrame s (if quiet then 3 else 4) [], s.now, none⟩
        .next (if quiet then s.setDom (9 + n) { s.dom (9 + n) with entering := some .ret } else s)
      | 3 => .next (s.setPort n { p with retAsk := false })
      | 4 =>
        let s := s.setPort n { p with retAsk := false }
        .next (if (s.dom (9 + n)).entering = some .ret then ((s.setDom (9 + n) { s.dom (9 + n) with entering := none }).noteRefusal (9 + n) (1, 9 + n + 0xFF00)).unforce (9 + n) else s)
      | _ => .next s

/-- BL_BRINGUP_DONE (R542 step 7): the partner is known and, on a sealed port, the keys are installed. -/
def execBlBringupDone (port : Nat) (s : State) : Out :=
  if 4 ≤ port ∨ !s.isOn (9 + port) ∨ s.blState port ≠ 1 ∨ !s.flag (A.BL_STATUS port) F.BL_STATUS_PARTNER_VALID ∨ (s.blSealed port ∧ (s.blPort port).txKey.isNone) then .next s
  else
    let s := (s.fset (A.BL_STATUS port) F.BL_STATUS_STATE 2).fset (A.BL_STATUS port) F.BL_STATUS_DOWN_CAUSE 0
    let s := s.fset (A.BL_STATUS port) F.BL_STATUS_SEALED (b2n (s.blSealed port))
    .next ((List.range 8).foldl (fun s l => s.fset (A.BL_LANE_STATUS port l) F.BL_LANE_STATUS_LOCK 1) s)

/-- Does a port run? -/
def State.blRuns (s : State) (n : Nat) : Bool := decide (n < 4) && s.isOn (9 + n) && (s.blState n == 2 || s.blState n == 3 || s.blState n == 4)

/-- BL_LANE_FAULT (R544): a lane loses lock or corrects too much: a retrain onto the half without it, or DOWN; during a retrain it is judged when that ends. -/
def execBlLaneFault (port lane : Nat) (s : State) : Out :=
  if !s.blRuns port || decide (8 ≤ lane) then .next s
  else
    let s := (s.bump (A.BL_LANE_FAULT port)).fsr 0x0C { domain := 9 + port, unit := port, cause := 0x10 }
    let s := (s.fset (A.BL_LANE_STATUS port lane) F.BL_LANE_STATUS_FAULT 1).fset (A.BL_LANE_STATUS port lane) F.BL_LANE_STATUS_LOCK 0
    if s.blState port = 4 then .next s
    else if s.blState port = 3 ∨ !s.flag (A.BL_CFG port) F.BL_CFG_DEGRADE_EN then .next (s.portDown port 1)
    else .next ((s.fset (A.BL_STATUS port) F.BL_STATUS_STATE 4).bump (A.BL_RETRAIN port))

/-- BL_REPLAY_LIMIT (R544): a block resent 8 times, or 64 replays within 1 ms, start a retrain at the same width. -/
def execBlReplayLimit (port : Nat) (s : State) : Out :=
  let p := s.blPort port
  if s.blRuns port && s.blState port != 4 && ((p.replay.any fun b => decide (8 ≤ b.sent)) || decide (64 ≤ (s.recent p.replays).length)) then
    .next (((s.setPort port { p with replays := [], replay := p.replay.map fun b => { b with sent := 0 } }).fset (A.BL_STATUS port) F.BL_STATUS_STATE 4).bump (A.BL_RETRAIN port))
  else .next s

/-- BL_LOCK_LOST (R544): bring-up is repeated; frames fare as in R545. -/
def execBlLockLost (port : Nat) (s : State) : Out :=
  if !s.blRuns port then .next s
  else
    let s := s.portFrames port
    let p := s.blPort port
    let s := s.setPort port { p with txKey := none, rxKey := none, txNew := none, rxNew := none }
    let s := (List.range 8).foldl (fun s l => s.fset (A.BL_LANE_STATUS port l) F.BL_LANE_STATUS_LOCK 0) s
    .next ((s.fset (A.BL_STATUS port) F.BL_STATUS_STATE 1).fset (A.BL_STATUS port) F.BL_STATUS_PARTNER_VALID 0)

/-- Has a half of the lanes a fault? -/
def State.halfBad (s : State) (n h : Nat) : Bool := (List.range 4).any fun l => s.flag (A.BL_LANE_STATUS n (4 * h + l)) F.BL_LANE_STATUS_FAULT

/-- BL_RETRAIN_END (R544): the port is UP, or DEGRADED on the half without a faulty lane; with a fault in both halves, or DEGRADE_EN 0, it is DOWN. -/
def execBlRetrainEnd (port : Nat) (s : State) : Out :=
  if 4 ≤ port ∨ s.blState port ≠ 4 then .next s
  else
    let a := s.halfBad port 0
    let b := s.halfBad port 1
    if !a ∧ !b then .next (s.fset (A.BL_STATUS port) F.BL_STATUS_STATE 2)
    else if (a ∧ b) ∨ !s.flag (A.BL_CFG port) F.BL_CFG_DEGRADE_EN then .next (s.portDown port 1)
    else .next ((s.fset (A.BL_STATUS port) F.BL_STATUS_STATE 3).fset (A.BL_STATUS port) F.BL_STATUS_HALF (b2n a))

/-- A link-port reset (R544, R637): DOWN with cause RESET, then bring-up from the beginning. -/
def State.portReset (s : State) (n : Nat) : State :=
  let s := s.portDown n 5
  let s := s.setPort n { BlPort.reset with out := (s.blPort n).out }
  let s := (List.range 8).foldl (fun s l => (s.fset (A.BL_LANE_STATUS n l) F.BL_LANE_STATUS_FAULT 0).fset (A.BL_LANE_STATUS n l) F.BL_LANE_STATUS_LOCK 0) s
  s.fset (A.BL_STATUS n) F.BL_STATUS_STATE 1

/-- BL_PORT_RESET (R544, R549): a write of BL_CTRL.RESET by LK_ADMIN's tenant. -/
def execBlPortReset (who : Who) (port : Nat) (s : State) : Out :=
  if port < 4 ∧ s.lkAdmin who then .next (needOn [9 + port] s (s.portReset port)) else .next s

/-- BL_FRAME_AGE_DISCARD (R532): a frame that a port has held for more than BL_TIMEOUT ÷ 16 is discarded and counted; `rx`: in the receive buffers. -/
def execBlFrameAgeDiscard (rx : Bool) (port idx : Nat) (s : State) : Out :=
  if rx then
    match s.bl.inbox[idx]? with
    | some (n, _, t) => if s.now ≤ t + s.blTimeout / 16 then .next s else .next ((s.taken idx).bump (A.BL_UNDELIVERED n))
    | none => .next s
  else
    let p := s.blPort port
    match p.q[idx]? with
    | some x => if 4 ≤ port ∨ s.now ≤ x.since + s.blTimeout / 16 then .next s else .next ((s.setPort port { p with q := listDel p.q idx }).bump (A.BL_UNDELIVERED port))
    | none => .next s

/-- A write of BL_DB_SEND by a tenant (R534): a DOORBELL along the writing thread's path; one to this device is taken here. -/
def State.dbSend (s : State) (n tile thr dev ring : Nat) : State :=
  let s := s.bump (A.BL_DB_SENT n)
  if dev = s.devId then (s.doorbell n ring).1
  else s.frameOut 8 ⟨6, 0, dev, s.devId, n, 255, (tile * 16 + thr) % 2048 * 32, ring, 0, 0, 0, []⟩

/-- BL_DB_SEND (R534, R548). -/
def execBlDbSend (who : Who) (n tile thr dev ring : Nat) (s : State) : Out :=
  if n < 8 ∧ who = .tenant n then .next (s.dbSend n tile thr (dev % 2 ^ 14) (ring % 65536)) else .next s

end Sys2Proof.Machine
end

