-- ==== Sys2Proof/Machine/Time.lean ====
section
/-!
DEFINITION. The Time unit: the counter, its steps and rate, compare channels, pulse pins and tick inputs (R501 to R513), and the counters that advance with time (R90, R482, R497, R499).
-/
namespace Sys2Proof.Machine

/-! ### The counter (R501 to R505) -/

/-- NOM of R502 in units of 2^−40 of a counter unit. -/
def tuNom : Int := 10416 * 2 ^ 40 + 733007751851

/-- The increment of one D0 cycle at a rate (R502). -/
def tuInc (rate : Int) : Int := tuNom + (tuNom * rate) / 2 ^ 40

/-- TU_RATE.RATE. -/
def State.tuRate (s : State) : Int := sgn 32 (s.rd A.TU_RATE).toNat

/-- An accepted step takes effect (R504): the fraction stays. -/
def State.tuStep (s : State) (off : Nat) : State :=
  let s := s.bump A.TU_STEPS
  let s := s.wr A.TU_LAST_STEP (BitVec.ofNat 64 off)
  { s with tu := { s.tu with acc := (s.tu.acc + off % 2 ^ 64 * 2 ^ 40) % 2 ^ 104 } }

/-! ### What time passing adds to counters -/

/-- Tenths of a gigahertz of a level's tile clock (R482). -/
def levelTenths (l : Nat) : Nat := if l = 0 then 5 else if l = 1 then 8 else if l = 2 then 10 else 12

/-- A charge of a partition for what holds an access: the tier and the cause. -/
def Hold.chargeTo (h : Hold) (part : Nat) : Option (Nat × Nat × Nat) := h.charge.map fun x => (part, x)

/-- The charges of stalled accesses (R88, R90): partition, tier and cause of each thread, posted store and engine command that waits for a domain or a page, of each part that waits for its turn at a vault or a channel, and of each remote request. A requester of no partition is charged to none, and T0 to T1. -/
def State.stallCharges (s : State) (ws : List Waiting) : List (Nat × Nat × Nat) :=
  let held := s.threads.filterMap fun p => if p.2.st = .stalled then p.2.hold.chargeTo (s.partNo (p.1 / 16)) else none
  let posted := s.threads.flatMap fun p => (p.2.acc.filter fun a => a.wake != []).map fun a => (s.partNo (p.1 / 16), a.tier, 0)
  let queued := s.eng.q.filterMap fun q => q.hold.chargeTo q.cmd.part
  let matrix := s.tiles.filterMap fun t => t.2.mxHold.chargeTo (s.partNo t.1)
  let turns := (ws.filter fun w => !s.serves ws w).map fun w => (s.partNo w.tile, tierOf w.addr, 3)
  let links := (s.reqs.filter fun (q : RReq) => decide (q.tile < 128)).map fun (q : RReq) => (s.partNo q.tile, 3, 4)
  (((held ++ posted ++ queued ++ matrix ++ turns ++ links).filter fun x => decide (x.1 < 16)).map fun x => (x.1, max 1 x.2.1, x.2.2)).eraseDups

/-- The classes with a request waiting at a vault (R97), by vault × 8 + class. -/
def waitingClasses (ws : List Waiting) : List Nat :=
  ((ws.filter fun w => area w.addr 1 != .t2).map fun w => vaultOf w.addr * 8 + vaultClass w.tile (vaultOf w.addr)).eraseDups

/-- Holds that translation misses and background activity still cause run on for `ns`, and are charged (R88, R90). -/
def State.drainDue (s : State) (ns : Nat) : State :=
  let s := s.arb.due.foldl (fun s kd => s.fadd (A.VC_STALL (kd.1 / 32) (kd.1 / 8 % 4 - 1) (kd.1 % 8)) (63, 0) (min kd.2 ns)) s
  { s with arb := { s.arb with due := s.arb.due.foldl (fun m kd => Tab.set m 0 kd.1 (kd.2 - ns)) [] } }

/-- VC_V_WAIT of the classes with a request waiting (R97). -/
def State.waitTime (s : State) (ws : List Waiting) (ns : Nat) : State :=
  { s with arb := { s.arb with wait := (waitingClasses ws).foldl (fun m k => Tab.set m 0 k (satAdd 64 (Tab.get m 0 k) ns)) s.arb.wait } }

/-- Counters that run with elapsed time: tile clocks of On clusters (R137, R482), governor and thermal time (R497), capped time (R499), stall time (R90) and credit waits (R549). -/
def State.elapse (s : State) (dt : Nat) : State :=
  let t0 := s.now
  let t1 := t0 + dt
  let ns := t1 / 256 - t0 / 256
  let us := t1 / 256000 - t0 / 256000
  let s := s.onClusters.foldl (fun s c => { s with ticks := Tab.set s.ticks 0 c (Tab.get s.ticks 0 c + dt * levelTenths (s.clkLevel c)) }) s
  let s := if s.flag A.LK_STATUS F.LK_STATUS_GOV_ACTIVE then s.fadd A.LK_GOV_NS (63, 0) ns else s
  let s := if s.flag A.LK_STATUS F.LK_STATUS_THERM_ACTIVE then s.fadd A.LK_THERM_NS (63, 0) ns else s
  let s := (List.range 16).foldl (fun s c =>
    let f := s.fget (A.LK_C_LEVEL c)
    let e := f F.LK_C_LEVEL_EFFECTIVE
    if e < f F.LK_C_LEVEL_REQ ∧ e < f F.LK_C_LEVEL_MAX then s.fadd (A.LK_C_CAPPED_US c) (31, 0) us else s) s
  let ws := s.waitings
  let s := (s.stallCharges ws).foldl (fun s x => s.fadd (A.VC_STALL x.1 (x.2.1 - 1) x.2.2) (63, 0) ns) s
  let s := (s.waitTime ws ns).drainDue ns
  let s := (List.range 4).foldl (fun s n => if s.creditWaits n then s.fadd (A.BL_CREDIT_WAIT_NS n) (63, 0) ns else s) s
  ({ s with now := t1 } : State)

/-- The registers that confidential mode shows tenants only as they stood at the last 1 ms boundary of the time counter (R605). -/
def shownRegs : List Nat :=
  [A.LK_STATUS, A.LK_GOV_NS, A.LK_THERM_NS] ++ (List.range 16).flatMap fun c => [A.LK_C_TEMP c, A.LK_C_CAPPED_US c]

/-- The time counter has moved from `t`: past a 1 ms boundary the registers of R605 are shown anew. -/
def State.crossMs (s : State) (t : Nat) : State :=
  if t / 256000000 = s.time / 256000000 then s
  else { s with pw := { s.pw with shown := shownRegs.foldl (fun m a => Tab.set m 0 a (s.rd a)) [] } }

/-- TIME_ADVANCE (R502, R504, R505): some cycles of the D0 oscillator pass. Pending steps are applied in the first, then every cycle adds the increment of the rate in force. -/
def execTimeAdvance (cycles : Nat) (s : State) : Out :=
  if cycles = 0 then .next s
  else
    let t := s.time
    let s := s.tu.steps.foldl (fun s o => s.tuStep o) s
    let x := cycles * 31250 + s.tu.frac
    let acc := (((s.tu.acc : Int) + cycles * tuInc s.tuRate) % 2 ^ 104).toNat
    let s : State := { s with tu := { s.tu with acc := acc, steps := [], frac := x % 3 } }
    .next ((s.elapse (x / 3)).crossMs t)

/-- A write of TU_STEP (R504): accepted while armed, which it ends; else refused and counted. -/
def State.tuStepWrite (s : State) (off : Nat) : State :=
  if s.flag A.TU_CTRL F.TU_CTRL_STEP_ARMED then
    { s.fset A.TU_CTRL F.TU_CTRL_STEP_ARMED 0 with tu := { s.tu with steps := s.tu.steps ++ [off % 2 ^ 64] } }
  else s.bump A.TU_STEP_REFUSED

/-- TU_STEP_WRITE (R504, R513). -/
def execTuStepWrite (who : Who) (offset : Nat) (s : State) : Out :=
  if s.lkAdmin who then .next (s.tuStepWrite offset) else .next s

/-- ARM (R504): STEP_ARMED is set, and the Fault ledger records a time re-arm. -/
def State.tuArm (s : State) : State :=
  let s := s.fset A.TU_CTRL F.TU_CTRL_STEP_ARMED 1
  ({ s with nt := { s.nt with rearmed := true } }).fsr 0x12 { domain := 0 }

/-- ARM (R504, R513). -/
def execArm (who : Who) (s : State) : Out := if s.lkAdmin who then .next s.tuArm else .next s

/-! ### Compare channels (R507 to R510) -/

/-- A field of a channel's control register. -/
def State.tc (s : State) (n : Nat) (f : Nat × Nat) : Nat := s.fget (A.TU_TC_CTRL n) f

/-- The pin of a firing channel (R510): a pulse of WIDTH ns, extended when it falls within the one before; WIDTH 0 toggles. -/
def State.tcPin (s : State) (n : Nat) : State :=
  if s.tc n F.TU_TC_CTRL_PIN_EN = 1 then
    let p := s.tc n F.TU_TC_CTRL_PIN
    let w := s.tc n F.TU_TC_CTRL_WIDTH
    if w = 0 then { s with tu := { s.tu with toggled := NSet.put s.tu.toggled n (!s.tu.toggled.has n) } }
    else { s with tu := { s.tu with pulse := Tab.set s.tu.pulse none n (some (p, s.now + 256 * w)) } }
  else s

/-- A tick of a class is made (R354). -/
def State.makeTick (s : State) (k t : Nat) : State := { s with hg := { s.hg with ticks := s.hg.ticks ++ [(k, t)] } }

/-- The next compare time of a periodic channel and the periods skipped (R507). -/
def nextFire (now t per : Word) : Word × Nat :=
  let m := (now - t).toNat / per.toNat + 1
  (t + BitVec.ofNat 64 (m * per.toNat), m - 1)

/-- A compare channel fires (R507). -/
def State.tcFire (s : State) (n : Nat) : State :=
  let t := s.rd (A.TU_TC_TIME n)
  let now := BitVec.ofNat 64 s.time
  let s := s.fset (A.TU_TC_CTRL n) F.TU_TC_CTRL_FIRED 1
  let s := s.tcPin n
  let s := if s.flag (A.TU_TC_BIND n) F.TU_TC_BIND_BOUND then s.makeTick (s.fget (A.TU_TC_BIND n) F.TU_TC_BIND_CLASS) t.toNat else s
  let s :=
    if s.tc n F.TU_TC_CTRL_MODE = 0 then s.fset (A.TU_TC_CTRL n) F.TU_TC_CTRL_EN 0
    else if s.rd (A.TU_TC_PERIOD n) = 0 then s
    else
      let (t', miss) := nextFire now t (s.rd (A.TU_TC_PERIOD n))
      (s.wr (A.TU_TC_TIME n) t').fadd (A.TU_TC_BIND n) F.TU_TC_BIND_MISSED miss
  s.srcAssert (28 + n) false

/-- TC_FIRE (R507): the counter is at or after the time of an enabled channel. -/
def execTcFire (n : Nat) (s : State) : Out :=
  if n < 8 ∧ s.tc n F.TU_TC_CTRL_EN = 1 ∧ timeReached (BitVec.ofNat 64 s.time) (s.rd (A.TU_TC_TIME n)) then .next (s.tcFire n) else .next s

/-- EN of a compare channel is set (R508): a periodic channel with too short a period refuses it. -/
def State.tcEnable (s : State) (n : Nat) : State :=
  if s.tc n F.TU_TC_CTRL_MODE = 1 ∧ (s.rd (A.TU_TC_PERIOD n)).toNat < 2560000 then s.fset (A.TU_TC_CTRL n) F.TU_TC_CTRL_CFG_ERR 1
  else s.fset (A.TU_TC_CTRL n) F.TU_TC_CTRL_EN 1

/-- May the requester write a compare channel (R513)? -/
def State.tcOwner (s : State) (who : Who) (n : Nat) : Bool :=
  if s.flag (A.TU_TC_BIND n) F.TU_TC_BIND_OWNER_VALID then
    who == .tenant (s.fget (A.TU_TC_BIND n) F.TU_TC_BIND_OWNER)
  else s.lkAdmin who

/-- TC_ENABLE (R508, R513). -/
def execTcEnable (who : Who) (n : Nat) (s : State) : Out :=
  if n < 8 ∧ s.tcOwner who n then .next (s.tcEnable n) else .next s

/-- TP_PULSE_END (R510): the pulse of a channel has lasted its WIDTH, and its pin returns. -/
def execTpPulseEnd (n : Nat) (s : State) : Out :=
  match Tab.get s.tu.pulse none n with
  | some (_, e) => if s.now < e then .next s else .next { s with tu := { s.tu with pulse := Tab.set s.tu.pulse none n none } }
  | none => .next s

/-- The level driven on a time-pulse pin (R510, R670): by the polarity of the lowest-numbered channel enabled onto it, active while the pulse of any is. -/
def State.tpLevel (s : State) (p : Nat) : Bool :=
  let on := (List.range 8).filter fun n => s.tc n F.TU_TC_CTRL_PIN_EN == 1 && s.tc n F.TU_TC_CTRL_PIN == p
  match on with
  | [] => false
  | n :: _ =>
    let active := on.any fun m => s.tu.toggled.has m || ((Tab.get s.tu.pulse none m).any fun x => x.1 == p)
    active != (s.tc n F.TU_TC_CTRL_POL == 1)

/-! ### Tick inputs (R511) -/

/-- TI_EDGE (R511): an edge that has lasted some D0 cycles. It is accepted when its input is enabled, its polarity is EDGE and it outlasts the filter; within 1 µs of the one before it only counts in REJECT. -/
def execTiEdge (i : Nat) (falling : Bool) (lasted : Nat) (s : State) : Out :=
  let a := A.TU_TI_CFG i
  let f := s.fget a F.TU_TI_CFG_FILTER
  if 2 ≤ i ∨ !s.flag a F.TU_TI_CFG_EN ∨ s.flag a F.TU_TI_CFG_EDGE ≠ falling ∨ lasted < f then .next s
  else if (Tab.get s.tu.edge none i).any (fun t => decide (s.now < t + 256000)) then .next (s.bump (A.TU_TI_REJECT i))
  else
    let stamp := (s.time + 2 ^ 64 - f * 31250 / 3) % 2 ^ 64
    let s := if s.tu.unread.has i then s.fset a F.TU_TI_CFG_OVERRUN 1 else s
    let s := s.wr (A.TU_TI_STAMP i) (BitVec.ofNat 64 stamp)
    let s := s.bump (A.TU_TI_COUNT i)
    let s : State := { s with tu := { s.tu with unread := NSet.add i s.tu.unread, edge := Tab.set s.tu.edge none i (some s.now) } }
    let s := (s.tickEs.filter fun e => e.source == i + 1).foldl (fun s e => s.makeTick e.id stamp) s
    .next (s.srcAssert (26 + i) false)

/-- A read of TU_TI_STAMP marks the stamp read (R511). -/
def State.tiRead (s : State) (i : Nat) : State := { s with tu := { s.tu with unread := NSet.rem i s.tu.unread } }

/-- TI_STAMP_READ (R511): any requester may read the block. -/
def execTiStampRead (who : Who) (i : Nat) (s : State) : Out := let _ := who; .next (s.tiRead i)

end Sys2Proof.Machine
end

