-- ==== Sys2Proof/Machine/Faults.lean ====
section
/-!
DEFINITION. The Fault ledger's classification of tile and engine faults, retirement, scrubbing and correction records, its rings, the Tally units and Assay snapshots (R209 to R211, R608 to R618, R622 to R636).
-/
namespace Sys2Proof.Machine

/-! ### Classification (R614 to R616) -/

/-- Partitions with a fault under classification take no job (R615); CLASSIFYING shows whether there is one. -/
def State.reclass (s : State) : State :=
  let ps := s.fl.cls.map (·.part)
  let ts := (List.range 128).filter fun t => (s.tilePart t).any fun e => ps.contains e.id
  ({ s with hg := { s.hg with unsure := ts } }).fset A.FL_STATUS F.FL_STATUS_CLASSIFYING (b2n (s.fl.cls != []))

/-- A fault joins the ones under classification; it waits when its partition has one already (R615). -/
def State.classify (s : State) (e : ClsE) : State :=
  let e := { e with running := !(s.fl.cls.any fun x => x.part == e.part) }
  ({ s with fl := { s.fl with cls := s.fl.cls ++ [e] } }).reclass

/-- What a record says of the unit of a fault: a tile, or a cluster's engine. -/
def ClsE.domain (e : ClsE) : Nat := if e.eng = 0 then 16 + e.unit / 8 else 16 + e.unit

/-- Write a record of a fault under classification. -/
def State.clsRecord (s : State) (k cls cause : Nat) (e : ClsE) : State :=
  s.fsr k { domain := e.domain, tenant := (s.partE e.part).map (·.tenant), unit := e.unit, part := e.part, cls := cls, ctx := e.ctx,
            ring := e.ring, seq := e.seq, cause := cause, synd := e.synd }

/-- A tile fault (R615 step 1): the job on the tile ends, to be retried when its packet allows it, and the fault is classified. CAUSE 1 residue, 2 parity. -/
def State.tileFault (s : State) (t cause synd : Nat) : State :=
  match s.tilePart t with
  | none => s
  | some p =>
    if s.fl.cls.any fun e => e.eng == 0 && e.unit == t then s
    else
      let e : ClsE := match (s.tile t).job with
        | some c => ⟨0, t, p.id, false, synd, c, (s.ctx c).ring, (s.ctx c).seq⟩
        | none => ⟨0, t, p.id, false, synd, 0xFFFF, 0xFFFF, 0⟩
      let s := (s.bump A.FL_TILE_FAULTS).clsRecord 0x04 0 cause e
      let s := if e.ctx = 0xFFFF then s else s.killJob e.ctx 5 0x30
      s.classify e

/-- TILE_FAULT (R614, R615): a check fires on a tile; `cause` is 1 for a residue and 2 for parity. -/
def execTileFault (tile cause synd : Nat) (s : State) : Out := .next (s.tileFault tile cause synd)

/-- An engine fault (R614, R633): the command that runs on the engine ends with FAULT, which its counter counts, and it commits nothing (R204, R292); its job ends with its own status. -/
def State.engineFault (s : State) (eng c synd : Nat) : State :=
  match s.running eng c with
  | none => s
  | some r =>
    if s.fl.cls.any fun e => e.eng == eng && e.unit == c then s
    else
      let e : ClsE := ⟨eng, c, r.cmd.part, false, synd, r.cmd.ctx, (s.ctx r.cmd.ctx).ring, (s.ctx r.cmd.ctx).seq⟩
      let d := (Config.freeValue s.free).toNat % 4096
      let add := if r.status = stFault then [] else [(engFaultReg eng c r.cmd.tenant, 1)]
      let s : State := { s with
        free := s.free + 1
        runs := s.runs.map fun (x : Run) => if x.cmd.same r.cmd then { x with status := stFault, detail := d, scale := [], commit := none, bumps := x.bumps ++ add } else x }
      ((s.bump A.FL_TILE_FAULTS).clsRecord 0x04 0 3 e).classify e

/-- ENGINE_FAULT (R614): a check fires on a cluster's Attention (1), Scan (2) or Convolution (3) engine. -/
def execEngineFault (eng cluster synd : Nat) (s : State) : Out :=
  if 1 ≤ eng ∧ eng ≤ 3 then .next (s.engineFault eng cluster synd) else .next s

/-- The reference unit of a fault (R615, R616): another tile of the partition, first of the same cluster; or the engine of the same kind in the lowest other cluster of the partition. -/
def State.reference (s : State) (e : ClsE) : Option Nat :=
  let ts := (List.range 128).filter fun t => (s.tilePart t).any fun p => p.id == e.part
  if e.eng = 0 then
    let ok := ts.filter fun t => t != e.unit && !(s.fl.cls.any fun x => x.eng == 0 && x.unit == t)
    ((ok.filter fun t => t / 8 == e.unit / 8) ++ ok.filter fun t => t / 8 != e.unit / 8).head?
  else
    ((ts.map fun t => t / 8).eraseDups.filter fun c => c != e.unit && !s.fl.fenced.has (engKey e.eng c) && !(s.fl.cls.any fun x => x.eng == e.eng && x.unit == c)).head?

/-- The accumulators of a tile are left unspecified by a repeat (R615). -/
def State.spoilAcc (s : State) (t : Nat) : State :=
  let s := s.setTile t { s.tile t with acc := (List.range 4096).foldl (fun m i => Tab.set m 0 i ((Config.freeValue (s.free + i)).setWidth 32)) [], accp := [] }
  { s with free := s.free + 4096 }

/-- 24 hours of elapsed time. -/
def dayTicks : Nat := 86400000000000 * 256

/-- Has a unit TRANSIENT_LIMIT transient verdicts in the last 24 h (R615)? -/
def State.transientLimit (s : State) (e : ClsE) : Bool :=
  let n := s.fget A.FL_CFG F.FL_CFG_TRANSIENT_LIMIT
  n != 0 && decide (n ≤ ((Tab.get s.fl.trans [] (e.eng * 256 + e.unit)).filter fun t => decide (s.now < t + dayTicks)).length)

/-- The verdict (R616): 1 TRANSIENT, 2 PERMANENT, 3 UNRESOLVED. `again`: the check fires again in the unit's repeat; `equal`: its CRC equals the reference's; `disagree`: the reference disagrees with a second reference run. Without a reference candidate the two repeats on the unit are compared. -/
def verdict (cand again equal disagree : Bool) : Nat :=
  if !again && equal then 1 else if cand && !again && disagree then 3 else 2

/-- Give a verdict: its record and count, the unit back to service, retired or fenced, and the next fault of the partition. -/
def State.giveVerdict (s : State) (e : ClsE) (v : Nat) : State :=
  let s := s.clsRecord 0x05 v 0 e
  let s := s.bump (if v = 1 then A.FL_TRANSIENT else if v = 2 then A.FL_PERMANENT else A.FL_UNRESOLVED)
  let rest := s.fl.cls.filter fun x => x != e
  let rest := match rest.find? fun x => x.part == e.part with
    | some y => rest.map fun x => if x = y then { x with running := true } else x
    | none => rest
  let s : State := { s with fl := { s.fl with cls := rest } }
  let s : State :=
    if v = 1 then
      let k := e.eng * 256 + e.unit
      { s with fl := { s.fl with trans := Tab.set s.fl.trans [] k (s.now :: (Tab.get s.fl.trans [] k).filter fun t => decide (s.now < t + dayTicks)) } }
    else if v = 2 ∧ e.eng = 0 then
      if s.plat.shadow.isSome then { s with fl := { s.fl with retiring := s.fl.retiring ++ [e] } } else s.retireTile e.unit 1 e
    else if v = 2 then
      let s := s.clsRecord 0x07 2 e.eng e
      { s with fl := { s.fl with fenced := NSet.add (engKey e.eng e.unit) s.fl.fenced } }
    else s
  s.reclass.admitNext e.part

/-- FAULT_REPEAT_DONE (R615, R616): the repeats of the fault that a partition classifies have ended. `ref`: the reference's own check fired, which is a fault of the reference; the next candidate is run then. -/
def execFaultRepeatDone (part : Nat) (again equal ref disagree : Bool) (synd : Nat) (s : State) : Out :=
  match s.fl.cls.find? fun e => e.part == part && e.running with
  | none => .next s
  | some e =>
    let c := s.ctx e.ctx
    if e.eng = 0 ∧ e.ctx ≠ 0xFFFF ∧ (c.st = 1 ∨ c.st = 2) ∧ c.kill = some (5, 0x30) ∧ c.seq = e.seq then .next s
    else
      let r := s.reference e
      let s := if e.eng = 0 then (match r with
        | some t => s.spoilAcc t
        | none => s).spoilAcc e.unit else s
      match r with
      | some t =>
        if ref then
          let f : ClsE := ⟨e.eng, t, part, false, synd, 0xFFFF, 0xFFFF, 0⟩
          .next (((s.bump A.FL_TILE_FAULTS).clsRecord 0x04 0 (if e.eng = 0 then 1 else 3) f).classify f)
        else
          let e' := { e with synd := synd }
          let s : State := { s with fl := { s.fl with cls := s.fl.cls.map fun x => if x = e then e' else x } }
          .next (s.giveVerdict e' (if s.transientLimit e then 2 else verdict true again equal disagree))
      | none =>
        let e' := { e with synd := synd }
        let s : State := { s with fl := { s.fl with cls := s.fl.cls.map fun x => if x = e then e' else x } }
        .next (s.giveVerdict e' (if s.transientLimit e then 2 else verdict false again equal false))

/-! ### Retirement by software (R617, R618) -/

/-- A RETIRE written by software: jobs on the tile's groups end first, and a plat apply holds it (R59, R618). -/
def State.retireCmd (s : State) (t : Nat) : State :=
  if s.retired.has t then s
  else
    let s := (s.groupJobs (s.groupsOf t) 1).foldl (fun s c => s.killJob c 5 0x30) s
    let e : ClsE := ⟨0, t, ((s.tilePart t).map (·.id)).getD 0xFF, false, 0, 0xFFFF, 0xFFFF, 0⟩
    ({ s with fl := { s.fl with retiring := s.fl.retiring ++ [e] } }).retireDue

/-- An ACK releases a held group, or every held group (R618). -/
def State.ackCmd (s : State) (g : Nat) : State :=
  let s : State := { s with hg := { s.hg with held := if g = 0xFF then [] else NSet.rem g s.hg.held } }
  s.partEs.foldl (fun s p => s.admitNext p.id) s

/-- RETIRE (R617, R618). -/
def execRetire (who : Who) (tile : Nat) (s : State) : Out :=
  if s.lkAdmin who then .next (needOn [15] s (s.retireCmd (tile % 128))) else .next s

/-- ACK (R618). -/
def execAck (who : Who) (group : Nat) (s : State) : Out :=
  if s.lkAdmin who then .next (needOn [15] s (s.ackCmd (group % 256))) else .next s

/-! ### Scrubbing and corrections (R611, R613, R630) -/

/-- The domain of a unit with a protected store: kind 0 is a vault, 1 a T2 channel, 2 the SRAM of a domain. -/
def storeDom (kind unit : Nat) : Nat := if kind = 0 then 16 + unit / 8 else if kind = 1 then chanDom unit else unit

/-- The tenant whose resource a unit is. -/
def State.storeTenant (s : State) (kind unit : Nat) : Option Nat :=
  if kind = 0 then (s.vaultPart unit).map (·.tenant)
  else if kind = 1 then (s.partEs.find? fun e => bit e.chans unit).map (·.tenant)
  else none

/-- The number a record names a unit by: for a cluster's SRAM, the cluster. -/
def storeUnit (kind unit : Nat) : Nat := if kind = 2 ∧ 16 ≤ unit ∧ unit ≤ 31 then unit - 16 else unit

/-- The field of a T2 channel in XM_ECC_CE and XM_ECC_UE (R98). -/
def eccField (ch : Nat) : Nat × Nat := if ch % 2 = 0 then (15, 0) else (31, 16)

/-- Corrections in a store (R611): counted, and kept for the unit's next record. -/
def State.corrected (s : State) (kind unit n : Nat) : State :=
  let s := if kind = 0 then s.fadd A.FL_CE_T1 (63, 0) n else if kind = 2 then s.fadd A.FL_CE_SRAM (63, 0) n else s
  let s := if kind = 1 then s.fadd (A.XM_ECC_CE (unit / 2)) (eccField unit) n else s
  let k := kind * 65536 + unit
  let (c, t) := Tab.get s.fl.ce (0, 0) k
  { s with fl := { s.fl with ce := Tab.set s.fl.ce (0, 0) k (c + n, t) } }

/-- The granules an uncorrectable error at an address takes: in T1 both of its codeword (R609). -/
def State.spoilt (s : State) (a : Nat) : List Nat :=
  if area a 1 = .t1 then [a / 32 * 32, a / 32 * 32 + 16] else [a / s.granLen a * s.granLen a]

/-- The tenant that holds a way of a cluster's cache (R44). -/
def State.wayTenant (s : State) (c w : Nat) : Option Nat := (List.range 8).find? fun n => bit (s.tenantWays n c) w

/-- An uncorrectable granule of a cluster's cache (R608, R613): a dirty line holds it poisoned and goes home so, and a record says it; a clean line is fetched again. -/
def State.cacheUe (s : State) (c a : Nat) : State :=
  let i := lineSet c (a / 128 * 128)
  let bad := fun (l : Line) => l.addr == a / 128 * 128 && l.dirty != 0
  let hit := (s.lines i).filter bad
  let s := s.setLines i (((s.lines i).filter fun l => l.addr != a / 128 * 128 || l.dirty != 0).map fun l =>
    if bad l then { l with psn := l.psn ||| 2 ^ (a % 128 / 16) } else l)
  hit.foldl (fun s l => (s.fadd A.FL_UE_SRAM (63, 0) 1).fsr 0x02 { domain := 16 + c, tenant := s.wayTenant c l.way, unit := c, address := a / 16 * 16 }) s

/-- An uncorrectable granule is poisoned and reported (R608, R613). -/
def State.uncorrectable (s : State) (kind unit a : Nat) : State :=
  let s := s.setGran a true
  let s := if kind = 0 then s.fadd A.FL_UE_T1 (63, 0) 1 else if kind = 2 then s.fadd A.FL_UE_SRAM (63, 0) 1 else s.fadd (A.XM_ECC_UE (unit / 2)) (eccField unit) 1
  let tenant := if area a 1 = .t0 then (s.tilePart (tileOf a)).map (·.tenant) else s.storeTenant kind unit
  s.fsr 0x02 { domain := storeDom kind unit, tenant := tenant, unit := storeUnit kind unit, address := a }

/-- May the scrubber read an address of this store: its domains are On, it is not lost, and a T2 channel has inline ECC (R613)? -/
def State.scrubs (s : State) (kind unit a : Nat) : Bool :=
  (s.locDoms (.mem a)).all (fun d => s.isOn d) && !s.isLost a &&
  (match area a 1 with
  | .t1 => kind == 0 && vaultOf a == unit && a % 0x30000000 / pageSize == s.fget A.FL_SCRUB_T1 F.FL_SCRUB_T1_POS
  | .t2 => kind == 1 && chanOf a == unit && s.inlineEcc unit
  | .t0 => kind == 2 && 16 + tileOf a / 8 == unit
  | _ => false)

/-- The end of a scrub step counts what it has read: the frame at `pos` in every vault whose layer is On, as class 4, or a channel's whole store (R76, R97, R98, R613). -/
def State.scrubbed (s : State) (kind unit pos : Nat) : State :=
  if kind = 1 then s.movedAs 4 (t2Base + unit * 0x400000000) (s.trained unit * pageSize)
  else (List.range 128).foldl (fun s v =>
    let a := v * 0x30000000 + pos * pageSize
    if (s.locDoms (.mem a)).all fun d => s.isOn d then s.movedAs 4 a pageSize else s) s

/-- PATROL_SCRUB (R613): a step of patrol scrubbing of one unit: `corr` granules were corrected and rewritten, those of `bad` cannot be; in a cluster's SRAM an address of T0 is of a tile's SRAM, any other of the cluster's cache. `step` ends the scrub of the frame at POS in every vault, or a pass over a channel. -/
def execPatrolScrub (kind unit corr : Nat) (bad : List Nat) (step : Bool) (s : State) : Out :=
  if 3 ≤ kind ∨ !s.isOn 15 ∨ (kind = 1 ∧ !s.inlineEcc unit) then .next s
  else
    let s := if kind = 0 then s.background .t1 unit 100 else if kind = 1 then s.background .t2 unit 2000 else s
    let s := if corr = 0 ∨ !s.isOn (storeDom kind unit) then s else s.corrected kind unit corr
    let s := ((bad.filter fun a => s.scrubs kind unit a).flatMap s.spoilt).eraseDups.foldl (fun s a => s.uncorrectable kind unit a) s
    let s := if kind = 2 ∧ 16 ≤ unit ∧ unit ≤ 31 ∧ s.isOn unit then (bad.filter fun a => area a 1 != .t0).foldl (fun s a => s.cacheUe (unit - 16) a) s else s
    if !step ∨ kind = 2 then .next s
    else
    let s := s.scrubbed kind unit (s.fget A.FL_SCRUB_T1 F.FL_SCRUB_T1_POS)
    if kind = 1 then .next (s.fadd A.FL_SCRUB_T2 F.FL_SCRUB_T2_PASSES 1)
    else
      let p := s.fget A.FL_SCRUB_T1 F.FL_SCRUB_T1_POS
      if p = 383 then .next ((s.fset A.FL_SCRUB_T1 F.FL_SCRUB_T1_POS 0).fadd A.FL_SCRUB_T1 F.FL_SCRUB_T1_PASSES 1)
      else .next (s.fset A.FL_SCRUB_T1 F.FL_SCRUB_T1_POS (p + 1))

/-- CE_SUMMARY_WINDOW (R611, R630): `corr` more corrections of a unit are counted, and once 1 ms has passed since its last record the unit writes one ECC_CE record for all it has not reported. -/
def execCeSummaryWindow (kind unit corr : Nat) (s : State) : Out :=
  if 3 ≤ kind ∨ !s.isOn 15 then .next s
  else
    let s := s.corrected kind unit corr
    let k := kind * 65536 + unit
    let (c, t) := Tab.get s.fl.ce (0, 0) k
    if c = 0 ∨ (t ≠ 0 ∧ s.now < t + 256000000) then .next s
    else
      let s : State := { s with fl := { s.fl with ce := Tab.set s.fl.ce (0, 0) k (0, s.now) } }
      .next (s.fsr 0x01 { domain := storeDom kind unit, tenant := s.storeTenant kind unit, unit := storeUnit kind unit, count := c })

/-! ### Rings (R631, R632, R634, R635) -/

/-- May the base of a ring be used (R68, R635)? A tenant ring lies 64-byte aligned in T1 of the tenant; the device ring may be anywhere a device address is. -/
def State.ringBaseOk (s : State) (ring lg : Nat) : Bool :=
  ring == 8 ||
  (let a := (s.rd (A.FL_T_RING_BASE ring)).toNat
   let n := 64 * 2 ^ lg
   a % 64 == 0 && decide (a < 2 ^ 43) && area a n == .t1 && (List.range (vaultOf (a + n - 1) + 1 - vaultOf a)).all fun i => s.ownsVault ring (vaultOf a + i))

/-- A ring is enabled: the records that wait for it are written to it in their order (R632). -/
def State.drainRing (s : State) (ring : Nat) : State :=
  let mine := s.fsrBuf.filter fun r => r.1 == ring
  let rest := s.fsrBuf.filter fun r => r.1 != ring
  let s := ({ s with fsrBuf := rest }).fset A.FL_STATUS F.FL_STATUS_BUFFERED rest.length
  mine.foldl (fun s r => s.fsrWrite ring r.2) s

/-- A write of a ring's CFG register (R634, R635): a LOG2 outside 4 to 20 leaves the field unchanged, a bad base leaves EN at 0. -/
def State.ringCfgWrite (s : State) (ring lg : Nat) (en : Bool) : State :=
  let a := if ring = 8 then A.FL_DEV_RING_CFG else A.FL_T_RING_CFG ring
  let s := if 4 ≤ lg ∧ lg ≤ 20 then s.fset a F.FL_T_RING_CFG_LOG2 lg else s
  if en && s.ringBaseOk ring (s.fget a F.FL_T_RING_CFG_LOG2) then (s.fset a F.FL_T_RING_CFG_EN 1).drainRing ring
  else s.fset a F.FL_T_RING_CFG_EN 0

/-- FSR_RING_ENABLE (R632): a write of a ring's CFG register with EN 1; ring 8 is the device ring. -/
def execFsrRingEnable (who : Who) (ring log2 : Nat) (s : State) : Out :=
  if (ring = 8 ∧ s.lkAdmin who) ∨ (ring < 8 ∧ who = .tenant ring) then .next (needOn [15] s (s.ringCfgWrite ring (log2 % 32) true)) else .next s

/-! ### Tally units (R622 to R627) -/

/-- The owner of a Tally unit (R636). -/
def State.tlOwner (s : State) (n : Nat) : Option Nat :=
  if s.flag (A.TL_CFG n) F.TL_CFG_OWNER_VALID then some (s.fget (A.TL_CFG n) F.TL_CFG_OWNER) else none

/-- May the requester access a Tally unit (R627)? -/
def State.tlOk (s : State) (who : Who) (n : Nat) : Bool := decide (n < 16) && (match s.tlOwner n with
  | some o => who == .tenant o
  | none => false)

/-- Is a RUN in progress (R623)? -/
def State.tlBusy (s : State) (n : Nat) : Bool := (Tab.get s.fl.run none n).isSome

/-- VALUE of a Tally unit (R622). -/
def State.tlValue (s : State) (n : Nat) : Nat := (s.rd (A.TL_VALUE n)).toNat

/-- Write VALUE of a Tally unit. -/
def State.setTlValue (s : State) (n v : Nat) : State := s.wr (A.TL_VALUE n) (BitVec.ofNat 64 v)

/-- OVERRUN (R623). -/
def State.tlOverrun (s : State) (n : Nat) : State := s.fset (A.TL_STATUS n) F.TL_STATUS_OVERRUN 1

/-- Feed bytes to a unit whose SOURCE is 0 (R623). -/
def State.tlFeed (s : State) (n : Nat) (bs : List Nat) : State :=
  if s.tlBusy n then s.tlOverrun n
  else if s.fget (A.TL_CFG n) F.TL_CFG_SOURCE ≠ 0 then s
  else s.setTlValue n (crcFeed (s.tlValue n) bs)

/-- A TALLY record (R629) with the unit's check value, and its vector with IRQ_EN (R624). -/
def State.tlRecord (s : State) (n cause : Nat) : State :=
  let o := s.tlOwner n
  let s := s.fsr 0x0D { domain := 15, tenant := o, unit := n, cause := cause, synd := s.tlValue n ^^^ 0xFFFFFFFF }
  if s.flag (A.TL_CFG n) F.TL_CFG_IRQ_EN then
    (match o.bind fun o => s.tenE o with
    | some e => s.vecEvent (e.msixBase + s.fget (A.TL_CFG n) F.TL_CFG_VEC)
    | none => s)
  else s

/-- The verdict on a received alive value (R625): 0 OK, 1 REPEAT, 2 SKIP. -/
def aliveVerdict (alive a : Nat) : Nat := if a = (alive + 1) % 65536 then 0 else if a = alive then 1 else 2

/-- The alive part of a CHECK (R625). -/
def State.tlAlive (s : State) (n : Nat) : State :=
  if !s.flag (A.TL_CFG n) F.TL_CFG_ALIVE_EN then s
  else
    let a := s.fget (A.TL_ALIVE_IN n) F.TL_ALIVE_IN_VALUE
    let v := aliveVerdict (s.fget (A.TL_ALIVE n) F.TL_ALIVE_ALIVE) a
    let s := s.fset (A.TL_STATUS n) F.TL_STATUS_LAST_ALIVE v
    let s := if v = 1 then s else s.fset (A.TL_ALIVE n) F.TL_ALIVE_ALIVE a
    if v = 0 ∨ s.largeClass then s
    else ((s.fset (A.TL_STATUS n) F.TL_STATUS_ALIVE_ERR 1).bump (A.TL_ALIVE_ERRS n)).tlRecord n (1 + v)

/-- CHECK (R624, R625): the small class compares, the large class latches the check value. -/
def State.tlCheck (s : State) (n : Nat) : State :=
  let c := s.tlValue n ^^^ 0xFFFFFFFF
  let s := (s.bump (A.TL_CHECKS n)).wr (A.TL_RESULT n) (BitVec.ofNat 64 c)
  let s :=
    if s.largeClass then s.fset (A.TL_STATUS n) F.TL_STATUS_CHECKED 1
    else if c = (s.rd (A.TL_EXPECT n)).toNat then s
    else ((s.fset (A.TL_STATUS n) F.TL_STATUS_MISMATCH 1).bump (A.TL_MISMATCHES n)).tlRecord n 1
  s.tlAlive n

/-- LAST_STATUS of a RUN (R636). -/
def State.tlStatus (s : State) (n st : Nat) : State := s.fset (A.TL_STATUS n) F.TL_STATUS_LAST_STATUS st

/-- RUN (R623): the range is checked before any byte is read; LEN 0 changes nothing. -/
def State.tlRun (s : State) (n len : Nat) : State :=
  if s.fget (A.TL_CFG n) F.TL_CFG_SOURCE ≠ 0 then s
  else if len = 0 then s.tlStatus n 0
  else
    let o := (s.tlOwner n).getD 0
    match s.reach (viaHome o) (s.rd (A.TL_ADDR n)).toNat len false locLocal with
    | .bad => s.tlStatus n 7
    | _ => ({ s with fl := { s.fl with run := Tab.set s.fl.run none n (some (s.tlValue n, len)) } }).fset (A.TL_STATUS n) F.TL_STATUS_BUSY 1

/-- A TL_CMD write of a unit (R623, R624); it is ignored while BUSY, and the reserved operations are recorded (R8). -/
def State.tlCmd (s : State) (n op len : Nat) : State :=
  if s.tlBusy n then s.tlOverrun n
  else match op with
  | 1 => s.tlRun n len
  | 2 => s.tlCheck n
  | 3 => s.setTlValue n 0xFFFFFFFF
  | _ => s.lockViolation (A.TL_CMD n) 2

/-- A row of a Tally unit that its owner issues. -/
def tlRow (who : Who) (n : Nat) (s : State) (k : State) : Out := if s.tlOk who n then .next (needOn [15] s k) else .next s

/-- TL_FEED64 (R623): eight bytes, byte 0 first. -/
def execTlFeed64 (who : Who) (n : Nat) (value : Word) (s : State) : Out := tlRow who n s (s.tlFeed n (natLe 8 value.toNat))

/-- TL_FEED32 (R623): four bytes, byte 0 first. -/
def execTlFeed32 (who : Who) (n value : Nat) (s : State) : Out := tlRow who n s (s.tlFeed n (natLe 4 value))

/-- TL_FEED8 (R623): bits [7:0]. -/
def execTlFeed8 (who : Who) (n value : Nat) (s : State) : Out := tlRow who n s (s.tlFeed n (natLe 1 value))

/-- RUN (R623). -/
def execRun (who : Who) (n len : Nat) (s : State) : Out := tlRow who n s (s.tlCmd n 1 (len % 2 ^ 24))

/-- CHECK (R624, R625). -/
def execCheck (who : Who) (n : Nat) (s : State) : Out := tlRow who n s (s.tlCmd n 2 0)

/-- RESET (R624): VALUE becomes all ones. -/
def execReset (who : Who) (n : Nat) (s : State) : Out := tlRow who n s (s.tlCmd n 3 0)

/-- TL_RUN_DONE (R623): a RUN has read its range at home; poison restores VALUE. `fail`: an access met an error response; the spec states no VALUE then, which is free. -/
def execTlRunDone (n : Nat) (fail : Bool) (s : State) : Out :=
  match Tab.get s.fl.run none n with
  | none => .next s
  | some (v, len) =>
    if !s.isOn 15 then .next s
    else
      let o := (s.tlOwner n).getD 0
      let a := (s.rd (A.TL_ADDR n)).toNat
      let done := fun (s : State) => ({ s with fl := { s.fl with run := Tab.set s.fl.run none n none } }).fset (A.TL_STATUS n) F.TL_STATUS_BUSY 0
      match s.reach (viaHome o) a len false locLocal with
      | .moving _ => .next s
      | r =>
        if fail || r == .bad then
          .next (((done { s with free := s.free + 1 }).setTlValue n ((Config.freeValue s.free).toNat % 2 ^ 32)).tlStatus n 5)
        else
          let ds := match r with
            | .ok ds => ds
            | _ => []
          .next (needOn ds s (
            let b := s.readHome o a len
            if b.any (·.2) then (done s).setTlValue n v |>.tlStatus n 1
            else ((done s).setTlValue n (crcFeed v (b.map (·.1)))).tlStatus n 0))

/-! ### Assay snapshots (R209, R211) -/

/-- A write of AS_SNAP_REQ (R211): a set of another tenant is refused. -/
def State.asSnap (s : State) (n set : Nat) (clear : Bool) : State :=
  if set / 32 ≠ n then s.fset (A.AS_SNAP_STATUS n) F.AS_SNAP_STATUS_REFUSED 1
  else
    let s := s.wr (A.AS_SNAP_SQERR n) (s.rd (A.AS_SQERR set))
    let s := s.wr (A.AS_SNAP_COUNT n) (s.rd (A.AS_COUNT set))
    let s := s.wr (A.AS_SNAP_MAXERR n) (s.rd (A.AS_MAXERR set))
    let s := s.wr (A.AS_SNAP_CLIP n) (s.rd (A.AS_CLIP set))
    let s := (s.fset (A.AS_SNAP_STATUS n) F.AS_SNAP_STATUS_SET set).fset (A.AS_SNAP_STATUS n) F.AS_SNAP_STATUS_VALID 1
    if clear then (((s.wr (A.AS_SQERR set) 0).wr (A.AS_COUNT set) 0).wr (A.AS_MAXERR set) 0).wr (A.AS_CLIP set) 0 else s

/-- May the requester reach a tenant's Assay block: its own, or debug that DEBUG_ALLOWED permits, never in confidential mode (R209)? -/
def State.asOk (s : State) (who : Who) (n : Nat) : Bool :=
  decide (n < 8) && (who == .tenant n || (who == .debug && s.debugOk n && !s.confMode))

/-- A snapshot request of a requester. -/
def asRow (clear : Bool) (who : Who) (n set : Nat) (s : State) : Out :=
  if s.asOk who n then .next (needOn [15] s (s.asSnap n (set % 256) clear)) else .next s

/-- AS_SNAPSHOT (R211). -/
def execAsSnapshot (who : Who) (n set : Nat) (s : State) : Out := asRow false who n set s

/-- AS_SNAPSHOT_CLEAR (R211): the copy and the clear are one. -/
def execAsSnapshotClear (who : Who) (n set : Nat) (s : State) : Out := asRow true who n set s

end Sys2Proof.Machine
end

