-- ==== Sys2Proof/Machine/Plat.lean ====
section
/-!
DEFINITION. The plat: its image, validation and application, the erasure of a tenant, and the Notary's mailbox turns that serve commands (R29 to R64, R516, R556, R582 to R585, R596).
-/
namespace Sys2Proof.Machine

/-! ### Reading the image (R29 to R33) -/

/-- A directory entry (R31): its index, TYPE, ENTRY_SIZE, OFFSET, ENTRY_COUNT and reserved bytes. -/
structure DirE where
  idx : Nat
  ty : Nat
  size : Nat
  off : Nat
  count : Nat
  rsv : Nat
  deriving DecidableEq, Repr

/-- The directory of an image. -/
def directory (img : List Nat) : List DirE :=
  (List.range (field img 6 1)).map fun i =>
    let e := slice img (0x40 + 16 * i) 16
    ⟨i, field e 0 2, field e 2 2, field e 4 4, field e 8 4, field e 12 4⟩

/-- The entry size and the greatest count of a section type (R32). -/
def sectionKind (ty : Nat) : Option (Nat × Nat) :=
  match ty with
  | 1 => some (96, 16) | 2 => some (32, 8) | 3 => some (48, 255) | 4 => some (32, 1024)
  | 5 => some (8, 40) | 6 => some (8, 4096) | 7 => some (16, 8) | 8 => some (8, 256)
  | _ => none

/-- The entries of a section. -/
def sectionEntries (img : List Nat) (d : DirE) : List (List Nat) :=
  (List.range d.count).map fun j => slice img (d.off + d.size * j) d.size

/-- A partition entry (R34). -/
def rdPart (e : List Nat) : PartE :=
  ⟨field e 0 1, field e 1 1, field e 2 1, field e 4 4, field e 8 16, field e 0x18 16, (List.range 16).map fun c => field e (0x28 + 2 * c) 2, field e 0x48 1 % 16⟩

/-- A tenant entry (R37). -/
def rdTen (e : List Nat) : TenE := ⟨field e 0 1, bit (field e 1 1) 0, field e 4 4, field e 8 4, field e 12 4, field e 0x10 2, field e 0x12 2⟩

/-- A group entry (R40). -/
def rdGrp (e : List Nat) : GrpE := ⟨field e 0 1, field e 1 1, bit (field e 2 1) 0, field e 8 16, slice e 0x18 (field e 3 1)⟩

/-- A ring allocation entry (R43). -/
def rdRing (e : List Nat) : RingE :=
  ⟨field e 0 4, field e 4 4, field e 8 1, field e 9 1, field e 10 1, field e 11 1 % 4, field e 12 4, field e 16 2, field e 18 2⟩

/-- A domain policy entry (R45). -/
def rdDom (e : List Nat) : DomE :=
  ⟨field e 0 1, field e 1 1 % 4, field e 2 2, field e 4 1 % 4, bit (field e 5 1) 0, bits (field e 5 1) 2 1, field e 6 2⟩

/-- A link route entry (R47). -/
def rdRoute (e : List Nat) : RouteE := ⟨field e 0 2, field e 2 2, field e 4 1 % 16, bit (field e 5 1) 0⟩

/-- A tick class entry (R48). -/
def rdTick (e : List Nat) : TickE := ⟨field e 0 1, field e 1 1, field e 2 1, field e 8 8⟩

/-- A calibration entry (R49). -/
def rdCal (e : List Nat) : CalE := ⟨field e 0 2, sgn 32 (field e 4 4)⟩

/-- The plat an image holds. -/
def readPlat (img : List Nat) : Plat :=
  let sec (ty : Nat) : List (List Nat) := match (directory img).find? fun d => d.ty == ty with
    | some d => sectionEntries img d
    | none => []
  let fl := field img 0x0C 4
  { serial := field img 0x10 8, devId := field img 0x18 2, confClass := fl % 2, conf := bit fl 1, grade := field img 0x1A 1, slot := field img 7 1,
    uid := slice img 0x20 16, parts := (sec 1).map rdPart, tenants := (sec 2).map rdTen, groups := (sec 3).map rdGrp, rings := (sec 4).map rdRing,
    doms := (sec 5).map rdDom, routes := (sec 6).map rdRoute, ticks := (sec 7).map rdTick, cals := (sec 8).map rdCal, digest := sha384 img }

/-- A standalone device (R30). -/
def Plat.standalone (p : Plat) : Bool := p.devId == 0xFFFF

/-! ### Validation (R51, R52) -/

/-- The first failing check of a list. -/
def firstCode : List (Bool × Nat) → Option Nat
  | [] => none
  | (b, c) :: xs => if b then some c else firstCode xs

/-- A failure: its code, the directory index and the entry index (R52, R62). -/
abbrev PlatFail := Nat × Nat × Nat

/-- A failure of the header or the signature block. -/
def headFail (o : Option Nat) : Option PlatFail := o.map fun c => (c, 0xF, 0)

/-- The value of the rollback floor (R581). -/
def NtSt.floor (n : NtSt) : Nat := (n.fuse.floors.getLast?).getD 0

/-- Steps 1 to 3 of R51: the file, the signature, the header. -/
def State.headerFail (s : State) (img : List Nat) : Option Nat :=
  let n := field img 8 4
  let slot := field img 7 1
  let key := Tab.get s.nt.fuse.keys [] slot
  let serial := field img 0x10 8
  let g := field img 0x1A 1
  let d := field img 0x18 2
  let c := field img 6 1
  firstCode [(field img 0 4 != 0x54414C50, 0x01), (field img 4 2 != 1, 0x02),
    (decide (n < 256) || decide (131072 < n) || n % 64 != 0 || n != img.length, 0x03),
    (decide (3 < slot) || key == [] || s.nt.fuse.revoked.has slot || !ecdsaOk key (sha384 (img.take (n - 128))) (slice img (n - 128) 96), 0x04),
    (decide (serial ≤ (s.rd A.HG_PLAT_SERIAL).toNat) || decide (serial < s.nt.floor), 0x05),
    (!zeroBytes img 0x20 16 && slice img 0x20 16 != s.nt.fuse.uid, 0x06),
    (decide (2 < g), 0x0A), (g != 0 && g != s.nt.fuse.grade, 0x07), (decide (c < 4) || decide (8 < c), 0x08),
    (decide (4 ≤ field img 0x0C 4) || (decide (16384 ≤ d) && d != 0xFFFF) || !zeroBytes img 0x1B 5 || !zeroBytes img 0x30 16 || !zeroBytes img (n - 32) 32, 0x0A)]

/-- One directory entry against those before it (R31, R32). -/
def dirFail (img : List Nat) (ds : List DirE) (d : DirE) : Option Nat :=
  let endOf (x : DirE) : Nat := x.off + x.size * x.count
  match sectionKind d.ty with
  | none => some 0x08
  | some (size, most) =>
    let before := ds.filter fun x => decide (x.idx < d.idx)
    firstCode [(before.any (fun x => x.ty == d.ty), 0x08),
      (d.size != size || d.off % 64 != 0 || decide (d.off < 0x40 + 16 * ds.length) || d.count == 0 || decide (most < d.count) || decide (img.length - 128 < endOf d), 0x08),
      (d.rsv != 0, 0x0A), (before.any (fun x => decide (d.off < endOf x) && decide (x.off < endOf d)), 0x08)]

/-- Is every byte between the parts of an image zero (R29)? -/
def gapsZero (img : List Nat) (ds : List DirE) : Bool :=
  let used := (0, 0x40 + 16 * ds.length) :: (img.length - 128, img.length) :: ds.map fun d => (d.off, d.off + d.size * d.count)
  (List.range (img.length / 16)).all fun k =>
    used.any (fun u => decide (u.1 ≤ 16 * k) && decide (16 * k + 16 ≤ u.2)) ||
    (List.range 16).all fun i => used.any (fun u => decide (u.1 ≤ 16 * k + i) && decide (16 * k + i < u.2)) || img.getD (16 * k + i) 0 == 0

/-- Step 4 of R51: the directory, the required sections, and the bytes between the parts. -/
def directoryFail (img : List Nat) : Option PlatFail :=
  let ds := directory img
  match ds.findSome? fun d => (dirFail img ds d).map fun c => (c, d.idx, 0) with
  | some f => some f
  | none => headFail (firstCode [([1, 2, 3, 4].any (fun t => ds.all fun d => d.ty != t), 0x09), (!gapsZero img ds, 0x0A)])

/-- The ready time of a domain in ns from Retention and from Off (R471, R566). -/
def readyNs (d : Nat) : Nat × Nat :=
  match d with
  | 1 => (40000, 2000000) | 2 => (20000, 100000) | 3 => (10000, 50000) | 4 => (10000, 200000) | 5 => (10000, 200000) | 6 => (20000, 8000000)
  | 7 => (5000, 100000) | 8 => (32000, 20000000) | 13 => (2000, 50000) | 14 => (300, 12000) | 15 => (1000, 20000)
  | 36 => (15000, 2000000) | 37 => (15000, 2000000) | 38 => (10000, 100000) | 39 => (5000, 50000)
  | d => if 9 ≤ d ∧ d ≤ 12 then (5000, 1000000) else if 16 ≤ d ∧ d ≤ 31 then (300, 12000) else if 32 ≤ d ∧ d ≤ 35 then (5000, 50000) else (0, 0)

/-- Is a mask a power of two? -/
def onePort (m : Nat) : Bool := m == 1 || m == 2 || m == 4 || m == 8

/-- The bound of a calibration item's delta (R650). -/
def calBound (item : Nat) : Option Nat :=
  if 0x100 ≤ item ∧ item ≤ 0x14F then some 40
  else if 0x300 ≤ item ∧ item ≤ 0x308 then some 1536
  else if 0x310 ≤ item ∧ item ≤ 0x318 then some 1024
  else none

/-- Step 5 of R51: an entry on its own fields; `dup` says whether its number repeats an earlier one's. -/
def State.entryFail (s : State) (p : Plat) (ty : Nat) (e : List Nat) (dup : Bool) : Option Nat :=
  let b (o : Nat) : Nat := field e o 1
  match ty with
  | 1 =>
    let x := rdPart e
    firstCode [(decide (15 < x.id) || decide (7 < x.tenant) || decide (1 < x.policy) || b 3 != 0 || decide (16 ≤ b 0x48) || !zeroBytes e 0x49 23, 0x0A), (dup, 0x10),
      (if x.policy = 1 then decide (x.sliceUs < 100) || decide (100000 < x.sliceUs) else x.sliceUs != 0, 0x0A), (x.tiles == 0, 0x11),
      ((bitsOf 128 x.tiles).any (fun t => s.retired.has t), 0x13), ((bitsOf 128 x.tiles).any (fun t => x.waysIn (t / 8) == 0), 0x15)]
  | 2 =>
    let x := rdTen e
    firstCode [(decide (7 < x.id) || decide (2 ≤ b 1) || !zeroBytes e 2 2 || !zeroBytes e 0x14 12, 0x0A), (dup, 0x10), (x.debug && p.conf, 0x1B),
      (p.standalone && x.q3 != 0, 0x18), (decide (2047 < x.msixBase) || decide (2048 < x.msixCount), 0x0A), (decide (2048 < x.msixBase + x.msixCount), 0x18)]
  | 3 =>
    let x := rdGrp e
    firstCode [(x.id == 255 || decide (2 ≤ b 2) || decide (8 < b 3) || !zeroBytes e 4 4 || !zeroBytes e 0x20 16, 0x0A), (dup, 0x10),
      ((slice e (0x18 + b 3) (8 - b 3)).any (fun m => m != 0xFF), 0x0A), ((bitsOf 128 x.tiles).any (fun t => s.retired.has t), 0x13), (x.tiles == 0 && b 3 == 0, 0x20)]
  | 4 =>
    let x := rdRing e
    firstCode [((decide (8 ≤ x.tick) && x.tick != 0xFF) || decide (4 ≤ b 11) || x.count == 0 || x.ctxN == 0 || !zeroBytes e 0x14 12, 0x0A),
      (decide (65536 < x.first + x.count), 0x30), (!((List.range 13).any fun i => x.size == 4096 * 2 ^ i), 0x31), (decide (1024 < x.ctx0 + x.ctxN), 0x32)]
  | 5 =>
    let x := rdDom e
    firstCode [(decide (39 < x.id) || decide (3 ≤ b 1) || decide (4 ≤ b 4) || decide (8 ≤ b 5), 0x0A), (dup, 0x10),
      ((x.id == 0 && x.idle != 0) || (x.maxLevel != 0 && !(decide (16 ≤ x.id) && decide (x.id ≤ 31))), 0x40),
      (x.wakeAcc && x.idle != 0 && decide (x.limitUs * 1000 < (if x.idle = 1 then (readyNs x.id).1 else (readyNs x.id).2)), 0x41)]
  | 6 =>
    let x := rdRoute e
    firstCode [(decide (16383 < x.last) || decide (x.last < x.first) || decide (16 ≤ b 4) || decide (2 ≤ b 5) || !zeroBytes e 6 2, 0x0A),
      (p.standalone || x.ports == 0 || (!x.spread && !onePort x.ports) || (decide (x.first ≤ p.devId) && decide (p.devId ≤ x.last)), 0x50)]
  | 7 =>
    let x := rdTick e
    firstCode [(decide (7 < x.id) || decide (2 < x.source) || !zeroBytes e 3 5, 0x0A), (dup, 0x10), (x.source == 0 && decide (7 < x.chan), 0x0A),
      (x.source == 0 && (decide (x.period < 2560000) || decide (2 ^ 62 < x.period)), 0x61), (x.source != 0 && (x.chan != 0 || x.period != 0), 0x60)]
  | _ =>
    let x := rdCal e
    firstCode [(!zeroBytes e 2 2, 0x0A), (dup, 0x10), (match calBound x.item with
      | none => true
      | some n => decide (n < x.delta.natAbs), 0x70)]

/-- The number of an entry that may appear once in its section. -/
def entryNum (ty : Nat) (e : List Nat) : Nat := if ty = 8 then field e 0 2 else field e 0 1

/-- Step 5 of R51. -/
def State.entriesFail (s : State) (p : Plat) (img : List Nat) : Option PlatFail :=
  [1, 2, 3, 4, 5, 6, 7, 8].findSome? fun ty =>
    ((directory img).find? fun d => d.ty == ty).bind fun d =>
      let es := sectionEntries img d
      (List.range es.length).findSome? fun j =>
        let e := es.getD j []
        let dup := ty != 4 && ty != 6 && (es.take j).any fun f => entryNum ty f == entryNum ty e
        (s.entryFail p ty e dup).map fun c => (c, d.idx, j)

/-- A partition against those before it (R34, R36). -/
def partFail (p : Plat) (j : Nat) : Option Nat :=
  match p.parts[j]? with
  | none => none
  | some x =>
    let before := p.parts.take j
    let others := before.filter fun o => o.tenant != x.tenant
    firstCode [(!(p.tenants.any fun t => t.id == x.tenant), 0x17), (before.any (fun o => o.tiles &&& x.tiles != 0), 0x12),
      (x.extra &&& x.tiles != 0 || before.any (fun o => x.extra &&& (o.tiles ||| o.extra) != 0 || x.tiles &&& o.extra != 0), 0x14),
      (others.any (fun o => (List.range 16).any fun c => x.waysIn c &&& o.waysIn c != 0), 0x15), (others.any (fun o => x.chans &&& o.chans != 0), 0x16)]

/-- What flattening has come to (R42): the groups on the current path, the flattened ones with their tiles, and the failure with the group that met it. -/
structure Flat where
  path : List Nat
  done : List (Nat × Nat)
  fail : Option (Nat × Nat)
  deriving DecidableEq, Repr

/-- The flattened set of a group. -/
def Flat.tiles (f : Flat) (g : Nat) : Nat := ((f.done.find? fun d => d.1 == g).map (·.2)).getD 0

/-- Flatten one group (R42): `fuel` bounds the depth, which no acyclic path exceeds. A cycle is reported against the group reached again, and a group whose PARTITION has no entry reaches tiles of another partition (GROUP_PARTITION), or none (GROUP_EMPTY): DESIGN CHOICE, log entry 69. -/
def flatten (p : Plat) : Nat → Nat → Flat → Flat
  | 0, g, f => { f with fail := some (0x22, g) }
  | fuel + 1, g, f =>
    match f.fail, p.groups.find? fun x => x.id == g with
    | some _, _ => f
    | none, none => f
    | none, some x =>
      if f.path.contains g then { f with fail := some (0x22, g) }
      else if f.done.any (fun d => d.1 == g) then f
      else
        let r := x.members.foldl (fun (a : Flat × Nat) m =>
          match a.1.fail, p.groups.find? fun y => y.id == m with
          | some _, _ => a
          | none, none => ({ a.1 with fail := some (0x21, g) }, a.2)
          | none, some y =>
            if y.part ≠ x.part then ({ a.1 with fail := some (0x24, g) }, a.2)
            else
              let f := flatten p fuel m a.1
              if f.fail.isSome then (f, a.2)
              else if a.2 &&& f.tiles m != 0 then ({ f with fail := some (0x23, g) }, a.2)
              else (f, a.2 ||| f.tiles m)) ({ f with path := g :: f.path }, x.tiles)
        if r.1.fail.isSome then r.1
        else
          let own := ((p.parts.find? fun q => q.id == x.part).map (·.tiles)).getD 0
          if r.2 &&& own != r.2 then { r.1 with fail := some (0x24, g) }
          else if r.2 = 0 then { r.1 with fail := some (0x20, g) }
          else { r.1 with path := f.path, done := (g, r.2) :: r.1.done }

/-- Flatten every group in ascending number (R42). -/
def flattenAll (p : Plat) : Flat :=
  (List.range 255).foldl (fun f g => if p.groups.any fun x => x.id == g then flatten p 256 g f else f) ⟨[], [], none⟩

/-- A ring allocation entry against those before it (R43, R44). -/
def ringFail (p : Plat) (j : Nat) : Option Nat :=
  match p.rings[j]? with
  | none => none
  | some x =>
    let before := p.rings.take j
    firstCode [(before.any (fun o => decide (x.first < o.first + o.count) && decide (o.first < x.first + x.count)), 0x30),
      (!(p.groups.any fun g => g.id == x.group && g.part == x.part) || !(p.parts.any fun q => q.id == x.part) || (x.tick != 0xFF && !(p.ticks.any fun t => t.id == x.tick)), 0x33),
      (before.any (fun o => decide (x.ctx0 < o.ctx0 + o.ctxN) && decide (o.ctx0 < x.ctx0 + x.ctxN)), 0x32)]

/-- The directory index of a section, 0xF when it is absent. -/
def sectionIdx (img : List Nat) (ty : Nat) : Nat := (((directory img).find? fun d => d.ty == ty).map (·.idx)).getD 0xF

/-- The first part of step 6 of R51. -/
def crossFail (p : Plat) (img : List Nat) : Option PlatFail :=
  let each (ty n : Nat) (f : Nat → Option Nat) : Option PlatFail := (List.range n).findSome? fun j => (f j).map fun c => (c, sectionIdx img ty, j)
  let r1 := each 1 p.parts.length (partFail p)
  let r3 := (flattenAll p).fail.map fun x => (x.1, sectionIdx img 3, (findIdx (fun g => g.id == x.2) p.groups 0).getD 0)
  let r4 := each 4 p.rings.length (ringFail p)
  let r6 := each 6 p.routes.length fun j => match p.routes[j]? with
    | some x => if (p.routes.take j).any (fun o => decide (x.first ≤ o.last) && decide (o.first ≤ x.last)) then some 0x50 else none
    | none => none
  let r7 := each 7 p.ticks.length fun j => match p.ticks[j]? with
    | some x => if x.source = 0 ∧ (p.ticks.take j).any (fun o => o.source == 0 && o.chan == x.chan) then some 0x60 else none
    | none => none
  [r1, r3, r4, r6, r7].findSome? id

/-- The pages of a ring allocation entry (R38). -/
def RingE.pages (r : RingE) : Nat := ceilDiv (r.count * r.size) pageSize

/-- The partitions of a tenant in a plat. -/
def Plat.partsOf (p : Plat) (n : Nat) : List PartE := p.parts.filter fun q => q.tenant == n

/-- The vaults of a partition (R35). -/
def PartE.vaults (e : PartE) : List Nat := bitsOf 128 (e.tiles ||| e.extra)

/-- Put a ring allocation entry in its place by FIRST_RING. -/
def ringIns (r : RingE) : List RingE → List RingE
  | [] => [r]
  | a :: t => if r.first ≤ a.first then r :: a :: t else a :: ringIns r t

/-- Ring allocation entries in ascending FIRST_RING. -/
def ringsAsc (l : List RingE) : List RingE := l.foldr ringIns []

/-- The rings of a tenant, in ascending number, with their sizes. -/
def Plat.tenantRings (p : Plat) (n : Nat) : List RingE :=
  ringsAsc (p.rings.filter fun r => (p.partsOf n).any fun q => q.id == r.part)

/-- The window offsets of a tenant's rings (R556), and the end of the last. -/
def Plat.window (p : Plat) (n : Nat) : List (Nat × Nat) × Nat :=
  (p.tenantRings n).foldl (fun a r =>
    let w := ceilDiv a.2 r.size * r.size
    (a.1 ++ (List.range r.count).map fun i => (r.first + i, w + i * r.size), w + r.count * r.size)) ([], 0)

/-- The partition a vault belongs to in a plat (R35). -/
def Plat.vaultOwner (p : Plat) (v : Nat) : Option PartE := p.parts.find? fun q => bit (q.tiles ||| q.extra) v

/-- The limits of R39 for one tenant. -/
def State.quotaFail (s : State) (p : Plat) (x : TenE) : Bool :=
  let ps := p.partsOf x.id
  let vaults := ps.foldl (fun n q => n + q.vaults.length) 0
  let pages := (p.tenantRings x.id).foldl (fun n r => n + r.pages) 0
  let chans := ps.foldl (fun m q => m ||| q.chans) 0
  decide (384 * vaults < x.q1 + 4 * ps.length + pages) || decide (((bitsOf 4 chans).map s.trained).foldl (· + ·) 0 < x.q2)

/-- The tenants' new quotas against what is charged (R52): a tenant the new plat omits has quota 0. -/
def State.belowUse (s : State) (p : Plat) (n : Nat) : Bool :=
  let q := match p.tenants.find? fun t => t.id == n with
    | some t => (t.q1, t.q2, t.q3)
    | none => (0, 0, 0)
  decide (q.1 < s.usedPages n 1) || decide (q.2.1 < s.usedPages n 2) || decide (q.2.2 < s.usedPages n 3)

/-- Does a vault hold an allocated page? -/
def State.vaultUsed (s : State) (v : Nat) : Bool := (s.placeKeys 1 v).any fun k => (s.frame k).alloc

/-- The journal frames of a partition (R38, R360). -/
def PartE.journalFrames (e : PartE) : List Nat := let v := e.vault0; [384 * v, 384 * v + 1, 384 * v + 192, 384 * v + 193]

/-- Do two tables hold different entries of a partition? Their order does not matter. -/
def differ {α : Type} [DecidableEq α] (x y : List α) : Bool := !(x.all y.contains && y.all x.contains)

/-- Did a partition's structure change (R54): its entry, a group of it, or a ring allocation entry naming it? -/
def partChanged (p q : Plat) (i : Nat) : Bool :=
  p.parts.find? (fun x => x.id == i) != q.parts.find? (fun x => x.id == i) ||
  differ (p.groups.filter fun g => g.part == i) (q.groups.filter fun g => g.part == i) ||
  differ (p.rings.filter fun r => r.part == i) (q.rings.filter fun r => r.part == i)

/-- Did a tick class used by rings of a partition change (R54)? -/
def ticksChanged (p q : Plat) (i : Nat) : Bool :=
  (p.rings ++ q.rings).any fun r => r.part == i && r.tick != 0xFF && p.ticks.find? (fun t => t.id == r.tick) != q.ticks.find? fun t => t.id == r.tick

/-- The partitions that applying `q` over `p` requires to be quiesced (R54). -/
def affected (p q : Plat) : List Nat :=
  (List.range 16).filter fun i =>
    let here (x : Plat) : Option PartE := x.parts.find? fun e => e.id == i
    ((here p).isSome || (here q).isSome) &&
    (p.devId != q.devId || p.confClass != q.confClass || p.conf != q.conf || partChanged p q i || ticksChanged p q i ||
      [here p, here q].any fun o => match o with
        | some e => p.tenants.find? (fun t => t.id == e.tenant) != q.tenants.find? fun t => t.id == e.tenant
        | none => false)

/-- The partitions a new plat affects; all of them when none is applied. -/
def State.affectedBy (s : State) (q : Plat) : List Nat :=
  match s.plat.cur with
  | some p => affected p q
  | none => q.parts.map (·.id)

/-- The partitions whose structure a new plat changes; all of its own when none is applied. -/
def State.changedBy (s : State) (q : Plat) : List Nat :=
  match s.plat.cur with
  | some p => (List.range 16).filter fun i => partChanged p q i
  | none => q.parts.map (·.id)

/-- Does partition `i` quiesce (R53)? A packet still being written is not accepted. -/
def State.quiesced (s : State) (i : Nat) : Bool :=
  let es := s.ringEs.filter fun r => r.part == i
  !(es.any fun r => (List.range r.count).any fun k => (s.ringSt (r.first + k)).enabled) &&
  !(s.hg.jr.any fun e => e.part == i && e.st != .writing) &&
  !(es.any fun r => (List.range r.ctxN).any fun k => let c := s.ctx (r.ctx0 + k); c.st == 1 || c.st == 2 || c.slots != [])

/-! ### Placing journals and rings (R38) -/

/-- The frames that hold the boot image (R640). -/
def stagingFrames : List Nat := [48956, 48957, 48958, 48959]

/-- The lowest run of `n` consecutive frames of one layer of a vault that `ok` allows. -/
def runIn (ok : Nat → Bool) (v n : Nat) : Option (List Nat) :=
  (List.range 384).findSome? fun i =>
    if i / 96 = (i + n - 1) / 96 ∧ (List.range n).all (fun k => ok (384 * v + i + k)) then some ((List.range n).map fun k => 384 * v + i + k) else none

/-- Place `k` runs of `n` frames, each in the lowest-numbered vault that has one. -/
def placeRuns (vs : List Nat) (n : Nat) : Nat → (Nat → Bool) → Option (List Nat)
  | 0, _ => some []
  | k + 1, ok =>
    match vs.findSome? fun v => runIn ok v n with
    | none => none
    | some r => (placeRuns vs n k fun f => ok f && !r.contains f).map fun rest => r ++ rest

/-- The ring-storage frames of a plat by FIRST_RING (R38): entries of partitions it does not change keep theirs; none when a place does not exist, with the partition. -/
def State.placeRings (s : State) (q : Plat) : Tab (List Nat) × Option Nat :=
  let changed := s.changedBy q
  let kept := q.rings.filter fun r => !changed.contains r.part
  let keep : Tab (List Nat) := kept.foldl (fun m r => Tab.set m [] r.first (Tab.get s.plat.ringFrames [] r.first)) []
  let journals := q.parts.flatMap (·.journalFrames)
  let order := ringsAsc (q.rings.filter fun r => changed.contains r.part)
  order.foldl (fun (a : Tab (List Nat) × Option Nat) r =>
    match a.2, q.parts.find? fun e => e.id == r.part with
    | none, some e =>
      let mine := Tab.get s.plat.journal [] r.part ++ (s.ringEs.filter fun x => x.part == r.part).flatMap fun x => Tab.get s.plat.ringFrames [] x.first
      let taken := a.1.flatMap (·.2)
      let ok := fun (f : Nat) => !journals.contains f && !stagingFrames.contains f && !taken.contains f && !(s.frame f).alloc && (s.frameFree f || mine.contains f)
      let place := if r.size ≤ pageSize then placeRuns e.vaults 1 r.pages ok else placeRuns e.vaults (r.size / pageSize) r.count ok
      (match place with
      | some fs => (Tab.set a.1 [] r.first fs, none)
      | none => (a.1, some r.part))
    | _, _ => a) (keep, none)

/-- The second part of step 6 of R51: the limits that span the plat, and the comparisons with the applied one. VAULT_IN_USE of a journal or ring-storage frame is reported against its partition's entry: DESIGN CHOICE, log entry 69. -/
def State.limitsFail (s : State) (p : Plat) (img : List Nat) : Option PlatFail :=
  let ts := List.range p.tenants.length
  let ten (f : Nat → TenE → Bool) (c : Nat) : Option PlatFail :=
    ts.findSome? fun j => (p.tenants[j]?).bind fun x => if f j x then some (c, sectionIdx img 2, j) else none
  let overlap (j : Nat) (x : TenE) : Bool := (p.tenants.take j).any fun o =>
    x.msixCount != 0 && o.msixCount != 0 && decide (x.msixBase < o.msixBase + o.msixCount) && decide (o.msixBase < x.msixBase + x.msixCount)
  let use := (List.range 8).findSome? fun n =>
    if s.belowUse p n then some (0x19, sectionIdx img 2, (findIdx (fun t => t.id == n) p.tenants 0).getD 0) else none
  let pidx (i : Nat) : Nat := (findIdx (fun e => e.id == i) p.parts 0).getD 0
  let vault := (List.range 128).findSome? fun v =>
    let old := (s.plat.cur.bind fun q => q.vaultOwner v).map fun e => (e.id, e.tenant)
    let new := p.vaultOwner v
    if (new.map fun e => (e.id, e.tenant)) != old && s.vaultUsed v then some (0x1A, sectionIdx img 1, pidx ((new.map (·.id)).getD 0xFF)) else none
  let journal := p.parts.findSome? fun e => if e.journalFrames.any (fun f => (s.frame f).alloc) then some (0x1A, sectionIdx img 1, pidx e.id) else none
  let rings := (s.placeRings p).2.map fun i => (0x1A, sectionIdx img 1, pidx i)
  [ten (fun _ x => s.quotaFail p x) 0x18, ten overlap 0x18, ten (fun _ x => decide (2 ^ 32 < (p.window x.id).2)) 0x18, use, vault, journal, rings].findSome? id

/-- Steps 1 to 6 of R51: the first failure of an image, else the plat it holds with its groups flattened. -/
def State.validate (s : State) (img : List Nat) : PlatFail ⊕ Plat :=
  let p := readPlat img
  match [headFail (s.headerFail img)].findSome? id with
  | some f => .inl f
  | none => match directoryFail img with
    | some f => .inl f
    | none => match s.entriesFail p img with
      | some f => .inl f
      | none => match crossFail p img with
        | some f => .inl f
        | none =>
          let fl := flattenAll p
          let q : Plat := { p with groups := p.groups.map fun g => { g with tiles := fl.tiles g.id } }
          match s.limitsFail q img with
          | some f => .inl f
          | none => .inr q

/-! ### Erasing a tenant (R596) -/

/-- The rings and contexts of some partitions as their journals hold them once those are zero (R680). -/
def State.freshRings (s : State) (ps : List Nat) : State :=
  let es := s.ringEs.filter fun re => ps.contains re.part
  let s := (es.flatMap fun re => (List.range re.count).map fun i => re.first + i).foldl (fun s r =>
    { s with hg := { s.hg with rings := Tab.set s.hg.rings RingSt.reset r RingSt.reset } }) s
  (es.flatMap fun re => (List.range re.ctxN).map fun i => re.ctx0 + i).foldl (fun s c => s.setCtx c Ctx.free) s

/-- Erase a tenant's state (R596 steps 1 to 4), its partitions being quiesced. -/
def State.eraseTenant (s : State) (n : Nat) : State :=
  let s := s.abortMoves fun m => m == n
  let pages := (s.vc.ents.filter fun e => e.1 / 524288 == n && entValid e.2).map fun e => e.1 % 524288
  let s := pages.foldl (fun s p => s.vcUnmap n p) s
  let vs := s.vaultsOf n
  let s := (List.range 16).foldl (fun s c =>
    (s.linesIn c (s.tenantWays n c) 0 (2 ^ 60)).foldl (fun s l => s.dropLine c l) s) s
  let s := vs.foldl (fun s v => s.zeroFill (v * 0x30000000) 0x30000000) s
  let s := (s.chansOf n).foldl (fun s c => s.zeroFill (t2Base + c * 0x400000000) (s.trained c * pageSize)) s
  let s := ((List.range 128).filter fun t => s.ownsTile n t).foldl (fun s t => s.zeroFill (t0Base + t * pageSize) pageSize) s
  let s : State := { s with sc := { s.sc with st := s.sc.st.filter fun x => x.tenant != n }, tlb := tlbDrop (fun k => k / 524288 == n) s.tlb }
  let s := s.freshRings ((s.partsOf n).map (·.id))
  let banks := (List.range 16).flatMap fun c => [0x7001100100 + 0x10000 * c + 0x80 * n, 0x7001200100 + 0x10000 * c + 0x80 * n, 0x7001300100 + 0x10000 * c + 0x80 * n]
  let regs := (banks ++ [0x7000060100 + 0x80 * n, 0x7000070100 + 0x80 * n]).foldl (fun r a => Tab.clear r a 0x80) s.regs
  { s with regs := Tab.clear (Tab.clear regs (A.AS_SQERR (32 * n)) 0x400) (A.AS_SNAP_REQ n) 0x40 }

/-- A tenant's record at the Notary. -/
def State.ntTen (s : State) (n : Nat) : NtTen := Tab.get s.nt.tens NtTen.reset n

/-- Write a tenant's record at the Notary. -/
def State.setTen (s : State) (n : Nat) (x : NtTen) : State := { s with nt := { s.nt with tens := Tab.set s.nt.tens NtTen.reset n x } }

/-- A tenant's binding and measurement registers are cleared (R587, R593); its SESSION count goes on (R594). -/
def State.clearBinding (s : State) (n : Nat) : State := s.setTen n { NtTen.reset with session := (s.ntTen n).session }

/-! ### Application (R53 to R58) -/

/-- Record a failed plat (R52, R58, R61, R62). -/
def State.platFailed (s : State) (f : PlatFail) : State :=
  let s := s.fset A.HG_PLAT_STATUS F.HG_PLAT_STATUS_LAST_FAILED 1
  ((s.fset A.HG_PLAT_ERROR F.HG_PLAT_ERROR_DETAIL f.1).fset A.HG_PLAT_ERROR F.HG_PLAT_ERROR_SECTION f.2.1).fset A.HG_PLAT_ERROR F.HG_PLAT_ERROR_ENTRY (f.2.2 % 65536)

/-- The identifiers whose route changes (R55), as ranges: those of old and new entries that are not in both. -/
def changedRoutes (old new : List RouteE) : List (Nat × Nat) :=
  ((old.filter fun r => !new.contains r) ++ new.filter fun r => !old.contains r).map fun r => (r.first, r.last)

/-- The tenants that hold a way of a cluster in a plat. -/
def wayOwner (p : Option Plat) (c w : Nat) : Option Nat := p.bind fun p => (p.parts.find? fun e => bit (e.waysIn c) w).map (·.tenant)

/-- Write back and invalidate the ways that change tenant (R56). -/
def State.flushWays (s : State) (q : Plat) : State :=
  (List.range 16).foldl (fun s c =>
    let m := maskOf ((List.range 16).filter fun w => wayOwner s.plat.cur c w != wayOwner (some q) c w)
    if m = 0 then s else (s.linesIn c m 0 (2 ^ 60)).foldl (fun s l => (s.writeBack l).dropLine c l) s) s

/-- The partitions that hold a way of a cluster in a plat. -/
def wayParts (p : Option Plat) (c w : Nat) : List Nat :=
  (List.range 16).filter fun i => p.any fun p => p.parts.any fun e => e.id == i && bit (e.waysIn c) w

/-- The Scan states in regions whose set of partitions a plat changes (R271, R285). -/
def State.savesDue (s : State) (q : Plat) : List ScSt :=
  (List.range 16).flatMap fun c => s.scIn c ((List.range 16).filter fun w => wayParts s.plat.cur c w != wayParts (some q) c w)

/-- Does the save of a state still wait: for its command to retire, for a page or for a domain (R282)? -/
def State.saveWaits (s : State) (x : ScSt) : Bool := s.scBusy x || (match s.saveTry x with
  | .wait _ => true
  | _ => false)

/-- Save what a plat being applied requires (R282, R285), as far as it can be done now. -/
def State.platSave (s : State) (q : Plat) : State :=
  (s.savesDue q).foldl (fun s x =>
    if s.scBusy x then s
    else match s.saveTry x with
      | .ready => s.scSave x
      | e => s.saveTouch e) s

/-- Is a request of this device outstanding to an identifier whose route drains (R55)? -/
def State.drainBusy (s : State) : Bool :=
  s.reqs.any (fun q => q.wire.isSome && s.draining q.dev) ||
  (List.range 4).any fun n => (s.blPort n).q.any fun x => x.inp == 8 && s.draining x.fr.dst

/-- Steps 3 and 4 of R57 on a valid plat: every RWL field is locked, changing ways are written back, Scan states of changing regions saved (R285), the route drain starts and the shadow copies are written. A plat that leaves confidential mode unbinds every bound tenant (R593). -/
def State.platApply (s : State) (q : Plat) (boot : Bool) : State :=
  let s := s.fset A.HG_PLAT_STATUS F.HG_PLAT_STATUS_STATE 2
  let s := (s.flushWays q).platSave q
  let s := if s.confMode && !q.conf then (List.range 8).foldl (fun s n =>
      if (s.ntTen n).binder.isSome then (s.eraseTenant n).clearBinding n else s) s else s
  let drain := changedRoutes s.routeEs q.routes
  let rings := (s.placeRings q).1
  let journal : Tab (List Nat) := q.parts.foldl (fun m e => Tab.set m [] e.id (
    if (s.changedBy q).contains e.id then e.journalFrames else Tab.get s.plat.journal [] e.id)) []
  { s with plat := { s.plat with shadow := some q, drain := drain, locked := true, drained := drain.isEmpty, shRings := rings, shJournal := journal, boot := boot } }

/-- Verify and validate an image and begin to apply it (R57 steps 1 to 4): the failure, if any, and the state. -/
def State.platLoad (s : State) (img : List Nat) (boot : Bool) : State × Option PlatFail :=
  if s.plat.shadow.isSome then (s.platFailed (0x81, 0xF, 0), some (0x81, 0xF, 0))
  else match s.validate img with
  | .inl f => (s.platFailed f, some f)
  | .inr q =>
    if (s.affectedBy q).all s.quiesced then (s.platApply q boot, none)
    else (s.platFailed (0x80, 0xF, 0), some (0x80, 0xF, 0))

/-- Bind the compare channels (R509): a binding that does not change is left as it stands; one that ends clears EN and BOUND. -/
def State.bindTicks (s : State) (old : List TickE) (new : List TickE) : State :=
  (List.range 8).foldl (fun s n =>
    let at_ (l : List TickE) : Option TickE := l.find? fun t => t.source == 0 && t.chan == n
    match at_ new with
    | some t =>
      if (at_ old).any (fun o => o.id == t.id && o.period == t.period) then s
      else
        let s := s.wr (A.TU_TC_PERIOD n) (BitVec.ofNat 64 t.period)
        let s := (s.fset (A.TU_TC_CTRL n) F.TU_TC_CTRL_MODE 1).fset (A.TU_TC_CTRL n) F.TU_TC_CTRL_EN 0
        (s.fset (A.TU_TC_BIND n) F.TU_TC_BIND_BOUND 1).fset (A.TU_TC_BIND n) F.TU_TC_BIND_CLASS t.id
    | none =>
      if (at_ old).isSome then (s.fset (A.TU_TC_CTRL n) F.TU_TC_CTRL_EN 0).fset (A.TU_TC_BIND n) F.TU_TC_BIND_BOUND 0 else s) s

/-- Write the microphones' calibration deltas (R433). -/
def State.applyCals (s : State) (cs : List CalE) : State :=
  cs.foldl (fun s c =>
    let d := unsgn 16 c.delta
    if 0x300 ≤ c.item ∧ c.item ≤ 0x308 then s.fset (A.AU_CAL_DELTA (c.item - 0x300)) F.AU_CAL_DELTA_GAIN d
    else if 0x310 ≤ c.item ∧ c.item ≤ 0x318 then s.fset (A.AU_CAL_DELTA (c.item - 0x310)) F.AU_CAL_DELTA_DELAY d
    else s) s

/-- What the applied plat gives the registers that are derived from it (R61 to R64, R97, R483, R582, R601). -/
def State.deriveRegs (s : State) (q : Plat) : State :=
  let s := s.wr A.HG_PLAT_SERIAL (BitVec.ofNat 64 q.serial)
  let s := ((s.fset A.HG_PLAT_INFO F.HG_PLAT_INFO_DEVICE_ID (if q.standalone then 0 else q.devId)).fset A.HG_PLAT_INFO F.HG_PLAT_INFO_CONFIG_CLASS q.confClass).fset
    A.HG_PLAT_INFO F.HG_PLAT_INFO_CONFIDENTIAL (b2n q.conf)
  let s := (List.range 12).foldl (fun s i => s.wr (A.HG_PLAT_DIGEST i) (BitVec.ofNat 64 (field q.digest (4 * i) 4))) s
  let s := s.fset A.HG_PLAT_STATUS F.HG_PLAT_STATUS_STATE 3
  let s := (List.range 8).foldl (fun s n =>
    let t := q.tenants.find? fun t => t.id == n
    let w (s : State) (a v : Nat) : State := s.wr a (BitVec.ofNat 64 v)
    w (w (w s (A.VC_QUOTA_T1 n) ((t.map (·.q1)).getD 0)) (A.VC_QUOTA_T2 n) ((t.map (·.q2)).getD 0)) (A.VC_QUOTA_T3 n) ((t.map (·.q3)).getD 0)) s
  let s := (List.range 16).foldl (fun s c => (s.fset (A.LK_C_LEVEL c) F.LK_C_LEVEL_MAX (s.domE (16 + c)).maxLevel).setLevel c) s
  let s := s.fset A.NT_INFO F.NT_INFO_CONF_ACTIVE (b2n q.conf)
  s.fset A.DB_STATUS F.DB_STATUS_TAP_RESTRICTED (b2n q.conf)

/-- Ports that no route names are held Off; the others are enabled (R516). -/
def State.applyPorts (s : State) : State :=
  (List.range 4).foldl (fun s n =>
    let d := 9 + n
    if s.portHeld d then (if (s.dom d).st = .off then s else (s.loseDomain d).setDom d Dom.reset)
    else if (s.dom d).st = .off then s.demandWake d else s) s

/-- The rings of the entries whose storage a plat places anew start from zero with their storage zeroed, disabled; contexts that changed hands are FREE; groups of changed partitions take ascending ranks. -/
def State.startRings (s : State) (old : Option Plat) (q : Plat) (changed : List Nat) (oldFrames : Tab (List Nat)) : State :=
  let oldRings := (old.map (·.rings)).getD []
  let fresh := q.rings.filter fun r => changed.contains r.part && !(oldRings.contains r && Tab.get oldFrames [] r.first == Tab.get s.plat.ringFrames [] r.first)
  let s := fresh.foldl (fun s r =>
    let s := (Tab.get s.plat.ringFrames [] r.first).foldl (fun s f => s.zeroFill (frameAddr f) pageSize) s
    (List.range r.count).foldl (fun s i => { s with hg := { s.hg with rings := Tab.set s.hg.rings RingSt.reset (r.first + i) RingSt.reset } }) s) s
  let gone := oldRings.filter fun r => !q.rings.contains r
  let ctxs := (fresh ++ gone).flatMap fun r => (List.range r.ctxN).map fun i => r.ctx0 + i
  let s := ctxs.foldl (fun s c => s.setCtx c Ctx.free) s
  let grps := (q.groups ++ (old.map (·.groups)).getD []).filter fun g => changed.contains g.part
  { s with hg := { s.hg with maps := grps.foldl (fun m g => Tab.set m [] g.id []) s.hg.maps, held := grps.foldl (fun h g => NSet.rem g.id h) s.hg.held,
                             parts := changed.foldl (fun m i => Tab.set m PartS.idle i PartS.idle) s.hg.parts } }

/-- Step 5 of R57: the shadow copies are committed in one step. -/
def State.platCommit (s : State) : State :=
  match s.plat.shadow with
  | none => s
  | some q =>
    let old := s.plat.cur
    let changed := s.changedBy q
    let tens := (List.range 8).filter fun n => (old.bind fun p => p.tenants.find? fun t => t.id == n) != q.tenants.find? fun t => t.id == n
    let vaults := (List.range 128).filter fun v =>
      let o := (old.bind fun p => p.vaultOwner v).map (·.tenant)
      o.isSome && o != (q.vaultOwner v).map (·.tenant)
    let oldFrames := s.plat.ringFrames
    let oldAll := (s.plat.journal.flatMap (·.2)) ++ oldFrames.flatMap (·.2)
    let wasConf := s.confMode
    let boot := s.plat.boot
    let s : State := { s with plat := { s.plat with cur := some q, shadow := none, drain := [], drained := false, ringFrames := s.plat.shRings, journal := s.plat.shJournal,
                                                    shRings := [], shJournal := [], boot := false } }
    let s := (oldAll.filter fun f => !s.reservedFrames.contains f).foldl (fun s f => s.zeroFill (frameAddr f) pageSize) s
    let s := s.startRings old q changed oldFrames
    let s := s.deriveRegs q
    let s := s.bindTicks ((old.map (·.ticks)).getD []) q.ticks
    let s := s.applyCals q.cals
    let s := tens.foldl (fun s n => s.clearBinding n) s
    let win : Tab Nat := q.tenants.foldl (fun m t => (q.window t.id).1.foldl (fun m w => Tab.set m 0 w.1 w.2) m) []
    let s : State := { s with host := { s.host with win := win }, nt := { s.nt with rearmed := false },
                              vc := { s.vc with fill := s.vc.fill ++ vaults.filter fun v => !s.vc.fill.contains v } }
    let s := s.fset A.HG_PLAT_STATUS F.HG_PLAT_STATUS_VAULT_FILL (b2n (s.vc.fill != []))
    let s : State := if wasConf || !q.conf then s else { s with nt := { s.nt with turn := (q.tenants.foldl (fun m t => min m t.id) 8), since := s.now } }
    let s := s.applyPorts
    let s := if old.isNone ∨ boot then (stagingFrames.foldl (fun s f => s.zeroFill (frameAddr f) pageSize) s) else s
    (s.reclass).retireDue

/-! ### The mailbox (R583 to R585) -/

/-- A command pending in a mailbox page (8 is the device page). -/
def State.ntPending (s : State) (k : Nat) : Option NtCmd := Tab.get s.nt.pages none k

/-- Reply to a page (R582): BUSY clears, the status, detail and value are stored, and the page is free. -/
def State.ntReply (s : State) (k status detail : Nat) (value : Nat) : State :=
  let a := A.NT_MB_STATUS k
  let s := ((s.fset a F.NT_MB_STATUS_BUSY 0).fset a F.NT_MB_STATUS_STATUS status).fset a F.NT_MB_STATUS_DETAIL detail
  ({ s with nt := { s.nt with pages := Tab.set s.nt.pages none k none } }).wr (A.NT_MB_RESULT k) (BitVec.ofNat 64 value)

/-- Does an OP exist on a page (R585)? PLAT_LOAD and the commands from 5 on the device page, the others on tenant pages. -/
def ntOpOk (k op : Nat) : Bool := if k = 8 then op == 1 || (decide (5 ≤ op) && decide (op ≤ 8)) else decide (2 ≤ op) && decide (op ≤ 4)

/-- The length of a turn of the wheel in elapsed time: 100 µs (R584). -/
def ntTurn : Nat := 25600000

/-- The page whose command the Notary serves now (R584): outside confidential mode the next pending page in round robin; in it, the page whose turn runs. -/
def State.ntNow (s : State) : Option Nat :=
  if s.confMode then (if decide (s.now < s.nt.since + ntTurn) && (s.ntPending s.nt.turn).isSome then some s.nt.turn else none)
  else ((List.range 9).map fun i => (s.nt.turn + 1 + i) % 9).find? fun k => (s.ntPending k).isSome

/-- Take a turn for a page (R584). -/
def State.ntTake (s : State) (k : Nat) : State := if s.confMode then s else { s with nt := { s.nt with turn := k } }

/-- Serve a page's command when it is its turn and its OP is the row's; the Notary must be On. A PLAT_LOAD whose plat is being applied waits for its reply. -/
def ntRow (k op : Nat) (s : State) (f : State → State) : Out :=
  match s.ntPending k with
  | none => .next s
  | some c =>
    if c.op ≠ op ∨ s.ntNow ≠ some k ∨ (op = 1 ∧ s.plat.shadow.isSome ∧ c.off = 1) then .next s
    else .next (needOn [6] s (f (s.ntTake k)))

/-- The tenant that wrote a page's command, or none for boot firmware (R582). -/
def State.ntWriter (s : State) (k : Nat) : Option Nat := if k < 8 then some k else s.admin

/-- The argument registers of a page. -/
def State.ntArg (s : State) (k i : Nat) : Nat := (s.rd (A.NT_MB_ARG0 k + 8 * i)).toNat

/-- Read an image of the device page's writer (R585): boot firmware reads any local memory, a tenant what R68 and R77 allow; none when the check fails or a byte is poisoned, which the Boolean tells. -/
def State.ntImage (s : State) (boot : Bool) (a n : Nat) : Option (List Nat × Bool) :=
  if boot then
    (if (area a n == .t0 || area a n == .t1 || area a n == .t2) && decide (a + n ≤ 2 ^ 43) then
      let b := s.homePB a n
      some (b.map (·.1), b.any (·.2))
    else none)
  else match s.admin with
  | none => none
  | some t =>
    match s.reach (viaHome t) a n false locLocal with
    | .bad => none
    | _ =>
      let b := s.readHome t a n
      some (b.map (·.1), b.any (·.2))

/-- PLAT_LOAD (R57, R585): the Notary copies the image to its staging buffer, verifies and validates it, and the Headgate writes its shadow copies; the reply of a valid plat follows its commit. -/
def execPlatLoad (s : State) : Out :=
  ntRow 8 1 s fun s =>
    let c := (s.ntPending 8).getD ⟨1, false, 0, [], false⟩
    let n := s.ntArg 8 1
    let fail (s : State) (f : PlatFail) : State := (s.platFailed f).ntReply 8 7 f.1 0
    if 131072 < n then fail s (0x03, 0xF, 0)
    else if s.plat.shadow.isSome then fail s (0x81, 0xF, 0)
    else match s.ntImage c.boot (s.ntArg 8 0) n with
    | none => s.ntReply 8 7 0x02 0
    | some (_, true) => fail s (0x82, 0xF, 0)
    | some (img, false) => needOn [13, 15] s (
      match s.platLoad img false with
      | (s, some f) => s.ntReply 8 7 f.1 0
      | (s, none) => { s with nt := { s.nt with pages := Tab.set s.nt.pages none 8 (some { c with off := 1 }) } })

/-- PLAT_ROUTE_DRAIN_END (R55): no transaction to an identifier whose route changes is outstanding any more. -/
def execPlatRouteDrainEnd (s : State) : Out :=
  if s.plat.shadow.isNone || s.plat.drained || s.drainBusy then .next s else .next { s with plat := { s.plat with drained := true } }

/-- PLAT_APPLY_COMMIT (R57 steps 5 and 6): once the drain has ended and the saves of R285 are made, the shadow copies are committed, the plat is measured, and the Notary replies OK. A state whose save failed is lost (log entry 75). -/
def execPlatApplyCommit (s : State) : Out :=
  match s.plat.shadow with
  | none => .next s
  | some q =>
    if !s.plat.drained then .next s
    else
      let s := s.platSave q
      if (s.savesDue q).any s.saveWaits then .next s
      else .next (needOn [13, 15] s (
        let s := ((s.savesDue q).foldl (fun s x => s.scDrop x) s).platCommit
        match s.ntPending 8 with
        | some c => if c.op = 1 ∧ c.off = 1 then s.ntReply 8 0 0 0 else s
        | none => s))

/-- A reset before step 5 of R57 discards the shadow copies (R58): the device stays under the plat it had, and the command that brought the new one ends ABORTED (log entry 75). -/
def State.dropShadow (s : State) : State :=
  if s.plat.shadow.isNone then s
  else
    let s : State := { s with plat := { s.plat with shadow := none, drain := [], drained := false, shRings := [], shJournal := [], boot := false } }
    let s := s.fset A.HG_PLAT_STATUS F.HG_PLAT_STATUS_STATE (if s.plat.cur.isSome then 3 else 0)
    match s.ntPending 8 with
    | some c => if c.op = 1 ∧ c.off = 1 then s.ntReply 8 4 0 0 else s
    | none => s

/-- VAULT_FILL_DONE (R56): a vault that changed tenant is zero-filled, its journal and ring frames apart, and its pages become allocatable. -/
def execVaultFillDone (v : Nat) (s : State) : Out :=
  if !s.vc.fill.contains v then .next s
  else .next (needOn [16 + v / 8, 32, 33, 34, 35] s (
    let s := ((s.placeKeys 1 v).filter fun f => !s.reservedFrames.contains f).foldl (fun s f => s.zeroFill (frameAddr f) pageSize) s
    let s : State := { s with vc := { s.vc with fill := s.vc.fill.filter fun x => x != v } }
    s.fset A.HG_PLAT_STATUS F.HG_PLAT_STATUS_VAULT_FILL (b2n (s.vc.fill != []))))

end Sys2Proof.Machine
end

