-- ==== Sys2Proof/Machine/Reset.lean ====
section
/-!
DEFINITION. Resets and boot: power-on, the boot image and the boot program, warm resets and their recovery, partition and tile resets, the thermal trip, and the Notary security reset (R364, R365, R489, R490, R607, R637 to R652).
-/
namespace Sys2Proof.Machine

/-! ### Fuses and the start of a boot (R578 to R582, R639, R642) -/

/-- The Notary's registers that hold fuse values (R582). -/
def State.readFuses (s : State) : State :=
  let f := s.nt.fuse
  let s := s.fset A.NT_INFO F.NT_INFO_LIFECYCLE f.life
  let s := s.fset A.NT_INFO F.NT_INFO_SLOT_REVOKED (maskOf ((List.range 4).filter fun i => f.revoked.has i))
  let s := s.fset A.NT_INFO F.NT_INFO_SLOT_WRITTEN (maskOf ((List.range 4).filter fun i => Tab.get f.keys [] i != []))
  let s := s.wr A.NT_FLOOR (BitVec.ofNat 64 s.nt.floor)
  let s := (s.fset A.NT_SVN F.NT_SVN_NOTARY f.svnN).fset A.NT_SVN F.NT_SVN_RUNNEL f.svnR
  (List.range 4).foldl (fun s i => s.wr (A.NT_UID i) (BitVec.ofNat 64 (field f.uid (4 * i) 4))) s

/-- BOOT_SEL as sampled at power-on (R640). -/
def State.bootSel (s : State) : Nat := s.fget A.LK_BOOT_STATUS F.LK_BOOT_STATUS_SOURCE

/-- The domains of the boot source (R642, R644): the host link, or the low-speed I/O. -/
def State.sourceDoms (s : State) : List Nat := if s.bootSel = 0 then [15, 7, 8] else if s.bootSel = 1 then [39] else []

/-- Step 1 of R642: the boot's domains are asked for and the device waits for an image; a reserved source stops the boot (R640). -/
def State.bootStart (s : State) : State :=
  let s : State := { s with rs := { s.rs with frame := 0, bootLen := 0, boot := false } }
  let s := (s.fset A.LK_BOOT_STATUS F.LK_BOOT_STATUS_STAGE 0).fset A.LK_BOOT_STATUS F.LK_BOOT_STATUS_ERROR (if 2 ≤ s.bootSel then 1 else 0)
  if 2 ≤ s.bootSel then s.demandWake 6
  else ([6, 15, 13, 32, 33, 34, 35, 16, 31] ++ s.sourceDoms).foldl (fun s d => s.demandWake d) s

/-- POWER_ON_RESET (R637, R639): every state starts from its reset value and time from 0; the fuses are read as they stand, on a part's first power-on as the maker wrote them; BOOT_SEL and ADDR_SEL are sampled, and the latter gives the static address (R662). -/
def execPowerOnReset (sel addr : Nat) (uid : List Nat) (life : Nat) (keys : List (List Nat)) (floors : List Nat) (svnN svnR : Nat) (fwKey cert : List Nat) (grade : Nat) (s : State) : Out :=
  if s.rs.up then .next s
  else
    let made : Fuses := ⟨uid, life, (List.range 4).foldl (fun m i => Tab.set m [] i (keys.getD i [])) [], [], floors, svnN, svnR, fwKey, cert, grade⟩
    let fuse := if s.nt.fuse = Fuses.blank then made else s.nt.fuse
    let t : State := { State.reset with pending := s.pending, free := s.free, nt := { NtSt.reset with fuse := fuse, draw := s.nt.draw },
                                        rs := { RsSt.reset with up := true } }
    .next (((t.fset A.LK_BOOT_STATUS F.LK_BOOT_STATUS_SOURCE (sel % 4)).fset A.IO_ADDR F.IO_ADDR_STATIC_ADDR (0x58 + addr % 4)).readFuses.bootStart)

/-- LOSS_OF_POWER (R637): everything but the fuses is lost, and the device waits for power-on reset to end. -/
def execLossOfPower (s : State) : Out :=
  .next { State.reset with pending := s.pending, free := s.free, nt := { NtSt.reset with fuse := s.nt.fuse, draw := s.nt.draw } }

/-! ### The Notary security reset (R607, R651) -/

/-- The registers as a Notary security reset leaves them (R651): blocks of D0 keep theirs, as do training, Runnel and the Scan epochs, wear and fenced engines; locked fields everywhere, and all else, return to their reset values. -/
def State.securityRegs (s : State) : State :=
  { s with regs := s.regs.filterMap fun p =>
      match regAt p.1 with
      | none => none
      | some h =>
        if h.reg.name == "HG_SCH_TILE_WEAR" || h.reg.name == "SC_EPOCH" || h.reg.name == "IO_ADDR" || h.reg.name == "HI_LINK_STATUS" then some p
        else if h.reg.name == "XM_TRAIN" || h.reg.name == "XM_CAP" || h.blk == "RN" || (regDom p.1 == 0 && h.blk != "NT") then
          let v := h.reg.flds.foldl (fun v f => if f.acc = .rwl then setBits v f.hi f.lo (bits (regReset p.1).toNat f.hi f.lo) else v) p.2.toNat
          if BitVec.ofNat 64 v = regReset p.1 then none else some (p.1, BitVec.ofNat 64 v)
        else none }

/-- What a Notary security reset erases (R607): keys, secrets and sessions, jobs, rings and the journal, the plat, and all of T0, T1 and T2 with the caches and stores. `retired` is what becomes of the retired set. -/
def State.erase (s : State) (retired : NSet) : State :=
  let nt : NtSt := { NtSt.reset with fuse := s.nt.fuse, draw := s.nt.draw, fwR := s.nt.fwR, svnR := s.nt.svnR }
  let z := State.reset
  let s := (List.range 16).foldl (fun s c => s.scClear c) s
  let s := s.hostAbandon.securityRegs
  let s : State := { s with mem := [], psn := [], caches := [], tlb := [], arb := ArbSt.reset, vc := z.vc, plat := z.plat, threads := [], tiles := [], jobs := [], net := [], ebuf := [], runs := [],
                            eng := z.eng, sc := z.sc, halo := [], hg := z.hg, bl := z.bl, nt := nt,
                            fl := { FlSt.reset with fenced := s.fl.fenced }, stallq := [], extq := [], resumeq := [], reqs := [], fsrBuf := [],
                            cam := { s.cam with streams := [], out := [] }, retired := retired,
                            host := { s.host with ringCfg := [], ringCq := [], win := [], vec := [], egress := [], exports := [], inKey := [], outKey := [], sess := [], rekeyed := [], inWait := [] },
                            rs := { s.rs with boot := false, warm := none } }
  s.readFuses

/-- A Notary security reset (R607): what it erases, its record, every port DOWN with cause KEY, and the boot again with BOOT_SEL as sampled at power-on (R639). -/
def State.securityReset (s : State) : State :=
  let s := (s.erase []).fset A.LK_RESET_CAUSE F.LK_RESET_CAUSE_CAUSE 4
  let s := (List.range 4).foldl (fun s n => (s.fset (A.BL_STATUS n) F.BL_STATUS_STATE 5).fset (A.BL_STATUS n) F.BL_STATUS_DOWN_CAUSE 6) s
  (s.fsr 0x14 { domain := 6 }).bootStart

/-! ### The boot image (R640, R641, R644) -/

/-- The first staged byte (R640). -/
def stagingBase : Nat := 48956 * pageSize

/-- A boot failure (R644): ERROR is set, STAGE stays, boot firmware has ended, and only D0, D6 and the boot source's domains stay On. -/
def State.bootFail (s : State) (e : Nat) : State :=
  let keep := [0, 6] ++ s.sourceDoms
  let s := (s.clearTiles [0]).setJob 1024 none
  let s := ((List.range 40).filter fun d => !keep.contains d).foldl (fun s d =>
    if (s.dom d).st = .off ∧ !(s.dom d).waking then s else (s.loseDomain d).setDom d Dom.reset) s
  let s : State := { s with wakeq := s.wakeq.filter (fun d => keep.contains d), rs := { s.rs with boot := false, frame := 0, bootLen := 0 } }
  s.fset A.LK_BOOT_STATUS F.LK_BOOT_STATUS_ERROR e

/-- A new image begins after a failure (R644): the boot starts again. -/
def State.bootAgain (s : State) : State := if s.fget A.LK_BOOT_STATUS F.LK_BOOT_STATUS_ERROR = 0 then s else s.bootStart

/-- Does the device wait for a boot image (R642): no plat, no boot program, no failure? -/
def State.bootWaits (s : State) : Bool :=
  s.rs.up && s.plat.cur.isNone && s.plat.shadow.isNone && !s.rs.boot && !s.pw.trip

/-- IMAGE_LENGTH as frame 0 of an SPI transfer gave it (R640). -/
def State.spiLen (s : State) : Nat := nat (s.homeBytes (stagingBase + 8) 4)
where
  /-- A little-endian number. -/
  nat (b : List Nat) : Nat := field b 0 4

/-- Is a length in the range of R641? -/
def imageLenOk (n : Nat) : Bool := n % 64 == 0 && decide (512 ≤ n) && decide (n ≤ 8388608)

/-- BOOT_SPI_FRAME (R640): a 64-byte frame of the boot transfer. One whose CRC and alive value are right is accepted and its payload staged; another is discarded. After a failure frame 0 is expected again. -/
def execBootSpiFrame (bytes : List Nat) (s : State) : Out :=
  if !s.bootWaits || s.bootSel != 1 then .next s
  else
    let first := s.fget A.LK_BOOT_STATUS F.LK_BOOT_STATUS_ERROR != 0
    let k := if first then 0 else s.rs.frame
    if bytes.length ≠ 64 ∨ field bytes 60 4 ≠ crc32c (bytes.take 60) ∨ field bytes 58 2 ≠ k % 65536 then .next s
    else .next (needOn [39, 15, 31, 33] s.bootAgain (
      let s := s.bootAgain
      let n := if k = 0 then field bytes 8 4 else s.spiLen
      if !imageLenOk n then s.bootFail 2
      else if 58 * k ≥ n then s
      else
        let m := min 58 (n - 58 * k)
        if !zeroBytes bytes m (58 - m) then s.bootFail 2
        else
          let s := s.homeStore (stagingBase + 58 * k) (bytes.take m) false
          { s with rs := { s.rs with frame := k + 1 } }))

/-- A directory entry of a boot image (R641): TYPE, SIGNER_SLOT, OFFSET, LENGTH and its reserved bytes. -/
structure BootSec where
  ty : Nat
  slot : Nat
  off : Nat
  len : Nat
  rsv : Nat
  deriving DecidableEq, Repr

/-- The directory of a boot image. -/
def bootDir (img : List Nat) : List BootSec :=
  (List.range 4).map fun i =>
    let o := 0x40 + 16 * i
    ⟨field img o 2, field img (o + 2) 1, field img (o + 4) 4, field img (o + 8) 4, field img (o + 3) 1 + field img (o + 12) 4⟩

/-- Is one directory entry well formed among all of them (R641)? -/
def bootSecOk (n : Nat) (ds : List BootSec) (d : BootSec) : Bool :=
  decide (1 ≤ d.ty) && decide (d.ty ≤ 4) && (ds.filter fun e => e.ty == d.ty).length == 1 && d.rsv == 0 &&
  (if d.ty = 3 then decide (d.slot ≤ 3) && decide (d.len ≤ 1048576) else d.slot == 0) &&
  d.off % 64 == 0 && decide (0x80 ≤ d.off) && decide (d.off + d.len ≤ n) &&
  ds.all fun e => e == d || decide (e.off + e.len ≤ d.off) || decide (d.off + d.len ≤ e.off)

/-- Is a staged image of `n` bytes well formed (R641)? -/
def bootImageOk (img : List Nat) (n : Nat) : Bool :=
  imageLenOk n && field img 0 4 == 0x54425645 && field img 4 2 == 1 && field img 6 1 == 4 && field img 7 1 == 0 && field img 8 4 == n &&
  field img 0xC 4 == crc32c (putBytes img 0xC [0, 0, 0, 0]) && zeroBytes img 0x10 48 &&
  (bootDir img).all (bootSecOk n (bootDir img))

/-- The section of a type. -/
def bootSec (img : List Nat) (ty : Nat) : List Nat :=
  match (bootDir img).find? fun d => d.ty == ty with
  | some d => slice img d.off d.len
  | none => []

/-- The context number that stands for boot firmware on tile 0. -/
def bootCtx : Nat := 1024

/-- Start the boot program (R642 step 6, R643): it is copied to tile 0, and thread 0 starts there with the image's place, its length and BOOT_SEL. -/
def State.bootRun (s : State) (prog : List Nat) (n : Nat) : State :=
  let s := s.homeStore t0Base prog false
  let s := s.setJob bootCtx (some ⟨[0], bootTen, 0xFF, true, false, false, [], [], [], [], []⟩)
  let s := s.setTile 0 { Tile.idle with job := some bootCtx }
  let s := (List.range 16).foldl (fun s k => s.setThread 0 k { Thread.idle with cyc0 := s.tileCycles 0 }) s
  let t : Thread := { Thread.idle with st := .ready, pc := BitVec.ofNat 64 t0Base, cyc0 := s.tileCycles 0 }
  let t := [(1, stagingBase), (2, n), (3, s.bootSel)].foldl (fun (t : Thread) p => t.setX (BitVec.ofNat 5 p.1) (BitVec.ofNat 64 p.2) false) t
  let s : State := { s.setThread 0 0 t with rs := { s.rs with boot := true } }
  s.fset A.LK_BOOT_STATUS F.LK_BOOT_STATUS_STAGE 3

/-- Steps 4 to 6 of R642 on a well-formed image. -/
def State.bootVerify (s : State) (img : List Nat) (n : Nat) : State :=
  let fw1 := bootSec img 1
  let fw2 := bootSec img 2
  match Config.firmware s.nt.fuse.fwKey fw1 with
  | none => (s.bootFail 3).securityReset.fset A.LK_BOOT_STATUS F.LK_BOOT_STATUS_ERROR 3
  | some (v, up) =>
    if v < s.nt.fuse.svnN then s.bootFail 6
    else
      let f := s.nt.fuse
      let s : State := { s with nt := { s.nt with fwN := sha384 fw1, svnN := v, fuse := { f with svnN := if up then v else f.svnN } } }
      let s := s.readFuses.fset A.LK_BOOT_STATUS F.LK_BOOT_STATUS_STAGE 2
      match Config.firmware s.nt.fuse.fwKey fw2 with
      | none => s.bootFail 4
      | some (v, up) =>
        if v < s.nt.fuse.svnR then s.bootFail 6
        else
          let f := s.nt.fuse
          let s : State := { s with nt := { s.nt with fwR := sha384 fw2, svnR := v, fuse := { f with svnR := if up then v else f.svnR } } }
          let s := s.readFuses.demandWake 1
          let sec := bootSec img 3
          let slot := (((bootDir img).find? fun d => d.ty == 3).map (·.slot)).getD 0
          let key := Tab.get s.nt.fuse.keys [] slot
          let body := sec.take (sec.length - 128)
          if sec.length < 128 ∨ key = [] ∨ s.nt.fuse.revoked.has slot ∨ !ecdsaOk key (sha384 body) (slice sec (sec.length - 128) 96) ∨ !zeroBytes sec (sec.length - 32) 32 then s.bootFail 5
          else s.bootRun body n

/-- BOOT_IMAGE_STAGED (R642 steps 3 to 6): the whole image is staged; it is checked, its firmware verified, and the boot program started. ERROR NOTARY_FW stays readable until then, since the boot goes on by itself after it (R644). -/
def execBootImageStaged (s : State) : Out :=
  let n := if s.bootSel = 0 then s.rs.bootLen else s.spiLen
  let e := s.fget A.LK_BOOT_STATUS F.LK_BOOT_STATUS_ERROR
  if !s.bootWaits || (e != 0 && e != 3) || (if s.bootSel = 0 then n == 0 else s.rs.frame == 0 || decide (58 * s.rs.frame < n)) then .next s
  else .next (needOn ([6, 15, 16, 31, 33] ++ s.sourceDoms) s (
    let s := (s.fset A.LK_BOOT_STATUS F.LK_BOOT_STATUS_STAGE 1).fset A.LK_BOOT_STATUS F.LK_BOOT_STATUS_ERROR 0
    if !imageLenOk n then s.bootFail 2
    else
      let img := s.homeBytes stagingBase n
      if !bootImageOk img n || s.homePsn stagingBase n then s.bootFail 2 else s.bootVerify img n))

/-- The end of boot firmware (R643): an exception with no handler is PROGRAM_FAULT, an end without a plat NO_PLAT; otherwise the boot is done. It waits while a plat is being applied and while stores are outstanding. -/
def State.bootEnd (s : State) : State :=
  match s.job bootCtx with
  | none => s
  | some j =>
    let ts := (List.range 16).map fun n => s.thread 0 n
    if !(j.ending || ts.all fun t => t.st == .idle) || ts.any fun t => t.acc.any Acc.isStore then s
    else if j.ending then s.bootFail 7
    else if s.plat.shadow.isSome then s
    else if s.plat.cur.isNone then s.bootFail 8
    else
      let s : State := { (s.clearTiles [0]).setJob bootCtx none with rs := { s.rs with boot := false } }
      s.fset A.LK_BOOT_STATUS F.LK_BOOT_STATUS_STAGE 5

/-- JOB_END (R105, R356 to R358, R643): the last end condition of a context's job, or of boot firmware, holds. -/
def execJobEnd (ctx : Nat) (s : State) : Out := if ctx = bootCtx then .next s.bootEnd else .next (s.jobEnd ctx)

/-! ### Warm resets (R364, R365, R638, R645, R646) -/

/-- Does a register hold an event count, or another value that a warm reset leaves (R651)? -/
def warmKeeps (a : Nat) : Bool :=
  restoredReg a || (match regAt a with
    | some h => (h.reg.name != "BL_REKEY_THRESH" && h.reg.flds.all fun f => f.name == "COUNT" || f.name == "NS" || f.name == "VALUE" || f.name == "BYTES") ||
        h.reg.name == "HG_SCH_LAST_OVERRUN" || h.reg.name == "HG_SCH_LAST_OVERRUN_TIME"
    | none => false)

/-- The domains whose logic a warm reset resets (R645). -/
def warmDoms : List Nat := [4, 5, 9, 10, 11, 12, 13, 14] ++ (List.range 16).map (fun c => 16 + c) ++ [38]

/-- Journal writes already issued are performed (R645 step 2): the packets are ACCEPTED, and a job that had begun before its packet's acceptance leaves no effect (R350). -/
def State.settleWrites (s : State) : State :=
  (s.hg.jr.filter fun e => e.st == .writing).foldl (fun s e =>
    let s := if e.ctx = 0xFFFF then s else (s.dropJob e.ctx).freeCtx e.ctx
    let s := s.setJ e { e with st := .accepted, acceptTime := s.time, ctx := 0xFFFF }
    let x := (s.ringSt e.ring).goOn
    let s := s.setRing e.ring { x with acceptNext := (x.acceptNext + 1) % 2 ^ 32, cons := (x.cons + e.len) % 2 ^ 64, acceptTime := s.time }
    s.fadd (A.HG_P_ACCEPTED e.part) (63, 0) 1) s

/-- The bound contexts and the status each ends with at a warm reset (R358, R364): a job whose end has been reached, or that was being ended, keeps its own. -/
def State.warmEnds (s : State) (cause : Nat) : List (Nat × Nat × Nat) :=
  (s.hg.ctx.filter fun kv => kv.2.st == 1 || kv.2.st == 2).map fun kv =>
    if s.jobOver kv.1 || kv.2.kill.isSome then (kv.1, s.statusNow kv.1) else (kv.1, (4, cause))

/-- A job ends by a warm reset: retried when it was stopped by the reset or by a tile fault, else completed (R364, R365). -/
def State.warmEnd (s : State) (cause : Nat) (e : Nat × Nat × Nat) : State :=
  let s := s.setCtx e.1 { s.ctx e.1 with slots := [] }
  if e.2.2 = cause ∨ (State.isRetry (s.ctx e.1) ∧ e.2.2 = 0x30) then s.retryOrEnd e.1 e.2.1 e.2.2 else s.endJob e.1 e.2.1 e.2.2

/-- Write back the dirty lines of every cluster whose homes give no error response (R645, R646). -/
def State.warmFlush (s : State) : State :=
  (List.range 16).foldl (fun s c => (s.dirtyLines c).foldl (fun s l =>
    if s.domCheck (s.locDoms (.mem l.addr)) = .refuse then s else s.writeBack l) s) s

/-- Save the Scan states of every cluster; a cluster in whose store one stays has its store cleared (R645, R646). -/
def State.warmSave (s : State) : State :=
  (List.range 16).foldl (fun s c =>
    let s := s.scSaveEach (s.sc.st.filter fun x => x.cluster == c)
    if s.sc.st.any fun x => x.cluster == c then s.scClear c else s) s

/-- Arbitration after a reset: nothing waits; the counters stay (R651). -/
def ArbSt.idle (x : ArbSt) : ArbSt := { x with turn := [], last := [], grants := [], due := [] }

/-- Steps 1 to 4 of R645: a plat not yet committed is discarded (R58), jobs end, engine commands are abandoned with what they had counted (R208), moves are aborted, dirty lines and Scan states are saved, memory goes to self-refresh, and the named domains are held in reset. `cause` goes to LK_RESET_CAUSE, `job` is the CAUSE of ended jobs. -/
def State.warmDown (s : State) (cause job : Nat) : State :=
  let on := (List.range 40).filter fun d => d != 0 && s.isOn d
  let s := s.fset A.LK_RESET_CAUSE F.LK_RESET_CAUSE_CAUSE cause
  let s := if s.rs.boot then ({ s with rs := { s.rs with boot := false } } : State).fset A.LK_BOOT_STATUS F.LK_BOOT_STATUS_ERROR 8 else s
  let s := s.dropShadow.settleWrites
  let s := s.runs.foldl (fun s r => s.countRun r) s
  let s := (s.warmEnds job).foldl (fun s e => s.warmEnd job e) s
  let s := (s.abortMoves fun _ => true).warmFlush.warmSave.hostAbandon
  let s : State := { s with caches := [], tlb := [], arb := s.arb.idle, sc := ⟨[], []⟩, threads := [], tiles := [], jobs := [], net := [], ebuf := [], runs := [], halo := [],
                            eng := { s.eng with q := [] }, hg := { s.hg with parts := [], wdrawn := [] },
                            bl := { s.bl with ports := [], inbox := [], outq := [], reserved := [] }, stallq := [], extq := [], resumeq := [], reqs := [],
                            cam := { s.cam with streams := [], out := [] }, io := { s.io with dr := 0 },
                            wakeq := s.wakeq.filter (fun d => !warmDoms.contains d),
                            pw := { s.pw with wasOn := on }, rs := { s.rs with warm := some cause } }
  let s := warmDoms.foldl (fun s d => (s.wipeRegs d warmKeeps).setDom d Dom.reset) s
  (List.range 6).foldl (fun s i => if (s.dom (32 + i)).st = .off then s.setDom (32 + i) Dom.reset else s.setDom (32 + i) { Dom.reset with st := .ret }) s

/-- Publish every completion that is due, in ring order (R357, R364). -/
def State.publishAll (s : State) : State :=
  s.hg.jr.foldl (fun s e =>
    if e.st = .done ∧ (s.hg.jr.find? fun f => f.ring == e.ring) = some e then s.publish e else s) s

/-- Steps 5 to 8 of R645: D13 and the domains that were On wake, the plat is re-applied (R60), recovery publishes what is DONE, and every ring is disabled. -/
def State.warmUp (s : State) : State :=
  match s.rs.warm with
  | none => s
  | some _ =>
    let jr := s.hg.jr.flatMap fun e => s.journalDoms e.part ++ t1Doms (s.ringBase e.ring)
    let wake := (List.range 40).filter fun d => !s.isOn d && (d == 13 || ((d == 14 || (decide (16 ≤ d) && decide (d ≤ 37))) && s.pw.wasOn.has d) || jr.contains d)
    let s := wake.foldl (fun s d => (s.setDom d { Dom.reset with st := .on }).bump (A.LK_D_WAKES d)) s
    let s : State := { s with rs := { s.rs with warm := none }, pw := { s.pw with wasOn := [] } }
    let s := match s.plat.cur with
      | some q => ((s.deriveRegs q).applyCals q.cals).applyPorts
      | none => s
    let rings := s.ringEs.flatMap fun re => (List.range re.count).map fun i => re.first + i
    let s := rings.foldl (fun s r => if (s.ringSt r).enabled then s.setRing r { s.ringSt r with enabled := false } else s) s
    ((s.publishAll.retireDue).syncCore).bump A.LK_WARM_COUNT

/-- Is a reset that jobs still hold up in progress: one of a partition (0x23) or of a tile (0x24)? -/
def State.partResetRuns (s : State) (cause : Nat) : Bool :=
  s.hg.ctx.any fun kv => (kv.2.st == 1 || kv.2.st == 2) && kv.2.kill.any fun k => k.2 == cause

/-- Is a reset of R637 in progress? -/
def State.resetBusy (s : State) : Bool := s.rs.warm.isSome || s.partResetRuns 0x23 || s.partResetRuns 0x24

/-- A reset that meets a wider or equal one has no further effect (R638). -/
def State.absorbed (s : State) : State := s.bump A.LK_RESET_ABSORBED

/-- RST_N_ASSERT (R637, R638, R645): RST_N goes low with power good; a device software reset or a narrower one in progress is taken over. -/
def execRstNAssert (s : State) : Out :=
  let t : State := { s with rs := { s.rs with rstLow := true } }
  if !s.rs.up then .next t
  else if s.pw.trip || s.rs.warm == some 1 then .next t.absorbed
  else .next (t.warmDown 1 0x21)

/-- RST_N_RISE (R645): RST_N goes high after step 4. -/
def execRstNRise (s : State) : Out :=
  let t : State := { s with rs := { s.rs with rstLow := false } }
  if s.rs.rstLow && s.rs.warm.isSome then .next t.warmUp else .next t

/-- A device-level reset without RST_N runs through (R645): a software reset (cause 2) or a device fault (cause 3). -/
def State.deviceReset (s : State) (cause : Nat) : State :=
  if s.rs.warm.isSome || s.pw.trip then s.absorbed else (s.warmDown cause 0x22).warmUp

/-- DEVICE_FAULT (R608, R629, R645): an uncorrectable error in the control state of the Headgate (domain 13) or the network-on-chip (15) is recorded and recovered as a device software reset. -/
def execDeviceFault (dom : Nat) (s : State) : Out :=
  if dom ≠ 13 ∧ dom ≠ 15 then .next s else .next ((s.fsr 0x14 { domain := dom }).deviceReset 3)

/-! ### Partition and tile resets (R364, R647, R648) -/

/-- A tile's threads, registers, accumulators, activation tables and command buffer are zero (R647, R648); local stores already issued are still performed, and messages in its queues go when their job's end discards them. -/
def State.zeroTile (s : State) (t : Nat) : State :=
  let s := (List.range 16).foldl (fun s n =>
    let u := s.thread t n
    let acc := u.acc.filter fun a => a.isStore && a.todo.flatten.all fun p => p.tag == 0
    (s.setThread t n { Thread.idle with acc := acc, accId := u.accId, mq := u.mq }).unstall (t * 16 + n)) s
  let s := s.setTile t { s.tile t with acc := [], accp := [] }
  { s with regs := Tab.clear s.regs (A.MX_ACT_CFG t 0) 0x400, ebuf := s.ebuf.filter fun c => c.tile != t }

/-- A partition reset (R647). Commands that have started run to their results; then the completions are published and the contexts become FREE. -/
def State.partReset (s : State) (p : PartE) : State :=
  let rings := (s.ringEs.filter fun re => re.part == p.id).flatMap fun re => (List.range re.count).map fun i => re.first + i
  let s := rings.foldl (fun s r => s.disableRing r) s
  let cs := (s.hg.ctx.filter fun kv => kv.2.part == p.id && (kv.2.st == 1 || kv.2.st == 2)).map (·.1)
  let s := cs.foldl (fun s c => (s.setCtx c { s.ctx c with slots := [] }).killJob c 4 0x23) s
  let s := (s.eng.q.filter fun q => q.cmd.part == p.id).foldl (fun s q => s.haloRelease q.cmd) s
  let s : State := { s with eng := { s.eng with q := s.eng.q.filter fun q => q.cmd.part != p.id }, ebuf := s.ebuf.filter (fun c => c.part != p.id),
                            hg := { s.hg with wdrawn := s.hg.wdrawn.filter fun w => w.cmd.part != p.id } }
  let s := (bitsOf 128 p.tiles).foldl (fun s t => s.zeroTile t) s
  let s := s.abortMoves fun n => n == p.tenant
  let s := (List.range 16).foldl (fun s c => if p.waysIn c = 0 then s else s.rangeOp c (p.waysIn c) 2 0 (2 ^ 60)) s
  let s := s.scSaveEach (s.sc.st.filter fun x => x.part == p.id)
  let s := (s.sc.st.filter fun x => x.part == p.id).foldl (fun s x => s.scDrop x) s
  (s.hg.jr.filter fun e => e.part == p.id && e.st == .accepted).foldl (fun s e => s.finish e 0xFFFF 4 0x23 0) s

/-- A tile reset (R648). -/
def State.tileReset (s : State) (t : Nat) : State :=
  let cs := (s.hg.ctx.filter fun kv => (kv.2.st == 1 || kv.2.st == 2) && (s.rankMap kv.2.grp).contains t).map (·.1)
  (cs.foldl (fun s c => s.killJob c 4 0x24) s).zeroTile t

/-- A command of LK_RESET_CMD is refused (R652). -/
def State.resetRefused (s : State) : State := s.fset A.LK_RESET_STATUS F.LK_RESET_STATUS_REFUSED 1

/-- LK_RESET_CMD (R638, R645, R647, R648, R652): KIND 1 DEVICE, 2 PARTITION, 3 TILE; a tenant may reset its own partitions and tiles, LK_ADMIN's tenant anything. -/
def State.resetCmd (s : State) (who : Who) (kind part tile : Nat) : State :=
  let own : Bool := match who with
    | .tenant n => if kind = 2 then (s.partE part).any fun p => p.tenant == n else kind == 3 && s.ownsTile n tile
    | _ => false
  if !(s.lkAdmin who || own) then s.resetRefused
  else
    let t := s.fset A.LK_RESET_STATUS F.LK_RESET_STATUS_LAST_KIND kind
    if kind = 1 then t.deviceReset 2
    else if s.rs.warm.isSome || s.pw.trip || s.partResetRuns 0x23 || (kind == 3 && s.partResetRuns 0x24) then t.absorbed
    else if kind = 2 then
      (match s.partE part with
      | none => s.resetRefused
      | some p => (13 :: s.journalDoms part).foldl (fun s d => s.wakeEvent d) (t.partReset p))
    else if s.retired.has tile || s.fl.cls.any fun e => e.eng == 0 && e.unit == tile then s.resetRefused
    else t.tileReset tile

/-- DEVICE (R645, R652): a write of LK_RESET_CMD with KIND DEVICE. -/
def execDevice (who : Who) (s : State) : Out := .next (s.resetCmd who 1 0 0)
/-- PARTITION (R647, R652): a write of LK_RESET_CMD with KIND PARTITION. -/
def execPartition (who : Who) (part : Nat) (s : State) : Out := if 16 ≤ part then .next s else .next (s.resetCmd who 2 part 0)
/-- TILE (R648, R652): a write of LK_RESET_CMD with KIND TILE. -/
def execTile (who : Who) (tile : Nat) (s : State) : Out := if 128 ≤ tile then .next s else .next (s.resetCmd who 3 0 tile)

/-! ### Temperature and the thermal trip (R488 to R491, R649) -/

/-- A thermal trip (R490, R649): everything but D0 goes Off at once; jobs, journal, plat and memory are lost, and time, histories, wear and the retired set survive. It is recorded and holds until it is cleared. -/
def State.thermalTrip (s : State) : State :=
  let s := (s.erase s.retired).tripOff
  let s := (s.fset A.LK_STATUS F.LK_STATUS_TRIP 1).fset A.LK_RESET_CAUSE F.LK_RESET_CAUSE_CAUSE 5
  s.fsr 0x13 {}

/-- Has any sensor reached a temperature in quarter degrees? -/
def State.hotter (s : State) (q : Int) : Bool :=
  ((List.range 16).any fun c => decide (q ≤ s.tempC c)) || (List.range 4).any fun n => (List.range 16).any fun c => decide (q ≤ s.tempD n c)

/-- The temperatures and refresh multipliers that LK_C_TEMP shows (R488, R491, R499). -/
def State.showTemps (s : State) : State :=
  let m := (List.range 4).foldl (fun m n => max m (s.layerRef n)) 0
  (List.range 16).foldl (fun s c =>
    ((s.fset (A.LK_C_TEMP c) F.LK_C_TEMP_LOGIC (unsgn 12 (s.tempC c))).fset (A.LK_C_TEMP c) F.LK_C_TEMP_DRAM (unsgn 12 (s.tempM c))).fset (A.LK_C_TEMP c) F.LK_C_TEMP_REF_MULT m) s

/-- Lower a cluster's cap at the sample that crosses a threshold, and note since when it has been cool enough to rise (R489). -/
def State.lowerCap (s : State) (c : Nat) : State :=
  let cap := min (Tab.get s.pw.tcap 3 c) (s.thermCap c 0)
  let cool := if cap < 3 ∧ cap < s.thermCap c 8 then some ((Tab.get s.pw.cool none c).getD s.now) else none
  { s with pw := { s.pw with tcap := Tab.set s.pw.tcap 3 c cap, cool := Tab.set s.pw.cool none c cool } }

/-- THERMAL_SAMPLE (R488 to R491): the 16 logic and 64 DRAM sensors read in quarter degrees; caps and multipliers follow, and at 105 °C the device trips. -/
def execThermalSample (logic dram : List Int) (s : State) : Out :=
  let s : State := { s with pw := { s.pw with logic := logic, dram := dram } }
  let s := s.showTemps
  if s.pw.trip then .next s
  else if s.hotter 420 then .next s.thermalTrip
  else .next ((List.range 16).foldl (fun s c => s.lowerCap c) s).applyCaps

/-- A write of CLR to LK_TRIP_CLR (R490, R649): with every sensor below 95 °C the trip ends and the boot starts at step 1. -/
def State.tripClr (s : State) : State :=
  if s.pw.trip && !s.hotter 380 then ({ s with pw := { s.pw with trip := false } } : State).bootStart else s

/-- LK_TRIP_CLR (R490, R497, R649). LK_ADMIN is erased by the trip, so that whoever reaches the register may clear it. -/
def execLkTripClr (who : Who) (s : State) : Out := let _ := who; .next s.tripClr

end Sys2Proof.Machine
end

