-- ==== Sys2Proof/Machine/Loss.lean ====
section
/-!
DEFINITION. The loss of a DRAM layer, a vault, a T2 channel, and of the Notary's firmware (R607, R619 to R621, R633).
-/
namespace Sys2Proof.Machine

/-- The frames of the journal of every partition. -/
def State.journalFrames (s : State) : List Nat := s.plat.journal.flatMap (·.2)

/-- Is a DRAM layer lost in every vault? -/
def State.layerGone (s : State) (l : Nat) : Bool := (List.range 128).all fun v => s.vc.lostLayers.has (v * 4 + l)

/-- Has some partition lost every copy of its journal, or the device both copies of its system rows before they were rewritten (R633)? -/
def State.copiesGone (s : State) (single : Bool) : Bool :=
  (s.plat.journal.any fun j => j.2 != [] && j.2.all fun f => s.isLost (frameAddr f)) ||
  (single && s.layerGone 0 && s.layerGone 2)

/-- LAYER_LOSS (R619, R633): a DRAM layer reads as poison from now on, its frames leave the allocator, entries that map them are POISONED, and the layer is Off. While a copy of the journal and system rows is gone JOURNAL_SINGLE is set; the loss of the other copy before they are rewritten is as a loss of power. -/
def execLayerLoss (l : Nat) (s : State) : Out :=
  if 4 ≤ l ∨ s.layerGone l then .next s
  else
    let held := l == 0 || l == 2 || s.journalFrames.any fun f => layerOf (frameAddr f) == l
    let single := s.flag A.FL_STATUS F.FL_STATUS_JOURNAL_SINGLE
    let s : State := { s with vc := { s.vc with lostLayers := (List.range 128).foldl (fun m v => NSet.add (v * 4 + l) m) s.vc.lostLayers } }
    if s.copiesGone single then execLossOfPower s
    else
      let s := s.poisonEnts fun e => match entKey e with
        | some k => decide (k < 65536) && layerOf (frameAddr k) == l
        | none => false
      let s := s.setDom (32 + l) Dom.reset
      let s := if held then s.fset A.FL_STATUS F.FL_STATUS_JOURNAL_SINGLE 1 else s
      .next (s.fsr 0x08 { domain := 32 + l, unit := l })

/-- Where the lost pair of a partition's journal is rewritten (R619): two free frames of the same vault in the lowest surviving layer other than the one that holds the remaining copy. -/
def State.newPair (s : State) (fs : List Nat) : Option (List Nat) :=
  match fs.find? fun f => !s.isLost (frameAddr f) with
  | none => none
  | some k =>
    let v := k / 384
    match (List.range 4).find? fun l => l != layerOf (frameAddr k) && !s.vc.lostLayers.has (v * 4 + l) with
    | none => none
    | some l =>
      let free := ((List.range 96).map fun i => 384 * v + 96 * l + i).filter fun f => s.frameFree f
      if free.length < 2 then none else some (free.take 2)

/-- A partition's journal with its lost frames replaced. -/
def State.rewritten (s : State) (fs : List Nat) : Option (List Nat) :=
  if fs.all fun f => !s.isLost (frameAddr f) then some fs
  else (s.newPair fs).map fun p => (fs.filter fun f => !s.isLost (frameAddr f)) ++ p

/-- JOURNAL_REWRITE (R362, R619): the Headgate rewrites every lost journal copy, and JOURNAL_SINGLE clears. It waits while free frames are wanting. -/
def execJournalRewrite (s : State) : Out :=
  if !s.flag A.FL_STATUS F.FL_STATUS_JOURNAL_SINGLE then .next s
  else if s.plat.journal.all fun j => (s.rewritten j.2).isSome then
    let s : State := { s with plat := { s.plat with journal := s.plat.journal.map fun j => (j.1, (s.rewritten j.2).getD j.2) } }
    .next (s.fset A.FL_STATUS F.FL_STATUS_JOURNAL_SINGLE 0)
  else .next s

/-- The next vault of a partition in ascending order, from its lowest again after the last. -/
def nextVault (vs : List Nat) (v : Nat) : Option Nat := match vs.find? fun x => decide (v < x) with
  | some x => some x
  | none => vs.find? fun x => x != v

/-- The two lowest free frames of a layer of a vault. -/
def State.twoFree (s : State) (v l : Nat) : List Nat := (((List.range 96).map fun i => 384 * v + 96 * l + i).filter fun f => s.frameFree f).take 2

/-- A journal in a failed vault moves to the two lowest free frames in layers 0 and 2 of the partition's next vault (R620); without a next vault or room it stays behind the maintenance port. -/
def State.moveJournal (s : State) (v : Nat) (e : PartE) : State :=
  if (Tab.get s.plat.journal [] e.id).any fun f => f / 384 == v then
    (match nextVault e.vaults v with
    | none => s
    | some w =>
      let fs := s.twoFree w 0 ++ s.twoFree w 2
      if fs.length < 4 then s else { s with plat := { s.plat with journal := Tab.set s.plat.journal [] e.id fs } })
  else s

/-- VAULT_FAULT (R620): a vault controller, or one layer of a vault, fails; its frames are lost as in R619, and a journal it holds moves. -/
def execVaultFault (v : Nat) (layer : Option Nat) (s : State) : Out :=
  let ls := match layer with
    | some l => [l]
    | none => [0, 1, 2, 3]
  if 128 ≤ v ∨ ls.any (fun l => decide (4 ≤ l)) ∨ ls.all (fun l => s.vc.lostLayers.has (v * 4 + l)) then .next s
  else
    let s : State := { s with vc := { s.vc with lostLayers := ls.foldl (fun m l => NSet.add (v * 4 + l) m) s.vc.lostLayers } }
    let s := s.poisonEnts fun e => match entKey e with
      | some k => decide (k < 65536) && k / 384 == v && ls.contains (layerOf (frameAddr k))
      | none => false
    let s := match s.vaultPart v with
      | some e => s.moveJournal v e
      | none => s
    .next (s.fsr 0x09 { domain := 16 + v / 8, tenant := (s.vaultPart v).map (·.tenant), unit := v, part := ((s.vaultPart v).map (·.id)).getD 0xFF })

/-- CHANNEL_LOSS (R621): a T2 channel is lost; its frames are lost and its trained capacity reads 0. -/
def execChannelLoss (c : Nat) (s : State) : Out :=
  if 4 ≤ c ∨ s.vc.lostLayers.has (512 + c) then .next s
  else
    let s : State := { s with vc := { s.vc with lostLayers := NSet.add (512 + c) s.vc.lostLayers } }
    let s := s.poisonEnts fun e => match entKey e with
      | some k => decide (65536 ≤ k) && (k - 65536) / 8192 == c
      | none => false
    let s := s.fset (A.XM_CAP (c / 2)) (if c % 2 = 0 then F.XM_CAP_CH0_CAP else F.XM_CAP_CH1_CAP) 0
    let p := s.partEs.find? fun e => bit e.chans c
    .next (s.fsr 0x0A { domain := chanDom c, tenant := p.map (·.tenant), unit := c, part := (p.map (·.id)).getD 0xFF })

/-- NOTARY_FW_FAULT (R607): a fault of the running Notary firmware raises a Notary security reset. -/
def execNotaryFwFault (s : State) : Out := if s.rs.up && s.isOn 6 && s.nt.fwN != [] then .next s.securityReset else .next s

/-- SECURITY_RESET (R585, R607): a device-page command whose ARG0 must be 0x53454352. -/
def execSecurityReset (s : State) : Out :=
  ntRow 8 8 s fun s => if s.ntArg 8 0 = 0x53454352 then s.securityReset else s.ntReply 8 7 0 0

end Sys2Proof.Machine
end

