-- ==== Sys2Proof/Machine/Spdm.lean ====
section
/-!
DEFINITION. The attestation report and the SPDM responder: negotiation, certificates, challenge, measurements, key exchange and sessions, and the binding of tenants (R588 to R595). Message layouts that the specification takes from SPDM 1.2 are those of that standard (log entry 57).
-/
namespace Sys2Proof.Machine

/-! ### The report (R588) -/

/-- The 768 signed bytes of a report for a tenant; TMR and BINDER are shown when `full`. -/
def State.reportBody (s : State) (n : Nat) (nonce : List Nat) (full : Bool) : List Nat :=
  let t := s.ntTen n
  let pad (k : Nat) (l : List Nat) : List Nat := (l ++ List.replicate k 0).take k
  let flags := b2n s.confMode + 2 * b2n (s.debugOk n) + 4 * b2n (s.nt.fuse.life == 1) + 8 * b2n t.binder.isSome + 16 * b2n s.nt.rearmed +
    32 * b2n (s.flag A.AU_HIST_TENANT F.AU_HIST_TENANT_VALID && s.fget A.AU_HIST_TENANT F.AU_HIST_TENANT_TENANT == n)
  ascii "EVRP" ++ natLe 2 1 ++ natLe 2 flags ++ pad 16 s.nt.fuse.uid ++ natLe 2 s.devId ++ [s.nt.fuse.grade % 256, n] ++ natLe 4 t.count ++
  natLe 8 s.time ++ natLe 8 (s.rd A.HG_PLAT_SERIAL).toNat ++ pad 32 nonce ++ pad 48 ((s.plat.cur.map (·.digest)).getD []) ++
  pad 48 s.nt.fwN ++ pad 48 s.nt.fwR ++ pad 48 ((s.rn.image.map fun i => sha384 i.bytes).getD []) ++ natLe 4 s.nt.svnN ++ natLe 4 s.nt.svnR ++ natLe 8 s.nt.floor ++
  (if full then pad 48 (t.binder.getD []) else pad 48 []) ++ pad 16 [] ++
  ((List.range 8).flatMap fun i => if full then pad 48 (Tab.get t.tmr [] i) else pad 48 []) ++ pad 32 []

/-- A report with its signature (R588). -/
def State.report (s : State) (n : Nat) (nonce : List Nat) (full : Bool) : State × List Nat :=
  let b := s.reportBody n nonce full
  match s.aliasSign (sha384 b) with
  | (s, g) => (s, b ++ g)

/-! ### Messages -/

/-- An ERROR response. -/
def spdmError (code data : Nat) : List Nat := [0x12, 0x7F, code, data]

/-- ERROR InvalidRequest. -/
def invalidRequest : List Nat := spdmError 1 0
/-- ERROR UnexpectedRequest. -/
def unexpectedRequest : List Nat := spdmError 4 0

/-- A refusal of a vendor-defined request with its detail byte (R592). -/
def vendorRefusal (detail : Nat) : List Nat := spdmError 0xFF 3 ++ [2] ++ natLe 2 (Config.identity 3) ++ [detail]

/-- The version byte every request but GET_VERSION carries (R590: 1.2 only). -/
def versionOk (req : List Nat) : Bool := field req 0 1 == 0x12

/-- What SPDM 1.2 signs for a transcript hash: the prefix, the context string filled to 100 bytes, and the hash. -/
def spdmSigned (context : String) (hash : List Nat) : List Nat :=
  let c := ascii context
  let p := (ascii "dmtf-spdm-v1.2.*dmtf-spdm-v1.2.*dmtf-spdm-v1.2.*dmtf-spdm-v1.2.*")
  sha384 (p ++ List.replicate (100 - p.length - c.length) 0 ++ c ++ hash)

/-- A label of the SPDM key schedule with its context. -/
def spdmLabel (label : String) (context : List Nat) (n : Nat) : List Nat := natLe 2 n ++ ascii "spdm1.2 " ++ ascii label ++ context

/-- The certificate chain of slot 0 as SPDM carries it: its length and the digest of the root, then the certificates. -/
def State.spdmChain (s : State) : List Nat :=
  let c := s.chain
  natLe 2 (52 + c.length) ++ [0, 0] ++ sha384 s.nt.fuse.cert ++ c

/-- Keep an exchange of the connection; `part`: what of it later signatures cover. -/
def State.setConn (s : State) (c : Conn) : State := { s with nt := { s.nt with conn := c } }

/-- A session of the Notary. -/
def State.sess (s : State) (id : Option Nat) : Option Sess := id.bind fun i => s.nt.sess.find? fun x => x.id == i

/-- Write a session. -/
def State.setSess (s : State) (x : Sess) : State := { s with nt := { s.nt with sess := s.nt.sess.map fun y => if y.id = x.id then x else y } }

/-! ### Negotiation (R590) -/

/-- GET_VERSION: the connection starts anew. -/
def State.spdmVersion (s : State) (req : List Nat) : State × List Nat :=
  if field req 0 1 ≠ 0x10 then (s, [0x10, 0x7F, 0x41, 0])
  else
    let rsp := [0x10, 0x04, 0, 0, 0, 1, 0x00, 0x12]
    (s.setConn ⟨1, req.take 4 ++ rsp, [], []⟩, rsp)

/-- The responder's capability flags (R590): CERT, CHAL, MEAS with signature, ENCRYPT, MAC, MUT_AUTH, KEY_EX, ENCAP, KEY_UPD. -/
def capFlags : Nat := 0x2 + 0x4 + 0x10 + 0x40 + 0x80 + 0x100 + 0x200 + 0x1000 + 0x4000

/-- GET_CAPABILITIES. -/
def State.spdmCaps (s : State) (req : List Nat) : State × List Nat :=
  let c := s.nt.conn
  if c.stage ≠ 1 then (s, unexpectedRequest)
  else if !versionOk req || decide (req.length < 20) then (s, invalidRequest)
  else
    let rsp := [0x12, 0x61, 0, 0, 0, Config.identity 0 % 256, 0, 0] ++ natLe 4 capFlags ++ natLe 4 (Config.identity 1) ++ natLe 4 (Config.identity 2)
    (s.setConn { c with stage := 2, vca := c.vca ++ req ++ rsp }, rsp)

/-- NEGOTIATE_ALGORITHMS: the one set of R590, when the requester offers it. -/
def State.spdmAlgs (s : State) (req : List Nat) : State × List Nat :=
  let c := s.nt.conn
  if c.stage ≠ 2 then (s, unexpectedRequest)
  else if !versionOk req || decide (req.length < 32) || !bit (field req 8 4) 7 || !bit (field req 12 4) 1 then (s, invalidRequest)
  else
    let algs := [2, 0x20] ++ natLe 2 0x10 ++ [3, 0x20] ++ natLe 2 2 ++ [4, 0x20] ++ natLe 2 0x80 ++ [5, 0x20] ++ natLe 2 1
    let rsp := [0x12, 0x63, 4, 0] ++ natLe 2 52 ++ [1, 0] ++ natLe 4 4 ++ natLe 4 0x80 ++ natLe 4 2 ++ List.replicate 12 0 ++ [0, 0, 0, 0] ++ algs
    (s.setConn { c with stage := 3, vca := c.vca ++ req ++ rsp }, rsp)

/-- A request that needs negotiation to be complete. -/
def State.spdmReady (s : State) (req : List Nat) (k : State × List Nat) : State × List Nat :=
  if s.nt.conn.stage ≠ 3 then (s, unexpectedRequest) else if !versionOk req then (s, invalidRequest) else k

/-- An exchange before a challenge signature joins its transcript. -/
def State.heard (s : State) (req rsp : List Nat) : State := s.setConn { s.nt.conn with msgs := s.nt.conn.msgs ++ req ++ rsp }

/-- GET_DIGESTS: slot 0 (R579). -/
def State.spdmDigests (s : State) (req : List Nat) : State × List Nat :=
  s.spdmReady req (
    let rsp := [0x12, 0x01, 0, 1] ++ sha384 s.spdmChain
    (s.heard req rsp, rsp))

/-- GET_CERTIFICATE: a part of the chain of slot 0. -/
def State.spdmCert (s : State) (req : List Nat) : State × List Nat :=
  s.spdmReady req (
    let c := s.spdmChain
    let o := field req 4 2
    if field req 2 1 % 16 ≠ 0 ∨ c.length ≤ o ∨ req.length < 8 then (s, invalidRequest)
    else
      let n := min (field req 6 2) (c.length - o)
      let rsp := [0x12, 0x02, 0, 0] ++ natLe 2 n ++ natLe 2 (c.length - o - n) ++ slice c o n
      (s.heard req rsp, rsp))

/-- The measurement block of a tenant (R591). -/
def measBlock (n : Nat) (rep : List Nat) : List Nat := [n + 1, 1] ++ natLe 2 (3 + rep.length) ++ [0x84] ++ natLe 2 rep.length ++ rep

/-- The measurement blocks of some tenants (R591): TMR and BINDER show only in a session bound to the tenant. -/
def State.measBlocks (s : State) (bound ns nonce : List Nat) : State × List Nat :=
  ns.foldl (fun r n =>
    match r.1.report n nonce (bound.contains n) with
    | (s, rep) => (s, r.2 ++ measBlock n rep)) (s, [])

/-- The hash over every measurement that a CHALLENGE or KEY_EXCHANGE asks for; empty when it asks for none. -/
def State.summary (s : State) (kind : Nat) (bound : List Nat) : State × List Nat :=
  if kind = 0 then (s, [])
  else match s.measBlocks bound s.tenants (List.replicate 32 0) with
  | (s, b) => (s, sha384 b)

/-- CHALLENGE. -/
def State.spdmChallenge (s : State) (req : List Nat) : State × List Nat :=
  s.spdmReady req (
    if field req 2 1 ≠ 0 ∨ req.length < 36 then (s, invalidRequest)
    else match s.random 32 with
    | (s, nonce) =>
      match s.summary (field req 3 1) [] with
      | (s, sm) =>
        let head := [0x12, 0x03, 0, 1] ++ sha384 s.spdmChain ++ nonce ++ sm ++ [0, 0]
        let c := s.nt.conn
        match s.aliasSign (spdmSigned "responder-challenge_auth signing" (sha384 (c.vca ++ c.msgs ++ req ++ head))) with
        | (s, g) => (s.setConn { s.nt.conn with msgs := [] }, head ++ g))

/-- GET_MEASUREMENTS (R591): index 0 asks for the count, τ + 1 for a tenant's block, 0xFF for those of every tenant of the plat; any other index is InvalidRequest. -/
def State.spdmMeas (s : State) (x : Option Sess) (req : List Nat) : State × List Nat :=
  s.spdmReady req (
    let op := field req 3 1
    let sig := bit (field req 2 1) 0
    let nonce := if sig then slice req 4 32 else List.replicate 32 0
    let ns := if op = 0xFF then some s.tenants else if op = 0 then some [] else if op ≤ 8 then some [op - 1] else none
    match ns with
    | none => (s, invalidRequest)
    | some ns =>
      match s.measBlocks ((x.map (·.bound)).getD []) ns nonce with
      | (s, b) =>
        match s.random 32 with
        | (s, own) =>
          let head := [0x12, 0x60, if op = 0 then 8 else 0, 0, ns.length] ++ natLe 3 b.length ++ b ++ own ++ [0, 0]
          let c := s.nt.conn
          if sig then
            (match s.aliasSign (spdmSigned "responder-measurements signing" (sha384 (c.vca ++ c.last ++ req ++ head))) with
            | (s, g) => (s.setConn { s.nt.conn with last := [] }, head ++ g))
          else (s.setConn { c with last := c.last ++ req ++ head }, head))

/-! ### Sessions (R590, R595) -/

/-- The handshake secret of a session and the secrets derived from it by the SPDM key schedule: a direction's finished key. -/
def finishedKey (hs : List Nat) (label : String) (th : List Nat) : List Nat :=
  hkdfExpand (hkdfExpand hs (spdmLabel label th 48) 48) (spdmLabel "finished" [] 48) 48

/-- The export master secret (R595). -/
def exportSecret (hs th : List Nat) : List Nat :=
  let ms := hkdfExtract (hkdfExpand hs (spdmLabel "derived" [] 48) 48) (List.replicate 48 0)
  hkdfExpand ms (spdmLabel "exp master" th 48) 48

/-- A session number that is not in use. -/
def State.freeSess (s : State) : Nat := ((List.range 10).find? fun i => s.nt.sess.all fun x => x.id / 65536 != i + 1).getD 0 + 1

/-- KEY_EXCHANGE: a session begins its handshake; the requester must then authenticate itself (R590). At most nine sessions are held. -/
def State.spdmKeyExchange (s : State) (req : List Nat) : State × List Nat :=
  s.spdmReady req (
    if 9 ≤ s.nt.sess.length then (s, spdmError 0x0A 0)
    else if field req 3 1 ≠ 0 ∨ req.length < 138 then (s, invalidRequest)
    else
      let d := Config.secret s.nt.draw
      let s : State := { s with nt := { s.nt with draw := s.nt.draw + 1 } }
      match ecdh d (slice req 40 96), s.random 32 with
      | none, _ => (s, invalidRequest)
      | some z, (s, rnd) =>
        match s.summary (field req 2 1) [] with
        | (s, sm) =>
          let id := field req 4 2 + 65536 * s.freeSess
          let head := [0x12, 0x64, 0, 0] ++ natLe 2 (id / 65536) ++ [2, 0] ++ rnd ++ ecPublic d ++ sm ++ [0, 0]
          let th := s.nt.conn.vca ++ sha384 s.spdmChain ++ req ++ head
          match s.aliasSign (spdmSigned "responder-key_exchange_rsp signing" (sha384 th)) with
          | (s, g) =>
            let hs := hkdfExtract (List.replicate 48 0) z
            let th := th ++ g
            let v := hmac (finishedKey hs "rsp hs data" (sha384 th)) (sha384 th)
            let x : Sess := ⟨id, [], [], th ++ v, hs, [], false, [], 0⟩
            ({ s with nt := { s.nt with sess := s.nt.sess ++ [x] } }, head ++ g ++ v))

/-- End a session: its secrets are gone (R595). -/
def State.dropSess (s : State) (id : Nat) : State := { s with nt := { s.nt with sess := s.nt.sess.filter fun x => x.id != id } }

/-- FINISH: the requester's chain, as the encapsulated flow delivered it, its signature and its verify data are checked; the session is then open and has its export master secret. A failed check ends the session. -/
def State.spdmFinish (s : State) (x : Sess) (req chain : List Nat) : State × List Nat :=
  s.spdmReady req (
    if x.open_ then (s, unexpectedRequest)
    else match Config.requesterKey chain with
    | none => (s.dropSess x.id, spdmError 6 0)
    | some key =>
      let th0 := x.trans ++ sha384 chain ++ req.take 4
      let sig := slice req 4 96
      let th1 := sha384 (x.trans.take (x.trans.length - 48))
      let mac := hmac (finishedKey x.hs "req hs data" th1) (sha384 (th0 ++ sig))
      if field req 2 1 % 2 ≠ 1 ∨ !ecdsaOk key (spdmSigned "requester-finish signing" (sha384 th0)) sig ∨ slice req 100 48 ≠ mac then (s.dropSess x.id, spdmError 6 0)
      else
        let rsp := [0x12, 0x65, 0, 0]
        let th2 := th0 ++ sig ++ mac ++ rsp
        (s.setSess { x with chain := chain, key := key, trans := [], ems := exportSecret x.hs (sha384 th2), open_ := true }, rsp))

/-- KEY_UPDATE: 1 update, 2 update all, 3 verify; the export master secret does not change. `stage` counts the updates. -/
def State.spdmKeyUpdate (s : State) (x : Sess) (req : List Nat) : State × List Nat :=
  let op := field req 2 1
  if !x.open_ || op = 0 || decide (3 < op) || !versionOk req then (s, invalidRequest)
  else (if op = 3 then s else s.setSess { x with stage := x.stage + 1 }, [0x12, 0x69, op, field req 3 1])

/-- END_SESSION. -/
def State.spdmEnd (s : State) (x : Sess) (req : List Nat) : State × List Nat :=
  if !x.open_ || !versionOk req then (s, invalidRequest) else (s.dropSess x.id, [0x12, 0x6C, 0, 0])

/-! ### Binding (R592 to R595) -/

/-- The requester identity of a session (R593). -/
def Sess.identity (x : Sess) : List Nat := sha384 x.key

/-- Why BIND_TENANT or STATUS is refused at once (R592, R594): 1 NOT_CONFIDENTIAL, 2 NO_TENANT, 3 BOUND_OTHER. -/
def State.bindRefusal (s : State) (x : Sess) (n : Nat) : Option Nat :=
  if !s.confMode then some 1
  else if (s.tenE n).isNone then some 2
  else if (s.ntTen n).binder.any fun b => b != x.identity then some 3
  else none

/-- The operation and tenant of a vendor-defined request of Evcor (R592). -/
def vendorOp (req : List Nat) : Option (Nat × Nat) :=
  if versionOk req && field req 1 1 == 0xFE && field req 4 2 == 3 && field req 6 1 == 2 && field req 7 2 == Config.identity 3 % 65536 && decide (2 ≤ field req 9 2)
  then some (field req 11 1, field req 12 1) else none

/-- A vendor-defined response. -/
def vendorRsp (pay : List Nat) : List Nat := [0x12, 0x7E, 0, 0] ++ natLe 2 3 ++ [2] ++ natLe 2 (Config.identity 3) ++ natLe 2 pay.length ++ pay

/-- STATUS (R592): BIND_COUNT, BINDER and SESSION. -/
def State.vendorStatus (s : State) (n : Nat) : List Nat :=
  let t := s.ntTen n
  vendorRsp (natLe 4 t.count ++ (t.binder.getD [] ++ List.replicate 48 0).take 48 ++ natLe 4 t.session)

/-- A bounce key (R595). -/
def bounceKey (ems : List Nat) (label : String) (n session : Nat) : List Nat := hkdfExpand ems (ascii label ++ [n] ++ natLe 4 session) 32

/-- Install the keys of a tenant's bounce rings (R568, R570, R594): both counters restart, a stopped ingress ring goes on. -/
def State.installBounce (s : State) (n session : Nat) (kin kout : List Nat) : State :=
  let s : State := { s with host := { s.host with inKey := Tab.set s.host.inKey [] n kin, outKey := Tab.set s.host.outKey [] n kout,
                                                  sess := Tab.set s.host.sess 0 n session, rekeyed := NSet.rem (n + 8) (NSet.rem n s.host.rekeyed) } }
  let s := (s.wr (A.HI_T_IN_COUNTER n) 0).wr (A.HI_T_OUT_COUNTER n) 0
  (s.fset (A.HI_T_IN_CFG n) F.HI_T_IN_CFG_IN_STOPPED 0).fset (A.HI_T_IN_CFG n) F.HI_T_IN_CFG_CAUSE 0

/-- Is a tenant's ingress ring drained (R594)? -/
def State.inDrained (s : State) (n : Nat) : Bool := s.rd (A.HI_T_IN_CONS n) == s.rd (A.HI_T_IN_PROD n)

/-- A binding takes effect (R594). -/
def State.bindNow (s : State) (x : Sess) (n : Nat) : State × List Nat :=
  let t := s.ntTen n
  let se := (t.session + 1) % 2 ^ 32
  let s := s.setTen n { t with binder := some x.identity, count := t.count + 1, session := se }
  let s := s.installBounce n se (bounceKey x.ems "evcor bounce in" n se) (bounceKey x.ems "evcor bounce out" n se)
  (s.setSess { x with bound := if x.bound.contains n then x.bound else n :: x.bound }, vendorRsp [1, n])

/-! ### The responder -/

/-- A response is sent on the transport its request came by. -/
def State.spdmSend (s : State) (sess : Option Nat) (rsp : List Nat) : State := { s with nt := { s.nt with out := s.nt.out ++ [(sess.getD 0, rsp)] } }

/-- A request outside a session, or within one whose handshake is complete (R590): its response. Binding requests are apart. -/
def State.spdm (s : State) (sess : Option Nat) (req chain : List Nat) : State × List Nat :=
  let x := s.sess sess
  if sess.isSome && x.isNone then (s, invalidRequest)
  else
    let inSess (k : Sess → State × List Nat) : State × List Nat := match x with
      | some y => k y
      | none => (s, unexpectedRequest)
    let bare (k : State × List Nat) : State × List Nat := if sess.isSome then (s, unexpectedRequest) else k
    match field req 1 1 with
    | 0x84 => bare (s.spdmVersion req)
    | 0xE1 => bare (s.spdmCaps req)
    | 0xE3 => bare (s.spdmAlgs req)
    | 0x81 => s.spdmDigests req
    | 0x82 => s.spdmCert req
    | 0x83 => bare (s.spdmChallenge req)
    | 0xE0 => s.spdmMeas x req
    | 0xE4 => bare (s.spdmKeyExchange req)
    | 0xE5 => inSess fun y => s.spdmFinish y req chain
    | 0xE9 => inSess fun y => s.spdmKeyUpdate y req
    | 0xEC => inSess fun y => s.spdmEnd y req
    | 0xFF => (s, if versionOk req then unexpectedRequest else invalidRequest)
    | c => (s, spdmError 7 c)

/-- A row of SPDM: a request with the row's code reaches the Notary, which is On. -/
def spdmRow (code : Nat) (sess : Option Nat) (req chain : List Nat) (s : State) : Out :=
  if field req 1 1 ≠ code ∨ !s.rs.up then .next s
  else .next (needOn [6] s (match s.spdm sess req chain with
    | (s, rsp) => s.spdmSend sess rsp))

/-- GET_VERSION (R590). -/
def execGetVersion (sess : Option Nat) (req : List Nat) (s : State) : Out := spdmRow 0x84 sess req [] s
/-- GET_CAPABILITIES (R590). -/
def execGetCapabilities (sess : Option Nat) (req : List Nat) (s : State) : Out := spdmRow 0xE1 sess req [] s
/-- NEGOTIATE_ALGORITHMS (R590). -/
def execNegotiateAlgorithms (sess : Option Nat) (req : List Nat) (s : State) : Out := spdmRow 0xE3 sess req [] s
/-- GET_DIGESTS (R590). -/
def execGetDigests (sess : Option Nat) (req : List Nat) (s : State) : Out := spdmRow 0x81 sess req [] s
/-- GET_CERTIFICATE (R579, R590). -/
def execGetCertificate (sess : Option Nat) (req : List Nat) (s : State) : Out := spdmRow 0x82 sess req [] s
/-- CHALLENGE (R590). -/
def execChallenge (sess : Option Nat) (req : List Nat) (s : State) : Out := spdmRow 0x83 sess req [] s
/-- GET_MEASUREMENTS (R591). -/
def execGetMeasurements (sess : Option Nat) (req : List Nat) (s : State) : Out := spdmRow 0xE0 sess req [] s
/-- KEY_EXCHANGE (R590). -/
def execKeyExchange (sess : Option Nat) (req : List Nat) (s : State) : Out := spdmRow 0xE4 sess req [] s
/-- FINISH (R590, R593). -/
def execFinish (sess : Option Nat) (req chain : List Nat) (s : State) : Out := spdmRow 0xE5 sess req chain s
/-- KEY_UPDATE (R590). -/
def execKeyUpdate (sess : Option Nat) (req : List Nat) (s : State) : Out := spdmRow 0xE9 sess req [] s
/-- END_SESSION (R590). -/
def execEndSession (sess : Option Nat) (req : List Nat) (s : State) : Out := spdmRow 0xEC sess req [] s
/-- RESPOND_IF_READY (R590): the Notary never defers a response, so the request is unexpected. -/
def execRespondIfReady (sess : Option Nat) (req : List Nat) (s : State) : Out := spdmRow 0xFF sess req [] s

/-- A vendor-defined request of some operation within an open session (R592). -/
def vendorRow (op : Nat) (sess : Option Nat) (req : List Nat) (s : State) (k : State → Sess → Nat → State) : Out :=
  match vendorOp req with
  | none => .next s
  | some (o, n) =>
    if o ≠ op ∨ !s.rs.up then .next s
    else .next (needOn [6] s (match s.sess sess with
      | none => s.spdmSend sess unexpectedRequest
      | some x => if x.open_ then k s x n else s.spdmSend sess unexpectedRequest))

/-- BIND_TENANT (R592, R594): refused at once, or it takes effect when the ingress ring is drained. -/
def execBindTenant (sess : Option Nat) (req : List Nat) (s : State) : Out :=
  vendorRow 1 sess req s fun s x n =>
    match s.bindRefusal x n with
    | some d => s.spdmSend sess (vendorRefusal d)
    | none => if s.nt.bind.isSome then s.spdmSend sess (spdmError 3 0) else { s with nt := { s.nt with bind := some (x.id, n, s.now) } }

/-- BIND_DRAIN_DONE (R594): the ingress ring has drained and the binding takes effect, or 10 ms have passed and it is refused with NOT_DRAINED. -/
def execBindDrainDone (s : State) : Out :=
  match s.nt.bind with
  | none => .next s
  | some (id, n, t) =>
    let gone : State := { s with nt := { s.nt with bind := none } }
    if s.inDrained n then
      .next (needOn [6, 7] s (match gone.sess (some id) with
        | none => gone
        | some x =>
          match gone.bindRefusal x n with
          | some d => gone.spdmSend (some id) (vendorRefusal d)
          | none => (match gone.bindNow x n with
            | (s, rsp) => s.spdmSend (some id) rsp)))
    else if t + 2560000000 < s.now then .next (gone.spdmSend (some id) (vendorRefusal 4))
    else .next s

/-- STATUS (R592). -/
def execStatus (sess : Option Nat) (req : List Nat) (s : State) : Out :=
  vendorRow 2 sess req s fun s _ n =>
    if (s.tenE n).isNone then s.spdmSend sess (vendorRefusal 2) else s.spdmSend sess (s.vendorStatus n)

end Sys2Proof.Machine
end

