-- ==== Sys2Proof/Machine/Notary.lean ====
section
/-!
DEFINITION. The Notary's mailbox commands beside PLAT_LOAD: measurement, reports, SPDM_RELAY, UNBIND, the floor, slots, and turns (R583 to R588, R596).
-/
namespace Sys2Proof.Machine

/-- What reading for a mailbox command gives: the check fails, domains or a move to wait for, or the bytes. -/
inductive NtRead where
  | bad
  | wait (s : State)
  | got (b : List PByte)

/-- Read a range at home for a tenant (R68, R77, R585). -/
def State.ntRead (s : State) (n a len : Nat) : NtRead :=
  match s.reach (viaHome n) a len false locLocal with
  | .bad => .bad
  | .moving _ => .wait s
  | .ok ds =>
    match s.admits ds with
    | .refused => .bad
    | .wait => .wait (s.domTouch ds)
    | .run => .got (s.readHome n a len)

/-- May a tenant write a range (R68, R77, R585)? None while it must wait, with the state that waits. -/
def State.ntMayWrite (s : State) (n a len : Nat) : Bool ⊕ State :=
  match s.reach (viaHome n) a len true locLocal with
  | .bad => .inl false
  | .moving _ => .inr s
  | .ok ds =>
    match s.admits ds with
    | .refused => .inl false
    | .wait => .inr (s.domTouch ds)
    | .run => .inl true

/-- One step of a MEASURE (R584, R586): 1 MiB at most. -/
def State.measureStep (s : State) (n : Nat) (c : NtCmd) : State :=
  let a := s.ntArg n 0
  let len := s.ntArg n 1
  let i := s.ntArg n 2 % 8
  let t := s.ntTen n
  let bad : Bool := c.off == 0 && len != 0 && (match s.reach (viaHome n) a len false locLocal with
    | .bad => true
    | _ => false)
  if len % 64 ≠ 0 ∨ 2 ^ 40 < len then s.ntReply n 7 0 0
  else if len = 0 then s.ntReply n 0 0 (Tab.get t.ext 0 i)
  else if bad then s.ntReply n 7 0x02 0
  else
    let k := min 0x100000 (len - c.off)
    match s.ntRead n (a + c.off) k with
    | .bad => s.ntReply n 5 0 0
    | .wait s => s
    | .got b =>
      if b.any (·.2) then s.ntReply n 1 0 0
      else
        let bs := b.map (·.1)
        let h := shaFeed (if c.off = 0 then shaIv else c.hash) bs
        if c.off + k < len then { s with nt := { s.nt with pages := Tab.set s.nt.pages none n (some { c with off := c.off + k, hash := h }) } }
        else
          let d := shaEnd h (bs.drop (bs.length / 128 * 128)) len
          let old := (Tab.get t.tmr [] i ++ List.replicate 48 0).take 48
          let e := Tab.get t.ext 0 i + 1
          (s.setTen n { t with tmr := Tab.set t.tmr [] i (sha384 (old ++ d)), ext := Tab.set t.ext 0 i e }).ntReply n 0 0 e

/-- MEASURE (R584 to R586): the next step of a page's command. -/
def execMeasure (n : Nat) (s : State) : Out :=
  if 8 ≤ n then .next s else ntRow n 2 s fun s => s.measureStep n ((s.ntPending n).getD ⟨2, false, 0, [], false⟩)

/-- REPORT (R585, R588): the signed report goes to ARG0 with the nonce at ARG1. -/
def execReport (n : Nat) (s : State) : Out :=
  if 8 ≤ n then .next s
  else ntRow n 3 s fun s =>
    let d := s.ntArg n 0
    if d % 64 ≠ 0 then s.ntReply n 7 0x02 0
    else match s.ntMayWrite n d 864 with
    | .inl false => s.ntReply n 7 0x02 0
    | .inr s => s
    | .inl true =>
      match s.ntRead n (s.ntArg n 1) 32 with
      | .bad => s.ntReply n 7 0x02 0
      | .wait s => s
      | .got b =>
        if b.any (·.2) then s.ntReply n 1 0 0
        else match s.report n (b.map (·.1)) true with
        | (s, r) => (s.writeHome n d (clean r)).ntReply n 0 0 0

/-- SPDM_RELAY (R585, R589): a bare request of a tenant's software and its response. -/
def execSpdmRelay (n : Nat) (s : State) : Out :=
  if 8 ≤ n then .next s
  else ntRow n 4 s fun s =>
    let x := s.ntArg n 2
    match s.ntRead n (s.ntArg n 0) (x % 2 ^ 24) with
    | .bad => s.ntReply n 7 0x02 0
    | .wait s => s
    | .got b =>
      if b.any (·.2) then s.ntReply n 1 0 0
      else match s.ntMayWrite n (s.ntArg n 1) (bits x 47 24) with
      | .inl false => s.ntReply n 7 0x02 0
      | .inr s => s
      | .inl true =>
        match s.spdm none (b.map (·.1)) [] with
        | (s, r) => if bits x 47 24 < r.length then s.ntReply n 7 0x01 0 else (s.writeHome n (s.ntArg n 1) (clean r)).ntReply n 0 0 r.length

/-- UNBIND (R585, R596): with every partition of the tenant quiesced, its state is erased, then its binding and TMRs. -/
def execUnbind (s : State) : Out :=
  ntRow 8 5 s fun s =>
    let n := s.ntArg 8 0 % 8
    if !((s.partsOf n).all fun p => s.quiesced p.id) then s.ntReply 8 7 0x03 0
    else needOn ((s.vaultsOf n).flatMap (fun v => [16 + v / 8, 32, 33, 34, 35]) ++ (s.chansOf n).map chanDom) s (((s.eraseTenant n).clearBinding n).ntReply 8 0 0 0)

/-- FLOOR_SET (R581, R585): the next of sixteen fuse words takes a greater floor, not above the applied PLAT_SERIAL. -/
def execFloorSet (s : State) : Out :=
  ntRow 8 6 s fun s =>
    let v := s.ntArg 8 0
    if v ≤ s.nt.floor ∨ (s.rd A.HG_PLAT_SERIAL).toNat < v ∨ 16 ≤ s.nt.fuse.floors.length then s.ntReply 8 7 0 0
    else
      let s : State := { s with nt := { s.nt with fuse := { s.nt.fuse with floors := s.nt.fuse.floors ++ [v] } } }
      s.readFuses.ntReply 8 0 0 0

/-- REVOKE_SLOT (R585): the revoke is burned. -/
def execRevokeSlot (s : State) : Out :=
  ntRow 8 7 s fun s =>
    let s : State := { s with nt := { s.nt with fuse := { s.nt.fuse with revoked := NSet.add (s.ntArg 8 0 % 4) s.nt.fuse.revoked } } }
    s.readFuses.ntReply 8 0 0 0

/-- The turn after a page's in the wheel of confidential mode (R584): the tenants of the plat ascending, then the device page. -/
def State.nextTurn (s : State) (k : Nat) : Nat :=
  let ns := (List.range 8).filter fun n => (s.tenE n).isSome
  if k < 8 then (ns.find? fun n => decide (k < n)).getD 8 else ns.headD 8

/-- NOTARY_TURN (R583, R584): in confidential mode a turn of 100 µs ends and the next begins. A page whose turn it is and whose OP is reserved or not allowed there gets INVALID with DETAIL 0xFF. -/
def execNotaryTurn (s : State) : Out :=
  match s.ntNow with
  | some k =>
    (match s.ntPending k with
    | some c => if ntOpOk k c.op then .next s else .next (needOn [6] s ((s.ntTake k).ntReply k 7 0xFF 0))
    | none => .next s)
  | none =>
    if s.confMode && decide (s.nt.since + ntTurn ≤ s.now) then .next { s with nt := { s.nt with turn := s.nextTurn s.nt.turn, since := s.nt.since + ntTurn } }
    else .next s

end Sys2Proof.Machine
end

