-- ==== Sys2Proof/Machine/Pins.lean ====
section
/-!
DEFINITION. The low-speed pins: the SPI safety channel, the UART, the I3C address commands and the test access port (R600, R626, R662 to R664, R675 to R678).
-/
namespace Sys2Proof.Machine

/-! ### Requesters (R678) -/

/-- The Tally unit that serves the SPI safety channel (R626). -/
def State.spiUnit (s : State) : Option Nat := (List.range 16).find? fun n => s.fget (A.TL_CFG n) F.TL_CFG_SOURCE == 2

/-- May the requester reach the SPI windows: LK_ADMIN's tenant, boot firmware before a plat, or the owner of the safety channel's Tally unit (R678)? -/
def State.spiOk (s : State) (who : Who) : Bool :=
  s.lkAdmin who || (match s.spiUnit with
    | some n => s.tlOk who n
    | none => false)

/-! ### The SPI safety channel (R626, R675) -/

/-- `n` bytes the specification does not give (log entry 58). -/
def State.freeBytes (s : State) (n : Nat) : State × List Nat :=
  ({ s with free := s.free + n }, (List.range n).map fun i => (Config.freeValue (s.free + i)).toNat % 256)

/-- An inbound frame is judged by its Tally unit (R626): VALUE, EXPECT and ALIVE_IN come from the frame, and CHECK runs; its verdict on the alive value, free where none is given (no unit, or ALIVE_EN 0). -/
def State.spiJudge (s : State) (bytes : List Nat) : State × Nat :=
  let open_ : State × Nat := ({ s with free := s.free + 1 }, (Config.freeValue s.free).toNat % 4)
  match s.spiUnit with
  | none => open_
  | some n =>
    let s := s.setTlValue n (crcFeed 0xFFFFFFFF (bytes.take 60))
    let s := (s.fset (A.TL_EXPECT n) F.TL_EXPECT_EXPECT (field bytes 60 4)).fset (A.TL_ALIVE_IN n) F.TL_ALIVE_IN_VALUE (field bytes 58 2)
    let s := s.tlCheck n
    if s.flag (A.TL_CFG n) F.TL_CFG_ALIVE_EN then (s, s.fget (A.TL_STATUS n) F.TL_STATUS_LAST_ALIVE)
    else ({ s with free := s.free + 1 }, (Config.freeValue s.free).toNat % 4)

/-- A judged frame enters the queue of 8, or sets RX_OVERFLOW (R675). -/
def State.spiQueue (s : State) (bytes : List Nat) (verdict : Nat) : State :=
  if 8 ≤ s.io.rx.length then s.fset A.IO_SPI_STATUS F.IO_SPI_STATUS_RX_OVERFLOW 1
  else { s with io := { s.io with rx := s.io.rx ++ [(bytes, verdict, field bytes 60 4 == crc32c (bytes.take 60))] } }

/-- The outbound frame goes out beside the inbound one (R675): the last frame pushed, sent again unchanged when nothing was pushed since; before the first push its bytes are not given. -/
def State.spiSend (s : State) : State :=
  if s.io.tx = [] then
    let (s, bs) := s.freeBytes 64
    { s with io := { s.io with sent := s.io.sent ++ [bs] } }
  else { s with io := { s.io with sent := s.io.sent ++ [s.io.tx] } }

/-- SPI_FRAME (R675): SPI_CS_N was low for some SCLK cycles. Outside boot, with EN 1 and D39 On, 512 cycles are a frame and any other number is counted. -/
def execSpiFrame (cycles : Nat) (bytes : List Nat) (s : State) : Out :=
  if !s.rs.up || !s.isOn 39 || !s.flag A.IO_SPI_CTRL F.IO_SPI_CTRL_EN || (s.bootWaits && s.bootSel == 1) then .next s
  else if cycles ≠ 512 ∨ bytes.length ≠ 64 then .next (s.bump A.IO_SPI_LEN_ERR)
  else .next (needOn (if s.spiUnit.isSome then [15] else []) s (
    let (t, v) := s.spiJudge bytes
    (t.spiQueue bytes v).spiSend))

/-- The head frame leaves the queue (R675). -/
def State.spiPop (s : State) : State := { s with io := { s.io with rx := s.io.rx.drop 1 } }

/-- POP (R675, R678). -/
def execPop (who : Who) (s : State) : Out := if s.spiOk who then .next (needOn [39] s s.spiPop) else .next s

/-- Bytes 0 to 57 of the outbound window (R678). -/
def State.spiPayload (s : State) : List Nat := ((List.range 15).flatMap fun i => natLe 4 (s.rd (A.IO_SPI_TX + 4 * i)).toNat).take 58

/-- PUSH commits the window as the outbound frame (R626, R675): the Tally unit adds ALIVE_TX, which it increments, and the CRC; without such a unit the last 6 bytes are not given. -/
def State.spiPush (s : State) : State :=
  match s.spiUnit with
  | none =>
    let (t, bs) := s.freeBytes 6
    { t with io := { t.io with tx := s.spiPayload ++ bs } }
  | some n =>
    let a := s.fget (A.TL_ALIVE n) F.TL_ALIVE_ALIVE_TX
    let b := s.spiPayload ++ natLe 2 a
    let t := s.fset (A.TL_ALIVE n) F.TL_ALIVE_ALIVE_TX (a + 1)
    { t with io := { t.io with tx := b ++ natLe 4 (crc32c b) } }

/-- IO_SPI_TX_PUSH (R675, R678). -/
def execIoSpiTxPush (who : Who) (s : State) : Out :=
  if s.spiOk who then .next (needOn ([39] ++ if s.spiUnit.isSome then [15] else []) s s.spiPush) else .next s

/-! ### The UART (R676, R678) -/

/-- Is the UART able to send and receive? -/
def State.uartOn (s : State) : Bool := s.isOn 39 && s.flag A.IO_UART_CFG F.IO_UART_CFG_EN

/-- UART_RX_CHAR (R676): a character arrives; `stop`: with its stop bit. One that finds the FIFO full, or D39 not On, is lost. -/
def execUartRxChar (ch : Nat) (stop : Bool) (s : State) : Out :=
  if !s.uartOn then .next s
  else
    let s := if stop then s else s.fset A.IO_UART_STATUS F.IO_UART_STATUS_FRAME_ERR 1
    if 16 ≤ s.io.urx.length then .next (s.fset A.IO_UART_STATUS F.IO_UART_STATUS_RX_OVERFLOW 1)
    else .next { s with io := { s.io with urx := s.io.urx ++ [ch % 256] } }

/-- UART_TX_CHAR (R676): the oldest queued character has gone out. -/
def execUartTxChar (s : State) : Out :=
  match s.io.utx with
  | [] => .next s
  | c :: t => if s.uartOn then .next { s with io := { s.io with utx := t, uart := s.io.uart ++ [c] } } else .next s

/-- A write of IO_UART_DATA (R678) queues a byte; it is ignored when no entry is free. -/
def State.uartWrite (s : State) (v : Nat) : State :=
  if 16 ≤ s.io.utx.length then s else { s with io := { s.io with utx := s.io.utx ++ [v % 256] } }

/-- A read of IO_UART_DATA (R678) removes a byte. -/
def State.uartRead (s : State) : State := { s with io := { s.io with urx := s.io.urx.drop 1 } }

/-- UART_DATA_WRITE (R678). -/
def execUartDataWrite (who : Who) (ch : Nat) (s : State) : Out := if s.lkAdmin who then .next (needOn [39] s (s.uartWrite ch)) else .next s

/-- UART_DATA_READ (R678). -/
def execUartDataRead (who : Who) (s : State) : Out := if s.lkAdmin who then .next (needOn [39] s s.uartRead) else .next s

/-! ### GPIO (R677, R678) -/

/-- The levels at the GPIO pins as IO_GPIO_IN samples them: a driven pin shows what it drives, and Runnel drives WAKE_GPIO while TARGET is 1. -/
def State.gpioIn (s : State) : Nat :=
  let dir := (s.rd A.IO_GPIO_DIR).toNat
  let out := (s.rd A.IO_GPIO_OUT).toNat
  let v := maskOf ((List.range 24).filter fun g => if bit dir g then bit out g else bit s.io.gpio g)
  if s.flag A.RN_CASCADE_CFG F.RN_CASCADE_CFG_TARGET then
    (let g := s.fget A.RN_CASCADE_CFG F.RN_CASCADE_CFG_WAKE_GPIO
     setBits v g g (s.fget A.RN_STATUS F.RN_STATUS_PIN_ASSERTED))
  else v

/-! ### The I3C target's addresses (R663) -/

/-- Assign the dynamic address. -/
def State.setDyn (s : State) (a : Nat) : State :=
  (s.fset A.IO_ADDR F.IO_ADDR_DYN_ADDR a).fset A.IO_ADDR F.IO_ADDR_DYN_VALID 1

/-- ENTDAA (R663): a target without a dynamic address takes the one it is given. -/
def execEntdaa (addr : Nat) (s : State) : Out :=
  if s.isOn 39 && !s.flag A.IO_ADDR F.IO_ADDR_DYN_VALID then .next (s.setDyn addr) else .next s

/-- SETDASA (R663): addressed by the static address, a target without a dynamic address takes the one it is given. -/
def execSetdasa (static addr : Nat) (s : State) : Out :=
  if s.isOn 39 && !s.flag A.IO_ADDR F.IO_ADDR_DYN_VALID && static == s.fget A.IO_ADDR F.IO_ADDR_STATIC_ADDR then .next (s.setDyn addr) else .next s

/-- SETNEWDA (R663): addressed by its dynamic address, the target takes a new one. -/
def execSetnewda (cur addr : Nat) (s : State) : Out :=
  if s.isOn 39 && s.flag A.IO_ADDR F.IO_ADDR_DYN_VALID && cur == s.fget A.IO_ADDR F.IO_ADDR_DYN_ADDR then .next (s.setDyn addr) else .next s

/-- RSTDAA (R663): the dynamic address is given up. -/
def execRstdaa (s : State) : Out :=
  if s.isOn 39 then .next ((s.fset A.IO_ADDR F.IO_ADDR_DYN_ADDR 0).fset A.IO_ADDR F.IO_ADDR_DYN_VALID 0) else .next s

/-! ### The test access port (R600, R664) -/

/-- Does R600 let the TAP select an instruction? In confidential mode BYPASS, IDCODE and SAMPLE/PRELOAD; otherwise EXTEST, which drives every tenant's pins, needs every tenant's DEBUG_ALLOWED (R599). -/
def State.tapOk (s : State) (code : Nat) : Bool :=
  if s.confMode then code == 1 || code == 2 || code == 0xFF
  else code != 3 || s.tenEs.all fun e => e.debug

/-- The TAP takes an instruction (R664): a withheld one selects BYPASS, and EXTEST withheld by R599 counts in DB_REFUSED. EXTEST, CLAMP and HIGHZ hold D39 On. -/
def State.tapSelect (s : State) (code : Nat) : State :=
  let ok := s.tapOk code
  let t : State := { s with io := { s.io with tap := if ok then code else 0xFF } }
  let t := if !ok && !s.confMode && s.isOn 38 then t.bump A.DB_REFUSED else t
  if ok && (code == 3 || code == 4 || code == 5) then (t.abortEntry 39).demandWake 39 else t

/-- Shift bits through a captured register: what leaves at TDO, and what the register then holds. -/
def tapScan (reg shift : List Nat) : List Nat × List Nat :=
  ((reg ++ shift).take shift.length, (reg ++ shift).drop shift.length)

/-- Bits of a number, least significant first. -/
def natBits (n v : Nat) : List Nat := (List.range n).map fun i => b2n (bit v i)

/-- What left at TDO. -/
def State.tdoOut (s : State) (bs : List Nat) : State := { s with io := { s.io with tdo := s.io.tdo ++ [bs] } }

/-- A scan of the bypass register, which captures 0. -/
def State.scanBypass (s : State) (shift : List Nat) : State := s.tdoOut (tapScan [0] shift).1

/-- IDCODE (R664): the 32-bit identification register. -/
def execIdcode (shift : List Nat) (s : State) : Out := .next ((s.tapSelect 1).tdoOut (tapScan (natBits 32 0x1A94D2B3) shift).1)

/-- BYPASS (R664). -/
def execBypass (shift : List Nat) (s : State) : Out := .next ((s.tapSelect 0xFF).scanBypass shift)

/-- CLAMP (R664): the pins hold the boundary register while the bypass register is scanned. -/
def execClamp (shift : List Nat) (s : State) : Out := .next ((s.tapSelect 4).scanBypass shift)

/-- HIGHZ (R664): the pins float while the bypass register is scanned. -/
def execHighz (shift : List Nat) (s : State) : Out := .next ((s.tapSelect 5).scanBypass shift)

/-- A scan of the boundary register: it captures the pins, and holds what was shifted in. -/
def State.scanBoundary (s : State) (pins shift : List Nat) : State :=
  let (o, r) := tapScan pins shift
  ({ s with io := { s.io with bsr := r } } : State).tdoOut o

/-- SAMPLE_PRELOAD (R664). -/
def execSamplePreload (pins shift : List Nat) (s : State) : Out := .next ((s.tapSelect 2).scanBoundary pins shift)

/-- EXTEST (R600, R664): the pins follow the boundary register; withheld, the bypass register is scanned. -/
def execExtest (pins shift : List Nat) (s : State) : Out :=
  let t := s.tapSelect 3
  if s.tapOk 3 then .next (t.scanBoundary pins shift) else .next (t.scanBypass shift)

end Sys2Proof.Machine
end

