-- ==== Sys2Proof/Machine/HostIf.lean ====
section
/-!
DEFINITION. The host interface beside register accesses: MSI-X, the link and its resets, the windows, the bounce rings, and the engine wheels of confidential mode (R551 to R575, R603).
-/
namespace Sys2Proof.Machine

/-! ### MSI-X (R564) -/

/-- Send a pending vector's message when it is unmasked and the function can send (R564). -/
def State.msixFlush (s : State) (v : Nat) : State :=
  if s.host.pba.has v && !s.vecMasked v && s.hostUp then
    ({ s with host := { s.host with pba := NSet.rem v s.host.pba } } : State).msixSend v
  else s

/-- Send what is pending once the function can send: no event is lost (R564). -/
def State.msixFlushAll (s : State) : State := s.host.pba.foldl (fun s v => s.msixFlush v) s

/-- Write a 32-bit word of the MSI-X table (R553). -/
def State.setMsix (s : State) (i v : Nat) : State :=
  { s with host := { s.host with msix := Tab.set s.host.msix (if i % 4 = 3 then 1 else 0) i v } }

/-- MSIX_HOLDOFF_EXPIRY (R564): HOLDOFF_US has passed since the first pending event of a vector. -/
def execMsixHoldoffExpiry (v : Nat) (s : State) : Out :=
  let (c, t) := Tab.get s.host.vec (0, 0) v
  let h := s.fget (A.HI_VEC_MOD v) F.HI_VEC_MOD_HOLDOFF_US
  if 2048 ≤ v ∨ c = 0 ∨ h = 0 ∨ s.now < t + h * 256000 then .next s else .next (s.fireVec v)

/-- MSIX_UNMASK (R564): the mask bit of a vector clears; a pending message goes out and its pending bit clears. -/
def execMsixUnmask (v : Nat) (s : State) : Out :=
  if 2048 ≤ v ∨ !s.isOn 7 then .next s
  else .next ((s.setMsix (4 * v + 3) (s.msixWord (4 * v + 3) / 2 * 2)).msixFlush v)

/-! ### The link and its resets (R562, R566, R567) -/

/-- Show the function's state in HI_LINK_STATUS (R576). -/
def State.showFunction (s : State) : State :=
  (s.fset A.HI_LINK_STATUS F.HI_LINK_STATUS_BME (b2n s.host.bme)).fset A.HI_LINK_STATUS F.HI_LINK_STATUS_D3HOT (b2n s.host.d3hot)

/-- A host request reaches the device: the link is in L0, or returns to it from L1, and neither D7 nor D8 is Off (R566). In Retention D7 and D8 wake for it. -/
def State.linkReach (s : State) : Option State :=
  if (s.dom 7).st == .off || (s.dom 8).st == .off then none
  else match s.host.link with
  | .l0 => some s
  | .l1 => some { s with host := { s.host with link := .l0 } }
  | _ => none

/-- CONFIGURATION_WRITE (R562): Bus Master Enable, and D0 or D3hot. Messages that waited for the function go out. -/
def execConfigurationWrite (bme d3hot : Bool) (s : State) : Out :=
  match s.linkReach with
  | none => .next s
  | some s => .next (needOn [7, 8] s ({ s with host := { s.host with bme := bme, d3hot := d3hot } } : State).showFunction.msixFlushAll)

/-- Is an address a register that the resets of R567 clear? -/
def hostReg (a : Nat) : Bool :=
  match regAt a with
  | some h => h.blk == "HI" && h.reg.name != "HI_T_OBJ_BASE"
  | none => false

/-- The resets of R567: the host interface alone returns to its reset state, HI_T_OBJ_BASE excepted. -/
def State.hostReset (s : State) (link : HLink) : State :=
  { s with regs := s.regs.filter (fun p => !hostReg p.1), host := s.host.cleared link,
           extq := s.extq.filter fun c => extFrom c != .host }

/-- HOST_IF_RESET (R567): PERST_N, a hot reset or a link-down, which take the link down, or a Function Level Reset, which does not. -/
def execHostIfReset (flr : Bool) (s : State) : Out :=
  if flr then
    let sp := s.fget A.HI_LINK_STATUS F.HI_LINK_STATUS_SPEED
    let w := s.fget A.HI_LINK_STATUS F.HI_LINK_STATUS_WIDTH
    if !s.isOn 7 then .next s
    else .next (((s.hostReset s.host.link).fset A.HI_LINK_STATUS F.HI_LINK_STATUS_SPEED sp).fset A.HI_LINK_STATUS F.HI_LINK_STATUS_WIDTH w)
  else .next (s.hostReset .down)

/-- ASPM_L1_ENTRY (R566). -/
def execAspmL1Entry (s : State) : Out :=
  if s.host.link = .l0 then .next { s with host := { s.host with link := .l1 } } else .next s

/-- PME_TURN_OFF (R566): the link goes to L2. -/
def execPmeTurnOff (s : State) : Out :=
  match s.linkReach with
  | none => .next s
  | some s => .next (needOn [7, 8] s { s with host := { s.host with link := .l2 } })

/-- LINK_REACHES_L0 (R551, R566): training has ended at a rate and a width; from Off, D8 is ready first. -/
def execLinkReachesL0 (speed width : Nat) (s : State) : Out :=
  if !(s.host.link == .down || s.host.link == .l2) || speed == 0 || decide (5 < speed) || ! [1, 2, 4, 8].contains width || !s.rs.up then .next s
  else .next (needOn [7, 8] s (
    let s : State := { s with host := { s.host with link := .l0 } }
    (s.fset A.HI_LINK_STATUS F.HI_LINK_STATUS_SPEED speed).fset A.HI_LINK_STATUS F.HI_LINK_STATUS_WIDTH width))

/-! ### Windows (R556 to R558, R640) -/

/-- A bad host access within a tenant's window (R555). -/
def State.winMiss (s : State) (n : Nat) : State := s.bump (A.HI_T_WIN_MISS n)

/-- The ring of a tenant whose storage holds a range of its window, with the offset in the storage (R556). -/
def State.winRing (s : State) (n o len : Nat) : Option (Nat × Nat) :=
  (s.ringEs.flatMap fun e => (List.range e.count).map fun i => (e.first + i, e.size)).findSome? fun x =>
    let w := Tab.get s.host.win 0 x.1
    if s.ringTenant x.1 = some n ∧ w ≤ o ∧ o + len ≤ w + x.2 then some (x.1, o - w) else none

/-- A write to ring storage from the host (R557): PROD_BYTES and the packet area take it; bytes 0x08 to 0xFF are discarded and counted. -/
def State.ringPut (s : State) (n r k : Nat) (bs : List Nat) (psn : Bool) : State :=
  let b := s.ringBase r
  let lo := bs.take (8 - k)
  let hi := bs.drop (256 - k)
  let s := if lo = [] then s else s.homePut (b + k) (lo.map fun x => (x, psn))
  let s := if hi = [] then s else s.homePut (b + max k 256) (hi.map fun x => (x, psn))
  if lo.length + hi.length < bs.length then s.winMiss n else s

/-- A host write in a ring window (R556, R557, R568). -/
def State.ringWinWrite (s : State) (n o : Nat) (bs : List Nat) (psn : Bool) : State :=
  if s.rs.warm.isSome then s.hostBad
  else match s.winRing n o bs.length with
  | none => s.winMiss n
  | some (r, k) =>
    if s.confMode ∨ s.domCheck (t1Doms (s.ringBase r)) = .refuse then s.winMiss n
    else needOn (t1Doms (s.ringBase r)) s (s.ringPut n r k bs psn)

/-- A host read in a ring window (R557, R568). -/
def State.ringWinRead (s : State) (n o len : Nat) : State :=
  if s.rs.warm.isSome then s.hostBad.hostOnes len
  else match s.winRing n o len with
  | none => (s.winMiss n).hostOnes len
  | some (r, k) =>
    if s.confMode ∨ s.domCheck (t1Doms (s.ringBase r)) = .refuse then (s.winMiss n).hostOnes len
    else needOn (t1Doms (s.ringBase r)) s (s.hostCpl (s.homePB (s.ringBase r + k) len) [])

/-- The object-range address an object window offset reaches (R558). -/
def State.objWin (s : State) (n o : Nat) : Nat := objBase + s.fget (A.HI_T_OBJ_BASE n) F.HI_T_OBJ_BASE_PAGE * pageSize + o

/-- The naturally aligned power-of-two blocks of a byte range, each at most 128 bytes, from its low end (R523). -/
def pow2Blocks : Nat → Nat → Nat → List (Nat × Nat)
  | 0, _, _ => []
  | fuel + 1, a, n =>
    if n = 0 then []
    else
      let k := ([128, 64, 32, 16, 8, 4, 2].find? fun k => a % k == 0 && decide (k ≤ n)).getD 1
      (a, k) :: pow2Blocks fuel (a + k) (n - k)

/-- Send a host write to a peer as WRITE requests of the host interface (log entry 50). -/
def State.hostPeerWrite (s : State) (n dev a : Nat) (bs : List Nat) (psn : Bool) : State :=
  (pow2Blocks (bs.length + 1) a bs.length).foldl (fun s p =>
    s.sendReq .write dev p.1 p.2 (slice bs (p.1 - a) p.2 ++ List.replicate (ceilDiv p.2 16) (b2n psn)) n ⟨129, 0, .ok⟩ 0) s

/-- A host write in an object window (R558, R568): a poisoned TLP is stored with poison. -/
def State.objWinWrite (s : State) (n o : Nat) (bs : List Nat) (psn : Bool) : State :=
  let va := s.objWin n o
  if s.rs.warm.isSome then s.hostBad
  else if s.confMode then s.winMiss n
  else match s.resolve n (BitVec.ofNat 64 va) bs.length true with
  | .bad _ => s.winMiss n
  | .moving _ => s
  | .ok (.reg _) => s.winMiss n
  | .ok (.peer d a) => (s.touchPage n (BitVec.ofNat 64 va)).hostPeerWrite n d a bs psn
  | .ok l =>
    match s.domCheck (s.locDoms l) with
    | .refuse => s.winMiss n
    | .wait _ => s.domTouch (s.locDoms l)
    | .go => (s.domTouch (s.locDoms l)).writeHome n va (bs.map fun b => (b, psn))

/-- A host read in an object window (R558, R568): poison sets the Poisoned TLP bit and is counted. -/
def State.objWinRead (s : State) (n o len : Nat) : State :=
  let va := s.objWin n o
  if s.rs.warm.isSome then s.hostBad.hostOnes len
  else if s.confMode then (s.winMiss n).hostOnes len
  else match s.resolve n (BitVec.ofNat 64 va) len false with
  | .bad _ => (s.winMiss n).hostOnes len
  | .moving _ => s
  | .ok (.reg _) => (s.winMiss n).hostOnes len
  | .ok (.peer d a) =>
    let ps := splitAt 128 (len / 128 + 2) a len
    let t := ps.foldl (fun s p => s.sendReq .read d (p.1 / 128 * 128) 128 [] n ⟨129, 0, .ok⟩ 0) (s.touchPage n (BitVec.ofNat 64 va))
    t.hostCpl (List.replicate len (0, false)) ((List.range ps.length).map fun i => match ps[i]? with
      | some p => (s.tagNext + i, p.1 - a, p.1 % 128, p.2)
      | none => (0, 0, 0, 0))
  | .ok l =>
    match s.domCheck (s.locDoms l) with
    | .refuse => (s.winMiss n).hostOnes len
    | .wait _ => s.domTouch (s.locDoms l)
    | .go =>
      let s := (s.domTouch (s.locDoms l)).touchPage n (BitVec.ofNat 64 va)
      s.hostCpl (s.readHome n va len) []

/-- BAR2 before a plat (R640): the staging frames, which close after BOOT_LENGTH, and the boot control area. A BOOT_LENGTH of 0 begins a new image after a failure (R644). -/
def State.stageWrite (s : State) (o : Nat) (bs : List Nat) (psn : Bool) : State :=
  if !s.bootWaits || s.bootSel != 0 then s.hostBad
  else if o + bs.length ≤ 0x800000 then
    if s.rs.bootLen ≠ 0 then s else needOn [15, 31, 33] s (s.homeStore (stagingBase + o) bs psn)
  else if 0x800000 ≤ o ∧ o + bs.length ≤ 0x800040 then
    if o = 0x800000 ∧ 8 ≤ bs.length then
      let v := field bs 0 8
      if v = 0 then ({ s with rs := { s.rs with bootLen := 0 } } : State).bootAgain
      else if s.rs.bootLen = 0 then { s with rs := { s.rs with bootLen := v } } else s
    else s
  else s.hostBad

/-- A read of BAR2 before a plat (R640). -/
def State.stageRead (s : State) (o len : Nat) : State :=
  if !s.rs.up || s.bootSel != 0 then s.hostBad.hostOnes len
  else if o + len ≤ 0x800000 then needOn [15, 31, 33] s (s.hostCpl (s.homePB (stagingBase + o) len) [])
  else if 0x800000 ≤ o ∧ o + len ≤ 0x800040 then
    let area := natLe 8 s.rs.bootLen ++ natLe 4 (s.rd A.LK_BOOT_STATUS).toNat ++ natLe 52 0
    s.hostCpl (clean (slice area (o - 0x800000) len)) []
  else s.hostBad.hostOnes len

/-! ### The bounce rings (R568 to R573) -/

/-- The bytes of a bounce ring of 2^LOG2. -/
def State.inSize (s : State) (n : Nat) : Nat := 2 ^ s.fget (A.HI_T_IN_CFG n) F.HI_T_IN_CFG_LOG2

/-- A record fails a check (R570): the ring stops with a cause, and CONF_STOP is raised. -/
def State.inStop (s : State) (n cause : Nat) : State :=
  ((s.fset (A.HI_T_IN_CFG n) F.HI_T_IN_CFG_IN_STOPPED 1).fset (A.HI_T_IN_CFG n) F.HI_T_IN_CFG_CAUSE cause).tenantEvent n 2

/-- REKEY is raised once per key when its counter reaches HI_CONF_REKEY (R573); `k` is the key, ingress n or egress n + 8. -/
def State.rekeyDue (s : State) (n k counter : Nat) : State :=
  if (s.rd A.HI_CONF_REKEY).toNat ≤ counter ∧ !s.host.rekeyed.has k then
    ({ s with host := { s.host with rekeyed := NSet.add k s.host.rekeyed } } : State).tenantEvent n 3
  else s

/-- A record has passed (R570): the counter and the count of consumed bytes advance. -/
def State.inPass (s : State) (n bytes : Nat) : State :=
  let c := (s.rd (A.HI_T_IN_COUNTER n)).toNat + 1
  let s := s.wr (A.HI_T_IN_COUNTER n) (BitVec.ofNat 64 c)
  (s.wr (A.HI_T_IN_CONS n) (s.rd (A.HI_T_IN_CONS n) + BitVec.ofNat 64 bytes)).rekeyDue n n c

/-- Where the device places a packet of `p` bytes in a ring (R339, R340): the count, and whether a skip marker goes first; none while there is no room. -/
def State.placeAt (s : State) (r p : Nat) : Option (Nat × Bool) :=
  let prod := s.ringProd r
  let area := s.ringArea r
  let skip := decide (area < prod % area + p)
  let c := if skip then prod - prod % area + area else prod
  if c + p ≤ (s.ringSt r).release + area then some (c, skip) else none

/-- Place a packet in a ring as its producer, and ring its doorbell (R571). -/
def State.placePacket (s : State) (n r : Nat) (pkt : List Nat) (c : Nat) (skip : Bool) : State :=
  let s := if skip then s.homePut (s.ringAt r (s.ringProd r)) (clean (2 :: List.replicate 63 0)) else s
  let s := s.homePut (s.ringAt r c) (clean pkt)
  let s := s.homePut (s.ringBase r) (clean (natLe 8 (c + pkt.length)))
  (s.doorbell n r).1

/-- The wait for room in a ring ends: it is added to HI_T_IN_WAIT_NS (R571). -/
def State.inWaited (s : State) (n : Nat) : State :=
  match Tab.get s.host.inWait 0 n with
  | 0 => s
  | t + 1 => ({ s with host := { s.host with inWait := Tab.set s.host.inWait 0 n 0 } } : State).fadd (A.HI_T_IN_WAIT_NS n) F.HI_T_IN_WAIT_NS_NS ((s.now - t) / 256)

/-- Apply the plaintext of a record that passed its checks (R571, R572). -/
def State.inApply (s : State) (n kind ring : Nat) (pt : List Nat) : State :=
  let total := pt.length + 64
  if kind = 0 then s.inPass n total
  else if kind = 2 then
    let a := field pt 0 8
    let len := field pt 8 4
    if pt.length ≠ 64 ∨ a % 64 ≠ 0 ∨ len % 64 ≠ 0 ∨ len = 0 ∨ 16777152 < len ∨ !zeroBytes pt 20 44 ∨ area a 1 ≠ .obj then s.inStop n 3
    else
      let s := s.inPass n total
      { s with host := { s.host with exports := s.host.exports ++ [⟨n, a, len, pt⟩] } }
  else if s.ringTenant ring ≠ some n ∨ pt.length ≠ packetLen (field pt 8 4) then s.inStop n 3
  else match s.placeAt ring pt.length with
  | none =>
    if Tab.get s.host.inWait 0 n = 0 then { s with host := { s.host with inWait := Tab.set s.host.inWait 0 n (s.now + 1) } } else s
  | some (c, skip) => needOn ([13] ++ t1Doms (s.ringBase ring)) s (((s.inWaited n).inPass n total).placePacket n ring pt c skip)

/-- The checks of R570 in its order, EXHAUSTED with the counter's own: the cause of a record that fails. -/
def State.inCheck (s : State) (n : Nat) (h : List Nat) : Option Nat :=
  let len := field h 0 4
  let kind := field h 4 2
  let counter := field h 8 8
  let cons := (s.rd (A.HI_T_IN_CONS n)).toNat
  let avail := ((s.rd (A.HI_T_IN_PROD n)).toNat + 2 ^ 64 - cons) % 2 ^ 64
  if field h 16 4 ≠ Tab.get s.host.sess 0 n then some 4
  else if counter ≠ (s.rd (A.HI_T_IN_COUNTER n)).toNat then some 2
  else if 2 ^ 63 ≤ counter then some 5
  else if 2 < kind ∨ len % 64 ≠ 0 ∨ 16777216 < len ∨ (len = 0 ∧ kind ≠ 0) then some 3
  else if len ≠ 0 ∧ (s.inSize n < cons % s.inSize n + len + 64 ∨ avail < len + 64) then some 3
  else none

/-- Can the device read its bounce rings for a tenant now? -/
def State.bounceUp (s : State) (n : Nat) : Bool := decide (n < 8) && s.confMode && s.hostUp && s.rs.warm.isNone

/-- INGRESS_RECORD (R570, R571): the device has read the next record of a tenant's ingress ring. -/
def execIngressRecord (n : Nat) (bytes : List Nat) (s : State) : Out :=
  let key := Tab.get s.host.inKey [] n
  let cons := s.rd (A.HI_T_IN_CONS n)
  if !s.bounceUp n || !s.flag (A.HI_T_IN_CFG n) F.HI_T_IN_CFG_EN || s.flag (A.HI_T_IN_CFG n) F.HI_T_IN_CFG_IN_STOPPED || key == [] || !timeReached (s.rd (A.HI_T_IN_PROD n)) cons || s.rd (A.HI_T_IN_PROD n) == cons || decide (bytes.length < 64) then .next s
  else
    let h := bytes.take 32
    let len := field h 0 4
    match s.inCheck n h with
    | some c => .next (s.inStop n c)
    | none =>
      if len = 0 then .next (s.inPass n (s.inSize n - cons.toNat % s.inSize n))
      else if bytes.length < len + 64 then .next s
      else match gcmOpen key (slice h 16 4 ++ slice h 8 8) h (slice bytes 32 len) (slice bytes (32 + len) 16) with
      | none => .next (s.inStop n 1)
      | some pt => .next (s.inApply n (field h 4 2) (field h 6 2) pt)

/-- Read an export's range page by page (R572), `lim` the offset of an access that reached its stall limit, `peer` what was read of pages at a peer: the bytes with their marks up to the first page that failed, the peer bytes left, and whether one failed. -/
def State.exportRead (s : State) (n lim : Nat) : List (Nat × Nat) → Nat → List PByte → List PByte × Bool
  | [], _, _ => ([], false)
  | (a, k) :: t, off, peer =>
    if off ≤ lim ∧ lim < off + k then ([], true)
    else match s.resolve n (BitVec.ofNat 64 a) k false with
    | .ok (.peer _ _) =>
      let (r, f) := s.exportRead n lim t (off + k) (peer.drop k)
      (peer.take k ++ r, f)
    | .ok l =>
      if s.domCheck (s.locDoms l) = .refuse then ([], true)
      else
        let (r, f) := s.exportRead n lim t (off + k) peer
        (s.readHome n a k ++ r, f)
    | _ => ([], true)

/-- The domains an export's pages need, and whether a page is moving. -/
def State.exportNeeds (s : State) (n : Nat) (ps : List (Nat × Nat)) : List Nat × Bool :=
  ps.foldl (fun r p => match s.resolve n (BitVec.ofNat 64 p.1) p.2 false with
    | .ok l => (r.1 ++ if s.domCheck (s.locDoms l) = .refuse then [] else s.locDoms l, r.2)
    | .moving _ => (r.1, true)
    | .bad _ => r) ([], false)

/-- EXPORT_DONE (R572): the oldest export has been read, and its egress record waits. `limit` is the offset of an access that reached its stall limit; `data` and `marks` are what peers returned for T3 pages in order, byte by byte. -/
def execExportDone (limit : Option Nat) (data marks : List Nat) (s : State) : Out :=
  match s.host.exports with
  | [] => .next s
  | x :: rest =>
    let ps := pagePieces x.addr x.len
    let (ds, moving) := s.exportNeeds x.tenant ps
    if moving ∨ !s.isOn 7 then .next s
    else .next (needOn ds s (
      let (b, bad) := s.exportRead x.tenant (limit.getD x.len) ps 0 ((data.zip marks).map fun p => (p.1, p.2 == 1))
      let st := if bad then 5 else if b.any (·.2) then 1 else 0
      let out := b.map fun p => if p.2 then 0 else p.1
      let pt := putBytes x.req 0x3C [st] ++ (out ++ List.replicate (x.len - out.length) 0)
      let s : State := { s with host := { s.host with exports := rest } }
      s.egressAdd x.tenant 2 0 pt))

/-- The 32 bytes of a record that are the additional data (R569). -/
def bounceHead (len kind ring counter session : Nat) : List Nat :=
  natLe 4 len ++ natLe 2 kind ++ natLe 2 ring ++ natLe 8 counter ++ natLe 4 session ++ natLe 12 0

/-- Write one record at HI_T_OUT_PROD (R569, R573): `adv` is how far the count advances. -/
def State.outRecord (s : State) (n : Nat) (bytes : List Nat) (adv : Nat) : State :=
  let prod := (s.rd (A.HI_T_OUT_PROD n)).toNat
  let size := 2 ^ s.fget (A.HI_T_OUT_CFG n) F.HI_T_OUT_CFG_LOG2
  let s := s.hostSend ((s.rd (A.HI_T_OUT_BASE n)).toNat + prod % size) bytes
  let c := (s.rd (A.HI_T_OUT_COUNTER n)).toNat + 1
  let s := s.wr (A.HI_T_OUT_PROD n) (BitVec.ofNat 64 (prod + adv))
  (s.wr (A.HI_T_OUT_COUNTER n) (BitVec.ofNat 64 c)).rekeyDue n (n + 8) c

/-- Seal and write an egress record, behind a pad record when it would cross the end of the ring (R569, R573). -/
def State.outWrite (s : State) (n : Nat) (e : Egress) : State :=
  let key := Tab.get s.host.outKey [] n
  let session := Tab.get s.host.sess 0 n
  let size := 2 ^ s.fget (A.HI_T_OUT_CFG n) F.HI_T_OUT_CFG_LOG2
  let at_ := (s.rd (A.HI_T_OUT_PROD n)).toNat % size
  let need := e.data.length + 64
  let counter := fun (s : State) => (s.rd (A.HI_T_OUT_COUNTER n)).toNat
  let s := if size < at_ + need then s.outRecord n (bounceHead 0 0 0 (counter s) session ++ natLe 32 0) (size - at_) else s
  let h := bounceHead e.data.length e.kind (e.ring % 65536) (counter s) session
  let (ct, tag) := gcmSeal key (slice h 16 4 ++ slice h 8 8) h e.data
  let s := s.outRecord n (h ++ ct ++ tag ++ natLe 16 0) need
  let s : State := { s with host := { s.host with egress := s.host.egress.erase e } }
  if e.kind = 1 ∧ e.ring < 65536 then s.ringVec n e.ring else s

/-- EGRESS_RECORD_WRITE (R573): the oldest egress record of a tenant is sealed and written when it fits; otherwise it waits and EGRESS_WAIT is raised. -/
def execEgressRecordWrite (n : Nat) (s : State) : Out :=
  match s.host.egress.find? fun e => e.tenant == n with
  | none => .next s
  | some e =>
    if !s.bounceUp n || !s.flag (A.HI_T_OUT_CFG n) F.HI_T_OUT_CFG_EN || Tab.get s.host.outKey [] n == [] then .next s
    else
      let size := 2 ^ s.fget (A.HI_T_OUT_CFG n) F.HI_T_OUT_CFG_LOG2
      let prod := (s.rd (A.HI_T_OUT_PROD n)).toNat
      let need := e.data.length + 64
      let pad := if size < prod % size + need then size - prod % size else 0
      if size < (prod + 2 ^ 64 - (s.rd (A.HI_T_OUT_CONS n)).toNat) % 2 ^ 64 + pad + need then .next (s.tenantEvent n 4)
      else .next (s.outWrite n e)

/-! ### Engine wheels (R603) -/

/-- TENANT_WINDOW_START (R603): in confidential mode a shared engine's wheel moves to the next tenant when the window of 100 µs, scaled by the tile clock, has ended. -/
def execTenantWindowStart (eng unit : Nat) (s : State) : Out :=
  if eng = 0 ∨ 5 < eng ∨ 16 ≤ unit ∨ (4 ≤ eng ∧ unit ≠ 0) ∨ !s.wheeled eng unit then .next s
  else
    let ts := s.wheelTenants eng unit
    let set := fun (n : Nat) => ({ s with eng := { s.eng with wheel := Tab.set s.eng.wheel none (engKey eng unit) (some (n, s.now)) } } : State)
    match Tab.get s.eng.wheel none (engKey eng unit), ts with
    | none, n :: _ => .next (set n)
    | some (n, t0), f :: _ =>
      if (s.now - t0) * s.wheelClk eng unit < 1000000 * 256 then .next s
      else .next (set ((ts.find? fun m => decide (n < m)).getD f))
    | _, [] => .next s

end Sys2Proof.Machine
end

