-- ==== Sys2Proof/Machine/BusView.lean ====
section
/-!
DEFINITION. What a requester may access in the control space, and what each register reads as (R5 to R11, R66, and the access rules of every block's chapter).
-/
namespace Sys2Proof

/-- The tenant a requester belongs to. -/
def Who.ten : Who → Option Nat
  | .tenant n => some n
  | _ => none

end Sys2Proof

namespace Sys2Proof.Machine

/-! ### Who may access a register -/

/-- A requester of tenant `n`, or debug that the tenant's DEBUG_ALLOWED permits (R599). -/
def State.bankOk (s : State) (who : Who) (n : Nat) : Bool := who == .tenant n || (who == .debug && s.debugOk n)

/-- As `bankOk` for the tenant of a partition; a partition the plat does not define is open, and reads as zero (R96, R377). -/
def State.partOk (s : State) (who : Who) (p : Nat) : Bool := match s.partE p with
  | some e => s.bankOk who e.tenant
  | none => true

/-- Boot firmware before a plat is applied reaches every register (R643). -/
def State.bootOk (s : State) (who : Who) : Bool := who == .boot && s.rs.boot && s.plat.cur.isNone

/-- Does a tenant own every owned tile of a cluster (R499)? -/
def State.soleOwner (s : State) (n c : Nat) : Bool :=
  s.ownsCluster n c && (List.range 8).all fun i => match s.tilePart (8 * c + i) with
    | some e => e.tenant == n
    | none => true

/-- The Lock-keeper's registers (R497 to R499, R652). LK_RESET_CMD is open to all, for a write it refuses sets REFUSED; LK_TRIP_CLR also while a trip holds the device, which has lost LK_ADMIN. -/
def State.okLK (s : State) (who : Who) (h : RegHit) (wr : Bool) : Bool :=
  let i := h.idx.headD 0
  let n := who.ten
  match h.reg.name with
  | "LK_STATUS" => !wr || s.lkAdmin who
  | "LK_RESET_CMD" => true
  | "LK_TRIP_CLR" => s.lkAdmin who || s.pw.trip
  | "LK_D_CTRL" => s.lkForceOk who i
  | "LK_D_STATUS" | "LK_D_ENTRIES" | "LK_D_REFUSED" | "LK_D_ABORTED" | "LK_D_EDGE_LOST" | "LK_D_STALL_LIMIT" | "LK_D_WAKES" =>
    s.lkAdmin who || (!wr && n.any fun t => (s.domTenants i).contains t)
  | "LK_C_LEVEL" | "LK_C_TEMP" | "LK_C_CAPPED_US" =>
    s.lkAdmin who || n.any fun t => if wr then s.soleOwner t i else s.ownsCluster t i
  | _ => s.lkAdmin who

/-- The Time unit's registers: anyone reads (R513). -/
def State.okTU (s : State) (who : Who) (h : RegHit) (wr : Bool) : Bool :=
  if !wr then true
  else match h.reg.name with
  | "TU_TC_CTRL" | "TU_TC_BIND" | "TU_TC_TIME" | "TU_TC_PERIOD" => s.tcOwner who (h.idx.headD 0)
  | _ => s.lkAdmin who

/-- The Headgate's registers (R61, R375 to R377, R399 to R401). -/
def State.okHG (s : State) (who : Who) (h : RegHit) (wr : Bool) : Bool :=
  let i := h.idx.headD 0
  let o := h.reg.off
  if o < 0x1000 then !wr || s.lkAdmin who
  else if o < 0x20000 then s.hgPageOk who i
  else if o < 0x40000 then s.partOk who i
  else if h.reg.name = "HG_WEAR_GAP" then !wr || s.lkAdmin who
  else if o < 0x50000 then s.wearOk who i
  else (match s.tilePart i with
    | some e => s.bankOk who e.tenant
    | none => false) && (!wr || s.lkAdmin who)

/-- The translation and allocator registers (R79, R96). -/
def State.okVC (s : State) (who : Who) (h : RegHit) (wr : Bool) : Bool :=
  let i := h.idx.headD 0
  let o := h.reg.off
  if o < 0x1000 then !wr
  else if o < 0x4000 then s.bankOk who i
  else if o < 0x8000 then s.partOk who i
  else vcPageOk who i

/-- A bank of a tenant, or the registers that the tenants of a cluster share (R267, R296, R335). -/
def State.okBank (s : State) (who : Who) (h : RegHit) (wr : Bool) : Bool :=
  if h.reg.dims = [] then !wr && who.ten.any fun n => s.ownsCluster n h.inst else s.bankOk who (h.idx.headD 0)

/-- The Stem engine's and the post-processing unit's registers (R336): a bank is its tenant's; the activation tables, which commands of every tenant use, are open to each that owns a partition (log entry 61). -/
def State.okUnit (s : State) (who : Who) (h : RegHit) (wr : Bool) : Bool :=
  let table := decide (0x600 ≤ h.reg.off)
  if h.reg.dims = [] ∨ table then (table || !wr) && who.ten.any fun n => s.partsOf n != [] else s.bankOk who (h.idx.headD 0)

/-- The registers of a tile, for its tenant (R132, R234). -/
def State.okTile (s : State) (who : Who) (t : Nat) : Bool := match s.tilePart t with
  | some e => s.bankOk who e.tenant
  | none => false

/-- A receiver's tenant (R467). -/
def State.okCA (s : State) (who : Who) (r : Nat) : Bool :=
  s.flag (A.CA_TENANT r) F.CA_TENANT_VALID && who == .tenant (s.fget (A.CA_TENANT r) F.CA_TENANT_TENANT)

/-- May a requester read or write a register? Any other access receives an error response. -/
def State.regOk (s : State) (who : Who) (h : RegHit) (wr : Bool) : Bool :=
  let i := h.idx.headD 0
  let paged := h.reg.dims != []
  s.bootOk who ||
  match h.blk with
  | "LK" => s.okLK who h wr
  | "TU" => s.okTU who h wr
  | "NT" => if paged && decide (i < 8) then who == .tenant i else s.lkAdmin who || (who == .boot && s.rs.boot)
  | "FL" => if 0x1000 ≤ h.reg.off then who == .tenant i else s.lkAdmin who
  | "AS" => s.asOk who (if h.reg.off < 0x1000 then i else i / 32)
  | "TL" => s.tlOk who h.inst
  | "ST" | "PP" => s.okUnit who h wr
  | "XM" | "VCV" => true
  | "AU" | "RN" | "GP" => s.auOk who
  | "IS" => if paged then s.isOk who i else !wr || s.lkAdmin who
  | "CA" => s.okCA who h.inst
  | "IO" => s.lkAdmin who || (decide (0x100 ≤ h.reg.off) && decide (h.reg.off ≤ 0x1C0) && s.spiOk who)
  | "DB" => s.lkAdmin who || who == .debug
  | "HI" => who == .host || (if paged && decide (0x4000 ≤ h.reg.off) then s.bankOk who i else s.lkAdmin who)
  | "BL" => s.lkAdmin who || (!wr && who.ten.isSome)
  | "BLD" =>
    (match h.reg.name with
    | "BL_TIMEOUT" => !wr || s.lkAdmin who
    | "BL_DB_SEND" | "BL_DB_SENT" => who == .tenant i
    | _ => s.lkAdmin who || (!wr && who.ten.isSome))
  | "VC" => s.okVC who h wr
  | "HG" => s.okHG who h wr
  | "AT" | "SC" | "CV" => s.okBank who h wr
  | "TI" | "MX" => s.okTile who h.inst
  | _ => false

/-! ### Records shown in windows -/

/-- The tenant whose ring entry holds a context (R43, R368). -/
def State.ctxOwner (s : State) (c : Nat) : Option Nat :=
  (s.ringEs.find? fun e => decide (e.ctx0 ≤ c) && decide (c < e.ctx0 + e.ctxN)).bind fun e => (s.partE e.part).map (·.tenant)

/-- The context record of R369; RUN_NS counts the time SAVED too (R392). -/
def State.ctxRecord (s : State) (c : Nat) : List Nat :=
  let x := s.ctx c
  if x.st = 0 then natLe 8 0 ++ natLe 32 0 ++ natLe 8 x.save ++ natLe 208 0
  else
    let run := if x.st = 3 then x.since else s.now - x.since
    let st := s.statusNow c
    let n := fun (k : Nat) => (x.slots.filter fun p => p.2.st == k).length
    [x.st, b2n x.tick + 2 * b2n (x.slots.any fun p => p.2.st != 0) + 4 * b2n x.retried, x.grp, x.part] ++ natLe 2 x.ring ++ [0, 0] ++
    natLe 4 x.seq ++ natLe 4 x.result ++ natLe 8 x.release ++ natLe 8 (if x.started then run / 256 else 0) ++ natLe 4 x.debt ++
    [(if x.st = 3 then x.status else st.1), (if x.st = 3 then x.cause else st.2), n 1, n 2] ++ natLe 8 x.save ++ natLe 8 x.program ++ natLe 200 0

/-- The reply slots of a context (R371). -/
def State.ctxReplies (s : State) (c : Nat) : List Nat :=
  (List.range 64).flatMap fun i =>
    let r := (s.ctx c).slot i
    [r.st, r.kind, r.rank, r.thr, r.reg, r.code + 16 * b2n r.psn, r.size + 16 * b2n r.sx, 0] ++ natLe 8 r.data

/-- The bytes of a window (R6). -/
def State.window (s : State) (h : RegHit) : List Nat :=
  let n := h.idx.headD 0
  let c := s.fget (A.HG_CTX_SEL n) F.HG_CTX_SEL_CONTEXT
  let words := fun (a k : Nat) => (List.range k).flatMap fun i => natLe 4 (s.rd (a + 4 * i)).toNat
  match h.reg.name with
  | "HG_CTX_VIEW" => if s.ctxOwner c = some n then s.ctxRecord c else natLe 256 0
  | "HG_CTX_REPLY" => if s.ctxOwner c = some n then s.ctxReplies c else natLe 1024 0
  | "IO_SPI_RX" => (match s.io.rx with
    | (f, _, _) :: _ => f
    | [] => natLe 64 0)
  | "IO_SPI_TX" => (words A.IO_SPI_TX 15).take 58
  | "RN_LAST_RECORD" => words A.RN_LAST_RECORD 32
  | _ => words (A.NT_UID 0) 4

/-! ### Computed fields -/

/-- Replace a field of a value. -/
def putF (v : Nat) (f : Nat × Nat) (x : Nat) : Nat := setBits v f.1 f.2 x

/-- Does confidential mode quantise what this requester reads (R605)? -/
def State.veiled (s : State) (who : Who) : Bool := s.confMode && who.ten.isSome

/-- A register as it stood at the last 1 ms boundary of the time counter, for a tenant in confidential mode (R605). -/
def State.shownReg (s : State) (who : Who) (a : Nat) : Nat := if s.veiled who then (Tab.get s.pw.shown 0 a).toNat else (s.rd a).toNat

/-- Does IDENT of LK_D_STATUS name another tenant's resource (R474, R605)? -/
def State.identHidden (s : State) (n code ident : Nat) : Bool :=
  if code = 5 then ident / 256 != n
  else if code = 1 then ident / 256 != 0xFF && (if ident % 256 = 4 then s.fget (A.IS_S_TENANT (ident / 256)) F.IS_S_TENANT_TENANT != n
    else (s.partE (ident / 256)).any fun e => e.tenant != n)
  else false

/-- LK_D_STATUS (R498). -/
def State.domStatus (s : State) (who : Who) (d v : Nat) : Nat :=
  let x := s.dom d
  let v := putF v F.LK_D_STATUS_STATE (if d = 0 then 0 else x.st.depth)
  let v := putF v F.LK_D_STATUS_WAKING (b2n (x.waking || s.wakeq.contains d))
  let v := putF v F.LK_D_STATUS_ENTERING (b2n x.entering.isSome)
  if s.veiled who && s.identHidden (who.ten.getD 0) (bits v 6 4) (bits v 23 8) then putF v F.LK_D_STATUS_IDENT 0 else v

/-- A signed 12-bit temperature in quarter degrees rounded down to 2 °C (R605). -/
def coarse (t : Nat) : Nat := unsgn 12 (sgn 12 t / 8 * 8)

/-- The Lock-keeper's registers as read (R497 to R500, R605, R652). -/
def State.viewLK (s : State) (who : Who) (h : RegHit) (a v : Nat) : Nat :=
  let i := h.idx.headD 0
  let veil := s.veiled who
  let sh := s.shownReg who a
  match h.reg.name with
  | "LK_STATUS" => putF sh F.LK_STATUS_UNIFORM (b2n s.confMode)
  | "LK_PWR_NOW" | "LK_RAIL_MW" | "LK_RAIL_MJ" => if veil then 0 else v
  | "LK_GOV_NS" | "LK_THERM_NS" => if veil then sh / 1000000 * 1000000 else v
  | "LK_C_CAPPED_US" => if veil then sh / 1000 * 1000 else v
  | "LK_C_TEMP" =>
    if veil then putF (putF sh F.LK_C_TEMP_LOGIC (coarse (bits sh 11 0))) F.LK_C_TEMP_DRAM (coarse (bits sh 27 16)) else v
  | "LK_WAKE_STATUS" =>
    (match s.wakingNow with
    | some d => putF (putF 0 F.LK_WAKE_STATUS_DOMAIN d) F.LK_WAKE_STATUS_BUSY 1
    | none => 0) + s.wakeq.length * 2 ^ 7
  | "LK_D_STATUS" => s.domStatus who i v
  | "LK_RESET_STATUS" => putF v F.LK_RESET_STATUS_BUSY (b2n s.resetBusy)
  | _ => v

/-- The Fault ledger's registers as read (R634). A tenant in confidential mode sees its own retired tiles alone (R605). -/
def State.viewFL (s : State) (who : Who) (h : RegHit) (v : Nat) : Nat :=
  let mine := fun (t : Nat) => !s.veiled who || (s.partsOf (who.ten.getD 0)).any fun e => bit e.tiles t
  match h.reg.name with
  | "FL_STATUS" => putF (putF v F.FL_STATUS_CLASSIFYING (b2n (s.fl.cls.any (·.running)))) F.FL_STATUS_BUFFERED s.fsrBuf.length
  | "FL_RETIRED" => maskOf ((List.range 32).filter fun b => s.retired.has (32 * h.idx.headD 0 + b) && mine (32 * h.idx.headD 0 + b))
  | _ => v

/-- BUSY and QUEUED of an engine's STATUS for a tenant (R267, R296, R335, R336). -/
def State.engStatus (s : State) (eng unit n : Nat) : Nat :=
  b2n (s.runs.any fun r => r.cmd.eng == eng && r.unit == unit && r.cmd.tenant == n) + 2 * ((s.queueOf eng unit).filter fun q => q.cmd.tenant == n).length

/-- Commands of a tenant set aside in an engine's queue (R296, R335). -/
def State.asides (s : State) (eng unit n : Nat) : Nat := ((s.queueOf eng unit).filter fun q => q.cmd.tenant == n && q.aside != 0).length

/-- An engine's registers as read: a matrix unit's command that has started and waits for a page or a domain runs (R220, R234). -/
def State.viewEng (s : State) (h : RegHit) (v : Nat) : Nat :=
  let n := h.idx.headD 0
  let c := h.inst
  match h.reg.name with
  | "MX_STATUS" =>
    let run := s.runs.any fun r => r.cmd.eng == 0 && r.unit == c
    let held := (s.tile c).mxHold != .none
    let waiting := (s.ebuf.filter fun x => x.eng == 0 && x.tile == c).length
    b2n (run || held) + 2 * (waiting - b2n (held && !run))
  | "AT_STATUS" => s.engStatus 1 c n
  | "SC_STATUS" =>
    s.engStatus 2 c n + s.asides 2 c n * 2 ^ 6 +
    ((s.sc.st.filter fun x => x.cluster == c && x.tenant == n).foldl (fun m x => m + x.place.foldl (fun k p => k + p.2) 0) 0) * 2 ^ 11
  | "CV_STATUS" => s.engStatus 3 c n + s.asides 3 c n * 2 ^ 6
  | "CV_HALO_STATUS" => s.haloUsed c true + s.haloUsed c false * 2 ^ 5
  | "ST_STATUS" => s.engStatus 4 0 n
  | "PP_STATUS" => s.engStatus 5 0 n
  | _ => v

/-- The cameras' registers as read (R467, R468). -/
def State.viewCam (s : State) (h : RegHit) (v : Nat) : Nat :=
  match h.reg.name with
  | "CA_STATUS" =>
    let t := Tab.get s.cam.seen 0 h.inst
    putF v F.CA_STATUS_ACTIVE (b2n (t != 0 && decide (s.now < t + 256000000)))
  | "IS_STATUS" => maskOf ((List.range 16).filter s.isOnStream)
  | "IS_S_QSTATUS" => putF v F.IS_S_QSTATUS_DEPTH (s.isSt (h.idx.headD 0)).queue.length
  | _ => v

/-- The low-speed I/O and debug registers as read (R599 to R601, R678). -/
def State.viewIO (s : State) (h : RegHit) (v : Nat) : Nat :=
  match h.reg.name with
  | "IO_SPI_STATUS" => putF v F.IO_SPI_STATUS_RX_COUNT s.io.rx.length
  | "IO_SPI_RX_INFO" => (match s.io.rx with
    | (_, vd, ok) :: _ => vd + 4 * b2n ok
    | [] => 0)
  | "IO_UART_STATUS" => putF (putF v F.IO_UART_STATUS_RX_COUNT s.io.urx.length) F.IO_UART_STATUS_TX_FREE (16 - s.io.utx.length)
  | "IO_UART_DATA" => s.io.urx.headD 0
  | "IO_GPIO_IN" => s.gpioIn
  | "DB_STATUS" => b2n s.confMode
  | "DB_HOLD" => maskOf ((bitsOf 40 v).filter s.holdAllowed)
  | _ => v

/-- The host interface's registers as read (R577): the ring registers show the ring in HI_T_RING_SEL. -/
def State.viewHI (s : State) (h : RegHit) (v : Nat) : Nat :=
  let n := h.idx.headD 0
  let r := s.fget (A.HI_T_RING_SEL n) F.HI_T_RING_SEL_RING
  let own := s.ringTenant r == some n
  match h.reg.name with
  | "HI_T_RING_CFG" => if own then s.ringCfg r else 0
  | "HI_T_RING_CQ" => if own then Tab.get s.host.ringCq 0 r else 0
  | "HI_T_RING_WIN" => if own then Tab.get s.host.win 0 r else 2 ^ 64 - 1
  | _ => v

/-- A value that the specification leaves open, of a width. -/
def State.freeWord (s : State) (w : Nat) : Nat := (Config.freeValue s.free).toNat % 2 ^ w

/-- The translation and allocator registers as read (R96, R97, R605). -/
def State.viewVC (s : State) (who : Who) (h : RegHit) (v : Nat) : Nat :=
  let n := h.idx.headD 0
  let dark := s.veiled who && !s.lkAdmin who
  match h.reg.name with
  | "VC_MIG_CFG" => if s.confMode then putF v F.VC_MIG_CFG_TENANT_RR 1 else v
  | "VC_MIG_STATUS" =>
    if dark then 0 else (s.vc.moves.filter fun m => !m.lane).length + (s.vc.moves.filter fun m => m.lane).length * 2 ^ 7
  | "VC_T1_FREE" => if dark then 0 else s.t1Free
  | "VC_T2_FREE" => if dark then 0 else s.t2Free
  | "VC_QUOTA_T1" => s.quota n 1
  | "VC_QUOTA_T2" => s.quota n 2
  | "VC_QUOTA_T3" => s.quota n 3
  | "VC_USED_T1" => s.usedPages n 1
  | "VC_USED_T2" => s.usedPages n 2
  | "VC_USED_T3" => s.usedPages n 3
  | "VC_MIG_RESULT" => (s.migResult n).2.toNat
  | "VC_STALL" => if (s.partE n).isSome then v else 0
  | "VC_V_STATUS" => if s.veiled who && !s.ownsVault (who.ten.getD 0) h.inst then 0 else s.vaultStatus h.inst
  | "VC_V_BYTES" => if s.veiled who && !s.ownsVault (who.ten.getD 0) h.inst then 0 else Tab.get s.arb.bytes 0 (h.inst * 8 + n)
  | "VC_V_WAIT" => if s.veiled who && !s.ownsVault (who.ten.getD 0) h.inst then 0 else Tab.get s.arb.wait 0 (h.inst * 8 + n)
  | "XM_BYTES_CH0" => Tab.get s.arb.chBytes 0 (2 * h.inst)
  | "XM_BYTES_CH1" => Tab.get s.arb.chBytes 0 (2 * h.inst + 1)
  | "XM_QMAX" => Tab.get s.arb.qmax 0 h.inst
  | _ => v

/-- The Headgate's registers as read (R375 to R377, R399, R400, R605). -/
def State.viewHG (s : State) (who : Who) (h : RegHit) (v : Nat) : Nat :=
  let n := h.idx.headD 0
  let r := s.fget (A.HG_RING_SEL n) F.HG_RING_SEL_RING
  let own := s.ringTenant r == some n
  let x := s.ringSt r
  let veil := s.veiled who
  let mine := fun (r : Nat) => !veil || s.ringTenant r == who.ten
  let p := s.sch n
  match h.reg.name with
  | "HG_STATUS" => putF v F.HG_STATUS_ACCEPTING (b2n s.accepting)
  | "HG_DBQ_STATUS" => putF (if veil then 0 else v) F.HG_DBQ_STATUS_DEPTH (s.hg.dbq.filter mine).length
  | "HG_DBQ_OVERFLOW" | "HG_LATE_REPLY" => if veil then 0 else v
  | "HG_RESCAN_COUNT" => (s.hg.rescan.filter mine).length
  | "HG_RING_STATUS" =>
    if !own then putF 0 F.HG_RING_STATUS_CMD_REFUSED (bits v 5 5)
    else
      let e := (s.ringE r).map fun e => (e.group, e.part)
      1 + 2 * b2n x.enabled + 4 * b2n (s.drained r) + 8 * b2n x.stopped + 16 * b2n (s.hg.rescan.has r) + 32 * bits v 5 5 +
      (e.map (·.1)).getD 0 * 2 ^ 8 + (e.map (·.2)).getD 0 * 2 ^ 16
  | "HG_RING_BASE" => if own then s.ringBase r else 0
  | "HG_RING_SEQ" => if own then x.acceptNext % 2 ^ 32 + x.completeNext % 2 ^ 32 * 2 ^ 32 else 0
  | "HG_RING_WAITING" => if own then (s.hg.jr.filter fun e => e.ring == r && e.st == .accepted).length else 0
  | "HG_RING_TICK_PROG" => if own then x.tickProg else 0
  | "HG_CTX_SAVE" =>
    let c := s.fget (A.HG_CTX_SEL n) F.HG_CTX_SEL_CONTEXT
    if s.ctxOwner c = some n then (s.ctx c).save else 0
  | "HG_P_JOURNAL_USED" => if (s.partE n).isSome then min (s.jrUsed n) 0xFFFF else 0
  | "HG_SCH_STATUS" =>
    if (s.partE n).isNone then 0
    else p.cur.getD 0 + 2 ^ 10 * b2n (p.cur.isSome && p.phase == .run) + (s.boundOf n).length * 2 ^ 11 + 2 ^ 22 * b2n (p.phase == .save || p.phase == .restore)
  | "HG_SCH_RANK_MAP" => leNat ((List.range 4).map fun j => (s.rankMap n).getD (4 * (h.idx.getD 1 0) + j) 0xFF)
  | _ => if 0x20000 ≤ h.reg.off ∧ h.reg.off < 0x40000 ∧ (s.partE n).isNone then 0 else v

/-- The context of the saved job whose work a tile would hold, when it holds no other: the lowest of several (log entry 71). -/
def State.savedAt (s : State) (tile : Nat) : Option (Nat × Job) :=
  if (s.jobAt tile).isSome then none
  else (List.range 1024).findSome? fun c => (s.job c).bind fun j => if j.saved && j.tiles.contains tile then some (c, j) else none

/-- STATE of a thread as read (R101, R132): SAVED while the tile's job is saved and no other holds the tile. -/
def State.threadNum (s : State) (tile thr : Nat) : Nat := if (s.savedAt tile).isSome then 5 else (s.thread tile thr).st.num

/-- A tile's registers as read (R132). -/
def State.viewTI (s : State) (h : RegHit) (v : Nat) : Nat :=
  let t := s.thread h.inst (h.idx.headD 0)
  match h.reg.name with
  | "TI_THR_STATE" =>
    s.threadNum h.inst (h.idx.headD 0) + 8 * b2n t.hmode + (match (s.jobAt h.inst).or (s.savedAt h.inst) with
    | some (c, j) => c % 1024 * 2 ^ 4 + j.rank h.inst * 2 ^ 14
    | none => 0)
  | "TI_THR_PC" => t.pc.toNat
  | "TI_MSG_STATUS" => t.mq.length + t.bq.length * 2 ^ 4 + t.credits * 2 ^ 7
  | _ => v

/-- What a register holds as a requester reads it, before access codes. -/
def State.regView (s : State) (who : Who) (h : RegHit) (a : Nat) : Nat :=
  let v := (s.rd a).toNat
  match h.blk with
  | "LK" => s.viewLK who h a v
  | "TU" => if a = A.TU_TIME then s.time else if a = A.TU_CTRL then putF v F.TU_CTRL_FINE (b2n (s.isOn 15)) else v
  | "FL" => s.viewFL who h v
  | "MX" | "AT" | "SC" | "CV" | "ST" | "PP" => s.viewEng h v
  | "CA" | "IS" => s.viewCam h v
  | "IO" | "DB" => s.viewIO h v
  | "HI" => s.viewHI h v
  | "VC" | "VCV" | "XM" => s.viewVC who h v
  | "HG" => s.viewHG who h v
  | "TI" => s.viewTI h v
  | "BL" => if s.veiled who && !s.lkAdmin who then 0 else v
  | "BLD" => if s.veiled who && !s.lkAdmin who && !(h.reg.name == "BL_TIMEOUT" || h.reg.name == "BL_DB_SENT") then 0 else v
  | _ => v

/-- What else a read does (R83, R511, R678): a migration result is removed, a stamp is marked read, a received byte is removed. -/
def State.readEffect (s : State) (h : RegHit) : State :=
  match h.reg.name with
  | "VC_MIG_RESULT" => (s.migResult (h.idx.headD 0)).1
  | "TU_TI_STAMP" => s.tiRead (h.idx.headD 0)
  | "IO_UART_DATA" => s.uartRead
  | _ => s

/-- A debug access that R599 refuses counts in DB_REFUSED. -/
def State.regRefused (s : State) (who : Who) : State := if who = .debug ∧ s.isOn 38 then s.bump A.DB_REFUSED else s

/-- A read of `n` bytes at a control-space address by a requester (R5 to R7, R66). -/
def State.busRead (s : State) (who : Who) (a n : Nat) : State × BusRes :=
  match regAt a with
  | none => (s, .err)
  | some h =>
    if !h.sizeOk a n then (s, .align)
    else if !s.regOk who h false then (s.regRefused who, .err)
    else if h.reg.win ≠ 0 then (s, .ok (BitVec.ofNat 64 (leNat (slice (s.window h) h.woff n))))
    else (s.readEffect h, .ok (BitVec.ofNat 64 (readMask h.reg (s.regView who h a))))

end Sys2Proof.Machine
end

