-- ==== Sys2Proof/Machine/Bus.lean ====
section
/-!
DEFINITION. The register bus: what a write of each register does, and writes of the control space by a requester (R5 to R11, R66, R70).
-/
namespace Sys2Proof.Machine

/-- Who makes a register write: the requester, and for a thread its tile and number. -/
structure Writer where
  who : Who
  at_ : Option (Nat × Nat)
  deriving DecidableEq, Repr

/-- A write whose field `f` keeps its value unless the value written is allowed (R8): the word to write. -/
def State.keep (s : State) (a v : Nat) (f : Nat × Nat) (ok : Nat → Bool) : Nat :=
  if ok (bits v f.1 f.2) then v else setBits v f.1 f.2 (s.fget a f)

/-- A value within bounds. -/
def within (lo hi x : Nat) : Bool := decide (lo ≤ x) && decide (x ≤ hi)

/-- Every domain that an asserted, enabled level source names wakes (R480). -/
def State.levelWake (s : State) (i : Nat) : State :=
  if !s.isEdge i && s.levelOn i && s.flag (A.LK_WAKE_CFG i) F.LK_WAKE_CFG_EN then (s.srcDoms i).foldl (fun s d => s.wakeEvent d) s else s

/-- Writes of the Lock-keeper's registers (R480 to R482, R490, R497 to R500, R652). TYPE of a wake source is fixed but for GPIO. -/
def State.putLK (s : State) (w : Writer) (h : RegHit) (a v : Nat) : State :=
  let i := h.idx.headD 0
  match h.reg.name with
  | "LK_PWR_LIMIT" => s.writeReg a (s.keep a v F.LK_PWR_LIMIT_MW (within 20000 150000)) h.reg
  | "LK_TRIP_CLR" => if bit v 0 then s.tripClr else s
  | "LK_D_CTRL" => s.lkForce i (v % 4)
  | "LK_C_LEVEL" => ((s.writeReg a v h.reg).setLevel i).syncCore
  | "LK_WAKE_CFG" => (s.writeReg a (s.keep a v F.LK_WAKE_CFG_TYPE fun _ => within 2 25 i) h.reg).levelWake i
  | "LK_WAKE_MAP" => (s.writeReg a v h.reg).levelWake i
  | "LK_RESET_CMD" => s.resetCmd w.who (bits v 1 0) (bits v 5 2) (bits v 12 6)
  | _ => s.writeReg a v h.reg

/-- Writes of the Time unit's registers (R504, R508 to R510, R513). -/
def State.putTU (s : State) (h : RegHit) (a v : Nat) : State :=
  let n := h.idx.headD 0
  let bound := s.flag (A.TU_TC_BIND n) F.TU_TC_BIND_BOUND
  match h.reg.name with
  | "TU_STEP" => s.tuStepWrite v
  | "TU_CTRL" => if bit v 1 then s.tuArm else s
  | "TU_RATE" => s.writeReg a (s.keep a v (31, 0) fun x => decide (sgn 32 x ≤ 2 ^ 30) && decide (-(2 ^ 30) ≤ sgn 32 x)) h.reg
  | "TU_TC_PERIOD" => if bound then s else s.writeReg a v h.reg
  | "TU_TC_CTRL" =>
    let on := s.fget a F.TU_TC_CTRL_EN
    let v1 := s.keep a (s.keep a v F.TU_TC_CTRL_WIDTH fun x => x == 0 || decide (100 ≤ x)) F.TU_TC_CTRL_MODE fun _ => !bound
    let s := s.writeReg a (putF v1 F.TU_TC_CTRL_EN (if bit v 0 then on else 0)) h.reg
    if bit v 0 && on == 0 then s.tcEnable n else s
  | _ => s.writeReg a v h.reg

/-- A write of NT_MB_CMD (R582, R583): it starts the command and requests D6; one during BUSY is ignored. A boot program's PLAT_LOAD begins stage PLAT (R642). -/
def State.putMb (s : State) (w : Writer) (k op : Nat) : State :=
  let a := A.NT_MB_STATUS k
  if s.flag a F.NT_MB_STATUS_BUSY then s.fset a F.NT_MB_STATUS_OVERRUN 1
  else
    let boot := w.who == .boot
    let s := (s.fset a F.NT_MB_STATUS_BUSY 1).demandWake 6
    let s : State := { s with nt := { s.nt with pages := Tab.set s.nt.pages none k (some ⟨op, boot, 0, [], false⟩) } }
    if boot && op == 1 then s.fset A.LK_BOOT_STATUS F.LK_BOOT_STATUS_STAGE 4 else s

/-- The count of vectors of a tenant (R37). -/
def State.msixCount (s : State) (n : Nat) : Nat := ((s.tenE n).map (·.msixCount)).getD 0

/-- Writes of the Fault ledger's registers (R617, R618, R632, R634, R635). -/
def State.putFL (s : State) (h : RegHit) (a v : Nat) : State :=
  match h.reg.name with
  | "FL_CFG" => s.writeReg a (s.keep a (s.keep a v F.FL_CFG_T1_HOURS (within 1 24)) F.FL_CFG_T2_HOURS (within 1 24)) h.reg
  | "FL_RETIRE_CMD" =>
    (match bits v 9 7 with
    | 1 => s.retireCmd (v % 128)
    | 2 => s.ackCmd (bits v 17 10)
    | _ => s.lockViolation a 2)
  | "FL_DEV_RING_CFG" => s.ringCfgWrite 8 (v % 32) (bit v 5)
  | "FL_T_RING_CFG" => s.ringCfgWrite (h.idx.headD 0) (v % 32) (bit v 5)
  | _ => s.writeReg a v h.reg

/-- Writes of a Tally unit's registers (R622 to R627, R636): ignored while BUSY, which sets OVERRUN. One unit at most takes SOURCE 2 (R626). -/
def State.putTL (s : State) (h : RegHit) (a v : Nat) : State :=
  let n := h.inst
  if s.tlBusy n then s.tlOverrun n
  else match h.reg.name with
  | "TL_CFG" =>
    let o := s.tlOwner n
    let v := s.keep a v F.TL_CFG_VEC fun x => decide (x < s.msixCount (o.getD 8))
    let v := s.keep a v F.TL_CFG_SOURCE fun x => x != 2 || (match s.spiUnit with
      | some m => m == n
      | none => true)
    s.writeReg a v h.reg
  | "TL_FEED64" => s.tlFeed n (natLe 8 v)
  | "TL_FEED32" => s.tlFeed n (natLe 4 v)
  | "TL_FEED8" => s.tlFeed n (natLe 1 v)
  | "TL_CMD" => s.tlCmd n (bits v 26 24) (bits v 23 0)
  | _ => s.writeReg a v h.reg

/-- Writes of the audio registers (R409, R410, R433, R436, R438, R441, R443 to R445). -/
def State.putAU (s : State) (h : RegHit) (a v : Nat) : State :=
  match h.reg.name with
  | "AU_FETCH_CMD" => s.fetchCmd v
  | "AU_EVENT_CTRL" => if bit v 1 then s.seepAck else s
  | "AU_WIDE_CTRL" => s.wideCtrl v
  | "AU_WIDE_BASE" => if s.flag A.AU_WIDE_CTRL F.AU_WIDE_CTRL_WIDE_EN then s else s.writeReg a v h.reg
  | "AU_FLOOR" =>
    let s := s.writeReg a v h.reg
    { s with au := { s.au with floorW := true } }
  | "AU_CAL_DELTA" =>
    let small (b : Int) (x : Nat) : Bool := decide (sgn 16 x ≤ b) && decide (-b ≤ sgn 16 x)
    s.writeReg a (s.keep a (s.keep a v F.AU_CAL_DELTA_GAIN (small 1536)) F.AU_CAL_DELTA_DELAY (small 1024)) h.reg
  | "AU_RECAL_CTRL" => s.writeReg a (s.keep a v F.AU_RECAL_CTRL_WINDOW_S (within 10 255)) h.reg
  | _ => s.writeReg a v h.reg

/-- Writes of Runnel's and the glance port's registers (R412, R422, R425, R469). -/
def State.putRN (s : State) (h : RegHit) (a v : Nat) : State :=
  match h.reg.name with
  | "RN_CMD" => s.rnCmd (v % 8)
  | "RN_THRESH" => s.threshWrite (h.idx.headD 0) v
  | "RN_LOOKBACK" => s.writeReg a (s.keep a v F.RN_LOOKBACK_SAMPLES fun x => x % 160 == 0 && decide (x ≤ 32000)) h.reg
  | "GP_SIZE" => s.writeReg a (s.keep a (s.keep a v F.GP_SIZE_WIDTH (within 1 640)) F.GP_SIZE_HEIGHT (within 1 480)) h.reg
  | _ => s.writeReg a v h.reg

/-- Writes of the cameras' registers (R446, R450, R459, R460, R467, R468): a stream that is on takes EN and the push registers alone; a receiver that is on keeps its lanes and rate. -/
def State.putCam (s : State) (h : RegHit) (a v : Nat) : State :=
  let n := h.idx.headD 0
  let on := s.flag (A.CA_CTRL h.inst) F.CA_CTRL_EN
  match h.reg.name with
  | "CA_CTRL" =>
    if on then s.fset a F.CA_CTRL_EN (v % 2)
    else
      let s := s.writeReg a v h.reg
      if bit v 0 then s.fset (A.CA_STATUS h.inst) F.CA_STATUS_DESKEW_DONE 0 else s
  | "CA_RATE" => if on then s else s.writeReg a (s.keep a v F.CA_RATE_MBPS (within 80 4500)) h.reg
  | "IS_S_CFG" => s.isCfgWrite n v
  | "IS_S_PUSH_CMD" => s.isPushCmd n v
  | "IS_S_PUSH_ADDR" | "IS_S_PUSH_FRAME" | "IS_S_QSTATUS" | "IS_STATUS" | "IS_PIXELS" => s.writeReg a v h.reg
  | "IS_S_NBUF" => if s.isOnStream n then s else s.writeReg a (s.keep a v F.IS_S_NBUF_NBUF (within 1 16)) h.reg
  | _ => if h.blk = "IS" ∧ s.isOnStream n then s else s.writeReg a v h.reg

/-- Writes of the low-speed I/O and debug registers (R599, R601, R675, R676, R678). -/
def State.putIO (s : State) (h : RegHit) (a v : Nat) : State :=
  match h.reg.name with
  | "IO_SPI_TX_PUSH" => if bit v 0 then s.spiPush else s
  | "IO_SPI_RX_INFO" => if bit v 3 then s.spiPop else s
  | "IO_UART_CFG" => s.writeReg a (s.keep a v F.IO_UART_CFG_DIV (within 16 65535)) h.reg
  | "IO_UART_DATA" => s.uartWrite v
  | "DB_TRACE_CTRL" => s.writeReg a (if s.debugOk (bits v 3 1) then v else putF v F.DB_TRACE_CTRL_EN 0) h.reg
  | _ => s.writeReg a v h.reg

/-- Writes of the host interface's registers (R556, R561, R563, R569, R576, R577). -/
def State.putHI (s : State) (h : RegHit) (a v : Nat) : State :=
  let n := h.idx.headD 0
  let r := s.fget (A.HI_T_RING_SEL n) F.HI_T_RING_SEL_RING
  let own := s.ringTenant r == some n
  let k := s.msixCount n
  match h.reg.name with
  | "HI_CONF_REKEY" => s.writeReg a (s.keep a v (63, 0) (within (2 ^ 20) (2 ^ 62))) h.reg
  | "HI_T_RING_CFG" =>
    if !own then s
    else
      let c := s.ringCfg r
      let v := if within 2 16 (bits v 4 0) then v else setBits v 4 0 (bits c 4 0)
      let v := if bits v 18 8 < k then v else setBits v 18 8 (bits c 18 8)
      let v := if k = 0 then setBits v 19 19 0 else v
      let v := setBits (v % 2 ^ 20) 7 6 0
      { s with host := { s.host with ringCfg := Tab.set s.host.ringCfg 6 r v } }
  | "HI_T_RING_CQ" => if own then { s with host := { s.host with ringCq := Tab.set s.host.ringCq 0 r (v / 64 * 64) } } else s
  | "HI_T_EVT_CFG" =>
    let v := s.keep a v F.HI_T_EVT_CFG_EVT_VEC fun x => decide (x < k)
    s.writeReg a (if k = 0 then putF v F.HI_T_EVT_CFG_EVT_EN 0 else v) h.reg
  | "HI_T_IN_BASE" => s.writeReg a (v / 4096 * 4096) h.reg
  | "HI_T_IN_CFG" =>
    let v := s.keep a v F.HI_T_IN_CFG_LOG2 (within 16 30)
    s.writeReg a (s.keep a v F.HI_T_IN_CFG_EN fun _ => s.confMode) h.reg
  | "HI_T_OUT_CFG" => s.writeReg a (s.keep a v F.HI_T_OUT_CFG_LOG2 (within 16 30)) h.reg
  | _ => s.writeReg a v h.reg

/-- Writes of the Brefen registers (R534, R540, R544, R548, R549). -/
def State.putBL (s : State) (w : Writer) (h : RegHit) (a v : Nat) : State :=
  match h.reg.name with
  | "BL_CTRL" => if bit v 0 then s.portReset h.inst else s
  | "BL_REKEY_THRESH" => s.writeReg a (s.keep a v (63, 0) (within (2 ^ 20) (2 ^ 62))) h.reg
  | "BL_TIMEOUT" => s.writeReg a (s.keep a v F.BL_TIMEOUT_US fun x => x == 0 || decide (10 ≤ x)) h.reg
  | "BL_DB_SEND" => (match w.at_ with
    | some (t, k) => s.dbSend (h.idx.headD 0) t k (bits v 13 0) (bits v 31 16)
    | none => s.dbSend (h.idx.headD 0) 128 0 (bits v 13 0) (bits v 31 16))
  | _ => s.writeReg a v h.reg

/-- Writes of the Headgate's registers, with whether they received a good response (R343, R359, R368, R373, R375, R400). -/
def State.putHG (s : State) (w : Writer) (h : RegHit) (a v : Nat) : State × Bool :=
  let n := h.idx.headD 0
  match h.reg.name with
  | "HG_DOORBELL" => (match s.doorbell n (v % 65536) with
    | (s, ok) => (s, ok || w.at_.isNone))
  | "HG_RESULT" => s.hgResult (w.at_.bind fun x => (s.tile x.1).job) (bits v 9 0) (bits v 63 32)
  | "HG_RING_CMD" => (s.ringCmd n (v % 8), true)
  | "HG_RING_TICK_PROG" => (s.tickProg n v, true)
  | "HG_CTX_SAVE" => (s.ctxSave n v, true)
  | "HG_SCH_WEAR_CTRL" => (s.wearWrite n v, true)
  | _ => if 0x20000 ≤ h.reg.off ∧ h.reg.off < 0x40000 ∧ (s.partE n).isNone then (s, true) else (s.writeReg a v h.reg, true)

/-- The command registers that R8 judges as a whole; VC_CMD and AU_FETCH_CMD judge their own fields. -/
def commandReg (name : String) : Bool :=
  ["RN_CMD", "TL_CMD", "FL_RETIRE_CMD", "LK_RESET_CMD", "HG_RING_CMD", "IS_S_PUSH_CMD", "NT_MB_CMD"].contains name

/-- The effect of a write that the bus has let through, and whether the response is good. -/
def State.regWrite (s : State) (w : Writer) (h : RegHit) (a v : Nat) : State × Bool :=
  let i := h.idx.headD 0
  if commandReg h.reg.name && h.reg.badCommand v then (s.lockViolation a 2, true)
  else match h.blk with
  | "LK" => (s.putLK w h a v, true)
  | "TU" => (s.putTU h a v, true)
  | "NT" => (if h.reg.name = "NT_MB_CMD" then s.putMb w i (v % 256) else s.writeReg a v h.reg, true)
  | "FL" => (s.putFL h a v, true)
  | "AS" => (if h.reg.name = "AS_SNAP_REQ" then s.asSnap i (v % 256) (bit v 8) else s.writeReg a v h.reg, true)
  | "TL" => (s.putTL h a v, true)
  | "XM" => (if h.reg.name = "XM_TRAIN" then (if bit v 0 then s.xmStart h.inst else s) else s.writeReg a v h.reg, true)
  | "AU" => (s.putAU h a v, true)
  | "RN" | "GP" => (s.putRN h a v, true)
  | "IS" | "CA" => (s.putCam h a v, true)
  | "IO" | "DB" => (s.putIO h a v, true)
  | "HI" => (s.putHI h a v, true)
  | "BL" | "BLD" => (s.putBL w h a v, true)
  | "VC" =>
    if h.reg.name = "VC_CMD" then (s.vcWrite i v, true)
    else if h.reg.name = "VC_STALL" ∧ (s.partE i).isNone then (s, true)
    else (s.writeReg a v h.reg, true)
  | "HG" => s.putHG w h a v
  | _ => (s.writeReg a v h.reg, true)

/-- A write of a window's words (R6). -/
def State.winWrite (s : State) (h : RegHit) (n v : Nat) : State :=
  if h.reg.name ≠ "IO_SPI_TX" then s
  else (List.range (n / 4)).foldl (fun s i => s.wr (A.IO_SPI_TX + h.woff + 4 * i) (BitVec.ofNat 64 (bits v (32 * i + 31) (32 * i)))) s

/-- A write of `n` bytes at a control-space address by a requester (R5 to R11, R66). -/
def State.busWrite (s : State) (w : Writer) (a n v : Nat) : State × BusRes :=
  match regAt a with
  | none => (s, .err)
  | some h =>
    if !h.sizeOk a n then (s, .align)
    else if !s.regOk w.who h true then (s.regRefused w.who, .err)
    else if h.reg.win ≠ 0 then (s.winWrite h n v, .ok 0)
    else match s.regWrite w h a (v % 2 ^ (8 * n)) with
    | (s, true) => (s, .ok 0)
    | (s, false) => (s, .err)

end Sys2Proof.Machine
end

