-- ==== Sys2Proof/Machine/LoadStore.lean ====
section
/-!
DEFINITION. Loads, stores, atomics, ordered accesses, fences, range operations and vector memory instructions (R115 to R127, R148 to R155, R171, R179, R180).
-/
namespace Sys2Proof.Machine

/-! ### Planning an access -/

/-- One lane of an access before translation: lane number, address, size. -/
structure LaneReq where
  lane : Nat
  va : Word
  n : Nat
  data : Nat
  psn : Bool
  deriving DecidableEq, Repr

/-- The translated parts of an access, or why it cannot proceed: an exception at an address, a moving page, domains to wake. Parts that the home will refuse are listed apart (R150). -/
inductive Plan where
  | fault (cause : Nat) (va : Word)
  | moving (tenant page tier : Nat)
  | down (ds : List Nat) (tier : Nat)
  | go (parts refused : List Part)
  deriving DecidableEq, Repr

/-- Translate lanes in ascending order (R180): the lowest-numbered faulting lane decides; `wr` for a store, `ctl` when the access may reach registers. -/
def State.planLanes (s : State) (v : Via) (wr home ctl : Bool) : List LaneReq → List Part → List Part → Plan
  | [], ok, bad => .go ok.reverse bad.reverse
  | q :: qs, ok, bad =>
    if q.va.toNat % q.n ≠ 0 then .fault 2 q.va
    else match s.resolve v.tenant q.va q.n wr with
    | .bad late =>
      if late && wr then s.planLanes v wr home ctl qs ok (⟨q.lane, .lost (s.vaTier q.va), q.va, q.n, q.data, q.psn, 0⟩ :: bad)
      else .fault 3 q.va
    | .moving page => .moving v.tenant page (entTier (s.ent v.tenant page))
    | .ok l =>
      let p : Part := ⟨q.lane, l, q.va, q.n, q.data, q.psn, 0⟩
      match l with
      | .reg _ => if ctl then s.planLanes v wr home ctl qs (p :: ok) bad else .fault 2 q.va
      | _ =>
        match s.domCheck (s.needDoms v home l) with
        | .refuse => if wr then s.planLanes v wr home ctl qs ok (p :: bad) else .fault 3 q.va
        | _ => s.planLanes v wr home ctl qs (p :: ok) bad

/-- Plan an access: translate its lanes, then find the domains that are not On (R478). -/
def State.plan (s : State) (v : Via) (wr home ctl : Bool) (qs : List LaneReq) : Plan :=
  match s.planLanes v wr home ctl qs [] [] with
  | .go ok bad =>
    let down := ok.filter fun p => (s.domCheck (s.needDoms v home p.loc)) != .go
    match down with
    | [] => .go ok bad
    | p :: _ =>
      if wr then .go ok bad
      else .down (down.flatMap fun p => (s.needDoms v home p.loc).filter fun d => !s.isOn d) (chargeTier p.loc.tier)
  | r => r

/-- Put a part behind those of its aligned 8 bytes. -/
def joinPart (p : Part) : List (List Part) → List (List Part)
  | [] => [[p]]
  | g :: gs => if g.all fun q => p.loc.key / 8 == q.loc.key / 8 && p.loc.tier == q.loc.tier then (g ++ [p]) :: gs else g :: joinPart p gs

/-- Group the parts that lie in one aligned 8 bytes, in the order of their lanes (R116). -/
def groupParts (ps : List Part) : List (List Part) := ps.foldl (fun gs p => joinPart p gs) []

/-- Does an outstanding access of the thread touch a byte of some parts (R117)? -/
def Thread.busyWith (t : Thread) (ps : List Part) : Bool :=
  t.acc.any fun a => a.todo.any fun g => g.any fun p => ps.any fun q => p.overlaps q

/-- What an access does to every page it touches (R77, R78). -/
def State.touchAll (s : State) (v : Via) (qs : List LaneReq) : State := qs.foldl (fun s q => s.touch v q.va) s

/-- Abort the entries an access finds in preparation, for every domain it needs (R476). -/
def State.abortAll (s : State) (v : Via) (ps : List Part) : State :=
  ps.foldl (fun s p => (s.needDoms v false p.loc).foldl (fun s d => s.abortEntry d) s) s

/-- The remote parts of a load: one in a line the cluster holds is performed there at once; the others get a READ of their line, one for all the parts in it (R126, R531). `sent` holds the lines already asked for with their tags. Answers the parts still to be performed and the lanes loaded. -/
def State.sendReads (s : State) (v : Via) (h : Th) (id : Nat) : List (Nat × Nat) → List Part → State × List Part × List (Nat × Nat × Bool)
  | _, [] => (s, [], [])
  | sent, p :: ps =>
    match p.loc with
    | .peer d a =>
      if s.cached v p.loc then
        (match s.loadAt v p.loc p.n with
        | (s, bs, z) =>
          match s.sendReads v h id sent ps with
          | (s, r, got) => (s, r, (p.lane, leNat bs, z) :: got))
      else
        (match sent.find? fun x => x.1 == p.loc.key / 128 with
        | some x =>
          match s.sendReads v h id sent ps with
          | (s, r, got) => (s, { p with tag := x.2 } :: r, got)
        | none =>
          let tag := s.tagNext + 1
          match (s.sendReq .read d (a / 128 * 128) 128 [] v.tenant h id).sendReads v h id ((p.loc.key / 128, tag) :: sent) ps with
          | (s, r, got) => (s, { p with tag := tag } :: r, got))
    | _ =>
      (match s.sendReads v h id sent ps with
      | (s, r, got) => (s, p :: r, got))

/-- Post an access of a thread and retire its instruction; a load with parts at a peer keeps the thread STALLED at the instruction until they arrive (R141). One whose parts the cluster's cache holds ends at once. -/
def State.postLoad (s : State) (h : Th) (t : Thread) (v : Via) (k : AccKind) (ps : List Part) : State :=
  let id := t.accId + 1
  match s.sendReads v h id [] ps with
  | (s, ps, got) =>
    let a : Acc := ⟨id, k, groupParts ps, got, [], 0, 0, none, s.arb.stamp, s.now, some (t.pc, t.instret + 1)⟩
    if ps = [] then s.retire h (t.finish a got)
    else
      let t := { t with accId := id, acc := t.acc ++ [a] }
      (if ps.any fun p => p.tag != 0 then s.setThread h.tile h.thr { t with st := .stalled, hold := .link }
      else s.retire h t).stamped.noteQueues h.tile a.todo

/-- Does a part at a peer go on where the part of the lane before ends (R523)? -/
def Part.follows (p q : Part) : Bool := q.lane == p.lane + 1 && (match p.loc, q.loc with
  | .peer d a, .peer e b => d == e && b == a + p.n
  | _, _ => false)

/-- The runs of contiguous lanes among the parts at peers (R523). -/
def peerRuns : List Part → List (List Part)
  | [] => []
  | p :: ps =>
    if !p.remote then peerRuns ps
    else match peerRuns ps with
    | (q :: g) :: gs => if p.follows q then (p :: q :: g) :: gs else [p] :: (q :: g) :: gs
    | gs => [p] :: gs

/-- The key a run begins at. -/
def runKey (r : List Part) : Nat := ((r.head?).map (·.loc.key)).getD 0

/-- Do two runs touch a common byte? -/
def runsMeet (x y : List Part) : Bool := x.any fun p => y.any fun q => p.overlaps q

/-- Put a run before the runs at higher addresses, but behind one it overlaps, whose lanes come first (R180, R523). -/
def insRun (x : List Part) : List (List Part) → List (List Part)
  | [] => [x]
  | y :: ys => if runKey x < runKey y ∧ (y :: ys).all (fun z => !runsMeet x z) then x :: y :: ys else y :: insRun x ys

/-- Send one block of a run as a WRITE (R523): the lanes it covers with the tag they wait for. -/
def State.sendBlock (s : State) (v : Via) (h : Th) (id : Nat) (run : List Part) (b : Nat × Nat) : State × List (Nat × Nat) :=
  let ps := run.filter fun p => decide (b.1 ≤ p.loc.key) && decide (p.loc.key < b.1 + b.2)
  let marks := (List.range (ceilDiv b.2 16)).map fun u => b2n (ps.any fun p => p.psn && (p.loc.key - b.1) / 16 == u)
  let s1 := s.sendReq .write (b.1 / 2 ^ 43 - 1) (b.1 % 2 ^ 43) b.2 ((ps.flatMap fun p => natLe p.n p.data) ++ marks) v.tenant h id
  (s1, ps.map fun p => (p.lane, s.tagNext + 1))

/-- Send the stores to peers, each run split into the largest naturally aligned blocks from its low end (R523); a copy of a line in the cluster follows (R126, log entry 12), or is invalidated first where the store releases (R119), and READs under way bring no copy of an older value (R117). -/
def State.sendWrites (s : State) (v : Via) (h : Th) (id : Nat) (rel : Bool) (ps : List Part) : State × List Part :=
  let runs := (peerRuns ps).foldl (fun rs r => insRun r rs) []
  let r := runs.foldl (fun (x : State × List (Nat × Nat)) run =>
    (pow2Blocks 16 (runKey run) (run.foldl (fun n p => n + p.n) 0)).foldl (fun (x : State × List (Nat × Nat)) b =>
      match x.1.sendBlock v h id run b with
      | (s, l) => (s, x.2 ++ l)) x) (s, [])
  let s1 := ps.foldl (fun (s : State) p =>
    if p.remote && rel then s.cleanLine v p.loc
    else if p.remote then
      (match s.findLine v.cl v.tenant p.loc.key with
      | some ln => (s.staleReads v.cl v.tenant fun k => k == p.loc.key / 128 * 128).putLine v.cl { ln.store (p.loc.key % 128) (natLe p.n p.data) p.psn with dirty := ln.dirty }
      | none => s.staleReads v.cl v.tenant fun k => k == p.loc.key / 128 * 128)
    else s) r.1
  (s1, ps.map fun p => match r.2.find? fun x => x.1 == p.lane with
    | some x => if p.remote then { p with tag := x.2 } else p
    | none => p)

/-- A thread stores a poisoned value to T1, T2 or T3: POISON takes part in its job's completion (R356). -/
def State.notePoison (s : State) (tile : Nat) (ps : List Part) : State :=
  if ps.any fun p => p.psn && p.loc.tier != 0 then
    (match (s.tile tile).job with
    | some c => s.noteStat c 1 0x11
    | none => s)
  else s

/-- Post a store and retire its instruction. Parts the home refuses form an access of their own that will answer with an error (R150). A store to a domain that is not On holds the thread STALLED behind it (R101). -/
def State.postStore (s : State) (h : Th) (t : Thread) (v : Via) (rel : Bool) (ps bad : List Part) : State :=
  let id := t.accId + 1
  match (s.notePoison h.tile ps).sendWrites v h id rel ps with
  | (s, ps) =>
    let doms := (ps.flatMap fun p => s.needDoms v rel p.loc).filter fun d => !s.isOn d
    let s := s.domTouch doms
    let tier := match ps with
      | p :: _ => chargeTier p.loc.tier
      | [] => 0
    let a : Acc := ⟨id, .store rel, groupParts ps, [], doms, tier, 0, none, s.arb.stamp, s.now, none⟩
    let b : Acc := ⟨id + 1, .store rel, groupParts bad, [], [], 0, excAccess, none, s.arb.stamp, s.now, none⟩
    let t := { t with accId := id + 1, acc := t.acc ++ (if ps = [] then [] else [a]) ++ (if bad = [] then [] else [b]) }
    let t := { t with pc := t.pc + 4, instret := t.instret + 1 }
    let s := s.stamped
    if doms = [] then (s.setThread h.tile h.thr t).noteQueues h.tile a.todo
    else { s.setThread h.tile h.thr { t with st := .stalled, hold := .wake doms tier } with
             stallq := s.stallq ++ [(h.tile * 16 + h.thr, id)] }

/-- The requester a tile's thread is to the register bus. -/
def State.whoTile (s : State) (tile : Nat) : Who := if s.tenantAt tile = bootTen then .boot else .tenant (s.tenantAt tile)

/-- A register read by a thread (R5, R70, R154): one step, errors precise. DESIGN CHOICE (log entry 70): a block lies in no tier, so its wait for a wake is charged to T1. -/
def State.regLoad (s : State) (h : Th) (t : Thread) (va : Word) (a n : Nat) (rd : RegNo) (sx : Bool) : State :=
  match s.domCheck [regDom a] with
  | .wait ds => s.stallWake h ds 1 va
  | .refuse => s.exc h excAccess va
  | .go =>
    match s.busRead (s.whoTile h.tile) a n with
    | (s, .ok v) =>
      s.retire h ((s.thread h.tile h.thr).setX rd (loadValue n sx v.toNat) false)
    | (s, .align) => s.exc h excAlign va
    | (s, .err) => let _ := t; s.exc h excAccess va

/-- A register write by a thread (R136, R150): one step, errors precise; poisoned data is discarded and recorded, whatever the block's domain. -/
def State.regStore (s : State) (h : Th) (va : Word) (a n v : Nat) (p : Bool) : State :=
  if p then
    let s := s.fsr 0x11 { domain := regDom a, tenant := some (s.tenantAt h.tile), unit := h.tile, address := a }
    s.retire h (s.thread h.tile h.thr)
  else match s.domCheck [regDom a] with
  | .wait ds => s.stallWake h ds 1 va
  | .refuse => s.exc h excAccess va
  | .go =>
    match s.busWrite ⟨s.whoTile h.tile, some (h.tile, h.thr)⟩ a n v with
    | (s, .ok _) => s.retire h (s.thread h.tile h.thr)
    | (s, .align) => s.exc h excAlign va
    | (s, .err) => s.exc h excAccess va

/-- The accesses that count toward a thread's 32 (R100, R532): outstanding ones, those of one instruction once, and slots reserved after a timeout. -/
def State.accesses (s : State) (h : Th) (t : Thread) : Nat :=
  (t.acc.map (·.stamp)).eraseDups.length + (s.bl.reserved.filter fun r => r.1 / 32 == (h.tile * 16 + h.thr) % 2048).length

/-- What remains of a load once it is planned: held, faulting, or posted (R100: at most 32 outstanding, a further one waits). -/
def State.loadPlanned (s : State) (h : Th) (t : Thread) (v : Via) (k : AccKind) (qs : List LaneReq) : State :=
  if 32 ≤ s.accesses h t then s
  else match s.plan v false false false qs with
  | .fault c va => s.exc h c va
  | .moving n p tr => s.stall h (.move n p (chargeTier tr)) ((qs.map (·.va)).headD 0)
  | .down ds tr => s.stallWake h ds tr ((qs.map (·.va)).headD 0)
  | .go ps _ => ((s.touchAll v qs).abortAll v ps).postLoad h t v k ps

/-- What remains of a store once it is planned. -/
def State.storePlanned (s : State) (h : Th) (t : Thread) (v : Via) (rel : Bool) (qs : List LaneReq) : State :=
  if 32 ≤ s.accesses h t then s
  else match s.plan v true rel false qs with
  | .fault c va => s.exc h c va
  | .moving n p tr => s.stall h (.move n p (chargeTier tr)) ((qs.map (·.va)).headD 0)
  | .down ds tr => s.stallWake h ds tr ((qs.map (·.va)).headD 0)
  | .go ps bad => ((s.touchAll v qs).abortAll v ps).postStore h t v rel ps bad

/-- A scalar load (R148, R150, R151). -/
def scalarLoad (n : Nat) (sx : Bool) (h : Th) (rd rs1 : RegNo) (imm : Imm16) (s : State) : Out :=
  issue h [rd, rs1] [] s fun t =>
    let va := t.addr rs1 imm
    if t.xpsn rs1 then s.exc h excPoison va
    else if va.toNat % n ≠ 0 then s.exc h excAlign va
    else match s.resolve (s.tenantAt h.tile) va n false with
    | .ok (.reg a) => s.regLoad h t va a n rd sx
    | _ => s.loadPlanned h t (s.viaTile h.tile) (.load rd.toNat n sx) [⟨0, va, n, 0, false⟩]

/-- A scalar store (R148, R150, R151): the low bytes of the data register with its mark. -/
def scalarStore (n : Nat) (h : Th) (rs2 rs1 : RegNo) (imm : Imm16) (s : State) : Out :=
  issue h [rs1, rs2] [] s fun t =>
    let va := t.addr rs1 imm
    let d := (t.getX rs2).toNat % 2 ^ (8 * n)
    s.pastGate h (
      if t.xpsn rs1 then s.exc h excPoison va
      else if va.toNat % n ≠ 0 then s.exc h excAlign va
      else match s.resolve (s.tenantAt h.tile) va n true with
      | .ok (.reg a) => s.regStore h va a n d (t.xpsn rs2)
      | _ => s.storePlanned h t (s.viaTile h.tile) false [⟨0, va, n, d, t.xpsn rs2⟩])

/-- LB (R148). -/
def execLb (h : Th) (rd rs1 : RegNo) (imm : Imm16) (s : State) : Out := scalarLoad 1 true h rd rs1 imm s
/-- LBU (R148). -/
def execLbu (h : Th) (rd rs1 : RegNo) (imm : Imm16) (s : State) : Out := scalarLoad 1 false h rd rs1 imm s
/-- LH (R148). -/
def execLh (h : Th) (rd rs1 : RegNo) (imm : Imm16) (s : State) : Out := scalarLoad 2 true h rd rs1 imm s
/-- LHU (R148). -/
def execLhu (h : Th) (rd rs1 : RegNo) (imm : Imm16) (s : State) : Out := scalarLoad 2 false h rd rs1 imm s
/-- LW (R148). -/
def execLw (h : Th) (rd rs1 : RegNo) (imm : Imm16) (s : State) : Out := scalarLoad 4 true h rd rs1 imm s
/-- LWU (R148). -/
def execLwu (h : Th) (rd rs1 : RegNo) (imm : Imm16) (s : State) : Out := scalarLoad 4 false h rd rs1 imm s
/-- LD (R148). -/
def execLd (h : Th) (rd rs1 : RegNo) (imm : Imm16) (s : State) : Out := scalarLoad 8 false h rd rs1 imm s
/-- SB (R148). -/
def execSb (h : Th) (rs2 rs1 : RegNo) (imm : Imm16) (s : State) : Out := scalarStore 1 h rs2 rs1 imm s
/-- SH (R148). -/
def execSh (h : Th) (rs2 rs1 : RegNo) (imm : Imm16) (s : State) : Out := scalarStore 2 h rs2 rs1 imm s
/-- SW (R148). -/
def execSw (h : Th) (rs2 rs1 : RegNo) (imm : Imm16) (s : State) : Out := scalarStore 4 h rs2 rs1 imm s
/-- SD (R148). -/
def execSd (h : Th) (rs2 rs1 : RegNo) (imm : Imm16) (s : State) : Out := scalarStore 8 h rs2 rs1 imm s

/-! ### Accesses at home: LD.ACQ, ST.REL and atomics (R119, R121, R149, R152 to R155) -/

/-- Plan one access that completes at home. -/
def State.planHome (s : State) (v : Via) (wr : Bool) (va : Word) (n : Nat) : Plan := s.plan v wr true false [⟨0, va, n, 0, false⟩]

/-- LD.ACQ (R119, R149): any copy of the line in the cluster is written back and invalidated, then the load completes at home before any later access. -/
def execLdAcq (h : Th) (rd rs1 : RegNo) (size : Imm2) (sx : Bool) (s : State) : Out :=
  let n := 2 ^ size.toNat
  issue h [rd, rs1] [] s fun t =>
    let va := t.getX rs1
    let v := s.viaTile h.tile
    if sx ∧ size = 3 then s.exc h excIllegal 0
    else if t.xpsn rs1 then s.exc h excPoison va
    else if va.toNat % n ≠ 0 then s.exc h excAlign va
    else match s.resolve (s.tenantAt h.tile) va n false with
    | .ok (.reg a) => s.regLoad h t va a n rd sx
    | _ =>
      if 32 ≤ s.accesses h t then s
      else match s.planHome v false va n with
      | .fault c va => s.exc h c va
      | .moving m p tr => s.stall h (.move m p (chargeTier tr)) va
      | .down ds tr => s.stallWake h ds tr va
      | .go ps _ =>
        if t.busyWith ps then s
        else
          let s := ps.foldl (fun s p => s.cleanLine v p.loc) ((s.touch v va).abortAll v ps)
          match ps with
          | [⟨_, .mem a, _, _, _, _, _⟩] =>
            (match s.homeLoad v a n with
            | (s, x, z) => s.retire h (t.setX rd (loadValue n sx x) z))
          | [⟨_, .peer _ _, _, _, _, _, _⟩] => s.postLoad h t v (.load rd.toNat n sx) ps
          | [⟨_, l, _, _, _, _, _⟩] => (s.countFail v l true).retire h (t.setX rd 0 true)
          | _ => s

/-- ST.REL (R119, R129, R149): it waits until every earlier access of the thread is performed, raises a store error that has arrived, and is posted to complete at home. -/
def execStRel (h : Th) (rs1 rs2 : RegNo) (size : Imm2) (s : State) : Out :=
  let n := 2 ^ size.toNat
  issue h [rs1, rs2] [] s fun t =>
    let va := t.getX rs1
    let d := (t.getX rs2).toNat % 2 ^ (8 * n)
    s.pastGate h <| s.storePoint h t (
      if t.acc.any fun a => a.tend.isNone then s
      else if t.xpsn rs1 then s.exc h excPoison va
      else if va.toNat % n ≠ 0 then s.exc h excAlign va
      else match s.resolve (s.tenantAt h.tile) va n true with
      | .ok (.reg a) => s.regStore h va a n d (t.xpsn rs2)
      | _ => s.storePlanned h t (s.viaTile h.tile) true [⟨0, va, n, d, t.xpsn rs2⟩])

/-- An atomic (R121, R152 to R155): performed at home in one step, after any cached copy of the line is written back and invalidated; its errors are precise. `order` 2 and 3 release: they wait for every earlier access (R129). -/
def atomic (op : Nat) (h : Th) (rd rs1 rs2 : RegNo) (dword : Bool) (order : Imm2) (s : State) : Out :=
  let n := if dword then 8 else 4
  issue h [rd, rs1, rs2] [] s fun t =>
    let va := t.getX rs1
    let v := s.viaTile h.tile
    let x := (t.getX rs2).toNat % 2 ^ (8 * n)
    let cmp := (t.getX rd).toNat % 2 ^ (8 * n)
    s.pastGate h <| s.storePoint h t (
      if 2 ≤ order.toNat ∧ t.acc.any (fun a => a.tend.isNone) then s
      else if t.xpsn rs1 then s.exc h excPoison va
      else if 32 ≤ s.accesses h t then s
      else match s.planHome v true va n with
      | .fault c va => s.exc h (if (match s.resolve v.tenant va n true with
          | .ok (.reg _) => true
          | _ => false) && va.toNat % n == 0 then excAccess else c) va
      | .moving m p tr => s.stall h (.move m p (chargeTier tr)) va
      | .down ds tr => s.stallWake h ds tr va
      | .go ps bad =>
        if bad ≠ [] then s.exc h excAccess va
        else if t.busyWith ps then s
        else
          let down := (ps.flatMap fun p => s.locDoms p.loc).filter fun d => !s.isOn d
          if down ≠ [] then s.stallWake h down (chargeTier (match ps with
            | p :: _ => p.loc.tier
            | [] => 1)) va
          else
            let s := ps.foldl (fun s p => s.cleanLine v p.loc) ((s.touch v va).abortAll v ps)
            match ps with
            | [⟨_, .mem a, _, _, _, _, _⟩] =>
              (match s.homeLoad v a n with
              | (s, old, pold) =>
                let s := match amoStore op n old pold x (t.xpsn rs2) cmp (t.xpsn rd) with
                  | some (w, p) => ((s.moved v.src a n).homeStore a (natLe n w) p).notePoison h.tile (ps.map fun (q : Part) => { q with psn := p })
                  | none => s
                s.retire h (t.setX rd (loadValue n true old) pold))
            | [⟨l, .peer d a, w, m, dt, pp, _⟩] =>
              let id := t.accId + 1
              let tag := s.tagNext
              let s := s.notePoison h.tile (ps.map fun (q : Part) => { q with psn := t.xpsn rs2 })
              let s := s.sendReq .atomic d a n ([op] ++ natLe 8 x ++ natLe 8 cmp ++ [b2n (t.xpsn rs2), b2n (t.xpsn rd)]) v.tenant h id
              let acc : Acc := ⟨id, .amo op rd.toNat n, [[⟨l, .peer d a, w, m, dt, pp, tag + 1⟩]], [], [], 0, 0, none, s.arb.stamp, s.now, none⟩
              s.stamped.setThread h.tile h.thr { t with accId := id, acc := t.acc ++ [acc], st := .stalled, hold := .link }
            | [⟨_, l, _, _, _, _, _⟩] => (s.countFail v l true).retire h (t.setX rd 0 true)
            | _ => s)

/-- AMO_ADD (R152). -/
def execAmoAdd (h : Th) (rd rs1 rs2 : RegNo) (dword : Bool) (order : Imm2) (s : State) : Out := atomic 0 h rd rs1 rs2 dword order s
/-- AMO_AND (R152). -/
def execAmoAnd (h : Th) (rd rs1 rs2 : RegNo) (dword : Bool) (order : Imm2) (s : State) : Out := atomic 1 h rd rs1 rs2 dword order s
/-- AMO_OR (R152). -/
def execAmoOr (h : Th) (rd rs1 rs2 : RegNo) (dword : Bool) (order : Imm2) (s : State) : Out := atomic 2 h rd rs1 rs2 dword order s
/-- AMO_XOR (R152). -/
def execAmoXor (h : Th) (rd rs1 rs2 : RegNo) (dword : Bool) (order : Imm2) (s : State) : Out := atomic 3 h rd rs1 rs2 dword order s
/-- AMO_SMIN (R152). -/
def execAmoSmin (h : Th) (rd rs1 rs2 : RegNo) (dword : Bool) (order : Imm2) (s : State) : Out := atomic 4 h rd rs1 rs2 dword order s
/-- AMO_SMAX (R152). -/
def execAmoSmax (h : Th) (rd rs1 rs2 : RegNo) (dword : Bool) (order : Imm2) (s : State) : Out := atomic 5 h rd rs1 rs2 dword order s
/-- AMO_UMIN (R152). -/
def execAmoUmin (h : Th) (rd rs1 rs2 : RegNo) (dword : Bool) (order : Imm2) (s : State) : Out := atomic 6 h rd rs1 rs2 dword order s
/-- AMO_UMAX (R152). -/
def execAmoUmax (h : Th) (rd rs1 rs2 : RegNo) (dword : Bool) (order : Imm2) (s : State) : Out := atomic 7 h rd rs1 rs2 dword order s
/-- AMO_SWAP (R152, R155). -/
def execAmoSwap (h : Th) (rd rs1 rs2 : RegNo) (dword : Bool) (order : Imm2) (s : State) : Out := atomic 8 h rd rs1 rs2 dword order s
/-- AMO_CAS (R153, R155). -/
def execAmoCas (h : Th) (rd rs1 rs2 : RegNo) (dword : Bool) (order : Imm2) (s : State) : Out := atomic 9 h rd rs1 rs2 dword order s

/-! ### Fences (R120, R129) -/

/-- A fence: raises a store error that has arrived, waits while an access it orders is outstanding, and then completes. DESIGN CHOICE (log entry 71): like every ordering point it does not wait for accesses the thread left outstanding at an earlier TEND, whose errors are those of an IDLE thread (R129). -/
def fence (waits : Acc → Bool) (h : Th) (s : State) : Out :=
  issue h [] [] s fun t =>
    s.storePoint h t (if t.acc.any fun a => a.tend.isNone && waits a then s else s.retire h t)

/-- FENCE.FULL (R120): waits for every earlier access. -/
def execFenceFull (h : Th) (s : State) : Out := fence (fun _ => true) h s
/-- FENCE.ST (R120): waits for earlier stores. -/
def execFenceSt (h : Th) (s : State) : Out := fence Acc.isStore h s
/-- FENCE.LD (R120): waits for earlier loads only (R129). -/
def execFenceLd (h : Th) (s : State) : Out := fence (fun a => !a.isStore) h s

/-! ### Range operations (R122, R171) -/

/-- The cache-key ranges of `[va, va + len)`, page by page in the object range; the first unmapped page or moving page ends the list (R122). -/
inductive RangeEnd where
  | done
  | fault (va : Word)
  | moving (page : Nat)
  deriving DecidableEq, Repr

/-- Split an object range into the key ranges of its pages. -/
def State.objRanges (s : State) (n a : Nat) : Nat → Nat → List (Nat × Nat) × RangeEnd
  | 0, _ => ([], .done)
  | fuel + 1, len =>
    if len = 0 then ([], .done)
    else
      let off := (a - objBase) % pageSize
      let m := min len (pageSize - off)
      let page := (a - objBase) / pageSize
      let e := s.ent n page
      if !entValid e then ([], .fault (BitVec.ofNat 64 a))
      else if entMigrating e then ([], .moving page)
      else
        let k := match entTier e with
          | 0 => t0Base + entFrame e % 128 * pageSize + off
          | 3 => (entFrame e / 65536 + 1) * 2 ^ 43 + entFrame e % 65536 * pageSize + off
          | _ => frameAddr ((entKey e).getD 0) + off
        match s.objRanges n (a + m) fuel (len - m) with
        | (r, x) => ((k, m) :: r, x)

/-- The key ranges of a range operation; none when it runs past the end of its address range (R122). -/
def State.keyRanges (s : State) (n : Nat) (va : Word) (len : Nat) : Option (List (Nat × Nat) × RangeEnd) :=
  match s.dst va with
  | .err => none
  | .peer d a => if area a len = .none then none else some ([((d + 1) * 2 ^ 43 + a, len)], .done)
  | .here a =>
    match area a len with
    | .none => none
    | .obj => some (s.objRanges n a (len / pageSize + 2) len)
    | _ => some ([(a, len)], .done)

/-- Does a line lie wholly in a key range? -/
def Line.within (l : Line) (r : Nat × Nat) : Bool := decide (r.1 ≤ l.addr) && decide (l.addr + 128 ≤ r.1 + r.2)

/-- The lines of some key ranges in a partition's ways that a range operation writes back: the dirty ones, but not those CINV discards (R122). -/
def State.dirtyIn (s : State) (v : Via) (op : Nat) (rs : List (Nat × Nat)) : List Line :=
  rs.flatMap fun r => (s.linesIn v.cl v.ways r.1 r.2).filter fun l => l.dirty != 0 && !(op == 1 && l.within r)

/-- A range operation over `[va, va + len)` (R122, R129, R171): it waits for earlier accesses to its range, acts on the lines in its partition's ways, and completes when its write-backs are home. A home that cannot be reached gives a store error for that line, which is left as it was (log entry 13); so does, with `limit`, one whose wake is not over at its stall limit (R88, R128). -/
def State.rangeGo (s : State) (h : Th) (op : Nat) (va : Word) (len : Nat) (limit : Bool) : State :=
  let t := s.thread h.tile h.thr
  let v := s.viaTile h.tile
  match s.keyRanges v.tenant va len with
  | none => s.exc h excAccess va
  | some (rs, e) =>
    if t.acc.any fun a => a.tend.isNone && a.todo.any fun g => g.any fun p => rs.any fun r => decide (p.loc.key < r.1 + r.2) && decide (r.1 < p.loc.key + p.n) then s
    else
      let need := s.dirtyIn v op rs
      let judged (c : DomCheck → Bool) : List Line := need.filter fun l => c (s.domCheck (s.locDoms (.mem l.addr)))
      let refused := judged fun c => c == .refuse
      let held := judged fun c => c != .refuse && c != .go
      let down := held.flatMap fun l => (s.locDoms (.mem l.addr)).filter fun d => !s.isOn d
      let tier := chargeTier (((held.head?).map fun l => tierOf l.addr).getD 1)
      if held ≠ [] ∧ !limit then (s.domTouch down).stall h (.range down tier op va len) va
      else
        let s0 := need.foldl (fun s l => (s.locDoms (.mem l.addr)).foldl (fun s d => if s.isOn d then s.abortEntry d else s) s) s
        let s0 := if held ≠ [] then s0.countLimit v.part tier down else s0
        let s0 := if op = 0 then s0 else s0.staleReads v.cl v.tenant fun k => rs.any fun r => decide (r.1 < k + 128) && decide (k < r.1 + r.2)
        let left (l : Line) : Bool := (refused ++ held).any fun m => m.addr == l.addr
        let s1 := rs.foldl (fun s r => (s.linesIn v.cl v.ways r.1 r.2).foldl (fun s l => if left l then s else s.rangeLine v.cl op (l.within r) l) s) s0
        let errs (c : Nat) (ls : List Line) : List SErr := ls.map fun l => ⟨c, BitVec.ofNat 64 l.addr⟩
        let t1 := { s1.thread h.tile h.thr with serr := t.serr ++ errs excAccess refused ++ errs excWake held }
        match e with
        | .done => s1.retire h t1
        | .fault va => (s1.setThread h.tile h.thr t1).exc h excAccess va
        | .moving p => (s1.setThread h.tile h.thr t1).stall h (.move v.tenant p (chargeTier (entTier (s1.ent v.tenant p)))) va

/-- A range instruction (R122, R129, R171): an arrived store error is raised first, a poisoned operand raises POISON_USE, and a length of 0 has no effect. -/
def rangeInstr (op : Nat) (h : Th) (rs1 rs2 : RegNo) (s : State) : Out :=
  issue h [rs1, rs2] [] s fun t =>
    let va := t.getX rs1
    s.pastGate h <| s.storePoint h t (
      if t.xpsn rs1 || t.xpsn rs2 then s.exc h excPoison (if t.xpsn rs1 then va else 0)
      else if (t.getX rs2).toNat = 0 then s.retire h t
      else s.rangeGo h op va (t.getX rs2).toNat false)

/-- CWB (R122). -/
def execCwb (h : Th) (rs1 rs2 : RegNo) (s : State) : Out := rangeInstr 0 h rs1 rs2 s
/-- CINV (R122). -/
def execCinv (h : Th) (rs1 rs2 : RegNo) (s : State) : Out := rangeInstr 1 h rs1 rs2 s
/-- CWBI (R122). -/
def execCwbi (h : Th) (rs1 rs2 : RegNo) (s : State) : Out := rangeInstr 2 h rs1 rs2 s

/-! ### Vector memory instructions (R179, R180) -/

/-- A vector load or store over lane addresses (R180): a poisoned base, stride or active index raises POISON_USE with the address of the lowest-numbered faulting lane, which `bad` gives; every active lane is checked before any takes effect. -/
def vecMem (st : Bool) (xs vs : List RegNo) (vd : RegNo) (g : PredNo) (bad : Thread → Option Nat) (at_ : Thread → Nat → Word) (h : Th) (s : State) : Out :=
  issue h xs (vd :: vs) s fun t =>
    let lanes := t.active g
    let go : State :=
      match bad t with
      | some i => s.exc h excPoison (at_ t i)
      | none =>
        if lanes = [] then s.retire h t
        else
          let qs : List LaneReq := lanes.map fun i => ⟨i, at_ t i, 4, (t.getV vd i).toNat, t.vpsn vd i⟩
          if st then s.storePlanned h t (s.viaTile h.tile) false qs
          else s.loadPlanned h t (s.viaTile h.tile) (.vload vd.toNat) qs
    if st then s.pastGate h go else go

/-- The lowest active lane when a scalar register is poisoned: every lane's address is (R180). -/
def Thread.allBad (t : Thread) (g : PredNo) (p : Bool) : Option Nat := if p then some ((t.active g).headD 0) else none

/-- The address of lane `i` of a unit-stride access (R179). -/
def unitAddr (rs1 : RegNo) (imm : Imm13) (t : Thread) (i : Nat) : Word := t.getX rs1 + off13 imm + BitVec.ofNat 64 (4 * i)
/-- The address of lane `i` of a strided access (R179). -/
def strideAddr (rs1 c : RegNo) (t : Thread) (i : Nat) : Word := t.getX rs1 + BitVec.ofNat 64 i * t.getX c
/-- The address of lane `i` of an indexed access (R179). -/
def indexAddr (rs1 c : RegNo) (t : Thread) (i : Nat) : Word := t.getX rs1 + (t.getV c i).setWidth 64

/-- VLD (R179). -/
def execVld (h : Th) (vd rs1 : RegNo) (imm : Imm13) (g : PredNo) (s : State) : Out :=
  vecMem false [rs1] [] vd g (fun t => t.allBad g (t.xpsn rs1)) (unitAddr rs1 imm) h s
/-- VST (R179). -/
def execVst (h : Th) (vd rs1 : RegNo) (imm : Imm13) (g : PredNo) (s : State) : Out :=
  vecMem true [rs1] [] vd g (fun t => t.allBad g (t.xpsn rs1)) (unitAddr rs1 imm) h s
/-- VLDS (R179). -/
def execVlds (h : Th) (vd rs1 c : RegNo) (g : PredNo) (s : State) : Out :=
  vecMem false [rs1, c] [] vd g (fun t => t.allBad g (t.xpsn rs1 || t.xpsn c)) (strideAddr rs1 c) h s
/-- VSTS (R179). -/
def execVsts (h : Th) (vd rs1 c : RegNo) (g : PredNo) (s : State) : Out :=
  vecMem true [rs1, c] [] vd g (fun t => t.allBad g (t.xpsn rs1 || t.xpsn c)) (strideAddr rs1 c) h s
/-- VLDX (R179). -/
def execVldx (h : Th) (vd rs1 c : RegNo) (g : PredNo) (s : State) : Out :=
  vecMem false [rs1] [c] vd g (fun t => (t.allBad g (t.xpsn rs1)).orElse fun _ => (t.active g).find? fun i => t.vpsn c i) (indexAddr rs1 c) h s
/-- VSTX (R179). -/
def execVstx (h : Th) (vd rs1 c : RegNo) (g : PredNo) (s : State) : Out :=
  vecMem true [rs1] [c] vd g (fun t => (t.allBad g (t.xpsn rs1)).orElse fun _ => (t.active g).find? fun i => t.vpsn c i) (indexAddr rs1 c) h s

/-! ### Responses (R117, R129, R479) -/

/-- Perform one group of an access: the lanes it loads, and the memory after the stores (R115, R119). -/
def State.performGroup (s : State) (v : Via) (k : AccKind) : List Part → State × List (Nat × Nat × Bool)
  | [] => (s, [])
  | p :: ps =>
    match k with
    | .store rel =>
      let s := if rel then s.cleanLine v p.loc else s
      let s := if rel then (match p.loc with
          | .mem a => (s.moved v.src a p.n).homeStore a (natLe p.n p.data) p.psn
          | _ => s)
        else s.storeAt v p.loc (natLe p.n p.data) p.psn
      s.performGroup v k ps
    | _ =>
      match s.loadAt v p.loc p.n with
      | (s, bs, z) =>
        match s.performGroup v k ps with
        | (s, r) => (s, (p.lane, leNat bs, z) :: r)

/-- MEMORY_RESPONSE (R76, R94, R115 to R119): one group of an outstanding access of a thread takes effect, once the thread and the domains let it; at a vault or on a channel it waits until its turn has come. -/
def execMemoryResponse (tile thr id grp : Nat) (s : State) : Out :=
  let t := s.thread tile thr
  match t.acc.find? fun a => a.id == id with
  | none => .next s
  | some a =>
    match a.todo[grp]? with
    | none => .next s
    | some g =>
      let ws := s.waitings
      let turn (w : Waiting) : Bool := w.tile == tile && w.thr == thr && w.acc == id && w.grp == grp
      if !s.groupReady tile thr t a grp g ∨ (ws.any fun w => turn w && !s.serves ws w) then .next s
      else
        let s := match ws.find? turn with
          | some w => (s.noteQueue ws tile w.addr).granted w
          | none => s
        match s.performGroup (s.viaTile tile) a.kind g with
        | (s, r) =>
          let t := s.thread tile thr
          .next ((s.setThread tile thr (t.advance a (listDel a.todo grp) (a.got ++ r))).resumed (tile * 16 + thr) id)

/-- STORE_ERROR_ARRIVAL (R129, R150): the home's error response to a posted store arrives. -/
def execStoreErrorArrival (tile thr id sub : Nat) (s : State) : Out :=
  match (s.thread tile thr).acc.find? fun a => a.id == id with
  | none => .next s
  | some a => if a.bad ≠ 0 ∧ a.bad = sub then .next (s.storeError tile thr a sub) else .next s

/-- A posted access to T2 whose channel does not respond (R88, R95, R98): it is the one the channel serves next, and XM_STALL_LIMIT has passed since it was posted. -/
def State.channelStuck (s : State) (tile thr : Nat) (a : Acc) : Bool :=
  let ws := s.waitings
  ws.any fun w => w.tile == tile && w.thr == thr && w.acc == a.id && area w.addr 1 == .t2 && s.serves ws w &&
    (let us := s.fget (A.XM_STALL_LIMIT (chanOf w.addr / 2)) F.XM_STALL_LIMIT_US
     decide (a.since + (if us = 0 then 100 else us) * 256000 ≤ s.now))

/-- A posted access ends with an error response at its channel's stall limit (R88, R90): a store keeps STORE_ERROR for the thread's next point, a load raises WAKE_LIMIT at its own instruction, which the thread has not gone past (R141, log entry 66). -/
def State.channelLimit (s : State) (tile thr : Nat) (a : Acc) : State :=
  let part := s.partNo tile
  let counted : State := if part < 16 then s.fadd (A.VC_STALL part 1 6) (63, 0) 1 else s
  let t := s.thread tile thr
  if a.isStore then counted.storeError tile thr a excWake
  else if a.tend.isSome then counted.setThread tile thr { t with acc := t.acc.filter fun b => b.id != a.id }
  else match a.back with
  | some (pc, n) =>
    let t1 := { t with acc := t.acc.filter fun b => b.id != a.id }
    let va := ((a.todo.flatten.head?).map (·.va)).getD 0
    if t.pc = pc + 4 ∧ t.instret = n ∧ t.st = .ready then (counted.setThread tile thr { t1 with pc := pc, instret := n - 1 }).raise tile thr excWake 0 va
    else if t.pc = pc ∧ t.instret + 1 = n ∧ t.st = .stalled ∧ t.hold = .link then
      (counted.setThread tile thr { t1 with st := .ready, hold := .none }).raise tile thr excWake 0 va
    else s
  | none => s

/-- A held access of a thread reaches its stall limit and receives an error response (R88, R479). A load, an atomic or a register access raises WAKE_LIMIT; a posted store, or the write-backs of a range operation, give STORE_ERROR later (R128, R150). The wake goes on. -/
def State.stallLimit (s : State) (tile thr id : Nat) : State :=
  let t := s.thread tile thr
  let key := tile * 16 + thr
  let ended : State := { s with stallq := s.stallq.filter fun e => e != (key, id) }
  let go (s : State) : State := s.setThread tile thr { t with st := .ready, hold := .none }
  let queued : Bool := t.st == .stalled && s.stallq.contains (key, id)
  match t.acc.find? fun a => a.id == id && s.channelStuck tile thr a with
  | some a => s.channelLimit tile thr a
  | none =>
    match t.hold with
    | .wake ds tier =>
      if !queued then s
      else
        let s := go (ended.countLimit (s.partNo tile) tier ds)
        if id = 0 then s.raise tile thr excWake 0 t.holdVa
        else match t.acc.find? fun a => a.id == id with
        | some a => s.storeError tile thr a excWake
        | none => s
    | .range _ _ op va len => if queued ∧ id = 0 then (go ended).rangeGo ⟨tile, thr, .ok⟩ op va len true else s
    | _ => s

end Sys2Proof.Machine
end

