-- ==== Sys2Proof/Machine/Control.lean ====
section
/-!
DEFINITION. Control transfer, system instructions, starting and ending threads, messages, and the issue of engine commands (R104, R105, R107 to R114, R130, R156 to R170).
-/
namespace Sys2Proof.Machine

/-! ### Branches and jumps (R156, R157) -/

/-- A compare and branch: a poisoned operand raises POISON_USE, else the thread goes to PC + IMM13 × 4 when the condition holds. -/
def branch (c : Word → Word → Bool) (h : Th) (rs1 rs2 : RegNo) (imm : Imm13) (s : State) : Out :=
  issue h [rs1, rs2] [] s fun t =>
    if t.xpsn rs1 || t.xpsn rs2 then s.exc h excPoison 0
    else if c (t.getX rs1) (t.getX rs2) then s.jump h t (t.pc + off13 imm)
    else s.retire h t

/-- A branch on a predicate. -/
def predBranch (c : Lane → Bool) (h : Th) (ps : PredNo) (imm : Imm21) (s : State) : Out :=
  issue h [] [] s fun t =>
    if c (t.getP ps) then s.jump h t (t.pc + off21 imm) else s.retire h t

/-- BR EQ (R156). -/
def execBrEq (h : Th) (rs1 rs2 : RegNo) (imm : Imm13) (s : State) : Out := branch (fun a b => a == b) h rs1 rs2 imm s
/-- BR NE (R156). -/
def execBrNe (h : Th) (rs1 rs2 : RegNo) (imm : Imm13) (s : State) : Out := branch (fun a b => a != b) h rs1 rs2 imm s
/-- BR LT, signed (R156). -/
def execBrLt (h : Th) (rs1 rs2 : RegNo) (imm : Imm13) (s : State) : Out := branch (fun a b => a.slt b) h rs1 rs2 imm s
/-- BR GE, signed (R156). -/
def execBrGe (h : Th) (rs1 rs2 : RegNo) (imm : Imm13) (s : State) : Out := branch (fun a b => !(a.slt b)) h rs1 rs2 imm s
/-- BR LTU (R156). -/
def execBrLtu (h : Th) (rs1 rs2 : RegNo) (imm : Imm13) (s : State) : Out := branch (fun a b => a.ult b) h rs1 rs2 imm s
/-- BR GEU (R156). -/
def execBrGeu (h : Th) (rs1 rs2 : RegNo) (imm : Imm13) (s : State) : Out := branch (fun a b => !(a.ult b)) h rs1 rs2 imm s
/-- BP ANY over all 32 bits (R156). -/
def execBpAny (h : Th) (ps : PredNo) (imm : Imm21) (s : State) : Out := predBranch predAny h ps imm s
/-- BP ALL over all 32 bits (R156). -/
def execBpAll (h : Th) (ps : PredNo) (imm : Imm21) (s : State) : Out := predBranch predAll h ps imm s
/-- BP NONE over all 32 bits (R156). -/
def execBpNone (h : Th) (ps : PredNo) (imm : Imm21) (s : State) : Out := predBranch (fun p => !(predAny p)) h ps imm s
/-- BP NOTALL over all 32 bits (R156). -/
def execBpNotall (h : Th) (ps : PredNo) (imm : Imm21) (s : State) : Out := predBranch (fun p => !(predAll p)) h ps imm s

/-- JAL: writes PC + 4 and jumps to PC + IMM21 × 4 (R156). -/
def execJal (h : Th) (rd : RegNo) (imm : Imm21) (s : State) : Out :=
  issue h [rd] [] s fun t => s.jump h (t.setX rd (t.pc + 4) false) (t.pc + off21 imm)

/-- JALR: reads rs1, writes PC + 4 and jumps to rs1 + IMM16 with bits [1:0] cleared; a poisoned rs1 raises POISON_USE with the address formed (R156, R157). -/
def execJalr (h : Th) (rd rs1 : RegNo) (imm : Imm16) (s : State) : Out :=
  issue h [rd, rs1] [] s fun t =>
    let a := t.addr rs1 imm
    if t.xpsn rs1 then s.exc h excPoison a
    else s.jump h (t.setX rd (t.pc + 4) false) (a &&& ~~~3#64)

/-! ### System instructions (R158, R159) -/

/-- TRAP: raises TRAP with its code in EADDR (R158). -/
def execTrap (h : Th) (code : Imm10) (s : State) : Out :=
  issue h [] [] s fun _ => s.exc h excTrap (code.setWidth 64)

/-- ERET (R130, R158). -/
def execEret (h : Th) (s : State) : Out :=
  issue h [] [] s fun t => s.setThread h.tile h.thr t.eret

/-- TEND: the thread becomes IDLE without waiting for its accesses and leaves handler mode; a store error that has arrived is raised first (R105, R129, R158). -/
def execTend (h : Th) (s : State) : Out :=
  issue h [] [] s fun t =>
    s.storePoint h t (s.setThread h.tile h.thr
      { t with st := .idle, hmode := false, pc := t.pc + 4, instret := t.instret + 1,
               acc := t.acc.map fun a => if a.tend.isSome then a else { a with tend := some t.pc } })

/-- A special register's value (R137). -/
def State.special (s : State) (h : Th) (t : Thread) (n : Nat) : Word :=
  match n with
  | 0 => t.handler
  | 1 => t.epc
  | 2 => BitVec.ofNat 64 (t.cause + 16 * t.sub + 256 * b2n t.hmode)
  | 3 => t.eaddr
  | 4 => BitVec.ofNat 64 (h.thr + 16 * h.tile + 2048 * s.devId)
  | 5 => BitVec.ofNat 64 s.time
  | 6 => BitVec.ofNat 64 (s.cycles h.tile t)
  | _ => BitVec.ofNat 64 t.instret

/-- SRR: reads a special register; a reserved number raises ILLEGAL (R137, R158, R159). -/
def execSrr (h : Th) (rd n : RegNo) (s : State) : Out :=
  issue h [rd] [] s fun t =>
    if 8 ≤ n.toNat then s.exc h excIllegal 0
    else s.retire h (t.setX rd (s.special h t n.toNat) false)

/-- SRW: writes HANDLER or EPC, whose bits [1:0] ignore the write; any other number raises ILLEGAL, a poisoned value POISON_USE (R137, R158, R159). -/
def execSrw (h : Th) (rs1 n : RegNo) (s : State) : Out :=
  issue h [rs1] [] s fun t =>
    let v := t.getX rs1 &&& ~~~3#64
    if 2 ≤ n.toNat then s.exc h excIllegal 0
    else if t.xpsn rs1 then s.exc h excPoison 0
    else if n = 0 then s.retire h { t with handler := v }
    else s.retire h { t with epc := v }

/-! ### Starting a thread (R104, R160, R161) -/

/-- A thread started by TSTART: s1 holds the argument, every other register is zero, the exception registers are clear; counters, credits, queues, slots and outstanding accesses carry over (R104). -/
def Thread.started (t : Thread) (pc arg : Word) (p : Bool) : Thread :=
  ({ t with st := .ready, pc := pc &&& ~~~3#64, x := [], xp := [], v := [], vp := [], p := [], handler := 0, epc := 0,
            cause := 0, sub := 0, eaddr := 0, hmode := false, hold := .none, waitAcc := none } : Thread).setX 1 arg p

/-- TSTART (R104, R161), which a gated job's thread does not do before the gate opens (R350, log entry 74): a poisoned start address raises POISON_USE; a poisoned rd or a thread that is not IDLE starts nothing and gives 1. -/
def execTstart (h : Th) (rd rs1 rs2 : RegNo) (s : State) : Out :=
  issue h [rd, rs1, rs2] [] s fun t =>
    let n := (t.getX rd).toNat % 16
    let u := s.thread h.tile n
    if t.xpsn rs1 then s.exc h excPoison (t.getX rs1)
    else if t.xpsn rd || n == h.thr || u.st != .idle then s.retire h (t.setX rd 1 false)
    else s.pastGate h <| (s.setThread h.tile n (u.started (t.getX rs1) (t.getX rs2) (t.xpsn rs2))).retire h (t.setX rd 0 false)

/-! ### Messages (R107 to R113, R160, R162, R163) -/

/-- A message header (R108). -/
def msgHeader (dev ctx rank thr tag len : Nat) : Word :=
  BitVec.ofNat 64 (dev % 2 ^ 14 + ctx % 1024 * 2 ^ 14 + rank % 128 * 2 ^ 24 + thr % 16 * 2 ^ 31 + tag % 65536 * 2 ^ 35 + len % 8 * 2 ^ 51 + 2 ^ 63)

/-- The message a MSEND posts (R108, R162): payload copied at issue with its marks, words beyond LENGTH zero. -/
def State.msgOf (s : State) (h : Th) (t : Thread) (p rs2 : RegNo) (len : Nat) : Msg :=
  let (ctx, rank) := match s.jobAt h.tile with
    | some (c, j) => (c, j.rank h.tile)
    | none => (0, 0)
  ⟨msgHeader s.devId ctx rank h.thr ((t.getX rs2).toNat % 65536) len,
   (List.range 7).map fun i => if i < len then t.getX (p + BitVec.ofNat 5 i) else 0,
   t.xpsn rs2,
   (List.range 7).map fun i => decide (i < len) && t.xpsn (p + BitVec.ofNat 5 i)⟩

/-- May a MSEND go out as a CARRY (R533)? Every earlier access of the thread not yet performed is a remote store to the message's device, which travels on the message's path. -/
def Thread.carries (t : Thread) (dev : Nat) : Bool :=
  t.acc.all fun a => a.tend.isSome || (a.isStore && a.bad == 0 && a.todo.all fun g => g.all fun p => p.tag != 0 && (match p.loc with
    | .peer d _ => d == dev
    | _ => false))

/-- MSEND (R109, R125, R129, R162, R533): waits until every earlier access is performed, unless a CARRY follows them, takes a credit and posts the message; with no credit the thread stalls. -/
def execMsend (h : Th) (p rs1 rs2 : RegNo) (len : Imm3) (s : State) : Out :=
  let regs := [rs1, rs2] ++ (List.range len.toNat).map fun i => p + BitVec.ofNat 5 i
  issue h regs [] s fun t =>
    s.storePoint h t (
      if (len = 0 ∧ p ≠ 0) ∨ (len ≠ 0 ∧ 32 < p.toNat + len.toNat) then s.exc h excIllegal 0
      else
      let w := t.getX rs1
      let away : Bool := tgtDev w != s.devId && (s.route (tgtDev w)).isSome
      let pend := t.acc.any fun a => a.tend.isNone
      if pend && !(away && !t.xpsn rs1 && t.carries (tgtDev w)) then s
      else if t.xpsn rs1 then s.exc h excPoison 0
      else if w.toNat / 2 ^ 35 ≠ 0 then s.exc h excTarget 0
      else if t.credits = 0 then s.stall h .credit 0
      else s.pastGate h <|
        let m := s.msgOf h t p rs2 len.toNat
        let s := s.retire h { t with credits := t.credits - 1 }
        if away then
          s.sendReq (if pend then .carry else .message) (tgtDev w) w.toNat 64 m.toData (s.tenantAt h.tile) h 0
        else { s with net := s.net ++ [⟨h.tile, h.thr, true, w, s.tenantAt h.tile, m, false, false, none⟩] })

/-- Write the registers MWAIT returns: the header in s24, payload in s25 to s31 (R108, R162, R163). -/
def Thread.receive (t : Thread) (m : Msg) : Thread :=
  (List.range 7).foldl (fun t i => t.setX (BitVec.ofNat 5 (25 + i)) (m.pay.getD i 0) (m.ppsn.getD i false)) (t.setX 24 m.hdr m.hpsn)

/-- The return of a MWAIT whose deadline has passed: s24 to s31 are zero (R108, R163). -/
def noMsg : Msg := ⟨0, [], false, []⟩

/-- MWAIT (R113, R163): takes the next bounce, else the next message; with both queues empty it returns zero when its deadline has passed or is poisoned, and otherwise waits. -/
def execMwait (h : Th) (rs1 : RegNo) (s : State) : Out :=
  issue h ([rs1] ++ (List.range 8).map fun i => BitVec.ofNat 5 (24 + i)) [] s fun t =>
    let d := t.getX rs1
    match t.bq, t.mq with
    | m :: ms, _ => s.retire h (Thread.receive { t with bq := ms } m)
    | [], m :: ms => s.retire h (Thread.receive { t with mq := ms } m)
    | [], [] =>
      if t.xpsn rs1 || (d != 0 && timeReached (BitVec.ofNat 64 s.time) d) then s.retire h (t.receive noMsg)
      else s.setThread h.tile h.thr { t with st := .waitMsg, deadline := d }

/-- MWAIT_DEADLINE (R113, R684): the deadline of a waiting thread passes with its queues empty. Its cluster wakes first when it is not On; then the thread resumes and MWAIT returns zero. -/
def execMwaitDeadline (tile thr : Nat) (s : State) : Out :=
  let t := s.thread tile thr
  if t.st ≠ .waitMsg ∨ t.deadline = 0 ∨ !timeReached (BitVec.ofNat 64 s.time) t.deadline then .next s
  else if !s.isOn (16 + tile / 8) then .next (s.demandWake (16 + tile / 8))
  else .next (s.setThread tile thr { t with st := .ready })

/-- MESSAGE_ARRIVAL (R109 to R112): message `idx` on its way reaches its target's device and is judged. -/
def execMessageArrival (idx : Nat) (s : State) : Out :=
  match s.net[idx]? with
  | some m => if m.bounce || m.waiting || s.behind idx m then .next s else .next (s.judgeMessage idx m)
  | none => .next s

/-- MESSAGE_SLOT_FREE_DELIVERY (R109, R111): a message that waits in the network is judged again, and delivered once a slot is free. -/
def execMessageSlotFreeDelivery (idx : Nat) (s : State) : Out :=
  match s.net[idx]? with
  | some m => if m.bounce || !m.waiting || s.behind idx m then .next s else .next (s.judgeMessage idx m)
  | none => .next s

/-- BOUNCE_ARRIVAL (R109, R110): a bounce reaches the bounce slots of the thread that sent it, its credit returns and TI_MSG_BOUNCE counts it; while the sender's job is saved it is held, with the credit, in the job's record. One whose sender's context has no job any more is discarded and counted in TI_MSG_DISCARD, and one whose sender's context has been bound to a new job goes to that job's thread: DESIGN CHOICE, log entry 71. -/
def execBounceArrival (idx : Nat) (s : State) : Out :=
  match s.net[idx]? with
  | none => .next s
  | some m =>
    if !m.bounce || !m.srcLocal then .next s
    else
      let gone : State := { s with net := listDel s.net idx }
      let (c, rank) := m.bounceTo
      match s.job c with
      | some j =>
        let tile := j.tiles.getD rank m.srcTile
        let m := { m with srcTile := tile }
        if j.saved then
          let k := rank * 16 + m.srcThr
          .next (((gone.setJob c (some { j with heldB := Tab.set j.heldB [] k (Tab.get j.heldB [] k ++ [m.msg]) })).bump (A.TI_MSG_BOUNCE tile)).creditBack m c rank)
        else if !s.isOn (16 + tile / 8) then .next (s.demandWake (16 + tile / 8))
        else
          let t := gone.thread tile m.srcThr
          let st := if t.st = .waitMsg then TState.ready else t.st
          .next (((gone.setThread tile m.srcThr { t with bq := t.bq ++ [m.msg], st := st }).bump (A.TI_MSG_BOUNCE tile)).creditBack m c rank)
      | none => .next (gone.bump (A.TI_MSG_DISCARD m.srcTile))

/-! ### Engine commands (R164 to R170) -/

/-- A free command slot of a thread (R166). -/
def Thread.freeSlot (t : Thread) : Option Nat := (List.range 8).find? fun i => (Tab.get t.slots none i).isNone

/-- The command-buffer entries a tile uses (R166). -/
def State.bufUsed (s : State) (tile : Nat) : Nat := (s.ebuf.filter fun c => c.tile == tile).length

/-- Copy the descriptor and issue the command (R165 to R167). -/
def State.engTake (s : State) (h : Th) (t : Thread) (v : Via) (slot eng : Nat) (rd : RegNo) (va : Word) (l : Loc) : State :=
  match (s.touch v va).loadAt v l 64 with
  | (s, bs, z) =>
    if z then s.exc h excPoison va
    else
      let seq := t.seq + 1
      let ctx := match s.jobAt h.tile with
        | some (c, _) => c
        | none => 0
      let c : Cmd := ⟨h.tile, h.thr, slot, seq, ctx, v.tenant, s.partNo h.tile, eng, bs⟩
      let t := { t with slots := Tab.set t.slots none slot (some ⟨eng, seq, none⟩), seq := seq }
      let s : State := { s with ebuf := s.ebuf ++ [c] }
      let s := if eng = 0 then s else s.engFill eng (engUnit eng h.tile) 16
      s.retire h (t.setX rd (engHandle slot eng seq) false)

/-- ENG (R165 to R167, R124, R129): reads the 64-byte descriptor, takes a slot and a buffer entry and gives a handle, or 0 when either is exhausted. Exhaustion is tested before the descriptor's address is judged and read, and after its alignment and its poison: DESIGN CHOICE, log entry 70. -/
def engIssue (eng : Nat) (h : Th) (rd rs1 : RegNo) (s : State) : Out :=
  issue h [rd, rs1] [] s fun t =>
    let va := t.getX rs1
    let v := s.viaTile h.tile
    s.storePoint h t (
      if t.acc.any fun a => a.tend.isNone then s
      else if t.xpsn rs1 then s.exc h excPoison va
      else if va.toNat % 64 ≠ 0 then s.exc h excAlign va
      else match t.freeSlot with
      | none => s.retire h (t.setX rd 0 false)
      | some slot =>
        if s.gated h.tile then s
        else if 32 ≤ s.bufUsed h.tile then s.retire h (t.setX rd 0 false)
        else match s.plan v false false true [⟨0, va, 64, 0, false⟩] with
        | .fault _ va => s.exc h excAccess va
        | .moving n p tr => s.stall h (.move n p (chargeTier tr)) va
        | .down ds tr => s.stallWake h ds tr va
        | .go [p] _ =>
          (match p.loc with
          | .reg _ => s.exc h excAccess va
          | .peer d a =>
            if s.cached v p.loc then s.engTake h t v slot eng rd va p.loc
            else (s.sendReq .read d (a / 128 * 128) 128 [] v.tenant h 0).setThread h.tile h.thr { t with st := .stalled, hold := .link }
          | _ => s.engTake h t v slot eng rd va p.loc)
        | .go _ _ => s.exc h excAccess va)

/-- ENG to the Matrix unit (R164). -/
def execEngMx (h : Th) (rd rs1 : RegNo) (s : State) : Out := engIssue 0 h rd rs1 s
/-- ENG to the Attention engine (R164). -/
def execEngAt (h : Th) (rd rs1 : RegNo) (s : State) : Out := engIssue 1 h rd rs1 s
/-- ENG to the Scan engine (R164). -/
def execEngSc (h : Th) (rd rs1 : RegNo) (s : State) : Out := engIssue 2 h rd rs1 s
/-- ENG to the Convolution engine (R164). -/
def execEngCv (h : Th) (rd rs1 : RegNo) (s : State) : Out := engIssue 3 h rd rs1 s
/-- ENG to the Stem engine (R164). -/
def execEngSt (h : Th) (rd rs1 : RegNo) (s : State) : Out := engIssue 4 h rd rs1 s
/-- ENG to the Post-processing unit (R164). -/
def execEngPp (h : Th) (rd rs1 : RegNo) (s : State) : Out := engIssue 5 h rd rs1 s

/-- Is a handle that of an outstanding or unretrieved command of the thread (R169)? -/
def Thread.slotOf (t : Thread) (w : Word) : Option (Nat × Slot) :=
  let i := w.toNat % 8
  match Tab.get t.slots none i with
  | some sl => if engHandle i sl.eng sl.seq = w then some (i, sl) else none
  | none => none

/-- ENGWAIT and ENGPOLL (R169): a stale handle gives INVALID with DETAIL 0xFFF; a returned result frees the slot; otherwise ENGPOLL gives 0 and ENGWAIT waits in WAIT_ENG. -/
def engRetrieve (poll : Bool) (h : Th) (rd rs1 : RegNo) (s : State) : Out :=
  issue h [rd, rs1] [] s fun t =>
    if t.xpsn rs1 then s.exc h excPoison 0
    else match t.slotOf (t.getX rs1) with
    | none => s.retire h (t.setX rd staleResult false)
    | some (i, sl) =>
      match sl.res with
      | some w => s.retire h (Thread.setX { t with slots := Tab.set t.slots none i none } rd w false)
      | none =>
        if poll then s.retire h (t.setX rd 0 false)
        else s.setThread h.tile h.thr { t with st := .waitEng, waitAcc := none, deadline := t.getX rs1 }

/-- ENGWAIT (R169). -/
def execEngwait (h : Th) (rd rs1 : RegNo) (s : State) : Out := engRetrieve false h rd rs1 s
/-- ENGPOLL (R169). -/
def execEngpoll (h : Th) (rd rs1 : RegNo) (s : State) : Out := engRetrieve true h rd rs1 s

end Sys2Proof.Machine
end

