-- ==== Sys2Proof/Machine/Scalar.lean ====
section
/-!
DEFINITION. Scalar integer instructions: OPR, the immediate forms, LUI, SHORI and AUIPC (R145 to R147).
-/
namespace Sys2Proof.Machine

/-- The shape of OPR (R145): rd takes a function of rs1 and rs2, poisoned when either source is (R135). -/
def scalar2 (f : Word → Word → Word) (h : Th) (rd rs1 rs2 : RegNo) (s : State) : Out :=
  issue h [rd, rs1, rs2] [] s fun t =>
    s.retire h (t.setX rd (f (t.getX rs1) (t.getX rs2)) (t.xpsn rs1 || t.xpsn rs2))

/-- The shape of the unary operations and of the immediate forms (R145, R147). -/
def scalar1 (f : Word → Word) (h : Th) (rd rs1 : RegNo) (s : State) : Out :=
  issue h [rd, rs1] [] s fun t =>
    s.retire h (t.setX rd (f (t.getX rs1)) (t.xpsn rs1))

/-- Signed division rounding toward zero, with the edge cases of R146. -/
def divS (a b : Word) : Word :=
  if b = 0 then BitVec.allOnes 64
  else if a = BitVec.intMin 64 ∧ b = BitVec.allOnes 64 then BitVec.intMin 64
  else a.sdiv b

/-- Unsigned division; by zero gives all ones (R146). -/
def divU (a b : Word) : Word := if b = 0 then BitVec.allOnes 64 else a / b

/-- Signed remainder with the sign of the dividend; by zero gives the dividend, and 0 for the overflowing quotient (R145, R146). -/
def remS (a b : Word) : Word :=
  if b = 0 then a
  else if a = BitVec.intMin 64 ∧ b = BitVec.allOnes 64 then 0
  else a.srem b

/-- Unsigned remainder; by zero gives the dividend (R146). -/
def remU (a b : Word) : Word := if b = 0 then a else a % b

/-- The high 64 bits of the signed 128-bit product (R145). -/
def mulHS (a b : Word) : Word := ((a.signExtend 128 * b.signExtend 128) >>> 64).setWidth 64

/-- The high 64 bits of the unsigned 128-bit product (R145). -/
def mulHU (a b : Word) : Word := ((a.setWidth 128 * b.setWidth 128) >>> 64).setWidth 64

/-- Leading zeros of the low `n` bits (R145). -/
def clzAux : Nat → Nat → Nat
  | 0, _ => 0
  | n + 1, v => if bit v n then 0 else 1 + clzAux n v

/-- Trailing zeros of `n` bits (R145). -/
def ctzAux : Nat → Nat → Nat
  | 0, _ => 0
  | n + 1, v => if v % 2 = 1 then 0 else 1 + ctzAux n (v / 2)

/-- Leading zeros, 0 to 64 (R145). -/
def clz64 (a : Word) : Word := BitVec.ofNat 64 (clzAux 64 a.toNat)
/-- Trailing zeros, 0 to 64 (R145). -/
def ctz64 (a : Word) : Word := BitVec.ofNat 64 (ctzAux 64 a.toNat)
/-- Set bits (R145). -/
def popc64 (a : Word) : Word := BitVec.ofNat 64 (popcount 64 a.toNat)

/-- The shift amount rs2[5:0] (R145). -/
def amt6 (b : Word) : Nat := b.toNat % 64

/-- ADD: rs1 + rs2 (R145). -/
def execAdd (h : Th) (rd rs1 rs2 : RegNo) (s : State) : Out := scalar2 (fun a b => a + b) h rd rs1 rs2 s

/-- SUB: rs1 − rs2 (R145). -/
def execSub (h : Th) (rd rs1 rs2 : RegNo) (s : State) : Out := scalar2 (fun a b => a - b) h rd rs1 rs2 s

/-- AND (R145). -/
def execAnd (h : Th) (rd rs1 rs2 : RegNo) (s : State) : Out := scalar2 (fun a b => a &&& b) h rd rs1 rs2 s

/-- OR (R145). -/
def execOr (h : Th) (rd rs1 rs2 : RegNo) (s : State) : Out := scalar2 (fun a b => a ||| b) h rd rs1 rs2 s

/-- XOR (R145). -/
def execXor (h : Th) (rd rs1 rs2 : RegNo) (s : State) : Out := scalar2 (fun a b => a ^^^ b) h rd rs1 rs2 s

/-- SLL by rs2[5:0] (R145). -/
def execSll (h : Th) (rd rs1 rs2 : RegNo) (s : State) : Out := scalar2 (fun a b => a <<< amt6 b) h rd rs1 rs2 s

/-- SRL by rs2[5:0], filling with zeros (R145). -/
def execSrl (h : Th) (rd rs1 rs2 : RegNo) (s : State) : Out := scalar2 (fun a b => a >>> amt6 b) h rd rs1 rs2 s

/-- SRA by rs2[5:0], filling with the sign bit (R145). -/
def execSra (h : Th) (rd rs1 rs2 : RegNo) (s : State) : Out := scalar2 (fun a b => a.sshiftRight (amt6 b)) h rd rs1 rs2 s

/-- SLT, signed (R145). -/
def execSlt (h : Th) (rd rs1 rs2 : RegNo) (s : State) : Out := scalar2 (fun a b => w1 (a.slt b)) h rd rs1 rs2 s

/-- SLTU, unsigned (R145). -/
def execSltu (h : Th) (rd rs1 rs2 : RegNo) (s : State) : Out := scalar2 (fun a b => w1 (a.ult b)) h rd rs1 rs2 s

/-- MIN, signed (R145). -/
def execMin (h : Th) (rd rs1 rs2 : RegNo) (s : State) : Out := scalar2 (sminW) h rd rs1 rs2 s

/-- MAX, signed (R145). -/
def execMax (h : Th) (rd rs1 rs2 : RegNo) (s : State) : Out := scalar2 (smaxW) h rd rs1 rs2 s

/-- MINU (R145). -/
def execMinu (h : Th) (rd rs1 rs2 : RegNo) (s : State) : Out := scalar2 (uminW) h rd rs1 rs2 s

/-- MAXU (R145). -/
def execMaxu (h : Th) (rd rs1 rs2 : RegNo) (s : State) : Out := scalar2 (umaxW) h rd rs1 rs2 s

/-- MUL: low 64 bits (R145). -/
def execMul (h : Th) (rd rs1 rs2 : RegNo) (s : State) : Out := scalar2 (fun a b => a * b) h rd rs1 rs2 s

/-- MULH: high 64 bits, signed (R145). -/
def execMulh (h : Th) (rd rs1 rs2 : RegNo) (s : State) : Out := scalar2 (mulHS) h rd rs1 rs2 s

/-- MULHU: high 64 bits, unsigned (R145). -/
def execMulhu (h : Th) (rd rs1 rs2 : RegNo) (s : State) : Out := scalar2 (mulHU) h rd rs1 rs2 s

/-- DIV (R145, R146). -/
def execDiv (h : Th) (rd rs1 rs2 : RegNo) (s : State) : Out := scalar2 (divS) h rd rs1 rs2 s

/-- DIVU (R145, R146). -/
def execDivu (h : Th) (rd rs1 rs2 : RegNo) (s : State) : Out := scalar2 (divU) h rd rs1 rs2 s

/-- REM (R145, R146). -/
def execRem (h : Th) (rd rs1 rs2 : RegNo) (s : State) : Out := scalar2 (remS) h rd rs1 rs2 s

/-- REMU (R145, R146). -/
def execRemu (h : Th) (rd rs1 rs2 : RegNo) (s : State) : Out := scalar2 (remU) h rd rs1 rs2 s

/-- CLZ (R145). -/
def execClz (h : Th) (rd rs1 : RegNo) (s : State) : Out := scalar1 clz64 h rd rs1 s

/-- CTZ (R145). -/
def execCtz (h : Th) (rd rs1 : RegNo) (s : State) : Out := scalar1 ctz64 h rd rs1 s

/-- POPC (R145). -/
def execPopc (h : Th) (rd rs1 : RegNo) (s : State) : Out := scalar1 popc64 h rd rs1 s

/-- ADDI: rs1 + IMM16 (R147). -/
def execAddi (h : Th) (rd rs1 : RegNo) (imm : Imm16) (s : State) : Out := scalar1 (fun a => a + sx16 imm) h rd rs1 s

/-- ANDI (R147). -/
def execAndi (h : Th) (rd rs1 : RegNo) (imm : Imm16) (s : State) : Out := scalar1 (fun a => a &&& sx16 imm) h rd rs1 s

/-- ORI (R147). -/
def execOri (h : Th) (rd rs1 : RegNo) (imm : Imm16) (s : State) : Out := scalar1 (fun a => a ||| sx16 imm) h rd rs1 s

/-- XORI (R147). -/
def execXori (h : Th) (rd rs1 : RegNo) (imm : Imm16) (s : State) : Out := scalar1 (fun a => a ^^^ sx16 imm) h rd rs1 s

/-- SLTI, signed (R147). -/
def execSlti (h : Th) (rd rs1 : RegNo) (imm : Imm16) (s : State) : Out := scalar1 (fun a => w1 (a.slt (sx16 imm))) h rd rs1 s

/-- SLTIU, unsigned after sign extension (R147). -/
def execSltiu (h : Th) (rd rs1 : RegNo) (imm : Imm16) (s : State) : Out := scalar1 (fun a => w1 (a.ult (sx16 imm))) h rd rs1 s

/-- SHORI: (rs1 << 16) | IMM16, zero-extended (R147). -/
def execShori (h : Th) (rd rs1 : RegNo) (imm : Imm16) (s : State) : Out := scalar1 (fun a => (a <<< 16) ||| zx16 imm) h rd rs1 s

/-- SLLI (R147). -/
def execSlli (h : Th) (rd rs1 : RegNo) (amt : Imm6) (s : State) : Out := scalar1 (fun a => a <<< amt.toNat) h rd rs1 s

/-- SRLI (R147). -/
def execSrli (h : Th) (rd rs1 : RegNo) (amt : Imm6) (s : State) : Out := scalar1 (fun a => a >>> amt.toNat) h rd rs1 s

/-- SRAI (R147). -/
def execSrai (h : Th) (rd rs1 : RegNo) (amt : Imm6) (s : State) : Out := scalar1 (fun a => a.sshiftRight amt.toNat) h rd rs1 s

/-- LUI: IMM21 sign-extended and shifted left by 16 (R147). -/
def execLui (h : Th) (rd : RegNo) (imm : Imm21) (s : State) : Out :=
  issue h [rd] [] s fun t => s.retire h (t.setX rd (upper21 imm) false)

/-- AUIPC: PC plus IMM21 sign-extended and shifted left by 16 (R147). -/
def execAuipc (h : Th) (rd : RegNo) (imm : Imm21) (s : State) : Out :=
  issue h [rd] [] s fun t => s.retire h (t.setX rd (t.pc + upper21 imm) false)

end Sys2Proof.Machine
end

