-- ==== Sys2Proof/Machine/Writes.lean ====
section
/-!
DEFINITION. Register accesses from outside the threads: a write on the register bus, host writes and reads through the BARs, and DB_ACCESS of the TAP (R10, R552 to R559, R568, R664).
-/
namespace Sys2Proof.Machine

/-! ### The register bus -/

/-- A register write of a requester outside the tiles (R70, R476, R478). -/
def State.extWrite (s : State) (who : Who) (a n v : Nat) : State × BusRes :=
  match s.domCheck [regDom a] with
  | .go => (s.domTouch [regDom a]).busWrite ⟨who, none⟩ a n v
  | .wait _ => (s.domTouch [regDom a], .ok 0)
  | .refuse => (s.domTouch [regDom a], .err)

/-- A register read of a requester outside the tiles: none while the domain is woken. -/
def State.extRead (s : State) (who : Who) (a n : Nat) : State × Option BusRes :=
  match s.domCheck [regDom a] with
  | .go => (match (s.domTouch [regDom a]).busRead who a n with
    | (s, r) => (s, some r))
  | .wait _ => (s.domTouch [regDom a], none)
  | .refuse => (s.domTouch [regDom a], some .err)

/-! ### BAR0 (R553) -/

/-- What a BAR0 offset reaches: a register as a requester, a word of the MSI-X table, a byte of the pending bit array, or nothing. -/
inductive Bar0 where
  | reg (who : Who) (a : Nat)
  | table (o : Nat)
  | pba (o : Nat)
  | none
  deriving DecidableEq, Repr

/-- The layout of BAR0 (R553). In confidential mode HG_DOORBELL alone of the Headgate page is open (R568), and during a warm reset none of it. -/
def State.bar0 (s : State) (o : Nat) : Bar0 :=
  if o < 0x200000 then
    let n := o / 0x40000
    let k := o % 0x40000
    if k < 0x1000 then
      if s.rs.warm.isSome ∨ s.confMode ∧ 4 ≤ k then .none else .reg (.tenant n) (A.HG_DOORBELL n + k)
    else if k < 0x2000 then .reg (.tenant n) (A.VC_CMD n + (k - 0x1000))
    else if k < 0x3000 then .reg .host (0x7000104000 + 0x1000 * n + (k - 0x2000))
    else .none
  else if o < 0x208000 then .table (o - 0x200000)
  else if 0x208000 ≤ o ∧ o < 0x208100 then .pba (o - 0x208000)
  else if 0x210000 ≤ o ∧ o < 0x214000 then .reg .host (A.HI_LINK_STATUS + (o - 0x210000))
  else .none

/-- Does the device ignore a doorbell from the host (R568)? -/
def State.bellShut (s : State) (o : Nat) : Bool :=
  s.confMode && decide (o < 0x200000) && o % 0x40000 == 0 && s.flag (A.HI_T_IN_CFG (o / 0x40000)) F.HI_T_IN_CFG_EN

/-- Is an access of `n` bytes at an MSI-X offset one of whole 32-bit words within the table? -/
def msixOk (o n : Nat) : Bool := o % 4 == 0 && n % 4 == 0 && decide (o + n ≤ 0x8000)

/-- The bytes of the pending bit array. -/
def State.pbaBytes (s : State) (o n : Nat) : List Nat :=
  (List.range n).map fun i => maskOf ((List.range 8).filter fun b => s.host.pba.has (8 * (o + i) + b))

/-- A host write in BAR0 (R553, R555): it follows R5, and a poisoned one is discarded. -/
def State.bar0Write (s : State) (o : Nat) (bs : List Nat) (psn : Bool) : State :=
  let n := bs.length
  if psn then s.hostBad
  else match s.bar0 o with
  | .none => s.hostBad
  | .pba _ => s
  | .table k =>
    if !msixOk k n then s.hostBad
    else
      let t := (List.range (n / 4)).foldl (fun (s : State) i => s.setMsix (k / 4 + i) (field bs (4 * i) 4)) s
      (List.range ((k + n - 1) / 16 + 1 - k / 16)).foldl (fun (s : State) i => s.msixFlush (k / 16 + i)) t
  | .reg who a =>
    if s.bellShut o && n == 4 then s
    else match s.extWrite who a n (field bs 0 n) with
    | (s, .ok _) => s
    | (s, _) => s.hostBad

/-- A host read in BAR0 (R553, R555). -/
def State.bar0Read (s : State) (o n : Nat) : State :=
  match s.bar0 o with
  | .none => s.hostBad.hostOnes n
  | .pba k => s.hostCpl (clean (s.pbaBytes k n)) []
  | .table k =>
    if msixOk k n then s.hostCpl (clean ((List.range (n / 4)).flatMap fun i => natLe 4 (s.msixWord (k / 4 + i)))) []
    else s.hostBad.hostOnes n
  | .reg who a =>
    match s.extRead who a n with
    | (s, some (.ok v)) => s.hostCpl (clean (natLe n v.toNat)) []
    | (s, some _) => s.hostBad.hostOnes n
    | (s, none) => s

/-! ### Host requests (R552, R555, R559) -/

/-- The bytes of a BAR. -/
def barSize (bar : Nat) : Nat :=
  if bar = 0 then 0x400000 else if bar = 2 then 0x800000000 else if bar = 4 then 0x1000000000 else 0

/-- Can a request with this range exist: within its BAR, and not across 4 KiB, which PCI Express forbids? -/
def tlpOk (bar o n : Nat) : Bool :=
  decide (0 < n) && decide (o + n ≤ barSize bar) && decide (o % 4096 + n ≤ 4096)

/-- A host write that is performed now, or discarded (R555 to R559, R640). -/
def State.hostWriteNow (s : State) (bar offset : Nat) (bytes : List Nat) (psn : Bool) : State :=
  if bar = 0 then s.bar0Write offset bytes psn
  else if bar = 2 then
    if s.plat.cur.isNone then s.stageWrite offset bytes psn else s.ringWinWrite (offset / 0x100000000) (offset % 0x100000000) bytes psn
  else s.objWinWrite (offset / 0x200000000) (offset % 0x200000000) bytes psn

/-- A host read that is performed now (R555, R557, R558, R640). -/
def State.hostReadNow (s : State) (bar offset len : Nat) : State :=
  if bar = 0 then s.bar0Read offset len
  else if bar = 2 then
    if s.plat.cur.isNone then s.stageRead offset len else s.ringWinRead (offset / 0x100000000) (offset % 0x100000000) len
  else s.objWinRead (offset / 0x200000000) (offset % 0x200000000) len

/-! ### DB_ACCESS (R599, R600, R664) -/

/-- The width in bytes of the register at an address; 8 where none is. -/
def regBytes (a : Nat) : Nat := ((regAt a).map fun h => h.reg.w / 8).getD 8

/-- Hold data in the TAP's DB register. -/
def State.tapData (s : State) (v : Nat) : State := { s with io := { s.io with dr := v } }

/-- The register a DB_ACCESS names. -/
def dbAddr (reg : Nat) : Nat := A.DB_STATUS + 8 * (reg % 128)

/-- A DB_ACCESS that is performed now (R664). What a read that fails leaves in the data register is a free value. -/
def State.dbNow (s : State) (data : Nat) (reg : Nat) (write : Bool) : State :=
  let a := dbAddr reg
  if write then (s.extWrite .debug a (regBytes a) data).1.tapData data
  else match s.extRead .debug a (regBytes a) with
  | (t, some (.ok v)) => t.tapData v.toNat
  | (t, some _) => { t with free := t.free + 1 }.tapData (t.freeWord 64)
  | (t, none) => t

/-! ### Accesses from outside the tiles that stall (R70, R84, R478) -/

/-- What holds an access back: the domains it wakes, or a page that moves. -/
inductive ExtHold where
  | go
  | wake (ds : List Nat)
  | moving
  deriving DecidableEq, Repr

/-- The hold that some domains put on an access (R478): one that the domains refuse goes on, to its error response. -/
def State.holdFor (s : State) (ds : List Nat) : ExtHold := match s.domCheck ds with
  | .wait down => .wake down
  | _ => .go

/-- The domains a host access of BAR2 reaches. -/
def State.bar2Doms (s : State) (offset len : Nat) : List Nat :=
  if s.plat.cur.isNone then (if offset + len ≤ 0x800000 ∧ s.rs.up ∧ s.bootSel = 0 then [15, 31, 33] else [])
  else match s.winRing (offset / 0x100000000) (offset % 0x100000000) len with
  | some (r, _) => if s.confMode then [] else t1Doms (s.ringBase r)
  | none => []

/-- What holds back a host access. -/
def State.hostHold (s : State) (bar offset len : Nat) (write : Bool) : ExtHold :=
  if s.rs.warm.isSome then .go
  else if bar = 0 then
    match s.bar0 offset with
    | .reg _ a => s.holdFor [regDom a]
    | _ => .go
  else if bar = 2 then s.holdFor (s.bar2Doms offset len)
  else if s.confMode then .go
  else
    let n := offset / 0x200000000
    match s.resolve n (BitVec.ofNat 64 (s.objWin n (offset % 0x200000000))) len write with
    | .moving _ => .moving
    | .ok (.mem a) => s.holdFor (s.locDoms (.mem a))
    | _ => .go

/-- The domains of the host interface that a host request finds in Retention (R566). -/
def State.hostDown (s : State) : List Nat := [7, 8].filter fun d => !s.isOn d

/-- What holds back an access from outside the tiles. -/
def State.extHold (s : State) (c : ExtAcc) : ExtHold := match c with
  | .reg _ a _ _ => s.holdFor [regDom a]
  | .hostWrite bar o bs _ => if s.hostDown = [] then s.hostHold bar o bs.length true else .wake s.hostDown
  | .hostRead bar o n => if s.hostDown = [] then s.hostHold bar o n false else .wake s.hostDown
  | .debug _ reg _ => s.holdFor [regDom (dbAddr reg)]

/-- Perform an access from outside the tiles. -/
def State.extNow (s : State) (c : ExtAcc) : State := match c with
  | .reg who a n v => (s.extWrite who a n v).1
  | .hostWrite bar o bs psn => s.hostWriteNow bar o bs psn
  | .hostRead bar o n => s.hostReadNow bar o n
  | .debug d reg w => s.dbNow d reg w

/-- An access from outside the tiles (R70, R84, R478): it is performed, or it wakes the domains it needs and stands stalled behind them, behind the page's move, or behind an earlier access of its requester. -/
def State.external (s : State) (c : ExtAcc) : State :=
  if s.extq.any fun e => extFrom e == extFrom c then { s with extq := s.extq ++ [c] }
  else match s.extHold c with
  | .go => s.extNow c
  | .wake ds => { s.domTouch ds with extq := s.extq ++ [c] }
  | .moving => { s with extq := s.extq ++ [c] }

/-- Stalled accesses from outside the tiles resume in arrival order, each as far as its own hold allows (R478). -/
def State.resumeExt (s : State) : State := s.extq.foldl (fun s c => s.external c) { s with extq := [] }

/-- The error response of an access from outside the tiles that reached its stall limit (R479, R555). -/
def State.extError (s : State) (c : ExtAcc) : State :=
  let s := s.bump (A.LK_D_STALL_LIMIT (s.limitDom (match s.extHold c with
    | .wake ds => ds
    | _ => [])))
  match c with
  | .hostWrite bar o _ _ => if bar = 0 then s.hostBad else s.winMiss (if bar = 2 then o / 0x100000000 else o / 0x200000000)
  | .hostRead bar o n => (if bar = 0 then s.hostBad else s.winMiss (if bar = 2 then o / 0x100000000 else o / 0x200000000)).hostOnes n
  | _ => s

/-- REGISTER_WRITE (R10): a write to a register by a requester; one that R5, R66 or the register's chapter refuses has no other effect. -/
def execRegisterWrite (who : Who) (addr size : Nat) (value : Word) (s : State) : Out :=
  .next (s.external (.reg who addr size value.toNat))

/-- A host request arrives (R566, R478): from Retention D7 and D8 wake for it, and it stands behind them. -/
def State.hostArrive (s : State) (c : ExtAcc) : State :=
  if s.hostDown = [] then s.external c else { needOn s.hostDown s s with extq := s.extq ++ [c] }

/-- HOST_POSTED_WRITE (R555 to R559, R568, R640): a posted write arrives and is performed at its home, or discarded. -/
def execHostPostedWrite (bar offset : Nat) (bytes : List Nat) (psn : Bool) (s : State) : Out :=
  if !tlpOk bar offset bytes.length then .next s
  else match s.linkReach with
  | none => .next s
  | some s => .next ((s.fadd A.HI_RX_BYTES F.HI_RX_BYTES_COUNT bytes.length).hostArrive (.hostWrite bar offset bytes psn))

/-- HOST_READ (R555, R557, R558, R568, R640): a read completes with data, with all ones or with poison. -/
def execHostRead (bar offset len : Nat) (s : State) : Out :=
  if !tlpOk bar offset len then .next s
  else match s.linkReach with
  | none => .next s
  | some s => .next (s.hostArrive (.hostRead bar offset len))

/-- DB_ACCESS (R600, R664): the TAP writes a DB register, or reads one into its data register. Withheld by R600, the bypass register is scanned. -/
def execDbAccess (data : Word) (reg : Nat) (write : Bool) (s : State) : Out :=
  let t := s.tapSelect 0x10
  let shift := natBits 72 (data.toNat + (reg % 128) * 2 ^ 64 + b2n write * 2 ^ 71)
  if !s.tapOk 0x10 then .next (t.scanBypass shift)
  else .next ((t.tdoOut (tapScan (natBits 72 t.io.dr) shift).1).external (.debug data.toNat reg write))

/-- DOMAIN_READY (R471, R478, R564): the waking domain is On, and its stalled accesses may proceed; with the host interface back, pending vectors send their messages. -/
def execDomainReady (d : Nat) (s : State) : Out :=
  let s := (s.domainReady d).resumeExt
  .next (if d = 7 ∨ d = 8 then s.msixFlushAll else s)

/-- MIGRATION_COMMIT (R84, R85): the copy of a running move of a tenant's page ends. -/
def execMigrationCommit (n page : Nat) (fail : Bool) (data marks : List Nat) (s : State) : Out :=
  .next (s.migrationEnd n page fail data marks).resumeExt

/-- STALL_LIMIT_REACHED (R479): an access of a thread, or (tile 129) the stalled access of that place from outside the tiles, held for a wake receives an error response. -/
def execStallLimitReached (tile thr id : Nat) (s : State) : Out :=
  if tile = 129 then
    match s.extq[id]? with
    | some c =>
      (match s.extHold c with
      | .wake _ => .next ({ s.extError c with extq := s.extq.take id ++ s.extq.drop (id + 1) }).resumeExt
      | _ => .next s)
    | none => .next s
  else .next (s.stallLimit tile thr id)

end Sys2Proof.Machine
end

