-- ==== Sys2Proof/Machine/Dispatch.lean ====
section
/-!
DEFINITION. Which meaning each command of the table has: one arm per constructor.
-/
namespace Sys2Proof.Machine

/-- The effect of a command on everything but the queue. -/
def exec (i : Instr) (s : State) : Host.Outcome State Fault Refusal :=
  match i with
  | .registerWrite who addr size value => Sys2Proof.Machine.execRegisterWrite who addr size value s
  | .platLoad => Sys2Proof.Machine.execPlatLoad s
  | .platRouteDrainEnd => Sys2Proof.Machine.execPlatRouteDrainEnd s
  | .platApplyCommit => Sys2Proof.Machine.execPlatApplyCommit s
  | .vaultFillDone v => Sys2Proof.Machine.execVaultFillDone v s
  | .map who n page tier cls wr pin strict loc peer => Sys2Proof.Machine.execMap who n page tier cls wr pin strict loc peer s
  | .unmap who n page => Sys2Proof.Machine.execUnmap who n page s
  | .unmapAfterMove n page => Sys2Proof.Machine.execUnmapAfterMove n page s
  | .migrate who n page tier strict loc => Sys2Proof.Machine.execMigrate who n page tier strict loc s
  | .protect who n page wr pin => Sys2Proof.Machine.execProtect who n page wr pin s
  | .query who n page => Sys2Proof.Machine.execQuery who n page s
  | .migrationLaneStart => Sys2Proof.Machine.execMigrationLaneStart s
  | .migrationCommit n page fail data marks => Sys2Proof.Machine.execMigrationCommit n page fail data marks s
  | .migResultRead who n => Sys2Proof.Machine.execMigResultRead who n s
  | .xmTrainStart k => Sys2Proof.Machine.execXmTrainStart k s
  | .xmTrainDone k cap0 cap1 fail0 fail1 => Sys2Proof.Machine.execXmTrainDone k cap0 cap1 fail0 fail1 s
  | .memoryResponse tile thr id grp => Sys2Proof.Machine.execMemoryResponse tile thr id grp s
  | .storeErrorArrival tile thr id sub => Sys2Proof.Machine.execStoreErrorArrival tile thr id sub s
  | .stallLimitReached tile thr id => Sys2Proof.Machine.execStallLimitReached tile thr id s
  | .add h rd rs1 rs2 => Sys2Proof.Machine.execAdd h rd rs1 rs2 s
  | .sub h rd rs1 rs2 => Sys2Proof.Machine.execSub h rd rs1 rs2 s
  | .and_ h rd rs1 rs2 => Sys2Proof.Machine.execAnd h rd rs1 rs2 s
  | .or_ h rd rs1 rs2 => Sys2Proof.Machine.execOr h rd rs1 rs2 s
  | .xor_ h rd rs1 rs2 => Sys2Proof.Machine.execXor h rd rs1 rs2 s
  | .sll h rd rs1 rs2 => Sys2Proof.Machine.execSll h rd rs1 rs2 s
  | .srl h rd rs1 rs2 => Sys2Proof.Machine.execSrl h rd rs1 rs2 s
  | .sra h rd rs1 rs2 => Sys2Proof.Machine.execSra h rd rs1 rs2 s
  | .slt h rd rs1 rs2 => Sys2Proof.Machine.execSlt h rd rs1 rs2 s
  | .sltu h rd rs1 rs2 => Sys2Proof.Machine.execSltu h rd rs1 rs2 s
  | .min h rd rs1 rs2 => Sys2Proof.Machine.execMin h rd rs1 rs2 s
  | .max h rd rs1 rs2 => Sys2Proof.Machine.execMax h rd rs1 rs2 s
  | .minu h rd rs1 rs2 => Sys2Proof.Machine.execMinu h rd rs1 rs2 s
  | .maxu h rd rs1 rs2 => Sys2Proof.Machine.execMaxu h rd rs1 rs2 s
  | .mul h rd rs1 rs2 => Sys2Proof.Machine.execMul h rd rs1 rs2 s
  | .mulh h rd rs1 rs2 => Sys2Proof.Machine.execMulh h rd rs1 rs2 s
  | .mulhu h rd rs1 rs2 => Sys2Proof.Machine.execMulhu h rd rs1 rs2 s
  | .div h rd rs1 rs2 => Sys2Proof.Machine.execDiv h rd rs1 rs2 s
  | .divu h rd rs1 rs2 => Sys2Proof.Machine.execDivu h rd rs1 rs2 s
  | .rem h rd rs1 rs2 => Sys2Proof.Machine.execRem h rd rs1 rs2 s
  | .remu h rd rs1 rs2 => Sys2Proof.Machine.execRemu h rd rs1 rs2 s
  | .clz h rd rs1 => Sys2Proof.Machine.execClz h rd rs1 s
  | .ctz h rd rs1 => Sys2Proof.Machine.execCtz h rd rs1 s
  | .popc h rd rs1 => Sys2Proof.Machine.execPopc h rd rs1 s
  | .addi h rd rs1 imm => Sys2Proof.Machine.execAddi h rd rs1 imm s
  | .andi h rd rs1 imm => Sys2Proof.Machine.execAndi h rd rs1 imm s
  | .ori h rd rs1 imm => Sys2Proof.Machine.execOri h rd rs1 imm s
  | .xori h rd rs1 imm => Sys2Proof.Machine.execXori h rd rs1 imm s
  | .slti h rd rs1 imm => Sys2Proof.Machine.execSlti h rd rs1 imm s
  | .sltiu h rd rs1 imm => Sys2Proof.Machine.execSltiu h rd rs1 imm s
  | .slli h rd rs1 amt => Sys2Proof.Machine.execSlli h rd rs1 amt s
  | .srli h rd rs1 amt => Sys2Proof.Machine.execSrli h rd rs1 amt s
  | .srai h rd rs1 amt => Sys2Proof.Machine.execSrai h rd rs1 amt s
  | .lui h rd imm => Sys2Proof.Machine.execLui h rd imm s
  | .shori h rd rs1 imm => Sys2Proof.Machine.execShori h rd rs1 imm s
  | .auipc h rd imm => Sys2Proof.Machine.execAuipc h rd imm s
  | .lb h rd rs1 imm => Sys2Proof.Machine.execLb h rd rs1 imm s
  | .lbu h rd rs1 imm => Sys2Proof.Machine.execLbu h rd rs1 imm s
  | .lh h rd rs1 imm => Sys2Proof.Machine.execLh h rd rs1 imm s
  | .lhu h rd rs1 imm => Sys2Proof.Machine.execLhu h rd rs1 imm s
  | .lw h rd rs1 imm => Sys2Proof.Machine.execLw h rd rs1 imm s
  | .lwu h rd rs1 imm => Sys2Proof.Machine.execLwu h rd rs1 imm s
  | .ld h rd rs1 imm => Sys2Proof.Machine.execLd h rd rs1 imm s
  | .sb h rs2 rs1 imm => Sys2Proof.Machine.execSb h rs2 rs1 imm s
  | .sh h rs2 rs1 imm => Sys2Proof.Machine.execSh h rs2 rs1 imm s
  | .sw h rs2 rs1 imm => Sys2Proof.Machine.execSw h rs2 rs1 imm s
  | .sd h rs2 rs1 imm => Sys2Proof.Machine.execSd h rs2 rs1 imm s
  | .ldAcq h rd rs1 size sx => Sys2Proof.Machine.execLdAcq h rd rs1 size sx s
  | .stRel h rs1 rs2 size => Sys2Proof.Machine.execStRel h rs1 rs2 size s
  | .amoAdd h rd rs1 rs2 dword order => Sys2Proof.Machine.execAmoAdd h rd rs1 rs2 dword order s
  | .amoAnd h rd rs1 rs2 dword order => Sys2Proof.Machine.execAmoAnd h rd rs1 rs2 dword order s
  | .amoOr h rd rs1 rs2 dword order => Sys2Proof.Machine.execAmoOr h rd rs1 rs2 dword order s
  | .amoXor h rd rs1 rs2 dword order => Sys2Proof.Machine.execAmoXor h rd rs1 rs2 dword order s
  | .amoSmin h rd rs1 rs2 dword order => Sys2Proof.Machine.execAmoSmin h rd rs1 rs2 dword order s
  | .amoSmax h rd rs1 rs2 dword order => Sys2Proof.Machine.execAmoSmax h rd rs1 rs2 dword order s
  | .amoUmin h rd rs1 rs2 dword order => Sys2Proof.Machine.execAmoUmin h rd rs1 rs2 dword order s
  | .amoUmax h rd rs1 rs2 dword order => Sys2Proof.Machine.execAmoUmax h rd rs1 rs2 dword order s
  | .amoSwap h rd rs1 rs2 dword order => Sys2Proof.Machine.execAmoSwap h rd rs1 rs2 dword order s
  | .amoCas h rd rs1 rs2 dword order => Sys2Proof.Machine.execAmoCas h rd rs1 rs2 dword order s
  | .brEq h rs1 rs2 imm => Sys2Proof.Machine.execBrEq h rs1 rs2 imm s
  | .brNe h rs1 rs2 imm => Sys2Proof.Machine.execBrNe h rs1 rs2 imm s
  | .brLt h rs1 rs2 imm => Sys2Proof.Machine.execBrLt h rs1 rs2 imm s
  | .brGe h rs1 rs2 imm => Sys2Proof.Machine.execBrGe h rs1 rs2 imm s
  | .brLtu h rs1 rs2 imm => Sys2Proof.Machine.execBrLtu h rs1 rs2 imm s
  | .brGeu h rs1 rs2 imm => Sys2Proof.Machine.execBrGeu h rs1 rs2 imm s
  | .jal h rd imm => Sys2Proof.Machine.execJal h rd imm s
  | .jalr h rd rs1 imm => Sys2Proof.Machine.execJalr h rd rs1 imm s
  | .bpAny h ps imm => Sys2Proof.Machine.execBpAny h ps imm s
  | .bpAll h ps imm => Sys2Proof.Machine.execBpAll h ps imm s
  | .bpNone h ps imm => Sys2Proof.Machine.execBpNone h ps imm s
  | .bpNotall h ps imm => Sys2Proof.Machine.execBpNotall h ps imm s
  | .fenceFull h => Sys2Proof.Machine.execFenceFull h s
  | .fenceSt h => Sys2Proof.Machine.execFenceSt h s
  | .fenceLd h => Sys2Proof.Machine.execFenceLd h s
  | .trap h code => Sys2Proof.Machine.execTrap h code s
  | .eret h => Sys2Proof.Machine.execEret h s
  | .tend h => Sys2Proof.Machine.execTend h s
  | .srr h rd n => Sys2Proof.Machine.execSrr h rd n s
  | .srw h rs1 n => Sys2Proof.Machine.execSrw h rs1 n s
  | .tstart h rd rs1 rs2 => Sys2Proof.Machine.execTstart h rd rs1 rs2 s
  | .msend h p rs1 rs2 len => Sys2Proof.Machine.execMsend h p rs1 rs2 len s
  | .mwait h rs1 => Sys2Proof.Machine.execMwait h rs1 s
  | .engMx h rd rs1 => Sys2Proof.Machine.execEngMx h rd rs1 s
  | .engAt h rd rs1 => Sys2Proof.Machine.execEngAt h rd rs1 s
  | .engSc h rd rs1 => Sys2Proof.Machine.execEngSc h rd rs1 s
  | .engCv h rd rs1 => Sys2Proof.Machine.execEngCv h rd rs1 s
  | .engSt h rd rs1 => Sys2Proof.Machine.execEngSt h rd rs1 s
  | .engPp h rd rs1 => Sys2Proof.Machine.execEngPp h rd rs1 s
  | .engwait h rd rs1 => Sys2Proof.Machine.execEngwait h rd rs1 s
  | .engpoll h rd rs1 => Sys2Proof.Machine.execEngpoll h rd rs1 s
  | .cwb h rs1 rs2 => Sys2Proof.Machine.execCwb h rs1 rs2 s
  | .cinv h rs1 rs2 => Sys2Proof.Machine.execCinv h rs1 rs2 s
  | .cwbi h rs1 rs2 => Sys2Proof.Machine.execCwbi h rs1 rs2 s
  | .vadd h vd vs1 form c g => Sys2Proof.Machine.execVadd h vd vs1 form c g s
  | .vsub h vd vs1 form c g => Sys2Proof.Machine.execVsub h vd vs1 form c g s
  | .vmul h vd vs1 form c g => Sys2Proof.Machine.execVmul h vd vs1 form c g s
  | .vmulh h vd vs1 form c g => Sys2Proof.Machine.execVmulh h vd vs1 form c g s
  | .vmin h vd vs1 form c g => Sys2Proof.Machine.execVmin h vd vs1 form c g s
  | .vmax h vd vs1 form c g => Sys2Proof.Machine.execVmax h vd vs1 form c g s
  | .vminu h vd vs1 form c g => Sys2Proof.Machine.execVminu h vd vs1 form c g s
  | .vmaxu h vd vs1 form c g => Sys2Proof.Machine.execVmaxu h vd vs1 form c g s
  | .vand h vd vs1 form c g => Sys2Proof.Machine.execVand h vd vs1 form c g s
  | .vor h vd vs1 form c g => Sys2Proof.Machine.execVor h vd vs1 form c g s
  | .vxor h vd vs1 form c g => Sys2Proof.Machine.execVxor h vd vs1 form c g s
  | .vsll h vd vs1 form c g => Sys2Proof.Machine.execVsll h vd vs1 form c g s
  | .vsrl h vd vs1 form c g => Sys2Proof.Machine.execVsrl h vd vs1 form c g s
  | .vsra h vd vs1 form c g => Sys2Proof.Machine.execVsra h vd vs1 form c g s
  | .vadds h vd vs1 form c g => Sys2Proof.Machine.execVadds h vd vs1 form c g s
  | .vsubs h vd vs1 form c g => Sys2Proof.Machine.execVsubs h vd vs1 form c g s
  | .vabs h vd vs1 g => Sys2Proof.Machine.execVabs h vd vs1 g s
  | .vfadd h vd vs1 form c g => Sys2Proof.Machine.execVfadd h vd vs1 form c g s
  | .vfsub h vd vs1 form c g => Sys2Proof.Machine.execVfsub h vd vs1 form c g s
  | .vfmul h vd vs1 form c g => Sys2Proof.Machine.execVfmul h vd vs1 form c g s
  | .vfma h vd vs1 form c g => Sys2Proof.Machine.execVfma h vd vs1 form c g s
  | .vfmin h vd vs1 form c g => Sys2Proof.Machine.execVfmin h vd vs1 form c g s
  | .vfmax h vd vs1 form c g => Sys2Proof.Machine.execVfmax h vd vs1 form c g s
  | .vfabs h vd vs1 g => Sys2Proof.Machine.execVfabs h vd vs1 g s
  | .vfneg h vd vs1 g => Sys2Proof.Machine.execVfneg h vd vs1 g s
  | .vfscale h vd vs1 form c g => Sys2Proof.Machine.execVfscale h vd vs1 form c g s
  | .vfrcp h vd vs1 g => Sys2Proof.Machine.execVfrcp h vd vs1 g s
  | .vfrsq h vd vs1 g => Sys2Proof.Machine.execVfrsq h vd vs1 g s
  | .vcmpEq h pd vs1 form c g => Sys2Proof.Machine.execVcmpEq h pd vs1 form c g s
  | .vcmpNe h pd vs1 form c g => Sys2Proof.Machine.execVcmpNe h pd vs1 form c g s
  | .vcmpLt h pd vs1 form c g => Sys2Proof.Machine.execVcmpLt h pd vs1 form c g s
  | .vcmpLe h pd vs1 form c g => Sys2Proof.Machine.execVcmpLe h pd vs1 form c g s
  | .vcmpLtu h pd vs1 form c g => Sys2Proof.Machine.execVcmpLtu h pd vs1 form c g s
  | .vcmpLeu h pd vs1 form c g => Sys2Proof.Machine.execVcmpLeu h pd vs1 form c g s
  | .vcmpFeq h pd vs1 form c g => Sys2Proof.Machine.execVcmpFeq h pd vs1 form c g s
  | .vcmpFlt h pd vs1 form c g => Sys2Proof.Machine.execVcmpFlt h pd vs1 form c g s
  | .vcmpFle h pd vs1 form c g => Sys2Proof.Machine.execVcmpFle h pd vs1 form c g s
  | .vcmpFunord h pd vs1 form c g => Sys2Proof.Machine.execVcmpFunord h pd vs1 form c g s
  | .vsplat h vd rs1 g => Sys2Proof.Machine.execVsplat h vd rs1 g s
  | .vmvs h rd vs1 rs2 => Sys2Proof.Machine.execVmvs h rd vs1 rs2 s
  | .vins h vd rs1 rs2 => Sys2Proof.Machine.execVins h vd rs1 rs2 s
  | .vsel h vd vs1 vs2 g => Sys2Proof.Machine.execVsel h vd vs1 vs2 g s
  | .vperm h vd vs1 vs2 g => Sys2Proof.Machine.execVperm h vd vs1 vs2 g s
  | .viota h vd g => Sys2Proof.Machine.execViota h vd g s
  | .vrsum h rd vs1 g => Sys2Proof.Machine.execVrsum h rd vs1 g s
  | .vrmax h rd vs1 g => Sys2Proof.Machine.execVrmax h rd vs1 g s
  | .vrmin h rd vs1 g => Sys2Proof.Machine.execVrmin h rd vs1 g s
  | .vrfsum h rd vs1 g => Sys2Proof.Machine.execVrfsum h rd vs1 g s
  | .vrfmax h rd vs1 g => Sys2Proof.Machine.execVrfmax h rd vs1 g s
  | .vfexpmax h rd vs1 g => Sys2Proof.Machine.execVfexpmax h rd vs1 g s
  | .vcvtF32I32 h vd vs1 trunc part g => Sys2Proof.Machine.execVcvtF32I32 h vd vs1 trunc part g s
  | .vcvtI32F32 h vd vs1 trunc part g => Sys2Proof.Machine.execVcvtI32F32 h vd vs1 trunc part g s
  | .vcvtF32T16 h vd vs1 trunc part g => Sys2Proof.Machine.execVcvtF32T16 h vd vs1 trunc part g s
  | .vcvtT16F32 h vd vs1 trunc part g => Sys2Proof.Machine.execVcvtT16F32 h vd vs1 trunc part g s
  | .vcvtF32H16 h vd vs1 trunc part g => Sys2Proof.Machine.execVcvtF32H16 h vd vs1 trunc part g s
  | .vcvtH16F32 h vd vs1 trunc part g => Sys2Proof.Machine.execVcvtH16F32 h vd vs1 trunc part g s
  | .vcvtF32S8 h vd vs1 rs2 trunc part g => Sys2Proof.Machine.execVcvtF32S8 h vd vs1 rs2 trunc part g s
  | .vcvtS8F32 h vd vs1 rs2 trunc part g => Sys2Proof.Machine.execVcvtS8F32 h vd vs1 rs2 trunc part g s
  | .vcvtF32S4 h vd vs1 rs2 trunc part g => Sys2Proof.Machine.execVcvtF32S4 h vd vs1 rs2 trunc part g s
  | .vcvtS4F32 h vd vs1 rs2 trunc part g => Sys2Proof.Machine.execVcvtS4F32 h vd vs1 rs2 trunc part g s
  | .vld h vd rs1 imm g => Sys2Proof.Machine.execVld h vd rs1 imm g s
  | .vst h vd rs1 imm g => Sys2Proof.Machine.execVst h vd rs1 imm g s
  | .vlds h vd rs1 c g => Sys2Proof.Machine.execVlds h vd rs1 c g s
  | .vsts h vd rs1 c g => Sys2Proof.Machine.execVsts h vd rs1 c g s
  | .vldx h vd rs1 c g => Sys2Proof.Machine.execVldx h vd rs1 c g s
  | .vstx h vd rs1 c g => Sys2Proof.Machine.execVstx h vd rs1 c g s
  | .pand h pd pa pb => Sys2Proof.Machine.execPand h pd pa pb s
  | .por h pd pa pb => Sys2Proof.Machine.execPor h pd pa pb s
  | .pxor h pd pa pb => Sys2Proof.Machine.execPxor h pd pa pb s
  | .pandn h pd pa pb => Sys2Proof.Machine.execPandn h pd pa pb s
  | .pnot h pd pa => Sys2Proof.Machine.execPnot h pd pa s
  | .pset h pd rs1 => Sys2Proof.Machine.execPset h pd rs1 s
  | .pget h rd pa => Sys2Proof.Machine.execPget h rd pa s
  | .pcnt h rd pa => Sys2Proof.Machine.execPcnt h rd pa s
  | .pfirst h pd pa => Sys2Proof.Machine.execPfirst h pd pa s
  | .plt h pd rs1 => Sys2Proof.Machine.execPlt h pd rs1 s
  | .accrd h vd acc row => Sys2Proof.Machine.execAccrd h vd acc row s
  | .accwr h vs1 acc row => Sys2Proof.Machine.execAccwr h vs1 acc row s
  | .accz h acc => Sys2Proof.Machine.execAccz h acc s
  | .messageArrival idx => Sys2Proof.Machine.execMessageArrival idx s
  | .messageSlotFreeDelivery idx => Sys2Proof.Machine.execMessageSlotFreeDelivery idx s
  | .bounceArrival idx => Sys2Proof.Machine.execBounceArrival idx s
  | .mwaitDeadline tile thr => Sys2Proof.Machine.execMwaitDeadline tile thr s
  | .mxCommand tile stop => Sys2Proof.Machine.execMxCommand tile stop s
  | .mxResult tile cycles ns => Sys2Proof.Machine.execMxResult tile cycles ns s
  | .attend cluster stop => Sys2Proof.Machine.execAttend cluster stop s
  | .append cluster stop race lost => Sys2Proof.Machine.execAppend cluster stop race lost s
  | .merge cluster stop => Sys2Proof.Machine.execMerge cluster stop s
  | .atResult cluster cycles ns => Sys2Proof.Machine.execAtResult cluster cycles ns s
  | .scan cluster stop race => Sys2Proof.Machine.execScan cluster stop race s
  | .convolve cluster stop => Sys2Proof.Machine.execConvolve cluster stop s
  | .evict cluster stop => Sys2Proof.Machine.execEvict cluster stop s
  | .scSetAsideReexamine cluster idx => Sys2Proof.Machine.execScSetAsideReexamine cluster idx s
  | .scOrderLimitExpiry cluster idx => Sys2Proof.Machine.execScOrderLimitExpiry cluster idx s
  | .scStateSaveDone idx fail => Sys2Proof.Machine.execScStateSaveDone idx fail s
  | .scStateLoadDone cluster idx fail => Sys2Proof.Machine.execScStateLoadDone cluster idx fail s
  | .scResult cluster cycles ns => Sys2Proof.Machine.execScResult cluster cycles ns s
  | .convCommand cluster stop => Sys2Proof.Machine.execConvCommand cluster stop s
  | .haloRowArrival cluster above => Sys2Proof.Machine.execHaloRowArrival cluster above s
  | .cvSetAsideReexamine cluster idx => Sys2Proof.Machine.execCvSetAsideReexamine cluster idx s
  | .cvHaloLimitExpiry cluster idx => Sys2Proof.Machine.execCvHaloLimitExpiry cluster idx s
  | .cvResult cluster cycles ns => Sys2Proof.Machine.execCvResult cluster cycles ns s
  | .stemCommand limit stop => Sys2Proof.Machine.execStemCommand limit stop s
  | .stResult cycles ns => Sys2Proof.Machine.execStResult cycles ns s
  | .ppCommand limit stop => Sys2Proof.Machine.execPpCommand limit stop s
  | .ppResult cycles ns => Sys2Proof.Machine.execPpResult cycles ns s
  | .doorbell who n ring => Sys2Proof.Machine.execDoorbell who n ring s
  | .hgServeRing => Sys2Proof.Machine.execHgServeRing s
  | .packetAccept ring => Sys2Proof.Machine.execPacketAccept ring s
  | .jobDispatch part => Sys2Proof.Machine.execJobDispatch part s
  | .jobStart part => Sys2Proof.Machine.execJobStart part s
  | .jobEnd ctx => Sys2Proof.Machine.execJobEnd ctx s
  | .completionPublish ring => Sys2Proof.Machine.execCompletionPublish ring s
  | .tickRelease => Sys2Proof.Machine.execTickRelease s
  | .hgResultWrite tile ctx value => Sys2Proof.Machine.execHgResultWrite tile ctx value s
  | .hgCtxSaveWrite who n addr => Sys2Proof.Machine.execHgCtxSaveWrite who n addr s
  | .enable who n => Sys2Proof.Machine.execEnable who n s
  | .disable who n => Sys2Proof.Machine.execDisable who n s
  | .abortQueued who n => Sys2Proof.Machine.execAbortQueued who n s
  | .abortJobs who n => Sys2Proof.Machine.execAbortJobs who n s
  | .setResume who n => Sys2Proof.Machine.execSetResume who n s
  | .replyArrival ctx slot tag data code psn => Sys2Proof.Machine.execReplyArrival ctx slot tag data code psn s
  | .replySlotTimeout ctx slot => Sys2Proof.Machine.execReplySlotTimeout ctx slot s
  | .sliceEnd part => Sys2Proof.Machine.execSliceEnd part s
  | .jobQuiescent part stalled => Sys2Proof.Machine.execJobQuiescent part stalled s
  | .saveWritten part fail => Sys2Proof.Machine.execSaveWritten part fail s
  | .restoreDone part => Sys2Proof.Machine.execRestoreDone part s
  | .wearCommit who group => Sys2Proof.Machine.execWearCommit who group s
  | .wearDecline who group => Sys2Proof.Machine.execWearDecline who group s
  | .wearCountUpdate => Sys2Proof.Machine.execWearCountUpdate s
  | .audioSample ma mb bc ue => Sys2Proof.Machine.execAudioSample ma mb bc ue s
  | .audioFrameEnd e => Sys2Proof.Machine.execAudioFrameEnd e s
  | .auEventAck who => Sys2Proof.Machine.execAuEventAck who s
  | .auFetch who count ring chans wait => Sys2Proof.Machine.execAuFetch who count ring chans wait s
  | .auFetchCancel who => Sys2Proof.Machine.execAuFetchCancel who s
  | .auFetchDone fail => Sys2Proof.Machine.execAuFetchDone fail s
  | .stuckDetect c => Sys2Proof.Machine.execStuckDetect c s
  | .pdmClockSwitch => Sys2Proof.Machine.execPdmClockSwitch s
  | .wideChainSettled => Sys2Proof.Machine.execWideChainSettled s
  | .wideSample xs => Sys2Proof.Machine.execWideSample xs s
  | .wideEnable who width pages mask => Sys2Proof.Machine.execWideEnable who width pages mask s
  | .driftWindowEnd quiet diff => Sys2Proof.Machine.execDriftWindowEnd quiet diff s
  | .runnelWake => Sys2Proof.Machine.execRunnelWake s
  | .runnelFrameEval glance scores classes starts => Sys2Proof.Machine.execRunnelFrameEval glance scores classes starts s
  | .runnelHoldExpiry => Sys2Proof.Machine.execRunnelHoldExpiry s
  | .runnelRefractoryEnd => Sys2Proof.Machine.execRunnelRefractoryEnd s
  | .runnelHandoffPlace => Sys2Proof.Machine.execRunnelHandoffPlace s
  | .load who => Sys2Proof.Machine.execLoad who s
  | .runnelLoadSwap => Sys2Proof.Machine.execRunnelLoadSwap s
  | .stop who => Sys2Proof.Machine.execStop who s
  | .listen who => Sys2Proof.Machine.execListen who s
  | .trigger who => Sys2Proof.Machine.execTrigger who s
  | .rnPinClear who => Sys2Proof.Machine.execRnPinClear who s
  | .glanceFrameEnd lines ago back => Sys2Proof.Machine.execGlanceFrameEnd lines ago back s
  | .csiFrameStart rx vc num hdr => Sys2Proof.Machine.execCsiFrameStart rx vc num hdr s
  | .csiLongPacket rx vc dt hdr crc sot full data => Sys2Proof.Machine.execCsiLongPacket rx vc dt hdr crc sot full data s
  | .csiFrameEnd rx vc hdr => Sys2Proof.Machine.execCsiFrameEnd rx vc hdr s
  | .ispFrameDone n => Sys2Proof.Machine.execIspFrameDone n s
  | .isStreamEnable who n => Sys2Proof.Machine.execIsStreamEnable who n s
  | .isStreamDisable who n => Sys2Proof.Machine.execIsStreamDisable who n s
  | .push who n abs => Sys2Proof.Machine.execPush who n abs s
  | .clear who n => Sys2Proof.Machine.execClear who n s
  | .domainIdleExpiry d => Sys2Proof.Machine.execDomainIdleExpiry d s
  | .lkForce who d force => Sys2Proof.Machine.execLkForce who d force s
  | .domainEntryCommit d fail => Sys2Proof.Machine.execDomainEntryCommit d fail s
  | .wakeSourceAssert idx commit => Sys2Proof.Machine.execWakeSourceAssert idx commit s
  | .domainWakeStart => Sys2Proof.Machine.execDomainWakeStart s
  | .domainReady d => Sys2Proof.Machine.execDomainReady d s
  | .i2cAddressMatch addr => Sys2Proof.Machine.execI2cAddressMatch addr s
  | .governorSample rails => Sys2Proof.Machine.execGovernorSample rails s
  | .governorRaise => Sys2Proof.Machine.execGovernorRaise s
  | .levelRampDone c => Sys2Proof.Machine.execLevelRampDone c s
  | .thermalSample logic dram => Sys2Proof.Machine.execThermalSample logic dram s
  | .thermalCapRaise c => Sys2Proof.Machine.execThermalCapRaise c s
  | .lkTripClr who => Sys2Proof.Machine.execLkTripClr who s
  | .dramRefresh v => Sys2Proof.Machine.execDramRefresh v s
  | .patrolScrub kind unit corr bad step => Sys2Proof.Machine.execPatrolScrub kind unit corr bad step s
  | .pmbusVoutRetry ack => Sys2Proof.Machine.execPmbusVoutRetry ack s
  | .timeAdvance cycles => Sys2Proof.Machine.execTimeAdvance cycles s
  | .tuStepWrite who offset => Sys2Proof.Machine.execTuStepWrite who offset s
  | .arm who => Sys2Proof.Machine.execArm who s
  | .tcFire n => Sys2Proof.Machine.execTcFire n s
  | .tcEnable who n => Sys2Proof.Machine.execTcEnable who n s
  | .tpPulseEnd n => Sys2Proof.Machine.execTpPulseEnd n s
  | .tiEdge k falling lasted => Sys2Proof.Machine.execTiEdge k falling lasted s
  | .tiStampRead who k => Sys2Proof.Machine.execTiStampRead who k s
  | .blBlockSend port => Sys2Proof.Machine.execBlBlockSend port s
  | .blBlockReceive port fec corr bytes => Sys2Proof.Machine.execBlBlockReceive port fec corr bytes s
  | .read idx limit => Sys2Proof.Machine.execRead idx limit s
  | .write idx limit => Sys2Proof.Machine.execWrite idx limit s
  | .atomic idx limit => Sys2Proof.Machine.execAtomic idx limit s
  | .message idx => Sys2Proof.Machine.execMessage idx s
  | .carry idx => Sys2Proof.Machine.execCarry idx s
  | .doorbellFrame idx => Sys2Proof.Machine.execDoorbellFrame idx s
  | .readRsp idx => Sys2Proof.Machine.execReadRsp idx s
  | .writeAck idx => Sys2Proof.Machine.execWriteAck idx s
  | .atomicRsp idx => Sys2Proof.Machine.execAtomicRsp idx s
  | .msgRsp idx => Sys2Proof.Machine.execMsgRsp idx s
  | .undelivered idx => Sys2Proof.Machine.execUndelivered idx s
  | .link idx => Sys2Proof.Machine.execLink idx s
  | .hello idx => Sys2Proof.Machine.execHello idx s
  | .cert idx => Sys2Proof.Machine.execCert idx s
  | .share idx => Sys2Proof.Machine.execShare idx s
  | .sign idx => Sys2Proof.Machine.execSign idx s
  | .done_ idx => Sys2Proof.Machine.execDone idx s
  | .blRequestTimeout tag => Sys2Proof.Machine.execBlRequestTimeout tag s
  | .blFrameAgeDiscard rx port idx => Sys2Proof.Machine.execBlFrameAgeDiscard rx port idx s
  | .slotReservationEnd idx => Sys2Proof.Machine.execSlotReservationEnd idx s
  | .carryTrackExpiry port idx => Sys2Proof.Machine.execCarryTrackExpiry port idx s
  | .blLaneFault port lane => Sys2Proof.Machine.execBlLaneFault port lane s
  | .blReplayLimit port => Sys2Proof.Machine.execBlReplayLimit port s
  | .blLockLost port => Sys2Proof.Machine.execBlLockLost port s
  | .blRetrainEnd port => Sys2Proof.Machine.execBlRetrainEnd port s
  | .blBringupDone port => Sys2Proof.Machine.execBlBringupDone port s
  | .blRekeyThreshold port => Sys2Proof.Machine.execBlRekeyThreshold port s
  | .blPortReset who port => Sys2Proof.Machine.execBlPortReset who port s
  | .blDbSend who n tile thr dev ring => Sys2Proof.Machine.execBlDbSend who n tile thr dev ring s
  | .hostPostedWrite bar offset bytes psn => Sys2Proof.Machine.execHostPostedWrite bar offset bytes psn s
  | .hostRead bar offset len => Sys2Proof.Machine.execHostRead bar offset len s
  | .hostIfReset flr => Sys2Proof.Machine.execHostIfReset flr s
  | .msixHoldoffExpiry v => Sys2Proof.Machine.execMsixHoldoffExpiry v s
  | .msixUnmask v => Sys2Proof.Machine.execMsixUnmask v s
  | .ingressRecord n bytes => Sys2Proof.Machine.execIngressRecord n bytes s
  | .exportDone limit data marks => Sys2Proof.Machine.execExportDone limit data marks s
  | .egressRecordWrite n => Sys2Proof.Machine.execEgressRecordWrite n s
  | .measure n => Sys2Proof.Machine.execMeasure n s
  | .report n => Sys2Proof.Machine.execReport n s
  | .spdmRelay n => Sys2Proof.Machine.execSpdmRelay n s
  | .unbind => Sys2Proof.Machine.execUnbind s
  | .floorSet => Sys2Proof.Machine.execFloorSet s
  | .revokeSlot => Sys2Proof.Machine.execRevokeSlot s
  | .securityReset => Sys2Proof.Machine.execSecurityReset s
  | .notaryFwFault => Sys2Proof.Machine.execNotaryFwFault s
  | .notaryTurn => Sys2Proof.Machine.execNotaryTurn s
  | .getVersion sess req => Sys2Proof.Machine.execGetVersion sess req s
  | .getCapabilities sess req => Sys2Proof.Machine.execGetCapabilities sess req s
  | .negotiateAlgorithms sess req => Sys2Proof.Machine.execNegotiateAlgorithms sess req s
  | .getDigests sess req => Sys2Proof.Machine.execGetDigests sess req s
  | .getCertificate sess req => Sys2Proof.Machine.execGetCertificate sess req s
  | .challenge sess req => Sys2Proof.Machine.execChallenge sess req s
  | .getMeasurements sess req => Sys2Proof.Machine.execGetMeasurements sess req s
  | .keyExchange sess req => Sys2Proof.Machine.execKeyExchange sess req s
  | .finish sess req chain => Sys2Proof.Machine.execFinish sess req chain s
  | .keyUpdate sess req => Sys2Proof.Machine.execKeyUpdate sess req s
  | .endSession sess req => Sys2Proof.Machine.execEndSession sess req s
  | .respondIfReady sess req => Sys2Proof.Machine.execRespondIfReady sess req s
  | .bindTenant sess req => Sys2Proof.Machine.execBindTenant sess req s
  | .bindDrainDone => Sys2Proof.Machine.execBindDrainDone s
  | .status sess req => Sys2Proof.Machine.execStatus sess req s
  | .idcode shift => Sys2Proof.Machine.execIdcode shift s
  | .samplePreload pins shift => Sys2Proof.Machine.execSamplePreload pins shift s
  | .extest pins shift => Sys2Proof.Machine.execExtest pins shift s
  | .clamp shift => Sys2Proof.Machine.execClamp shift s
  | .highz shift => Sys2Proof.Machine.execHighz shift s
  | .dbAccess data reg write => Sys2Proof.Machine.execDbAccess data reg write s
  | .bypass shift => Sys2Proof.Machine.execBypass shift s
  | .tileFault tile cause synd => Sys2Proof.Machine.execTileFault tile cause synd s
  | .engineFault eng cluster synd => Sys2Proof.Machine.execEngineFault eng cluster synd s
  | .faultRepeatDone part again equal ref disagree synd => Sys2Proof.Machine.execFaultRepeatDone part again equal ref disagree synd s
  | .retire who tile => Sys2Proof.Machine.execRetire who tile s
  | .ack who group => Sys2Proof.Machine.execAck who group s
  | .layerLoss l => Sys2Proof.Machine.execLayerLoss l s
  | .vaultFault v layer => Sys2Proof.Machine.execVaultFault v layer s
  | .channelLoss c => Sys2Proof.Machine.execChannelLoss c s
  | .journalRewrite => Sys2Proof.Machine.execJournalRewrite s
  | .ceSummaryWindow kind unit corr => Sys2Proof.Machine.execCeSummaryWindow kind unit corr s
  | .fsrRingEnable who ring log2 => Sys2Proof.Machine.execFsrRingEnable who ring log2 s
  | .tlFeed64 who n value => Sys2Proof.Machine.execTlFeed64 who n value s
  | .tlFeed32 who n value => Sys2Proof.Machine.execTlFeed32 who n value s
  | .tlFeed8 who n value => Sys2Proof.Machine.execTlFeed8 who n value s
  | .run who n len => Sys2Proof.Machine.execRun who n len s
  | .tlRunDone n fail => Sys2Proof.Machine.execTlRunDone n fail s
  | .check who n => Sys2Proof.Machine.execCheck who n s
  | .reset who n => Sys2Proof.Machine.execReset who n s
  | .spiFrame cycles bytes => Sys2Proof.Machine.execSpiFrame cycles bytes s
  | .pop who => Sys2Proof.Machine.execPop who s
  | .ioSpiTxPush who => Sys2Proof.Machine.execIoSpiTxPush who s
  | .uartRxChar ch stop => Sys2Proof.Machine.execUartRxChar ch stop s
  | .uartTxChar => Sys2Proof.Machine.execUartTxChar s
  | .uartDataWrite who ch => Sys2Proof.Machine.execUartDataWrite who ch s
  | .uartDataRead who => Sys2Proof.Machine.execUartDataRead who s
  | .asSnapshot who n set => Sys2Proof.Machine.execAsSnapshot who n set s
  | .asSnapshotClear who n set => Sys2Proof.Machine.execAsSnapshotClear who n set s
  | .powerOnReset sel addr uid life keys floors svnN svnR fwKey cert grade => Sys2Proof.Machine.execPowerOnReset sel addr uid life keys floors svnN svnR fwKey cert grade s
  | .bootSpiFrame bytes => Sys2Proof.Machine.execBootSpiFrame bytes s
  | .bootImageStaged => Sys2Proof.Machine.execBootImageStaged s
  | .rstNAssert => Sys2Proof.Machine.execRstNAssert s
  | .rstNRise => Sys2Proof.Machine.execRstNRise s
  | .device who => Sys2Proof.Machine.execDevice who s
  | .partition who part => Sys2Proof.Machine.execPartition who part s
  | .tile who tile => Sys2Proof.Machine.execTile who tile s
  | .deviceFault dom => Sys2Proof.Machine.execDeviceFault dom s
  | .lossOfPower => Sys2Proof.Machine.execLossOfPower s
  | .configurationWrite bme d3hot => Sys2Proof.Machine.execConfigurationWrite bme d3hot s
  | .aspmL1Entry => Sys2Proof.Machine.execAspmL1Entry s
  | .pmeTurnOff => Sys2Proof.Machine.execPmeTurnOff s
  | .linkReachesL0 speed width => Sys2Proof.Machine.execLinkReachesL0 speed width s
  | .tenantWindowStart eng unit => Sys2Proof.Machine.execTenantWindowStart eng unit s
  | .mr4TemperaturePolling k code0 code1 => Sys2Proof.Machine.execMr4TemperaturePolling k code0 code1 s
  | .wakeSourceDeassert idx => Sys2Proof.Machine.execWakeSourceDeassert idx s
  | .rekeyKeyInstall port rx => Sys2Proof.Machine.execRekeyKeyInstall port rx s
  | .deskewSequence rx => Sys2Proof.Machine.execDeskewSequence rx s
  | .ulpsEntryExit rx enter => Sys2Proof.Machine.execUlpsEntryExit rx enter s
  | .entdaa addr => Sys2Proof.Machine.execEntdaa addr s
  | .setdasa static addr => Sys2Proof.Machine.execSetdasa static addr s
  | .setnewda cur addr => Sys2Proof.Machine.execSetnewda cur addr s
  | .rstdaa => Sys2Proof.Machine.execRstdaa s

end Sys2Proof.Machine
end

