-- ==== Sys2Proof/WellFormed.lean ====
section
/-!
DEFINITION. Which commands can be sent: tiles, threads, clusters, domains, ports and tenants the device has, bytes below 256 and bits below 2. A command that breaks this names a unit or carries a datum that cannot exist; the machine still answers it (Fault.noSuchUnit, or no effect).
-/
namespace Sys2Proof

/-- A thread the device has: 128 tiles of 16 threads (R15, R99). -/
def Th.ok (h : Th) : Bool := decide (h.tile < 128) && decide (h.thr < 16)

/-- A requester of one of the eight tenants (R30). -/
def Who.ok : Who → Bool
  | .tenant n => decide (n < 8)
  | .boot => true
  | .host => true
  | .debug => true

/-- Every member is a byte. -/
def byteList (xs : List Nat) : Bool := xs.all fun x => decide (x < 256)

/-- Every member is a bit. -/
def bitList (xs : List Nat) : Bool := xs.all fun x => decide (x < 2)

/-- Is a command well formed? -/
def wellFormed : Instr → Bool
  | .registerWrite who _ size _ => Who.ok who && (size == 1 || size == 2 || size == 4 || size == 8)
  | .platLoad => true
  | .platRouteDrainEnd => true
  | .platApplyCommit => true
  | .vaultFillDone v => decide (v < 128)
  | .map who n _ tier cls _ _ _ _ _ => Who.ok who && decide (n < 8) && decide (tier < 4) && decide (cls < 8)
  | .unmap who n _ => Who.ok who && decide (n < 8)
  | .unmapAfterMove n _ => decide (n < 8)
  | .migrate who n _ tier _ _ => Who.ok who && decide (n < 8) && decide (tier < 4)
  | .protect who n _ _ _ => Who.ok who && decide (n < 8)
  | .query who n _ => Who.ok who && decide (n < 8)
  | .migrationLaneStart => true
  | .migrationCommit n _ _ data marks => decide (n < 8) && byteList data && bitList marks
  | .migResultRead who n => Who.ok who && decide (n < 8)
  | .xmTrainStart i => decide (i < 2)
  | .xmTrainDone i _ _ _ _ => decide (i < 2)
  | .memoryResponse tile thr _ _ => decide (tile < 128) && decide (thr < 16)
  | .storeErrorArrival tile thr _ _ => decide (tile < 128) && decide (thr < 16)
  | .stallLimitReached tile thr _ => decide (tile < 128) && decide (thr < 16) || tile == 129 && thr == 0
  | .add h _ _ _ => Th.ok h
  | .sub h _ _ _ => Th.ok h
  | .and_ h _ _ _ => Th.ok h
  | .or_ h _ _ _ => Th.ok h
  | .xor_ h _ _ _ => Th.ok h
  | .sll h _ _ _ => Th.ok h
  | .srl h _ _ _ => Th.ok h
  | .sra h _ _ _ => Th.ok h
  | .slt h _ _ _ => Th.ok h
  | .sltu h _ _ _ => Th.ok h
  | .min h _ _ _ => Th.ok h
  | .max h _ _ _ => Th.ok h
  | .minu h _ _ _ => Th.ok h
  | .maxu h _ _ _ => Th.ok h
  | .mul h _ _ _ => Th.ok h
  | .mulh h _ _ _ => Th.ok h
  | .mulhu h _ _ _ => Th.ok h
  | .div h _ _ _ => Th.ok h
  | .divu h _ _ _ => Th.ok h
  | .rem h _ _ _ => Th.ok h
  | .remu h _ _ _ => Th.ok h
  | .clz h _ _ => Th.ok h
  | .ctz h _ _ => Th.ok h
  | .popc h _ _ => Th.ok h
  | .addi h _ _ _ => Th.ok h
  | .andi h _ _ _ => Th.ok h
  | .ori h _ _ _ => Th.ok h
  | .xori h _ _ _ => Th.ok h
  | .slti h _ _ _ => Th.ok h
  | .sltiu h _ _ _ => Th.ok h
  | .slli h _ _ _ => Th.ok h
  | .srli h _ _ _ => Th.ok h
  | .srai h _ _ _ => Th.ok h
  | .lui h _ _ => Th.ok h
  | .shori h _ _ _ => Th.ok h
  | .auipc h _ _ => Th.ok h
  | .lb h _ _ _ => Th.ok h
  | .lbu h _ _ _ => Th.ok h
  | .lh h _ _ _ => Th.ok h
  | .lhu h _ _ _ => Th.ok h
  | .lw h _ _ _ => Th.ok h
  | .lwu h _ _ _ => Th.ok h
  | .ld h _ _ _ => Th.ok h
  | .sb h _ _ _ => Th.ok h
  | .sh h _ _ _ => Th.ok h
  | .sw h _ _ _ => Th.ok h
  | .sd h _ _ _ => Th.ok h
  | .ldAcq h _ _ _ _ => Th.ok h
  | .stRel h _ _ _ => Th.ok h
  | .amoAdd h _ _ _ _ _ => Th.ok h
  | .amoAnd h _ _ _ _ _ => Th.ok h
  | .amoOr h _ _ _ _ _ => Th.ok h
  | .amoXor h _ _ _ _ _ => Th.ok h
  | .amoSmin h _ _ _ _ _ => Th.ok h
  | .amoSmax h _ _ _ _ _ => Th.ok h
  | .amoUmin h _ _ _ _ _ => Th.ok h
  | .amoUmax h _ _ _ _ _ => Th.ok h
  | .amoSwap h _ _ _ _ _ => Th.ok h
  | .amoCas h _ _ _ _ _ => Th.ok h
  | .brEq h _ _ _ => Th.ok h
  | .brNe h _ _ _ => Th.ok h
  | .brLt h _ _ _ => Th.ok h
  | .brGe h _ _ _ => Th.ok h
  | .brLtu h _ _ _ => Th.ok h
  | .brGeu h _ _ _ => Th.ok h
  | .jal h _ _ => Th.ok h
  | .jalr h _ _ _ => Th.ok h
  | .bpAny h _ _ => Th.ok h
  | .bpAll h _ _ => Th.ok h
  | .bpNone h _ _ => Th.ok h
  | .bpNotall h _ _ => Th.ok h
  | .fenceFull h => Th.ok h
  | .fenceSt h => Th.ok h
  | .fenceLd h => Th.ok h
  | .trap h _ => Th.ok h
  | .eret h => Th.ok h
  | .tend h => Th.ok h
  | .srr h _ _ => Th.ok h
  | .srw h _ _ => Th.ok h
  | .tstart h _ _ _ => Th.ok h
  | .msend h _ _ _ _ => Th.ok h
  | .mwait h _ => Th.ok h
  | .engMx h _ _ => Th.ok h
  | .engAt h _ _ => Th.ok h
  | .engSc h _ _ => Th.ok h
  | .engCv h _ _ => Th.ok h
  | .engSt h _ _ => Th.ok h
  | .engPp h _ _ => Th.ok h
  | .engwait h _ _ => Th.ok h
  | .engpoll h _ _ => Th.ok h
  | .cwb h _ _ => Th.ok h
  | .cinv h _ _ => Th.ok h
  | .cwbi h _ _ => Th.ok h
  | .vadd h _ _ _ _ _ => Th.ok h
  | .vsub h _ _ _ _ _ => Th.ok h
  | .vmul h _ _ _ _ _ => Th.ok h
  | .vmulh h _ _ _ _ _ => Th.ok h
  | .vmin h _ _ _ _ _ => Th.ok h
  | .vmax h _ _ _ _ _ => Th.ok h
  | .vminu h _ _ _ _ _ => Th.ok h
  | .vmaxu h _ _ _ _ _ => Th.ok h
  | .vand h _ _ _ _ _ => Th.ok h
  | .vor h _ _ _ _ _ => Th.ok h
  | .vxor h _ _ _ _ _ => Th.ok h
  | .vsll h _ _ _ _ _ => Th.ok h
  | .vsrl h _ _ _ _ _ => Th.ok h
  | .vsra h _ _ _ _ _ => Th.ok h
  | .vadds h _ _ _ _ _ => Th.ok h
  | .vsubs h _ _ _ _ _ => Th.ok h
  | .vabs h _ _ _ => Th.ok h
  | .vfadd h _ _ _ _ _ => Th.ok h
  | .vfsub h _ _ _ _ _ => Th.ok h
  | .vfmul h _ _ _ _ _ => Th.ok h
  | .vfma h _ _ _ _ _ => Th.ok h
  | .vfmin h _ _ _ _ _ => Th.ok h
  | .vfmax h _ _ _ _ _ => Th.ok h
  | .vfabs h _ _ _ => Th.ok h
  | .vfneg h _ _ _ => Th.ok h
  | .vfscale h _ _ _ _ _ => Th.ok h
  | .vfrcp h _ _ _ => Th.ok h
  | .vfrsq h _ _ _ => Th.ok h
  | .vcmpEq h _ _ _ _ _ => Th.ok h
  | .vcmpNe h _ _ _ _ _ => Th.ok h
  | .vcmpLt h _ _ _ _ _ => Th.ok h
  | .vcmpLe h _ _ _ _ _ => Th.ok h
  | .vcmpLtu h _ _ _ _ _ => Th.ok h
  | .vcmpLeu h _ _ _ _ _ => Th.ok h
  | .vcmpFeq h _ _ _ _ _ => Th.ok h
  | .vcmpFlt h _ _ _ _ _ => Th.ok h
  | .vcmpFle h _ _ _ _ _ => Th.ok h
  | .vcmpFunord h _ _ _ _ _ => Th.ok h
  | .vsplat h _ _ _ => Th.ok h
  | .vmvs h _ _ _ => Th.ok h
  | .vins h _ _ _ => Th.ok h
  | .vsel h _ _ _ _ => Th.ok h
  | .vperm h _ _ _ _ => Th.ok h
  | .viota h _ _ => Th.ok h
  | .vrsum h _ _ _ => Th.ok h
  | .vrmax h _ _ _ => Th.ok h
  | .vrmin h _ _ _ => Th.ok h
  | .vrfsum h _ _ _ => Th.ok h
  | .vrfmax h _ _ _ => Th.ok h
  | .vfexpmax h _ _ _ => Th.ok h
  | .vcvtF32I32 h _ _ _ _ _ => Th.ok h
  | .vcvtI32F32 h _ _ _ _ _ => Th.ok h
  | .vcvtF32T16 h _ _ _ _ _ => Th.ok h
  | .vcvtT16F32 h _ _ _ _ _ => Th.ok h
  | .vcvtF32H16 h _ _ _ _ _ => Th.ok h
  | .vcvtH16F32 h _ _ _ _ _ => Th.ok h
  | .vcvtF32S8 h _ _ _ _ _ _ => Th.ok h
  | .vcvtS8F32 h _ _ _ _ _ _ => Th.ok h
  | .vcvtF32S4 h _ _ _ _ _ _ => Th.ok h
  | .vcvtS4F32 h _ _ _ _ _ _ => Th.ok h
  | .vld h _ _ _ _ => Th.ok h
  | .vst h _ _ _ _ => Th.ok h
  | .vlds h _ _ _ _ => Th.ok h
  | .vsts h _ _ _ _ => Th.ok h
  | .vldx h _ _ _ _ => Th.ok h
  | .vstx h _ _ _ _ => Th.ok h
  | .pand h _ _ _ => Th.ok h
  | .por h _ _ _ => Th.ok h
  | .pxor h _ _ _ => Th.ok h
  | .pandn h _ _ _ => Th.ok h
  | .pnot h _ _ => Th.ok h
  | .pset h _ _ => Th.ok h
  | .pget h _ _ => Th.ok h
  | .pcnt h _ _ => Th.ok h
  | .pfirst h _ _ => Th.ok h
  | .plt h _ _ => Th.ok h
  | .accrd h _ _ _ => Th.ok h
  | .accwr h _ _ _ => Th.ok h
  | .accz h _ => Th.ok h
  | .messageArrival _ => true
  | .messageSlotFreeDelivery _ => true
  | .bounceArrival _ => true
  | .mwaitDeadline tile thr => decide (tile < 128) && decide (thr < 16)
  | .mxCommand tile _ => decide (tile < 128)
  | .mxResult tile _ _ => decide (tile < 128)
  | .attend cluster _ => decide (cluster < 16)
  | .append cluster _ _ _ => decide (cluster < 16)
  | .merge cluster _ => decide (cluster < 16)
  | .atResult cluster _ _ => decide (cluster < 16)
  | .scan cluster _ _ => decide (cluster < 16)
  | .convolve cluster _ => decide (cluster < 16)
  | .evict cluster _ => decide (cluster < 16)
  | .scSetAsideReexamine cluster _ => decide (cluster < 16)
  | .scOrderLimitExpiry cluster _ => decide (cluster < 16)
  | .scStateSaveDone _ _ => true
  | .scStateLoadDone cluster _ _ => decide (cluster < 16)
  | .scResult cluster _ _ => decide (cluster < 16)
  | .convCommand cluster _ => decide (cluster < 16)
  | .haloRowArrival cluster _ => decide (cluster < 16)
  | .cvSetAsideReexamine cluster _ => decide (cluster < 16)
  | .cvHaloLimitExpiry cluster _ => decide (cluster < 16)
  | .cvResult cluster _ _ => decide (cluster < 16)
  | .stemCommand _ _ => true
  | .stResult _ _ => true
  | .ppCommand _ _ => true
  | .ppResult _ _ => true
  | .doorbell who n _ => Who.ok who && decide (n < 8)
  | .hgServeRing => true
  | .packetAccept _ => true
  | .jobDispatch part => decide (part < 16)
  | .jobStart part => decide (part < 16)
  | .jobEnd ctx => decide (ctx < 1024)
  | .completionPublish _ => true
  | .tickRelease => true
  | .hgResultWrite tile ctx _ => decide (tile < 128) && decide (ctx < 1024)
  | .hgCtxSaveWrite who n _ => Who.ok who && decide (n < 8)
  | .enable who n => Who.ok who && decide (n < 8)
  | .disable who n => Who.ok who && decide (n < 8)
  | .abortQueued who n => Who.ok who && decide (n < 8)
  | .abortJobs who n => Who.ok who && decide (n < 8)
  | .setResume who n => Who.ok who && decide (n < 8)
  | .replyArrival ctx slot _ _ _ _ => decide (ctx < 1024) && decide (slot < 64)
  | .replySlotTimeout ctx slot => decide (ctx < 1024) && decide (slot < 64)
  | .sliceEnd part => decide (part < 16)
  | .jobQuiescent part _ => decide (part < 16)
  | .saveWritten part _ => decide (part < 16)
  | .restoreDone part => decide (part < 16)
  | .wearCommit who group => Who.ok who && decide (group < 256)
  | .wearDecline who group => Who.ok who && decide (group < 256)
  | .wearCountUpdate => true
  | .audioSample _ _ _ _ => true
  | .audioFrameEnd _ => true
  | .auEventAck who => Who.ok who
  | .auFetch who _ _ _ _ => Who.ok who
  | .auFetchCancel who => Who.ok who
  | .auFetchDone _ => true
  | .stuckDetect c => decide (c < 16)
  | .pdmClockSwitch => true
  | .wideChainSettled => true
  | .wideSample _ => true
  | .wideEnable who _ _ _ => Who.ok who
  | .driftWindowEnd _ _ => true
  | .runnelWake => true
  | .runnelFrameEval _ _ classes _ => byteList classes
  | .runnelHoldExpiry => true
  | .runnelRefractoryEnd => true
  | .runnelHandoffPlace => true
  | .load who => Who.ok who
  | .runnelLoadSwap => true
  | .stop who => Who.ok who
  | .listen who => Who.ok who
  | .trigger who => Who.ok who
  | .rnPinClear who => Who.ok who
  | .glanceFrameEnd _ _ _ => true
  | .csiFrameStart rx vc _ _ => decide (rx < 4) && decide (vc < 16)
  | .csiLongPacket rx vc _ _ _ _ _ data => decide (rx < 4) && decide (vc < 16) && byteList data
  | .csiFrameEnd rx vc _ => decide (rx < 4) && decide (vc < 16)
  | .ispFrameDone n => decide (n < 16)
  | .isStreamEnable who n => Who.ok who && decide (n < 16)
  | .isStreamDisable who n => Who.ok who && decide (n < 16)
  | .push who n _ => Who.ok who && decide (n < 16)
  | .clear who n => Who.ok who && decide (n < 16)
  | .domainIdleExpiry d => decide (d < 40)
  | .lkForce who d force => Who.ok who && decide (d < 40) && decide (force < 4)
  | .domainEntryCommit d _ => decide (d < 40)
  | .wakeSourceAssert _ _ => true
  | .domainWakeStart => true
  | .domainReady d => decide (d < 40)
  | .i2cAddressMatch _ => true
  | .governorSample _ => true
  | .governorRaise => true
  | .levelRampDone c => decide (c < 16)
  | .thermalSample _ _ => true
  | .thermalCapRaise c => decide (c < 16)
  | .lkTripClr who => Who.ok who
  | .dramRefresh v => decide (v < 128)
  | .patrolScrub _ _ _ _ _ => true
  | .pmbusVoutRetry _ => true
  | .timeAdvance _ => true
  | .tuStepWrite who _ => Who.ok who
  | .arm who => Who.ok who
  | .tcFire n => decide (n < 8)
  | .tcEnable who n => Who.ok who && decide (n < 8)
  | .tpPulseEnd n => decide (n < 8)
  | .tiEdge i _ _ => decide (i < 2)
  | .tiStampRead who i => Who.ok who && decide (i < 2)
  | .blBlockSend port => decide (port < 4)
  | .blBlockReceive port _ _ bytes => decide (port < 4) && byteList bytes
  | .read _ _ => true
  | .write _ _ => true
  | .atomic _ _ => true
  | .message _ => true
  | .carry _ => true
  | .doorbellFrame _ => true
  | .readRsp _ => true
  | .writeAck _ => true
  | .atomicRsp _ => true
  | .msgRsp _ => true
  | .undelivered _ => true
  | .link _ => true
  | .hello _ => true
  | .cert _ => true
  | .share _ => true
  | .sign _ => true
  | .done_ _ => true
  | .blRequestTimeout _ => true
  | .blFrameAgeDiscard _ port _ => decide (port < 4)
  | .slotReservationEnd _ => true
  | .carryTrackExpiry port _ => decide (port < 4)
  | .blLaneFault port lane => decide (port < 4) && decide (lane < 8)
  | .blReplayLimit port => decide (port < 4)
  | .blLockLost port => decide (port < 4)
  | .blRetrainEnd port => decide (port < 4)
  | .blBringupDone port => decide (port < 4)
  | .blRekeyThreshold port => decide (port < 4)
  | .blPortReset who port => Who.ok who && decide (port < 4)
  | .blDbSend who n tile thr _ _ => Who.ok who && decide (n < 8) && decide (tile < 129) && decide (thr < 16)
  | .hostPostedWrite bar _ bytes _ => (bar == 0 || bar == 2 || bar == 4) && byteList bytes
  | .hostRead bar _ _ => (bar == 0 || bar == 2 || bar == 4)
  | .hostIfReset _ => true
  | .msixHoldoffExpiry v => decide (v < 2048)
  | .msixUnmask v => decide (v < 2048)
  | .ingressRecord n bytes => decide (n < 8) && byteList bytes
  | .exportDone _ data marks => byteList data && bitList marks
  | .egressRecordWrite n => decide (n < 8)
  | .measure n => decide (n < 9)
  | .report n => decide (n < 9)
  | .spdmRelay n => decide (n < 9)
  | .unbind => true
  | .floorSet => true
  | .revokeSlot => true
  | .securityReset => true
  | .notaryFwFault => true
  | .notaryTurn => true
  | .getVersion _ req => byteList req
  | .getCapabilities _ req => byteList req
  | .negotiateAlgorithms _ req => byteList req
  | .getDigests _ req => byteList req
  | .getCertificate _ req => byteList req
  | .challenge _ req => byteList req
  | .getMeasurements _ req => byteList req
  | .keyExchange _ req => byteList req
  | .finish _ req chain => byteList req && byteList chain
  | .keyUpdate _ req => byteList req
  | .endSession _ req => byteList req
  | .respondIfReady _ req => byteList req
  | .bindTenant _ req => byteList req
  | .bindDrainDone => true
  | .status _ req => byteList req
  | .idcode shift => bitList shift
  | .samplePreload pins shift => bitList pins && bitList shift
  | .extest pins shift => bitList pins && bitList shift
  | .clamp shift => bitList shift
  | .highz shift => bitList shift
  | .dbAccess _ reg _ => decide (reg < 128)
  | .bypass shift => bitList shift
  | .tileFault tile _ _ => decide (tile < 128)
  | .engineFault eng cluster _ => decide (eng < 6) && decide (cluster < 16)
  | .faultRepeatDone part _ _ _ _ _ => decide (part < 16)
  | .retire who tile => Who.ok who && decide (tile < 128)
  | .ack who group => Who.ok who && decide (group < 256)
  | .layerLoss l => decide (l < 4)
  | .vaultFault v _ => decide (v < 128)
  | .channelLoss c => decide (c < 4)
  | .journalRewrite => true
  | .ceSummaryWindow _ _ _ => true
  | .fsrRingEnable who ring log2 => Who.ok who && decide (ring < 9) && decide (log2 < 32)
  | .tlFeed64 who n _ => Who.ok who && decide (n < 16)
  | .tlFeed32 who n _ => Who.ok who && decide (n < 16)
  | .tlFeed8 who n _ => Who.ok who && decide (n < 16)
  | .run who n _ => Who.ok who && decide (n < 16)
  | .tlRunDone n _ => decide (n < 16)
  | .check who n => Who.ok who && decide (n < 16)
  | .reset who n => Who.ok who && decide (n < 16)
  | .spiFrame _ bytes => byteList bytes
  | .pop who => Who.ok who
  | .ioSpiTxPush who => Who.ok who
  | .uartRxChar ch _ => decide (ch < 256)
  | .uartTxChar => true
  | .uartDataWrite who ch => Who.ok who && decide (ch < 256)
  | .uartDataRead who => Who.ok who
  | .asSnapshot who n set => Who.ok who && decide (n < 8) && decide (set < 256)
  | .asSnapshotClear who n set => Who.ok who && decide (n < 8) && decide (set < 256)
  | .powerOnReset _ _ uid _ _ _ _ _ fwKey cert _ => byteList uid && byteList fwKey && byteList cert
  | .bootSpiFrame bytes => byteList bytes
  | .bootImageStaged => true
  | .rstNAssert => true
  | .rstNRise => true
  | .device who => Who.ok who
  | .partition who part => Who.ok who && decide (part < 16)
  | .tile who tile => Who.ok who && decide (tile < 128)
  | .deviceFault dom => decide (dom < 40)
  | .lossOfPower => true
  | .configurationWrite _ _ => true
  | .aspmL1Entry => true
  | .pmeTurnOff => true
  | .linkReachesL0 _ _ => true
  | .tenantWindowStart eng unit => decide (eng < 6) && decide (unit < 16)
  | .mr4TemperaturePolling i _ _ => decide (i < 2)
  | .wakeSourceDeassert _ => true
  | .rekeyKeyInstall port _ => decide (port < 4)
  | .deskewSequence rx => decide (rx < 4)
  | .ulpsEntryExit rx _ => decide (rx < 4)
  | .entdaa addr => decide (addr < 128)
  | .setdasa static addr => decide (static < 128) && decide (addr < 128)
  | .setnewda cur addr => decide (cur < 128) && decide (addr < 128)
  | .rstdaa => true

end Sys2Proof
end

