-- ==== Sys2Proof/Safety.lean ====
section
/-!
DEFINITION. What counts as a sound state and a safe run, and the terms the statements use: memory in canonical form, commands that complete, an instruction that executes, and what it leaves alone.
-/
namespace Sys2Proof.Machine

/-- Memory is in canonical form: addresses strictly rising, no entry equal to what an unlisted byte reads as. -/
def Memory.wf (m : List Host.Cell) : Bool := Tab.wf m 0

/-- The command at the front of the queue completes: the step answers a next state. -/
def State.Completes (s : State) : Prop := ∃ t, step s = .next t

/-- A run of `n` steps that never stops. -/
def State.Safe : Nat → State → Prop
  | 0, _ => True
  | n + 1, s => ∃ t, step s = .next t ∧ State.Safe n t

/-- A thread's register files are in canonical form, scalar register 0 and predicate 0 never listed (R133). -/
def Thread.wf (t : Thread) : Bool :=
  Tab.wf t.x 0 && Tab.wf t.v 0 && Tab.wf t.p 0 && (Tab.get? t.x 0).isNone && (Tab.get? t.p 0).isNone && !t.xp.has 0

/-! ### Instructions of threads -/

/-- The record of the thread that a command names. -/
def State.th (s : State) (h : Th) : Thread := s.thread h.tile h.thr

/-- The instruction of a thread executes: the tile and the thread exist, the thread may issue with none of the registers `xs` and `vs` still to be loaded, and its fetch gives the word the command names (R15, R99, R100, R139, R184). -/
def State.Executes (s : State) (h : Th) (xs vs : List RegNo) : Prop :=
  h.tile < 128 ∧ h.thr < 16 ∧ s.canIssue h xs vs = true ∧ s.fetchOk (s.tenantAt h.tile) (s.th h).pc = true ∧ h.fetch = .ok

/-- Nothing but the record of the command's thread differs: every other thread, every byte of memory and every other part of the state is as before (a resumption waiting for this access has been used up). -/
def State.OnlyThread (s : State) (h : Th) (t : State) : Prop :=
  t = { s with threads := t.threads, resumeq := (s.resumed (h.tile * 16 + h.thr) 0).resumeq } ∧
  (∀ a b, a * 16 + b ≠ h.tile * 16 + h.thr → t.thread a b = s.thread a b) ∧
  ∀ a, t.byte a = s.byte a

/-- The instruction wrote scalar register `rd` with a value and a mark (a write to s0 is discarded, R133), went on at `pc` and was counted (R137); nothing else changed. -/
def State.WroteX (s : State) (h : Th) (rd : RegNo) (v : Word) (z : Bool) (pc : Word) (t : State) : Prop :=
  s.OnlyThread h t ∧
  (∀ r, (t.th h).getX r = if r = rd ∧ r ≠ 0 then v else (s.th h).getX r) ∧
  (∀ r, (t.th h).xpsn r = if r = rd ∧ r ≠ 0 then z else (s.th h).xpsn r) ∧
  t.th h = { s.th h with x := (t.th h).x, xp := (t.th h).xp, pc := pc, instret := (s.th h).instret + 1 }

/-- The instruction wrote the lanes of `vd` that `on` selects, each with a value and a mark, and went on with the next one; nothing else changed. -/
def State.WroteV (s : State) (h : Th) (vd : RegNo) (on : Nat → Bool) (v : Nat → Lane) (z : Nat → Bool) (t : State) : Prop :=
  s.OnlyThread h t ∧
  (∀ r i, i < 32 → (t.th h).getV r i = if r = vd ∧ on i = true then v i else (s.th h).getV r i) ∧
  (∀ r i, i < 32 → (t.th h).vpsn r i = if r = vd ∧ on i = true then z i else (s.th h).vpsn r i) ∧
  t.th h = { s.th h with v := (t.th h).v, vp := (t.th h).vp, pc := (s.th h).pc + 4, instret := (s.th h).instret + 1 }

/-- The instruction wrote predicate `pd` (a write to p0 is discarded, R133) and went on with the next one; nothing else changed. -/
def State.WroteP (s : State) (h : Th) (pd : PredNo) (v : Lane) (t : State) : Prop :=
  s.OnlyThread h t ∧
  (∀ p, (t.th h).getP p = if p = pd ∧ p ≠ 0 then v else (s.th h).getP p) ∧
  t.th h = { s.th h with p := (t.th h).p, pc := (s.th h).pc + 4, instret := (s.th h).instret + 1 }

/-- The instruction went on at `pc` and was counted; nothing else changed. -/
def State.WentTo (s : State) (h : Th) (pc : Word) (t : State) : Prop :=
  s.OnlyThread h t ∧ t.th h = { s.th h with pc := pc, instret := (s.th h).instret + 1 }

/-- The command took an exception of its thread (R128 to R131) and had no other effect. -/
def State.Took (s : State) (h : Th) (cause : Nat) (eaddr : Word) (t : State) : Prop :=
  t = (s.raise h.tile h.thr cause 0 eaddr).resumed (h.tile * 16 + h.thr) 0

/-- The command completes: it answers a next state of which `p` holds. -/
def State.Gives (s : State) (c : Instr) (p : State → Prop) : Prop := ∃ t, exec c s = .next t ∧ p t

/-- An access of the thread to `n` bytes reaches memory of this device at `a`: it is aligned, it translates to `a` for the tenant the tile works for, every domain it needs is On, and the thread has fewer than 32 accesses outstanding (R68, R77, R100, R116). -/
def State.Reaches (s : State) (h : Th) (wr : Bool) (va : Word) (n a : Nat) : Prop :=
  va.toNat % n = 0 ∧ s.resolve (s.viaTile h.tile).tenant va n wr = .ok (.mem a) ∧
  (∀ d ∈ s.locDoms (.mem a), s.isOn d = true) ∧ s.accesses h (s.th h) < 32

/-- Nothing of the state that another thread or memory shows has changed: every other thread and every byte of memory is as before. -/
def State.OthersKeep (s : State) (h : Th) (t : State) : Prop :=
  (∀ a b, a * 16 + b ≠ h.tile * 16 + h.thr → t.thread a b = s.thread a b) ∧ ∀ a, t.byte a = s.byte a

/-! ### Events of the block -/

/-- The domains are On and none of them is on its way to sleep (R470, R473). -/
def State.Up (s : State) (ds : List Nat) : Prop := ∀ d ∈ ds, s.isOn d = true ∧ (s.dom d).entering = none

/-- Only the registers of the list may read differently. -/
def State.RegsBut (s : State) (as : List Nat) (t : State) : Prop := ∀ a, a ∉ as → t.rd a = s.rd a

/-- Only the registers of the list may read differently, and nothing else of the state has changed. -/
def State.OnlyRegs (s : State) (as : List Nat) (t : State) : Prop := t = { s with regs := t.regs } ∧ s.RegsBut as t

/-- Only the `n` bytes at `a` may read differently. -/
def State.BytesBut (s : State) (a n : Nat) (t : State) : Prop := ∀ x, ¬(a ≤ x ∧ x < a + n) → t.byte x = s.byte x

/-- Every cached line stands at a line address (R91). -/
def State.LinesAligned (s : State) : Prop := ∀ e ∈ s.caches, ∀ l ∈ e.2, l.addr % 128 = 0

/-! ### Engines -/

/-- The engine instance is free and not fenced, its domain is On, and the queue entry is the command it takes next, whose thread has no earlier store outstanding (R124, R166, R237, R616). -/
def State.EngReady (s : State) (e u : Nat) (q : QCmd) : Prop :=
  s.engNext e u = some q ∧ s.running e u = none ∧ s.cmdReady q.cmd = true ∧ s.fl.fenced.has (engKey e u) = false ∧ s.isOn (engDom e u) = true

/-- The engine instance runs the command, whose outcome `p` tells; no thread and no job is touched before the result returns. -/
def State.Begun (s : State) (e u : Nat) (c : Cmd) (p : Run → Prop) (t : State) : Prop :=
  (∃ r, t.running e u = some r ∧ r.cmd = c ∧ r.unit = u ∧ p r) ∧ t.threads = s.threads ∧ t.jobs = s.jobs

/-- The engine instance runs the command without effect: it has a status, a DETAIL and a VALUE to return, and only the queues, the halo slots it reserved, the commands running and what a matrix unit waited for have changed. -/
def State.BegunPlain (s : State) (e u : Nat) (c : Cmd) (st det val : Nat) (t : State) : Prop :=
  s.Begun e u c (fun r => r.status = st ∧ r.detail = det ∧ r.value = val ∧ r.scale = [] ∧ r.assay = none ∧ r.commit = none) t ∧
  t = { s with eng := t.eng, ebuf := t.ebuf, runs := t.runs, halo := t.halo, tiles := t.tiles } ∧
  ∀ k, t.tile k = { s.tile k with mxHold := (t.tile k).mxHold }

/-! ### Plats -/

/-- The numbers of a plat's entries lie where R36 to R48 put them: partitions below 16 of tenants below 8, groups other than 255, rings below 65,536 of such partitions with contexts below 1,024, domains below 40, tick classes below 8. -/
def Plat.inRange (p : Plat) : Bool :=
  p.parts.all (fun e => decide (e.id < 16) && decide (e.tenant < 8)) && p.tenants.all (fun e => decide (e.id < 8)) &&
  p.groups.all (fun e => decide (e.id ≠ 255)) && p.rings.all (fun e => decide (e.part < 16) && decide (e.first + e.count ≤ 65536) && decide (e.ctx0 + e.ctxN ≤ 1024)) &&
  p.doms.all (fun e => decide (e.id < 40)) && p.ticks.all (fun e => decide (e.id < 8))

/-- The applied plat and the one being applied are in range. -/
def State.PlatOk (s : State) : Prop := (∀ p, s.plat.cur = some p → p.inRange = true) ∧ ∀ p, s.plat.shadow = some p → p.inRange = true

end Sys2Proof.Machine
end

