-- ==== Sys2Proof/Certificates/Slice0/Obligations.lean ====
section
/-!
DEFINITION. The statements for the provers, one per entry of OBLIGATIONS.json: what the commands of each family do, when they complete, and what every step keeps.
-/

open Sys2Proof Sys2Proof.Machine

/-- One step (log entry 1): the step of a state with a command at the front of its queue is that command's effect on the state with the queue's rest; on an empty queue the block idles. -/
def Obligations.StepRunsTheFrontCommand : Prop :=
  (∀ (s : State) (c : Instr) (rest : List Instr), s.pending = c :: rest → step s = exec c { s with pending := rest }) ∧
  (∀ s : State, s.pending = [] → step s = .next s)

/-- What reset leaves (R101, R109, R470, R498): no command waits, every thread is IDLE with four send credits, every domain but D0 is Off, no plat is applied, no ring is enabled. That every register of a thread and every byte of memory reads zero, and that time starts at zero, are the model's choices where the specification gives no value (log entries 5 and 6). The memory lists nothing and is in canonical form, and the plat in use, being none, is in range. -/
def Obligations.ResetState : Prop :=
  let s := State.reset
  s.pending = [] ∧ s.mem = [] ∧ Memory.wf s.mem = true ∧ s.plat.cur = none ∧ s.time = 0 ∧
  (∀ t k, (s.thread t k).st = .idle ∧ (s.thread t k).credits = 4 ∧ (∀ r, (s.thread t k).getX r = 0) ∧ (∀ r i, (s.thread t k).getV r i = 0) ∧
    ∀ p, (s.thread t k).getP p = if p = 0 then 0xFFFFFFFF else 0) ∧
  (∀ d, s.isOn d = true ↔ d = 0) ∧ (∀ d, d ≠ 0 → (s.dom d).st = .off) ∧
  (∀ t, (s.tile t).job = none) ∧ (∀ c, s.job c = none ∧ (s.ctx c).st = 0) ∧ (∀ r, (s.ringSt r).enabled = false) ∧ (∀ a, s.byte a = 0) ∧ s.PlatOk

/-- Every step keeps the memory in canonical form: addresses strictly rising and no entry equal to what an unlisted byte reads as. -/
def Obligations.StepKeepsMemoryForm : Prop :=
  ∀ s t : State, Memory.wf s.mem = true → step s = .next t → Memory.wf t.mem = true

/-- Every step keeps the applied plat and the one being applied in range: the numbers of partitions, tenants, rings, contexts, domains and tick classes lie where R36 to R48 put them, whatever image a plat is loaded from. -/
def Obligations.StepKeepsThePlatInRange : Prop :=
  ∀ s t : State, s.PlatOk → step s = .next t → t.PlatOk

/-- A command acts on everything but the queue: it leaves the waiting commands as they are, and never turns back the count of free values. -/
def Obligations.CommandsLeaveTheQueue : Prop :=
  ∀ (c : Instr) (s t : State), exec c s = .next t → t.pending = s.pending ∧ s.free ≤ t.free

/-- OPR (R145, R146): each of the 21 binary operations answers a next state in which rd holds the result of the table, poisoned when a source is (R135), the thread is at its next instruction, and nothing else has changed. OPR (R145): CLZ gives the number of zero bits above the highest set bit, CTZ the number below the lowest, 64 for zero, and POPC the number of set bits. The immediate forms (R147): each answers a next state with its result in rd, poisoned when rs1 is, and changes nothing else. -/
def Obligations.ScalarArithmeticResults : Prop :=
  (
    ∀ (s : State) (h : Th) (rd rs1 rs2 : RegNo), s.Executes h [rd, rs1, rs2] [] →
      let a := (s.th h).getX rs1
      let b := (s.th h).getX rs2
      let n := b.toNat % 64
      let res : Word → State → Prop := fun v => s.WroteX h rd v ((s.th h).xpsn rs1 || (s.th h).xpsn rs2) ((s.th h).pc + 4)
      s.Gives (.add h rd rs1 rs2) (res (a + b)) ∧
      s.Gives (.sub h rd rs1 rs2) (res (a - b)) ∧
      s.Gives (.and_ h rd rs1 rs2) (res (a &&& b)) ∧
      s.Gives (.or_ h rd rs1 rs2) (res (a ||| b)) ∧
      s.Gives (.xor_ h rd rs1 rs2) (res (a ^^^ b)) ∧
      s.Gives (.sll h rd rs1 rs2) (res (BitVec.ofNat 64 (a.toNat * 2 ^ n))) ∧
      s.Gives (.srl h rd rs1 rs2) (res (BitVec.ofNat 64 (a.toNat / 2 ^ n))) ∧
      s.Gives (.sra h rd rs1 rs2) (res (BitVec.ofInt 64 (a.toInt / 2 ^ n))) ∧
      s.Gives (.slt h rd rs1 rs2) (res (if a.toInt < b.toInt then 1 else 0)) ∧
      s.Gives (.sltu h rd rs1 rs2) (res (if a.toNat < b.toNat then 1 else 0)) ∧
      s.Gives (.min h rd rs1 rs2) (res (if a.toInt ≤ b.toInt then a else b)) ∧
      s.Gives (.max h rd rs1 rs2) (res (if a.toInt ≤ b.toInt then b else a)) ∧
      s.Gives (.minu h rd rs1 rs2) (res (if a.toNat ≤ b.toNat then a else b)) ∧
      s.Gives (.maxu h rd rs1 rs2) (res (if a.toNat ≤ b.toNat then b else a)) ∧
      s.Gives (.mul h rd rs1 rs2) (res (BitVec.ofNat 64 (a.toNat * b.toNat))) ∧
      s.Gives (.mulh h rd rs1 rs2) (res (BitVec.ofInt 64 (a.toInt * b.toInt / 2 ^ 64))) ∧
      s.Gives (.mulhu h rd rs1 rs2) (res (BitVec.ofNat 64 (a.toNat * b.toNat / 2 ^ 64))) ∧
      s.Gives (.div h rd rs1 rs2) (res (if b = 0 then BitVec.allOnes 64 else BitVec.ofInt 64 (a.toInt.tdiv b.toInt))) ∧
      s.Gives (.divu h rd rs1 rs2) (res (if b = 0 then BitVec.allOnes 64 else BitVec.ofNat 64 (a.toNat / b.toNat))) ∧
      s.Gives (.rem h rd rs1 rs2) (res (if b = 0 then a else BitVec.ofInt 64 (a.toInt.tmod b.toInt))) ∧
      s.Gives (.remu h rd rs1 rs2) (res (if b = 0 then a else BitVec.ofNat 64 (a.toNat % b.toNat)))) ∧
  (
    ∀ (s : State) (h : Th) (rd rs1 : RegNo), s.Executes h [rd, rs1] [] →
      let a := (s.th h).getX rs1
      let res : Word → State → Prop := fun v => s.WroteX h rd v ((s.th h).xpsn rs1) ((s.th h).pc + 4)
      (∃ k, s.Gives (.clz h rd rs1) (res (BitVec.ofNat 64 k)) ∧ k ≤ 64 ∧
        (∀ i, i < k → a.getLsbD (63 - i) = false) ∧ (k < 64 → a.getLsbD (63 - k) = true)) ∧
      (∃ k, s.Gives (.ctz h rd rs1) (res (BitVec.ofNat 64 k)) ∧ k ≤ 64 ∧
        (∀ i, i < k → a.getLsbD i = false) ∧ (k < 64 → a.getLsbD k = true)) ∧
      s.Gives (.popc h rd rs1) (res (BitVec.ofNat 64 ((List.range 64).filter fun i => a.getLsbD i).length))) ∧
  (
    (∀ (s : State) (h : Th) (rd rs1 : RegNo) (imm : Imm16) (amt : Imm6), s.Executes h [rd, rs1] [] →
      let a := (s.th h).getX rs1
      let i : Word := imm.signExtend 64
      let res : Word → State → Prop := fun v => s.WroteX h rd v ((s.th h).xpsn rs1) ((s.th h).pc + 4)
      s.Gives (.addi h rd rs1 imm) (res (a + i)) ∧
      s.Gives (.andi h rd rs1 imm) (res (a &&& i)) ∧
      s.Gives (.ori h rd rs1 imm) (res (a ||| i)) ∧
      s.Gives (.xori h rd rs1 imm) (res (a ^^^ i)) ∧
      s.Gives (.slti h rd rs1 imm) (res (if a.toInt < i.toInt then 1 else 0)) ∧
      s.Gives (.sltiu h rd rs1 imm) (res (if a.toNat < i.toNat then 1 else 0)) ∧
      s.Gives (.slli h rd rs1 amt) (res (BitVec.ofNat 64 (a.toNat * 2 ^ amt.toNat))) ∧
      s.Gives (.srli h rd rs1 amt) (res (BitVec.ofNat 64 (a.toNat / 2 ^ amt.toNat))) ∧
      s.Gives (.srai h rd rs1 amt) (res (BitVec.ofInt 64 (a.toInt / 2 ^ amt.toNat))) ∧
      s.Gives (.shori h rd rs1 imm) (res (BitVec.ofNat 64 (a.toNat * 2 ^ 16 + imm.toNat)))) ∧
    (∀ (s : State) (h : Th) (rd : RegNo) (imm : Imm21), s.Executes h [rd] [] →
      let u : Word := BitVec.ofInt 64 (imm.toInt * 2 ^ 16)
      s.Gives (.lui h rd imm) (s.WroteX h rd u false ((s.th h).pc + 4)) ∧
      s.Gives (.auipc h rd imm) (s.WroteX h rd ((s.th h).pc + u) false ((s.th h).pc + 4))))

/-- Branches and jumps (R156): with unpoisoned operands a compare and branch goes to PC + IMM13 × 4 exactly when its condition holds, else to the next instruction; BP tests all 32 bits of a predicate; JAL and JALR write PC + 4 and jump; nothing else changes. -/
def Obligations.ControlTransfer : Prop :=
  (∀ (s : State) (h : Th) (rs1 rs2 : RegNo) (imm : Imm13), s.Executes h [rs1, rs2] [] →
    (s.th h).xpsn rs1 = false → (s.th h).xpsn rs2 = false →
    let a := (s.th h).getX rs1
    let b := (s.th h).getX rs2
    let pc := (s.th h).pc
    let goes : Bool → State → Prop := fun c => s.WentTo h (if c then pc + BitVec.ofInt 64 (imm.toInt * 4) else pc + 4)
    s.Gives (.brEq h rs1 rs2 imm) (goes (decide (a = b))) ∧
    s.Gives (.brNe h rs1 rs2 imm) (goes (decide (a ≠ b))) ∧
    s.Gives (.brLt h rs1 rs2 imm) (goes (decide (a.toInt < b.toInt))) ∧
    s.Gives (.brGe h rs1 rs2 imm) (goes (decide (b.toInt ≤ a.toInt))) ∧
    s.Gives (.brLtu h rs1 rs2 imm) (goes (decide (a.toNat < b.toNat))) ∧
    s.Gives (.brGeu h rs1 rs2 imm) (goes (decide (b.toNat ≤ a.toNat)))) ∧
  (∀ (s : State) (h : Th) (ps : PredNo) (imm : Imm21), s.Executes h [] [] →
    let p := (s.th h).getP ps
    let pc := (s.th h).pc
    let goes : Bool → State → Prop := fun c => s.WentTo h (if c then pc + BitVec.ofInt 64 (imm.toInt * 4) else pc + 4)
    s.Gives (.bpAny h ps imm) (goes (decide (∃ i : Fin 32, p.getLsbD i = true))) ∧
    s.Gives (.bpAll h ps imm) (goes (decide (∀ i : Fin 32, p.getLsbD i = true))) ∧
    s.Gives (.bpNone h ps imm) (goes (decide (∀ i : Fin 32, p.getLsbD i = false))) ∧
    s.Gives (.bpNotall h ps imm) (goes (decide (∃ i : Fin 32, p.getLsbD i = false)))) ∧
  (∀ (s : State) (h : Th) (rd rs1 : RegNo) (imm : Imm16), s.Executes h [rd, rs1] [] → (s.th h).xpsn rs1 = false →
    s.Gives (.jalr h rd rs1 imm) (s.WroteX h rd ((s.th h).pc + 4) false
      (BitVec.ofNat 64 (((s.th h).getX rs1 + imm.signExtend 64).toNat / 4 * 4)))) ∧
  (∀ (s : State) (h : Th) (rd : RegNo) (imm : Imm21), s.Executes h [rd] [] →
    s.Gives (.jal h rd imm) (s.WroteX h rd ((s.th h).pc + 4) false ((s.th h).pc + BitVec.ofInt 64 (imm.toInt * 4))))

/-- System instructions (R105, R130, R137, R158, R159): TRAP raises TRAP with its code; ERET returns to EPC and leaves handler mode, and outside handler mode goes on; TEND makes the thread IDLE outside handler mode and leaves its accesses outstanding; SRR reads the eight special registers; SRW writes HANDLER and EPC with bits [1:0] zero. -/
def Obligations.SystemInstructions : Prop :=
  (∀ (s : State) (h : Th) (code : Imm10), s.Executes h [] [] →
    s.Gives (.trap h code) (s.Took h 9 (BitVec.ofNat 64 code.toNat))) ∧
  (∀ (s : State) (h : Th), s.Executes h [] [] →
    s.Gives (.eret h) (fun t => s.OnlyThread h t ∧ t.th h =
      { s.th h with hmode := false, pc := if (s.th h).hmode then (s.th h).epc else (s.th h).pc + 4, instret := (s.th h).instret + 1 })) ∧
  (∀ (s : State) (h : Th), s.Executes h [] [] → (s.th h).serr = [] →
    s.Gives (.tend h) (fun t => s.OnlyThread h t ∧ (t.th h).st = .idle ∧ (t.th h).hmode = false ∧
      (t.th h).acc.map Acc.id = (s.th h).acc.map Acc.id ∧ (∀ a ∈ (t.th h).acc, a.tend.isSome = true) ∧
      t.th h = { s.th h with st := .idle, hmode := false, pc := (s.th h).pc + 4, instret := (s.th h).instret + 1, acc := (t.th h).acc })) ∧
  (∀ (s : State) (h : Th) (rd n : RegNo), s.Executes h [rd] [] → n.toNat < 8 →
    s.Gives (.srr h rd n) (s.WroteX h rd
      (match n.toNat with
      | 0 => (s.th h).handler
      | 1 => (s.th h).epc
      | 2 => BitVec.ofNat 64 ((s.th h).cause + 16 * (s.th h).sub + 256 * (if (s.th h).hmode then 1 else 0))
      | 3 => (s.th h).eaddr
      | 4 => BitVec.ofNat 64 (h.thr + 16 * h.tile + 2048 * s.devId)
      | 5 => BitVec.ofNat 64 s.time
      | 6 => BitVec.ofNat 64 (s.cycles h.tile (s.th h))
      | _ => BitVec.ofNat 64 (s.th h).instret) false ((s.th h).pc + 4))) ∧
  (∀ (s : State) (h : Th) (rs1 n : RegNo), s.Executes h [rs1] [] → (s.th h).xpsn rs1 = false →
    (n = 0 → s.Gives (.srw h rs1 n) (fun t => s.OnlyThread h t ∧ t.th h =
      { s.th h with handler := (s.th h).getX rs1 &&& ~~~3#64, pc := (s.th h).pc + 4, instret := (s.th h).instret + 1 })) ∧
    (n = 1 → s.Gives (.srw h rs1 n) (fun t => s.OnlyThread h t ∧ t.th h =
      { s.th h with epc := (s.th h).getX rs1 &&& ~~~3#64, pc := (s.th h).pc + 4, instret := (s.th h).instret + 1 })))

/-- Taking an exception with a handler (R130, R132): the thread saves its PC, cause, subcause and address, enters handler mode and continues at its handler; the tile's registers record it; every other thread, memory and everything else stays. An exception without a handler or in handler mode (R128, R131): the thread enters HALTED, its job is being ended with the status of the cause, and no other thread and no memory is touched. ERET in handler mode clears it and resumes at EPC (R130). -/
def Obligations.ExceptionEntry : Prop :=
  (
    ∀ (s : State) (tile thr cause sub : Nat) (ea : Word), tile < 128 → thr < 16 → cause < 16 → sub < 16 →
      (s.thread tile thr).handler ≠ 0 → (s.thread tile thr).hmode = false →
      let u := s.thread tile thr
      let t := s.raise tile thr cause sub ea
      t.thread tile thr = { u with epc := u.pc, cause := cause, sub := sub, eaddr := ea, hmode := true, pc := u.handler } ∧
      (∀ a b, a * 16 + b ≠ tile * 16 + thr → t.thread a b = s.thread a b) ∧
      t.rd (A.TI_EXC_PC tile thr) = u.pc ∧ t.rd (A.TI_EXC_ADDR tile thr) = ea ∧
      bits (t.rd (A.TI_EXC_CAUSE tile thr)).toNat 3 0 = cause ∧ bits (t.rd (A.TI_EXC_CAUSE tile thr)).toNat 7 4 = sub ∧
      t.fget (A.TI_EXC_COUNT tile) (31, 0) = min (s.fget (A.TI_EXC_COUNT tile) (31, 0) + 1) (2 ^ 32 - 1) ∧
      t.mem = s.mem ∧ t.psn = s.psn ∧ t = { s with threads := t.threads, regs := t.regs }) ∧
  (
    ∀ (s : State) (tile thr cause sub c : Nat) (ea : Word) (j : Job), tile < 128 → thr < 16 →
      ((s.thread tile thr).handler = 0 ∨ (s.thread tile thr).hmode = true) → s.jobAt tile = some (c, j) →
      let u := s.thread tile thr
      let t := s.raise tile thr cause sub ea
      let status : Nat := match if cause = 6 then sub else cause with
        | 4 => 5
        | 5 => 3
        | 7 => 1
        | _ => 4
      t.thread tile thr = { u with epc := u.pc, cause := cause, sub := sub, eaddr := ea, st := .halted } ∧
      (∀ a b, a * 16 + b ≠ tile * 16 + thr → t.thread a b = s.thread a b) ∧
      t.job c = some { j with ending := true, stats := j.stats ++ [(status, cause)] } ∧
      t.mem = s.mem ∧ t = { s with threads := t.threads, regs := t.regs, jobs := t.jobs }) ∧
  (
    ∀ (s : State) (h : Th), s.Executes h [] [] → (s.th h).hmode = true →
      s.Gives (.eret h) (fun t => s.OnlyThread h t ∧ t.th h = { s.th h with hmode := false, pc := (s.th h).epc, instret := (s.th h).instret + 1 }))

/-- Where scalar control instructions trap (R157, R159, R161, R162, R169): a poisoned operand that is an address, a condition, a target or a handle raises POISON_USE, a reserved special register or message form ILLEGAL, a target with a reserved field MSG_TARGET; the instruction has no other effect. Where loads and stores trap (R116, R148, R151, R154): a poisoned base raises POISON_USE with the address formed, a misaligned address ALIGN with the address, an address outside the map ACCESS, and an atomic to the control and register space ACCESS; the instruction has no other effect. -/
def Obligations.TrapsOfInstructions : Prop :=
  (
    (∀ (s : State) (h : Th) (rs1 rs2 : RegNo) (imm : Imm13), s.Executes h [rs1, rs2] [] →
      ((s.th h).xpsn rs1 || (s.th h).xpsn rs2) = true →
      s.Gives (.brEq h rs1 rs2 imm) (s.Took h 7 0) ∧ s.Gives (.brNe h rs1 rs2 imm) (s.Took h 7 0) ∧
      s.Gives (.brLt h rs1 rs2 imm) (s.Took h 7 0) ∧ s.Gives (.brGe h rs1 rs2 imm) (s.Took h 7 0) ∧
      s.Gives (.brLtu h rs1 rs2 imm) (s.Took h 7 0) ∧ s.Gives (.brGeu h rs1 rs2 imm) (s.Took h 7 0)) ∧
    (∀ (s : State) (h : Th) (rd rs1 : RegNo) (imm : Imm16), s.Executes h [rd, rs1] [] → (s.th h).xpsn rs1 = true →
      s.Gives (.jalr h rd rs1 imm) (s.Took h 7 ((s.th h).getX rs1 + imm.signExtend 64)) ∧
      s.Gives (.engwait h rd rs1) (s.Took h 7 0) ∧ s.Gives (.engpoll h rd rs1) (s.Took h 7 0)) ∧
    (∀ (s : State) (h : Th) (r n : RegNo), s.Executes h [r] [] →
      (8 ≤ n.toNat → s.Gives (.srr h r n) (s.Took h 1 0)) ∧
      (2 ≤ n.toNat → s.Gives (.srw h r n) (s.Took h 1 0)) ∧
      (n.toNat < 2 → (s.th h).xpsn r = true → s.Gives (.srw h r n) (s.Took h 7 0))) ∧
    (∀ (s : State) (h : Th) (rd rs1 rs2 : RegNo), s.Executes h [rd, rs1, rs2] [] → (s.th h).xpsn rs1 = true →
      s.Gives (.tstart h rd rs1 rs2) (s.Took h 7 ((s.th h).getX rs1))) ∧
    (∀ (s : State) (h : Th) (p rs1 rs2 : RegNo) (len : Imm3),
      s.Executes h ([rs1, rs2] ++ (List.range len.toNat).map fun i => p + BitVec.ofNat 5 i) [] →
      ((s.th h).serr = [] → (len = 0 ∧ p ≠ 0) ∨ (len ≠ 0 ∧ 31 < p.toNat + len.toNat - 1) → s.Gives (.msend h p rs1 rs2 len) (s.Took h 1 0)) ∧
      (p.toNat + len.toNat ≤ 32 → (len = 0 → p = 0) → (s.th h).acc = [] → (s.th h).serr = [] →
        ((s.th h).xpsn rs1 = true → s.Gives (.msend h p rs1 rs2 len) (s.Took h 7 0)) ∧
        ((s.th h).xpsn rs1 = false → 2 ^ 35 ≤ ((s.th h).getX rs1).toNat → s.Gives (.msend h p rs1 rs2 len) (s.Took h 8 0))))) ∧
  (
    (∀ (s : State) (h : Th) (r rs1 : RegNo) (imm : Imm16),
      let va := (s.th h).getX rs1 + imm.signExtend 64
      (s.Executes h [r, rs1] [] →
        ((s.th h).xpsn rs1 = true → s.Gives (.lb h r rs1 imm) (s.Took h 7 va) ∧ s.Gives (.ld h r rs1 imm) (s.Took h 7 va)) ∧
        ((s.th h).xpsn rs1 = false → va.toNat % 2 ≠ 0 → s.Gives (.lh h r rs1 imm) (s.Took h 2 va) ∧ s.Gives (.lhu h r rs1 imm) (s.Took h 2 va)) ∧
        ((s.th h).xpsn rs1 = false → va.toNat % 4 ≠ 0 → s.Gives (.lw h r rs1 imm) (s.Took h 2 va) ∧ s.Gives (.lwu h r rs1 imm) (s.Took h 2 va)) ∧
        ((s.th h).xpsn rs1 = false → va.toNat % 8 ≠ 0 → s.Gives (.ld h r rs1 imm) (s.Took h 2 va))) ∧
      (s.Executes h [rs1, r] [] → s.gated h.tile = false →
        ((s.th h).xpsn rs1 = true → s.Gives (.sb h r rs1 imm) (s.Took h 7 va) ∧ s.Gives (.sd h r rs1 imm) (s.Took h 7 va)) ∧
        ((s.th h).xpsn rs1 = false → va.toNat % 8 ≠ 0 → s.Gives (.sd h r rs1 imm) (s.Took h 2 va)) ∧
        ((s.th h).xpsn rs1 = false → s.dst va = .err → s.accesses h (s.th h) < 32 → s.Gives (.sb h r rs1 imm) (s.Took h 3 va)))) ∧
    (∀ (s : State) (h : Th) (rd rs1 rs2 : RegNo) (dword : Bool) (order : Imm2) (a : Nat), s.Executes h [rd, rs1, rs2] [] → s.gated h.tile = false →
      (s.th h).acc = [] → (s.th h).serr = [] →
      ((s.th h).xpsn rs1 = true → s.Gives (.amoAdd h rd rs1 rs2 dword order) (s.Took h 7 ((s.th h).getX rs1))) ∧
      ((s.th h).xpsn rs1 = false → ((s.th h).getX rs1).toNat % (if dword then 8 else 4) = 0 →
        s.resolve (s.viaTile h.tile).tenant ((s.th h).getX rs1) (if dword then 8 else 4) true = .ok (.reg a) →
        s.Gives (.amoSwap h rd rs1 rs2 dword order) (s.Took h 3 ((s.th h).getX rs1)))))

/-- A command for a thread (R15, R100, R139, R142 to R144, R350): one that names no unit of the device is a fault; one whose thread cannot issue changes nothing; a fetch that fails, finds poison or a reserved encoding raises its exception and the instruction has no effect. Shown for one instruction of each shape. A store or a range operation of a job whose packet is not yet accepted has no effect until the gate opens (R350). The words the commands stand for (R142 to R144): one of each format decodes to its instruction, the all-zero word, a reserved opcode, a reserved FN and an unused field that is not zero to none. -/
def Obligations.IssueRules : Prop :=
  (∀ (s : State) (h : Th) (rs1 rs2 : RegNo) (imm : Imm16), s.Executes h [rs1, rs2] [] → s.gated h.tile = true →
    s.Gives (.sd h rs2 rs1 imm) (fun t => t = s.resumed (h.tile * 16 + h.thr) 0) ∧ s.Gives (.cwb h rs1 rs2) (fun t => t = s.resumed (h.tile * 16 + h.thr) 0)) ∧
  (∀ h : Th,
    decodeWord h 0x000208C1 = some (.add h 3 1 2) ∧ decodeWord h 0xFFFA4A42 = some (.addi h 9 9 0xFFFA) ∧ decodeWord h 0xFFE08299 = some (.brLt h 1 2 0x1FFC) ∧
    decodeWord h 0x0000105A = some (.jal h 1 2) ∧ decodeWord h 0x0000085C = some (.bpAny h 1 1) ∧ decodeWord h 0x00083152 = some (.ld h 5 6 8) ∧
    decodeWord h 0x0A00001D = some (.tend h) ∧ decodeWord h 0x000220E6 = some (.vld h 3 4 0 2) ∧ decodeWord h 0x060921A5 = some (.vcvtF32S8 h 6 4 9 false 0 0) ∧
    decodeWord h 0 = none ∧ decodeWord h 0x0E000001 = none ∧ decodeWord h 0x002208C1 = none ∧ ∀ w : BitVec 32, 0x2B ≤ w.toNat % 64 → decodeWord h w = none) ∧
  ∀ (s : State) (h : Th) (rd : RegNo) (imm : Imm21) (row : RegNo) (acc : Imm2) (g : PredNo),
    (128 ≤ h.tile ∨ 16 ≤ h.thr →
      exec (.lui h rd imm) s = .fault .noSuchUnit ∧ exec (.viota h rd g) s = .fault .noSuchUnit ∧
      exec (.accrd h rd acc row) s = .fault .noSuchUnit ∧ exec (.tend h) s = .fault .noSuchUnit) ∧
    (h.tile < 128 → h.thr < 16 →
      (s.canIssue h [rd] [] = false → exec (.lui h rd imm) s = .next s) ∧
      (s.canIssue h [] [rd] = false → exec (.viota h rd g) s = .next s ∧ exec (.accrd h rd acc row) s = .next s) ∧
      (s.canIssue h [rd] [] = true →
        (s.fetchOk (s.tenantAt h.tile) (s.th h).pc = false → s.Gives (.lui h rd imm) (s.Took h 3 (s.th h).pc)) ∧
        (s.fetchOk (s.tenantAt h.tile) (s.th h).pc = true →
          (h.fetch = .error → s.Gives (.lui h rd imm) (s.Took h 3 (s.th h).pc)) ∧
          (h.fetch = .wakeLimit → s.Gives (.lui h rd imm) (s.Took h 4 (s.th h).pc)) ∧
          (h.fetch = .poisoned → s.Gives (.lui h rd imm) (s.Took h 7 (s.th h).pc)) ∧
          (h.fetch = .reserved → s.Gives (.lui h rd imm) (s.Took h 1 0)))))

/-- TSTART (R104, R161): it starts an IDLE thread of the tile at the given address with its argument in s1, every other register zero and unpoisoned, the exception registers clear, and what carries over unchanged; rd takes 0. A thread that is not IDLE, the issuing thread itself, or a poisoned rd starts nothing, and rd takes 1. -/
def Obligations.ThreadStart : Prop :=
  ∀ (s : State) (h : Th) (rd rs1 rs2 : RegNo), s.Executes h [rd, rs1, rs2] [] → (s.th h).xpsn rs1 = false →
    let n := ((s.th h).getX rd).toNat % 16
    let u := s.thread h.tile n
    (((s.th h).xpsn rd = true ∨ n = h.thr ∨ u.st ≠ .idle) →
      s.Gives (.tstart h rd rs1 rs2) (s.WroteX h rd 1 false ((s.th h).pc + 4))) ∧
    ((s.th h).xpsn rd = false → n ≠ h.thr → u.st = .idle → s.gated h.tile = false →
      s.Gives (.tstart h rd rs1 rs2) (fun t =>
        let v := t.thread h.tile n
        v.st = .ready ∧ v.pc = (s.th h).getX rs1 &&& ~~~3#64 ∧
        (∀ r, v.getX r = if r = 1 then (s.th h).getX rs2 else 0) ∧
        (∀ r, v.xpsn r = if r = 1 then (s.th h).xpsn rs2 else false) ∧
        (∀ r i, v.getV r i = 0 ∧ v.vpsn r i = false) ∧ (∀ p, v.getP p = if p = 0 then 0xFFFFFFFF else 0) ∧
        v.handler = 0 ∧ v.epc = 0 ∧ v.cause = 0 ∧ v.sub = 0 ∧ v.eaddr = 0 ∧ v.hmode = false ∧
        v.cyc0 = u.cyc0 ∧ v.instret = u.instret ∧ v.credits = u.credits ∧ v.mq = u.mq ∧ v.bq = u.bq ∧
        v.slots = u.slots ∧ v.seq = u.seq ∧ v.acc = u.acc ∧
        (∀ r, (t.th h).getX r = if r = rd ∧ r ≠ 0 then 0 else (s.th h).getX r) ∧ (t.th h).pc = (s.th h).pc + 4 ∧
        (∀ a b, a * 16 + b ≠ h.tile * 16 + h.thr → a * 16 + b ≠ h.tile * 16 + n → t.thread a b = s.thread a b) ∧
        t.mem = s.mem ∧ t.psn = s.psn ∧ t.regs = s.regs ∧ t.tiles = s.tiles))

/-- MSEND to this device (R107 to R109, R162): with a credit, no earlier access outstanding and a clean target it takes one credit and posts one message, last in order: the header names the sender, TAG and LENGTH, the payload is copied with its marks, words beyond LENGTH are zero. MWAIT (R108, R113, R163): a bounce is taken before an ordinary message, s24 takes the header and s25 to s31 the payload; with both queues empty a deadline that has passed (or is poisoned) gives zeros, otherwise the thread enters WAIT_MSG. -/
def Obligations.MessageInstructions : Prop :=
  (
    ∀ (s : State) (h : Th) (p rs1 rs2 : RegNo) (len : Imm3) (c : Nat) (j : Job),
      s.Executes h ([rs1, rs2] ++ (List.range len.toNat).map fun i => p + BitVec.ofNat 5 i) [] →
      p.toNat + len.toNat ≤ 32 → (len = 0 → p = 0) → (s.th h).serr = [] → (s.th h).acc = [] →
      (s.th h).xpsn rs1 = false → ((s.th h).getX rs1).toNat < 2 ^ 35 → (s.th h).credits ≠ 0 →
      s.gated h.tile = false → ((s.th h).getX rs1).toNat % 2 ^ 14 = s.devId → s.devId < 2 ^ 14 → s.jobAt h.tile = some (c, j) → c < 1024 →
      s.Gives (.msend h p rs1 rs2 len) (fun t =>
        t.th h = { s.th h with credits := (s.th h).credits - 1, pc := (s.th h).pc + 4, instret := (s.th h).instret + 1 } ∧
        (∃ m : Msg, t.net = s.net ++ [⟨h.tile, h.thr, true, (s.th h).getX rs1, j.tenant, m, false, false, none⟩] ∧
          bits m.hdr.toNat 13 0 = s.devId ∧ bits m.hdr.toNat 23 14 = c ∧ bits m.hdr.toNat 34 31 = h.thr ∧
          bits m.hdr.toNat 50 35 = ((s.th h).getX rs2).toNat % 2 ^ 16 ∧ bits m.hdr.toNat 53 51 = len.toNat ∧
          bits m.hdr.toNat 62 54 = 0 ∧ bits m.hdr.toNat 63 63 = 1 ∧ m.hpsn = (s.th h).xpsn rs2 ∧
          (∀ i, i < 7 → m.pay.getD i 0 = if i < len.toNat then (s.th h).getX (p + BitVec.ofNat 5 i) else 0) ∧
          (∀ i, i < 7 → m.ppsn.getD i false = (decide (i < len.toNat) && (s.th h).xpsn (p + BitVec.ofNat 5 i)))) ∧
        (∀ a b, a * 16 + b ≠ h.tile * 16 + h.thr → t.thread a b = s.thread a b) ∧
        t = { s with threads := t.threads, net := t.net, resumeq := t.resumeq })) ∧
  (
    ∀ (s : State) (h : Th) (rs1 : RegNo), s.Executes h ([rs1] ++ (List.range 8).map fun i => BitVec.ofNat 5 (24 + i)) [] →
      let u := s.th h
      let got : Msg → State → Prop := fun m t =>
        s.OnlyThread h t ∧ (t.th h).getX 24 = m.hdr ∧ (t.th h).xpsn 24 = m.hpsn ∧
        (∀ i, i < 7 → (t.th h).getX (BitVec.ofNat 5 (25 + i)) = m.pay.getD i 0 ∧ (t.th h).xpsn (BitVec.ofNat 5 (25 + i)) = m.ppsn.getD i false) ∧
        (∀ r : RegNo, r.toNat < 24 → (t.th h).getX r = u.getX r ∧ (t.th h).xpsn r = u.xpsn r) ∧
        (t.th h).pc = u.pc + 4 ∧ (t.th h).instret = u.instret + 1 ∧ (t.th h).v = u.v ∧ (t.th h).vp = u.vp ∧ (t.th h).p = u.p
      (∀ m ms, u.bq = m :: ms → s.Gives (.mwait h rs1) (fun t => got m t ∧ (t.th h).bq = ms ∧ (t.th h).mq = u.mq)) ∧
      (∀ m ms, u.bq = [] → u.mq = m :: ms → s.Gives (.mwait h rs1) (fun t => got m t ∧ (t.th h).bq = [] ∧ (t.th h).mq = ms)) ∧
      (u.bq = [] → u.mq = [] → (u.xpsn rs1 = true ∨ (u.getX rs1 ≠ 0 ∧ (BitVec.ofNat 64 s.time - u.getX rs1).toNat < 2 ^ 63)) →
        s.Gives (.mwait h rs1) (fun t => got ⟨0, [], false, []⟩ t)) ∧
      (u.bq = [] → u.mq = [] → u.xpsn rs1 = false → (u.getX rs1 = 0 ∨ 2 ^ 63 ≤ (BitVec.ofNat 64 s.time - u.getX rs1).toNat) →
        s.Gives (.mwait h rs1) (fun t => s.OnlyThread h t ∧ t.th h = { u with st := .waitMsg, deadline := u.getX rs1 })))

/-- Messages on their way (R107 to R113): a message that reaches a running job with a free slot joins its target thread's queue, last, and a waiting thread becomes READY; with all eight slots full it waits in the network and loses nothing; one that waited is delivered once a slot is free; a message that names no job is bounced with NO_JOB, its payload intact; a bounce joins its sender's bounce slots and returns the credit, or waits with it in the record of a sender's job that is saved; a deadline that passes makes a waiting thread READY. -/
def Obligations.MessageDelivery : Prop :=
  (∀ (s : State) (idx : Nat) (m : NetMsg) (j : Job), s.net[idx]? = some m → m.bounce = false → m.srcLocal = true → s.behind idx m = false →
    s.reachDev (tgtDev m.target) = true → s.bounceReason m.tenant m.target = none → s.job (tgtCtx m.target) = some j → j.saved = false →
    let tile := j.tiles.getD (tgtRank m.target) 0
    let u := s.thread tile (tgtThr m.target)
    s.isOn (16 + tile / 8) = true →
    (u.mq.length < 8 → (m.srcTile * 16 + m.srcThr ≠ tile * 16 + tgtThr m.target) →
      let ok : State → Prop := fun t =>
        t.thread tile (tgtThr m.target) = { u with mq := u.mq ++ [m.msg], st := if u.st = .waitMsg then .ready else u.st } ∧
        t.net = listDel s.net idx ∧ t.mem = s.mem
      (m.waiting = false → s.Gives (.messageArrival idx) ok) ∧ (m.waiting = true → s.Gives (.messageSlotFreeDelivery idx) ok)) ∧
    (8 ≤ u.mq.length →
      (m.waiting = false → s.Gives (.messageArrival idx) (fun t => t = { s with net := listSet s.net idx { m with waiting := true } })) ∧
      (m.waiting = true → s.Gives (.messageSlotFreeDelivery idx) (fun t => t = { s with net := listSet s.net idx m })))) ∧
  (∀ (s : State) (idx r : Nat) (m : NetMsg), s.net[idx]? = some m → m.bounce = false → m.waiting = false → m.srcLocal = true →
    s.behind idx m = false → s.reachDev (tgtDev m.target) = true → s.bounceReason m.tenant m.target = some r →
    s.Gives (.messageArrival idx) (fun t => ∃ b : NetMsg, t = { s with net := listDel s.net idx ++ [b] } ∧
      b.bounce = true ∧ b.srcTile = m.srcTile ∧ b.srcThr = m.srcThr ∧ b.msg.pay = m.msg.pay ∧ b.msg.ppsn = m.msg.ppsn ∧
      bits b.msg.hdr.toNat 34 0 = m.target.toNat % 2 ^ 35 ∧ bits b.msg.hdr.toNat 54 54 = 1 ∧ bits b.msg.hdr.toNat 57 55 = r)) ∧
  (∀ (s : State) (idx c rank : Nat) (m : NetMsg) (j : Job), s.net[idx]? = some m → m.bounce = true → m.srcLocal = true →
    m.bounceTo = (c, rank) → s.job c = some j →
    let tile := j.tiles.getD rank m.srcTile
    let k := rank * 16 + m.srcThr
    (j.saved = false → (s.tile tile).job = some c → s.isOn (16 + tile / 8) = true →
      s.Gives (.bounceArrival idx) (fun t =>
        (t.thread tile m.srcThr).bq = (s.thread tile m.srcThr).bq ++ [m.msg] ∧
        (t.thread tile m.srcThr).credits = min 4 ((s.thread tile m.srcThr).credits + 1) ∧
        t.net = listDel s.net idx ∧ t.mem = s.mem)) ∧
    (j.saved = true → (s.tile tile).job ≠ some c →
      s.Gives (.bounceArrival idx) (fun t =>
        t.job c = some { j with heldB := Tab.set j.heldB [] k (Tab.get j.heldB [] k ++ [m.msg]), credBack := Tab.set j.credBack 0 k (Tab.get j.credBack 0 k + 1) } ∧
        t.net = listDel s.net idx ∧ t.threads = s.threads ∧ t.mem = s.mem))) ∧
  (∀ (s : State) (tile thr : Nat), (s.thread tile thr).st = .waitMsg → (s.thread tile thr).deadline ≠ 0 →
    (BitVec.ofNat 64 s.time - (s.thread tile thr).deadline).toNat < 2 ^ 63 → s.isOn (16 + tile / 8) = true →
    s.Gives (.mwaitDeadline tile thr) (fun t => t = s.setThread tile thr { s.thread tile thr with st := .ready }))

/-- The scalar loads (R100, R148): a load whose access reaches memory of this device is posted: the thread has one more outstanding access, of the load's size and signedness, for its destination register and at the address rs1 + IMM16, and goes on; no register but the PC and no byte of memory has changed. The scalar stores and ST.REL (R148, R149, R151): a store whose access reaches memory of this device is posted with the low bytes of its data register and that register's mark, and the thread goes on; memory changes only when the access is performed. -/
def Obligations.ScalarAccessesPost : Prop :=
  (
    ∀ (s : State) (h : Th) (rd rs1 : RegNo) (imm : Imm16) (a : Nat), s.Executes h [rd, rs1] [] → (s.th h).xpsn rs1 = false →
      let va := (s.th h).getX rs1 + imm.signExtend 64
      let u := s.th h
      let posts : Nat → Bool → State → Prop := fun n sx t =>
        t.th h = { u with pc := u.pc + 4, instret := u.instret + 1, accId := u.accId + 1,
                          acc := u.acc ++ [⟨u.accId + 1, .load rd.toNat n sx, [[⟨0, .mem a, va, n, 0, false, 0⟩]], [], [], 0, 0, none, s.arb.stamp, s.now,
                            some (u.pc, u.instret + 1)⟩] } ∧
        s.OthersKeep h t
      (s.Reaches h false va 1 a → s.Gives (.lb h rd rs1 imm) (posts 1 true) ∧ s.Gives (.lbu h rd rs1 imm) (posts 1 false)) ∧
      (s.Reaches h false va 2 a → s.Gives (.lh h rd rs1 imm) (posts 2 true) ∧ s.Gives (.lhu h rd rs1 imm) (posts 2 false)) ∧
      (s.Reaches h false va 4 a → s.Gives (.lw h rd rs1 imm) (posts 4 true) ∧ s.Gives (.lwu h rd rs1 imm) (posts 4 false)) ∧
      (s.Reaches h false va 8 a → s.Gives (.ld h rd rs1 imm) (posts 8 false))) ∧
  (
    ∀ (s : State) (h : Th) (rs2 rs1 : RegNo) (imm : Imm16) (a : Nat), (s.th h).xpsn rs1 = false → s.gated h.tile = false →
      let u := s.th h
      let posts : Word → Nat → Bool → State → Prop := fun va n rel t =>
        t.th h = { u with pc := u.pc + 4, instret := u.instret + 1, accId := u.accId + 2,
                          acc := u.acc ++ [⟨u.accId + 1, .store rel, [[⟨0, .mem a, va, n, (u.getX rs2).toNat % 2 ^ (8 * n), u.xpsn rs2, 0⟩]], [], [],
                            if area a 1 = .t2 then 2 else 1, 0, none, s.arb.stamp, s.now, none⟩] } ∧
        s.OthersKeep h t
      (s.Executes h [rs1, rs2] [] →
        let va := u.getX rs1 + imm.signExtend 64
        (s.Reaches h true va 1 a → s.Gives (.sb h rs2 rs1 imm) (posts va 1 false)) ∧
        (s.Reaches h true va 2 a → s.Gives (.sh h rs2 rs1 imm) (posts va 2 false)) ∧
        (s.Reaches h true va 4 a → s.Gives (.sw h rs2 rs1 imm) (posts va 4 false)) ∧
        (s.Reaches h true va 8 a → s.Gives (.sd h rs2 rs1 imm) (posts va 8 false)) ∧
        (∀ size : Imm2, u.acc = [] → u.serr = [] → s.Reaches h true (u.getX rs1) (2 ^ size.toNat) a →
          s.Gives (.stRel h rs1 rs2 size) (posts (u.getX rs1) (2 ^ size.toNat) true))))

/-- Performing an access at home (R76, R94, R115, R117, R133, R148): once the vault or the channel serves it, a load's response writes its register with the little-endian bytes at the address, extended as the load says, and their poison; a store's response writes exactly its bytes; no other byte of memory and no other register changes, and the access is no longer outstanding. Errors that come later (R129, R150, R479): the home's error response to a posted store is held for the thread's next point; an access held for a wake that reaches its stall limit leaves STALLED, a load with WAKE_LIMIT, and the wake goes on. -/
def Obligations.AccessesPerformed : Prop :=
  (
    ∀ (s : State) (tile thr id grp a : Nat) (c : Acc) (p : Part), thr < 16 →
      (s.thread tile thr).acc.find? (fun b => b.id == id) = some c → c.todo = [[p]] → grp = 0 → c.got = [] → c.bad = 0 → c.wake = [] → c.tend = none →
      p.loc = .mem a → p.tag = 0 → cacheable (s.viaTile tile).cl (.mem a) = false → (∀ d ∈ s.locDoms (.mem a), s.isOn d = true) →
      (∀ q ∈ (s.thread tile thr).earlier id, q.overlaps p = false) → s.resumeFirst (tile * 16 + thr) id = true →
      (∀ w ∈ s.waitings, w.tile = tile → w.thr = thr → w.acc = id → w.grp = 0 → s.serves s.waitings w = true) →
      let u := s.thread tile thr
      (∀ rd n sx, c.kind = .load rd n sx → p.n = n →
        s.Gives (.memoryResponse tile thr id grp) (fun t =>
          (∀ r, (t.thread tile thr).getX r = if r = BitVec.ofNat 5 rd ∧ r ≠ 0 then loadValue n sx (leNat (s.homeBytes a n)) else u.getX r) ∧
          (∀ r, (t.thread tile thr).xpsn r = if r = BitVec.ofNat 5 rd ∧ r ≠ 0 then s.homePsn a n else u.xpsn r) ∧
          (t.thread tile thr).acc = u.acc.filter (fun b => b.id != c.id) ∧ (t.thread tile thr).pc = u.pc ∧ (t.thread tile thr).v = u.v ∧
          (∀ x y, x * 16 + y ≠ tile * 16 + thr → t.thread x y = s.thread x y) ∧ ∀ x, t.byte x = s.byte x)) ∧
      (c.kind = .store false → s.isLost a = false → (p.psn = false ∨ area a 1 ≠ .t2) →
        s.Gives (.memoryResponse tile thr id grp) (fun t =>
          (∀ x, t.byte x = if a ≤ x ∧ x < a + p.n then BitVec.ofNat 8 (p.data / 256 ^ (x - a)) else s.byte x) ∧
          t.thread tile thr = { u with acc := u.acc.filter fun b => b.id != c.id } ∧
          (∀ x y, x * 16 + y ≠ tile * 16 + thr → t.thread x y = s.thread x y)))) ∧
  (
    (∀ (s : State) (tile thr id sub : Nat) (a : Acc) (p : Part) (g : List Part) (gs : List (List Part)),
      (s.thread tile thr).acc.find? (fun b => b.id == id) = some a → a.bad = sub → sub ≠ 0 → a.tend = none → a.todo = (p :: g) :: gs →
      s.Gives (.storeErrorArrival tile thr id sub) (fun t => t = s.setThread tile thr
        { s.thread tile thr with acc := (s.thread tile thr).acc.filter fun b => b.id != a.id, serr := (s.thread tile thr).serr ++ [⟨sub, p.va⟩] })) ∧
    (∀ (s : State) (tile thr tier : Nat) (ds : List Nat), tile ≠ 129 → (s.thread tile thr).st = .stalled → (s.thread tile thr).hold = .wake ds tier →
      s.stallq.contains (tile * 16 + thr, 0) = true → (∀ a ∈ (s.thread tile thr).acc, a.id ≠ 0) → (s.thread tile thr).handler ≠ 0 → (s.thread tile thr).hmode = false →
      s.Gives (.stallLimitReached tile thr 0) (fun t =>
        let u := s.thread tile thr
        t.thread tile thr = { u with st := .ready, hold := .none, epc := u.pc, cause := 4, sub := 0, eaddr := u.holdVa, hmode := true, pc := u.handler } ∧
        t.stallq.contains (tile * 16 + thr, 0) = false ∧ t.wakeq = s.wakeq ∧ t.doms = s.doms ∧ t.mem = s.mem)))

/-- LD.ACQ (R119, R149): with no copy of its line in the cluster it reads at home in one step: rd takes the bytes at the address, extended as it says, with their poison; nothing else changes. Fences (R120, R129): with no arrived store error a fence completes when no access it orders is outstanding (FULL any access, ST stores, LD loads), and until then changes nothing; an arrived store error is raised first, the oldest, and the fence has no effect. -/
def Obligations.FencesAndAcquire : Prop :=
  (
    ∀ (s : State) (h : Th) (rd rs1 : RegNo) (size : Imm2) (sx : Bool) (a : Nat), s.Executes h [rd, rs1] [] → (s.th h).xpsn rs1 = false →
      ¬(sx = true ∧ size = 3) → s.Reaches h false ((s.th h).getX rs1) (2 ^ size.toNat) a →
      s.findLine (s.viaTile h.tile).cl (s.viaTile h.tile).tenant a = none →
      (∀ p ∈ (s.th h).acc.flatMap (fun c => c.todo.flatten), p.overlaps ⟨0, .mem a, (s.th h).getX rs1, 2 ^ size.toNat, 0, false, 0⟩ = false) →
      s.Gives (.ldAcq h rd rs1 size sx) (fun t =>
        let v := leNat (s.homeBytes a (2 ^ size.toNat))
        (∀ r, (t.th h).getX r = if r = rd ∧ r ≠ 0 then loadValue (2 ^ size.toNat) sx v else (s.th h).getX r) ∧
        (∀ r, (t.th h).xpsn r = if r = rd ∧ r ≠ 0 then s.homePsn a (2 ^ size.toNat) else (s.th h).xpsn r) ∧
        (t.th h).pc = (s.th h).pc + 4 ∧ (t.th h).acc = (s.th h).acc ∧ s.OthersKeep h t)) ∧
  (
    ∀ (s : State) (h : Th), s.Executes h [] [] →
      let u := s.th h
      let open_ : (Acc → Bool) → Prop := fun w => ∃ a ∈ u.acc, a.tend = none ∧ w a = true
      let rule : Instr → (Acc → Bool) → Prop := fun c w =>
        (u.serr = [] → ¬ open_ w → s.Gives c (s.WentTo h (u.pc + 4))) ∧
        (u.serr = [] → open_ w → s.Gives c (fun t => t = s.resumed (h.tile * 16 + h.thr) 0)) ∧
        (∀ e es, u.serr = e :: es → s.Gives c (fun t =>
          t = ((s.setThread h.tile h.thr { u with serr := es }).raise h.tile h.thr 6 e.sub e.addr).resumed (h.tile * 16 + h.thr) 0))
      rule (.fenceFull h) (fun _ => true) ∧ rule (.fenceSt h) Acc.isStore ∧ rule (.fenceLd h) (fun a => !a.isStore))

/-- Atomics (R121, R152, R153): on clean operands at memory of this device, with no copy of the line in the cluster and no access of the thread outstanding, rd takes the old value, sign-extended, and the location the new one; CAS stores only where the old value equals rd; no other byte of memory changes. -/
def Obligations.AtomicResults : Prop :=
  ∀ (s : State) (h : Th) (rd rs1 rs2 : RegNo) (dword : Bool) (order : Imm2) (a : Nat), s.Executes h [rd, rs1, rs2] [] → s.gated h.tile = false →
    (s.th h).xpsn rs1 = false → (s.th h).xpsn rs2 = false → (s.th h).xpsn rd = false → (s.th h).acc = [] → (s.th h).serr = [] →
    let n := if dword then 8 else 4
    let m := 2 ^ (8 * n)
    s.Reaches h true ((s.th h).getX rs1) n a → s.findLine (s.viaTile h.tile).cl (s.viaTile h.tile).tenant a = none →
    s.isLost a = false → s.homePsn a n = false →
    let old := leNat (s.homeBytes a n)
    let x := ((s.th h).getX rs2).toNat % m
    let cmp := ((s.th h).getX rd).toNat % m
    let sg : Nat → Int := fun v => if v < m / 2 then (v : Int) else (v : Int) - m
    let does : Option Nat → State → Prop := fun new t =>
      (∀ r, (t.th h).getX r = if r = rd ∧ r ≠ 0 then BitVec.ofInt 64 (sg old) else (s.th h).getX r) ∧
      (∀ r, (t.th h).xpsn r = if r = rd ∧ r ≠ 0 then false else (s.th h).xpsn r) ∧
      (t.th h).pc = (s.th h).pc + 4 ∧ (∀ i j, i * 16 + j ≠ h.tile * 16 + h.thr → t.thread i j = s.thread i j) ∧
      (∀ y, t.byte y = match new with
        | some w => if a ≤ y ∧ y < a + n then BitVec.ofNat 8 (w / 256 ^ (y - a)) else s.byte y
        | none => s.byte y)
    s.Gives (.amoAdd h rd rs1 rs2 dword order) (does (some ((old + x) % m))) ∧
    s.Gives (.amoAnd h rd rs1 rs2 dword order) (does (some (old &&& x))) ∧
    s.Gives (.amoOr h rd rs1 rs2 dword order) (does (some (old ||| x))) ∧
    s.Gives (.amoXor h rd rs1 rs2 dword order) (does (some (old ^^^ x))) ∧
    s.Gives (.amoSmin h rd rs1 rs2 dword order) (does (some (if sg x < sg old then x else old))) ∧
    s.Gives (.amoSmax h rd rs1 rs2 dword order) (does (some (if sg old < sg x then x else old))) ∧
    s.Gives (.amoUmin h rd rs1 rs2 dword order) (does (some (if x < old then x else old))) ∧
    s.Gives (.amoUmax h rd rs1 rs2 dword order) (does (some (if old < x then x else old))) ∧
    s.Gives (.amoSwap h rd rs1 rs2 dword order) (does (some x)) ∧
    s.Gives (.amoCas h rd rs1 rs2 dword order) (does (if old = cmp then some x else none))

/-- Range operations (R122, R171): with every home reachable and no access outstanding, CWB, CINV and CWBI act on each line of the range in the partition's ways of the thread's cluster and go on; a length of 0 completes at once and changes nothing else; a poisoned base or length raises POISON_USE. One line of a range operation (R122): CWB and CWBI write the line's dirty bytes home and no other byte; CINV of a line wholly in the range writes nothing; CINV and CWBI remove the line. -/
def Obligations.CacheRangeOperations : Prop :=
  (
    ∀ (s : State) (h : Th) (rs1 rs2 : RegNo), s.Executes h [rs1, rs2] [] → (s.th h).serr = [] → s.gated h.tile = false →
      let u := s.th h
      let v := s.viaTile h.tile
      let va := u.getX rs1
      let len := (u.getX rs2).toNat
      let rule : Nat → Instr → Prop := fun op c =>
        (u.xpsn rs1 = true ∨ u.xpsn rs2 = true → s.Gives c (s.Took h 7 (if u.xpsn rs1 then va else 0))) ∧
        (u.xpsn rs1 = false → u.xpsn rs2 = false → len = 0 → s.Gives c (s.WentTo h (u.pc + 4))) ∧
        (∀ rs, u.xpsn rs1 = false → u.xpsn rs2 = false → len ≠ 0 → u.acc = [] → s.keyRanges v.tenant va len = some (rs, .done) →
          (∀ l ∈ s.dirtyIn v op rs, ∀ d ∈ s.locDoms (.mem l.addr), s.isOn d = true) →
          s.Gives c (fun t =>
            let w := rs.foldl (fun w r => w.rangeOp v.cl v.ways op r.1 r.2) s
            t.mem = w.mem ∧ t.psn = w.psn ∧ t.caches = w.caches ∧
            t.th h = { u with pc := u.pc + 4, instret := u.instret + 1 } ∧
            (∀ a b, a * 16 + b ≠ h.tile * 16 + h.thr → t.thread a b = s.thread a b)))
      rule 0 (.cwb h rs1 rs2) ∧ rule 1 (.cinv h rs1 rs2) ∧ rule 2 (.cwbi h rs1 rs2)) ∧
  (
    ∀ (s : State) (c : Nat) (l : Line), l.addr < 2 ^ 43 → l.dirty ≠ 0 → l.addr % 128 = 0 → s.isLost l.addr = false → area l.addr 1 ≠ .t2 →
      let home : Nat → Byte := fun x =>
        if l.addr ≤ x ∧ x < l.addr + 128 ∧ bit l.dirty (x - l.addr) = true then BitVec.ofNat 8 (l.data.getD (x - l.addr) 0) else s.byte x
      let gone : State → Prop := fun t => (t.lines (lineSet c l.addr)).all (fun m => !(m.addr == l.addr && m.way == l.way)) = true
      (∀ whole x, (s.rangeLine c 0 whole l).byte x = home x) ∧ (∀ whole x, (s.rangeLine c 2 whole l).byte x = home x) ∧
      (∀ x, (s.rangeLine c 1 false l).byte x = home x) ∧ (∀ x, (s.rangeLine c 1 true l).byte x = s.byte x) ∧
      gone (s.rangeLine c 1 true l) ∧ (∀ whole, gone (s.rangeLine c 2 whole l)))

/-- VOP (R172, R173): each integer operation writes the active lanes of vd with its result over vs1 and the second source (a vector lane, the low 32 bits of a scalar, or a signed immediate), poisoned when a source is; inactive lanes keep value and mark, and nothing else changes. -/
def Obligations.VectorIntegerResults : Prop :=
  ∀ (s : State) (h : Th) (vd vs1 : RegNo) (form : Imm2) (c : RegNo) (g : PredNo), form.toNat ≤ 2 →
    s.Executes h (if form = 1 then [c] else []) ([vd, vs1] ++ if form = 0 then [c] else []) →
    let u := s.th h
    let a : Nat → Lane := fun i => u.getV vs1 i
    let b : Nat → Lane := fun i => if form = 0 then u.getV c i else if form = 1 then (u.getX c).setWidth 32 else c.signExtend 32
    let z : Nat → Bool := fun i => u.vpsn vs1 i || (if form = 0 then u.vpsn c i else if form = 1 then u.xpsn c else false)
    let gives : Instr → (Lane → Lane → Lane) → Prop := fun i f =>
      s.Gives i (s.WroteV h vd (fun j => (u.getP g).getLsbD j) (fun j => f (a j) (b j)) z)
    let sat : Int → Lane := fun x => BitVec.ofInt 32 (if x < -2 ^ 31 then -2 ^ 31 else if 2 ^ 31 - 1 < x then 2 ^ 31 - 1 else x)
    gives (.vadd h vd vs1 form c g) (fun x y => x + y) ∧
    gives (.vsub h vd vs1 form c g) (fun x y => x - y) ∧
    gives (.vmul h vd vs1 form c g) (fun x y => x * y) ∧
    gives (.vmulh h vd vs1 form c g) (fun x y => BitVec.ofInt 32 (x.toInt * y.toInt / 2 ^ 32)) ∧
    gives (.vmin h vd vs1 form c g) (fun x y => if x.toInt ≤ y.toInt then x else y) ∧
    gives (.vmax h vd vs1 form c g) (fun x y => if x.toInt ≤ y.toInt then y else x) ∧
    gives (.vminu h vd vs1 form c g) (fun x y => if x.toNat ≤ y.toNat then x else y) ∧
    gives (.vmaxu h vd vs1 form c g) (fun x y => if x.toNat ≤ y.toNat then y else x) ∧
    gives (.vand h vd vs1 form c g) (fun x y => x &&& y) ∧
    gives (.vor h vd vs1 form c g) (fun x y => x ||| y) ∧
    gives (.vxor h vd vs1 form c g) (fun x y => x ^^^ y) ∧
    gives (.vsll h vd vs1 form c g) (fun x y => x <<< (y.toNat % 32)) ∧
    gives (.vsrl h vd vs1 form c g) (fun x y => x >>> (y.toNat % 32)) ∧
    gives (.vsra h vd vs1 form c g) (fun x y => x.sshiftRight (y.toNat % 32)) ∧
    gives (.vadds h vd vs1 form c g) (fun x y => sat (x.toInt + y.toInt)) ∧
    gives (.vsubs h vd vs1 form c g) (fun x y => sat (x.toInt - y.toInt))

/-- VFOP with two sources (R172 to R174): each operation is computed exactly on the F32 values of its lanes and rounded once to nearest even, every NaN canonical; VFMA rounds once; VFMIN and VFMAX return the other operand where one is NaN; inactive lanes keep value and mark. Unary vector operations (R172 to R174): VABS with −2^31 kept, VFABS and VFNEG, and VFRCP and VFRSQ with their special values; the relative error of VFRCP and VFRSQ elsewhere is that of the bounded helpers. The values the float operations are built from (R174): NaN in, NaN out of a sum or a product; VFMIN and VFMAX prefer the number over a NaN; the smallest of +0 and −0 is −0; a sum of opposite infinities is NaN. -/
def Obligations.VectorFloatResults : Prop :=
  (
    ∀ (s : State) (h : Th) (vd vs1 : RegNo) (form : Imm2) (c : RegNo) (g : PredNo), form.toNat ≤ 1 →
      s.Executes h (if form = 1 then [c] else []) ([vd, vs1] ++ if form = 0 then [c] else []) →
      let u := s.th h
      let a : Nat → FVal := fun i => f32 (u.getV vs1 i).toNat
      let b : Nat → Lane := fun i => if form = 0 then u.getV c i else (u.getX c).setWidth 32
      let z : Nat → Bool := fun i => u.vpsn vs1 i || (if form = 0 then u.vpsn c i else u.xpsn c)
      let out : FVal → Lane := fun v => BitVec.ofNat 32 (toF32 v)
      let gives : Instr → (FVal → FVal → FVal) → Prop := fun i f =>
        s.Gives i (s.WroteV h vd (u.isActive g) (fun j => out (f (a j) (f32 (b j).toNat))) z)
      gives (.vfadd h vd vs1 form c g) FVal.add ∧
      gives (.vfsub h vd vs1 form c g) FVal.sub ∧
      gives (.vfmul h vd vs1 form c g) FVal.mul ∧
      gives (.vfmin h vd vs1 form c g) FVal.min ∧
      gives (.vfmax h vd vs1 form c g) FVal.max ∧
      s.Gives (.vfscale h vd vs1 form c g) (s.WroteV h vd (u.isActive g) (fun j => out ((a j).scale (clampI (-1024) 1024 (b j).toInt))) z) ∧
      s.Gives (.vfma h vd vs1 form c g) (s.WroteV h vd (u.isActive g)
        (fun j => out (((a j).mul (f32 (b j).toNat)).add (f32 (u.getV vd j).toNat))) (fun j => z j || u.vpsn vd j))) ∧
  (
    ∀ (s : State) (h : Th) (vd vs1 : RegNo) (g : PredNo), s.Executes h [] [vd, vs1] →
      let u := s.th h
      let gives : Instr → (Lane → Lane) → Prop := fun i f =>
        s.Gives i (s.WroteV h vd (u.isActive g) (fun j => f (u.getV vs1 j)) (fun j => u.vpsn vs1 j))
      gives (.vabs h vd vs1 g) (fun x => BitVec.ofInt 32 (x.toInt.natAbs : Int)) ∧
      gives (.vfabs h vd vs1 g) (fun x => BitVec.ofNat 32 (toF32 (f32 x.toNat).abs)) ∧
      gives (.vfneg h vd vs1 g) (fun x => BitVec.ofNat 32 (toF32 (f32 x.toNat).opp)) ∧
      gives (.vfrcp h vd vs1 g) frcpL ∧ gives (.vfrsq h vd vs1 g) frsqL ∧
      frcpL 0 = 0x7F800000 ∧ frcpL 0x80000000 = 0xFF800000 ∧ frcpL 0x7F800000 = 0 ∧ frcpL 0xFF800000 = 0x80000000 ∧
      frsqL 0 = 0x7F800000 ∧ frsqL 0x80000000 = 0xFF800000 ∧ frsqL 0x7F800000 = 0 ∧ frsqL 0xBF800000 = 0x7FC00000) ∧
  (
    (∀ v : FVal, FVal.add .nan v = .nan ∧ FVal.add v .nan = .nan ∧ FVal.mul .nan v = .nan ∧ FVal.mul v .nan = .nan) ∧
    (∀ v : FVal, v ≠ .nan → FVal.min .nan v = v ∧ FVal.min v .nan = v ∧ FVal.max .nan v = v ∧ FVal.max v .nan = v) ∧
    FVal.min .nan .nan = .nan ∧ FVal.max .nan .nan = .nan ∧
    (∀ b : Bool, FVal.add (.inf b) (.inf !b) = .nan) ∧
    toF32 .nan = 0x7FC00000 ∧
    (∀ a : Lane, toF32 (FVal.min (f32 0x80000000) (f32 0)) = 0x80000000 ∧ toF32 (FVal.min (f32 0) (f32 0x80000000)) = 0x80000000 ∧
      (f32 a.toNat = .nan → fop1 FVal.abs a = 0x7FC00000#32 ∧ fop1 FVal.opp a = 0x7FC00000#32)))

/-- Decoding and encoding agree (R185, R186): in F32, T16 and H16 every encoding that is not a NaN is read as a value that is written back as the same bits, under either rounding and either treatment of overflow. -/
def Obligations.FormatsRoundTrip : Prop :=
  ∀ (f : FFmt) (v : Nat) (tr sat : Bool), f ∈ [fmtF32, fmtT16, fmtH16] → v < 2 ^ (1 + f.ebits + f.fbits) → f.dec v ≠ .nan →
    f.enc tr sat (f.dec v) = v

/-- VCMP (R172, R175): with no active lane poisoned, bit i of pd is 1 exactly where lane i is active and the condition holds; a floating condition with a NaN is false except FUNORD; an active poisoned lane raises POISON_USE; the immediate and reserved forms are ILLEGAL. Predicate instructions (R133, R181): pd takes the operation of pa and pb bit by bit, PFIRST keeps only the lowest set bit, PSET and PLT read an unpoisoned scalar, PGET and PCNT write rd; a write to p0 is discarded; nothing else changes. -/
def Obligations.ComparesAndPredicates : Prop :=
  (
    ∀ (s : State) (h : Th) (pd : PredNo) (vs1 : RegNo) (form : Imm2) (c : RegNo) (g : PredNo),
      s.Executes h (if form = 1 then [c] else []) ([vs1] ++ if form = 0 then [c] else []) →
      let u := s.th h
      let a : Nat → Lane := fun i => u.getV vs1 i
      let b : Nat → Lane := fun i => if form = 0 then u.getV c i else (u.getX c).setWidth 32
      let bad := ∃ i, i < 32 ∧ u.isActive g i = true ∧ (u.vpsn vs1 i || (if form = 0 then u.vpsn c i else u.xpsn c)) = true
      let fv : Lane → FVal := fun x => f32 x.toNat
      let rule : Instr → (Lane → Lane → Bool) → Prop := fun i f =>
        (form.toNat ≤ 1 → ¬ bad → ∃ p : Lane, s.Gives i (s.WroteP h pd p) ∧ ∀ j, j < 32 → p.getLsbD j = (u.isActive g j && f (a j) (b j))) ∧
        (form.toNat ≤ 1 → bad → s.Gives i (s.Took h 7 0)) ∧
        (2 ≤ form.toNat → s.Gives i (s.Took h 1 0))
      rule (.vcmpEq h pd vs1 form c g) (fun x y => decide (x = y)) ∧
      rule (.vcmpNe h pd vs1 form c g) (fun x y => decide (x ≠ y)) ∧
      rule (.vcmpLt h pd vs1 form c g) (fun x y => decide (x.toInt < y.toInt)) ∧
      rule (.vcmpLe h pd vs1 form c g) (fun x y => decide (x.toInt ≤ y.toInt)) ∧
      rule (.vcmpLtu h pd vs1 form c g) (fun x y => decide (x.toNat < y.toNat)) ∧
      rule (.vcmpLeu h pd vs1 form c g) (fun x y => decide (x.toNat ≤ y.toNat)) ∧
      rule (.vcmpFeq h pd vs1 form c g) (fun x y => (fv x).feq (fv y)) ∧
      rule (.vcmpFlt h pd vs1 form c g) (fun x y => (fv x).lt (fv y)) ∧
      rule (.vcmpFle h pd vs1 form c g) (fun x y => (fv x).lt (fv y) || (fv x).feq (fv y)) ∧
      rule (.vcmpFunord h pd vs1 form c g) (fun x y => decide (fv x = .nan ∨ fv y = .nan))) ∧
  (
    ∀ (s : State) (h : Th) (pd pa pb : PredNo) (r : RegNo),
      let u := s.th h
      let a := u.getP pa
      let b := u.getP pb
      (s.Executes h [] [] →
        s.Gives (.pand h pd pa pb) (s.WroteP h pd (a &&& b)) ∧
        s.Gives (.por h pd pa pb) (s.WroteP h pd (a ||| b)) ∧
        s.Gives (.pxor h pd pa pb) (s.WroteP h pd (a ^^^ b)) ∧
        s.Gives (.pandn h pd pa pb) (s.WroteP h pd (a &&& ~~~b)) ∧
        s.Gives (.pnot h pd pa) (s.WroteP h pd (~~~a)) ∧
        (∃ p : Lane, s.Gives (.pfirst h pd pa) (s.WroteP h pd p) ∧
          ∀ i, i < 32 → (p.getLsbD i = true ↔ a.getLsbD i = true ∧ ∀ j, j < i → a.getLsbD j = false))) ∧
      (s.Executes h [r] [] →
        (u.xpsn r = false → s.Gives (.pset h pd r) (s.WroteP h pd ((u.getX r).setWidth 32))) ∧
        (u.xpsn r = false → ∃ p : Lane, s.Gives (.plt h pd r) (s.WroteP h pd p) ∧ ∀ i, i < 32 → p.getLsbD i = decide ((i : Int) < (u.getX r).toInt)) ∧
        (u.xpsn r = true → s.Gives (.pset h pd r) (s.Took h 7 0) ∧ s.Gives (.plt h pd r) (s.Took h 7 0)) ∧
        s.Gives (.pget h r pa) (s.WroteX h r (a.setWidth 64) false (u.pc + 4)) ∧
        s.Gives (.pcnt h r pa) (s.WroteX h r (BitVec.ofNat 64 ((List.range 32).filter fun i => a.getLsbD i).length) false (u.pc + 4))))

/-- Moves and permutes (R172, R176): VSPLAT, VMVS, VINS, VSEL, VPERM and VIOTA write what the table says; VSEL writes every lane; a poisoned index of VMVS or VINS poisons the result, and VINS then writes no lane. Reductions (R176): rd takes the sum, maximum, minimum, F32 maximum or exponent maximum of the active lanes, poisoned when an active lane is, with the stated value when none is active; VRFSUM adds the lanes in pairs over five levels. -/
def Obligations.VectorMovesAndReductions : Prop :=
  (
    ∀ (s : State) (h : Th) (r1 r2 r3 : RegNo) (g : PredNo),
      let u := s.th h
      (s.Executes h [r2] [r1] → s.Gives (.vsplat h r1 r2 g)
        (s.WroteV h r1 (u.isActive g) (fun _ => (u.getX r2).setWidth 32) (fun _ => u.xpsn r2))) ∧
      (s.Executes h [r1, r3] [r2] → let i := (u.getX r3).toNat % 32
        s.Gives (.vmvs h r1 r2 r3) (s.WroteX h r1 ((u.getV r2 i).signExtend 64) (u.xpsn r3 || u.vpsn r2 i) (u.pc + 4))) ∧
      (s.Executes h [r2, r3] [r1] → u.xpsn r3 = false → s.Gives (.vins h r1 r2 r3)
        (s.WroteV h r1 (fun i => i == (u.getX r3).toNat % 32) (fun _ => (u.getX r2).setWidth 32) (fun _ => u.xpsn r2))) ∧
      (s.Executes h [r2, r3] [r1] → u.xpsn r3 = true → s.Gives (.vins h r1 r2 r3)
        (s.WroteV h r1 (fun _ => true) (fun i => u.getV r1 i) (fun _ => true))) ∧
      (s.Executes h [] [r1, r2, r3] → s.Gives (.vsel h r1 r2 r3 g)
        (s.WroteV h r1 (fun _ => true) (fun i => if u.isActive g i then u.getV r2 i else u.getV r3 i)
          (fun i => if u.isActive g i then u.vpsn r2 i else u.vpsn r3 i))) ∧
      (s.Executes h [] [r1, r2, r3] → s.Gives (.vperm h r1 r2 r3 g)
        (s.WroteV h r1 (u.isActive g) (fun i => u.getV r2 ((u.getV r3 i).toNat % 32))
          (fun i => u.vpsn r2 ((u.getV r3 i).toNat % 32) || u.vpsn r3 i))) ∧
      (s.Executes h [] [r1] → s.Gives (.viota h r1 g) (s.WroteV h r1 (u.isActive g) (fun i => BitVec.ofNat 32 i) (fun _ => false)))) ∧
  (
    ∀ (s : State) (h : Th) (rd vs1 : RegNo) (g : PredNo), s.Executes h [rd] [vs1] →
      let u := s.th h
      let l := (u.active g).map fun i => u.getV vs1 i
      let z := (u.active g).any fun i => u.vpsn vs1 i
      let res : Word → State → Prop := fun v => s.WroteX h rd v z (u.pc + 4)
      s.Gives (.vrsum h rd vs1 g) (res (BitVec.ofInt 64 (l.map BitVec.toInt).sum)) ∧
      s.Gives (.vrmax h rd vs1 g) (res (BitVec.ofInt 64 ((l.map BitVec.toInt).foldl max (-2 ^ 31)))) ∧
      s.Gives (.vrmin h rd vs1 g) (res (BitVec.ofInt 64 ((l.map BitVec.toInt).foldl min (2 ^ 31 - 1)))) ∧
      s.Gives (.vrfmax h rd vs1 g) (fun t => ∃ v, res v t ∧ (l = [] → v = 0xFF800000) ∧
        (∀ x xs, l = x :: xs → v = BitVec.ofNat 64 (toF32 ((xs.map fun y => f32 y.toNat).foldl FVal.max (f32 x.toNat))))) ∧
      s.Gives (.vfexpmax h rd vs1 g) (fun t => ∃ x : Int, res (BitVec.ofInt 64 x) t ∧ (l = [] → x = -256) ∧
        ((∃ y ∈ l, f32 y.toNat = .nan ∨ (f32 y.toNat).isInf = true) → x = 256) ∧
        (∀ y ∈ l, ∀ n m e, f32 y.toNat = .fin n m e → m ≠ 0 → (Nat.log2 m : Int) + e ≤ x) ∧
        (x = 256 ∨ x = -256 ∨ ∃ y ∈ l, ∃ n m e, f32 y.toNat = .fin n m e ∧ m ≠ 0 ∧ x = (Nat.log2 m : Int) + e)) ∧
      s.Gives (.vrfsum h rd vs1 g) (fun t =>
        let lane : Nat → FVal := fun i => if u.isActive g i then f32 (u.getV vs1 i).toNat else .fin false 0 0
        let add : FVal → FVal → FVal := fun a b => f32 (toF32 (a.add b))
        let p1 : Nat → FVal := fun i => add (lane (2 * i)) (lane (2 * i + 1))
        let p2 : Nat → FVal := fun i => add (p1 (2 * i)) (p1 (2 * i + 1))
        let p3 : Nat → FVal := fun i => add (p2 (2 * i)) (p2 (2 * i + 1))
        let p4 : Nat → FVal := fun i => add (p3 (2 * i)) (p3 (2 * i + 1))
        res (BitVec.ofNat 64 (toF32 (add (p4 0) (p4 1)))) t))

/-- Conversions (R177, R178): between lanes, from a narrow element, and the part each accepts; a widening conversion of a narrow element gives its value in F32, a PART outside its range is ILLEGAL. Narrowing conversions (R177, R178): active lane i writes element 32 × PART + i with its value rounded and saturated to the format; every other element of vd, and every other register, keeps its bits. -/
def Obligations.VectorConversions : Prop :=
  (
    ∀ (s : State) (h : Th) (vd vs1 rs2 : RegNo) (trunc : Bool) (part : Imm3) (g : PredNo),
      let u := s.th h
      let p := part.toNat
      (s.Executes h [] [vd, vs1] →
        (p = 0 → s.Gives (.vcvtF32I32 h vd vs1 trunc part g) (s.WroteV h vd (u.isActive g)
            (fun i => BitVec.ofInt 32 ((f32 (u.getV vs1 i).toNat).toIntSat trunc (-2 ^ 31) (2 ^ 31 - 1))) (fun i => u.vpsn vs1 i)) ∧
          s.Gives (.vcvtI32F32 h vd vs1 trunc part g) (s.WroteV h vd (u.isActive g)
            (fun i => BitVec.ofNat 32 (fmtF32.enc trunc false (FVal.ofInt false (u.getV vs1 i).toInt 0))) (fun i => u.vpsn vs1 i))) ∧
        (p ≠ 0 → s.Gives (.vcvtF32I32 h vd vs1 trunc part g) (s.Took h 1 0) ∧ s.Gives (.vcvtI32F32 h vd vs1 trunc part g) (s.Took h 1 0)) ∧
        (p < 2 →
          let e : Nat → Nat := fun i => (u.getV vs1 ((32 * p + i) / 2)).toNat / 2 ^ (16 * ((32 * p + i) % 2)) % 2 ^ 16
          let z : Nat → Bool := fun i => u.vpsn vs1 ((32 * p + i) / 2)
          s.Gives (.vcvtT16F32 h vd vs1 trunc part g) (s.WroteV h vd (u.isActive g) (fun i => BitVec.ofNat 32 (toF32 (fmtT16.dec (e i)))) z) ∧
          s.Gives (.vcvtH16F32 h vd vs1 trunc part g) (s.WroteV h vd (u.isActive g) (fun i => BitVec.ofNat 32 (toF32 (fmtH16.dec (e i)))) z)) ∧
        (2 ≤ p → s.Gives (.vcvtT16F32 h vd vs1 trunc part g) (s.Took h 1 0) ∧ s.Gives (.vcvtH16F32 h vd vs1 trunc part g) (s.Took h 1 0))) ∧
      (s.Executes h [rs2] [vd, vs1] →
        let wide : Nat → Nat → Lane := fun w i =>
          BitVec.ofNat 32 (fmtF32.enc false true (FVal.ofInt false
            (sgn w ((u.getV vs1 ((32 * p + i) * w / 32)).toNat / 2 ^ (w * ((32 * p + i) % (32 / w))) % 2 ^ w)) (sgn 8 (u.getX rs2).toNat)))
        (p < 4 → s.Gives (.vcvtS8F32 h vd vs1 rs2 trunc part g) (s.WroteV h vd (u.isActive g) (wide 8)
          (fun i => u.vpsn vs1 ((32 * p + i) * 8 / 32) || u.xpsn rs2))) ∧
        (4 ≤ p → s.Gives (.vcvtS8F32 h vd vs1 rs2 trunc part g) (s.Took h 1 0)) ∧
        s.Gives (.vcvtS4F32 h vd vs1 rs2 trunc part g) (s.WroteV h vd (u.isActive g) (wide 4)
          (fun i => u.vpsn vs1 ((32 * p + i) * 4 / 32) || u.xpsn rs2)))) ∧
  (
    ∀ (s : State) (h : Th) (vd vs1 rs2 : RegNo) (trunc : Bool) (part : Imm3) (g : PredNo),
      let u := s.th h
      let p := part.toNat
      let elem : Thread → Nat → Nat → Nat := fun t w j => (t.getV vd (j * w / 32)).toNat / 2 ^ (w * (j % (32 / w))) % 2 ^ w
      let writes : Nat → (Nat → Nat) → State → Prop := fun w f t =>
        (∀ i, i < 32 → u.isActive g i = true → elem (t.th h) w (32 * p + i) = f i) ∧
        (∀ j, j < 1024 / w → (j / 32 ≠ p ∨ u.isActive g (j % 32) = false) → elem (t.th h) w j = elem u w j) ∧
        (∀ r i, i < 32 → r ≠ vd → (t.th h).getV r i = u.getV r i ∧ (t.th h).vpsn r i = u.vpsn r i) ∧
        (t.th h).pc = u.pc + 4 ∧ (t.th h).x = u.x ∧ (t.th h).p = u.p ∧ s.OnlyThread h t
      (s.Executes h [] [vd, vs1] →
        (p < 2 →
          s.Gives (.vcvtF32T16 h vd vs1 trunc part g) (writes 16 fun i => fmtT16.enc trunc true (f32 (u.getV vs1 i).toNat)) ∧
          s.Gives (.vcvtF32H16 h vd vs1 trunc part g) (writes 16 fun i => fmtH16.enc trunc true (f32 (u.getV vs1 i).toNat))) ∧
        (2 ≤ p → s.Gives (.vcvtF32T16 h vd vs1 trunc part g) (s.Took h 1 0) ∧ s.Gives (.vcvtF32H16 h vd vs1 trunc part g) (s.Took h 1 0))) ∧
      (s.Executes h [rs2] [vd, vs1] →
        let narrow : Nat → Nat → Nat := fun w i => unsgn w (((f32 (u.getV vs1 i).toNat).scale (-(sgn 8 (u.getX rs2).toNat))).toIntSat trunc (-(2 ^ (w - 1))) (2 ^ (w - 1) - 1))
        (p < 4 → s.Gives (.vcvtF32S8 h vd vs1 rs2 trunc part g) (writes 8 (narrow 8))) ∧
        (4 ≤ p → s.Gives (.vcvtF32S8 h vd vs1 rs2 trunc part g) (s.Took h 1 0)) ∧
        s.Gives (.vcvtF32S4 h vd vs1 rs2 trunc part g) (writes 4 (narrow 4))))

/-- Vector loads and stores (R172, R179, R180): with no active lane a vector access changes nothing but the PC; with every active lane planned to memory of this device it is posted whole; lane addresses are those of the table; a poisoned base, stride or active index raises POISON_USE with the address of the lowest faulting lane. -/
def Obligations.VectorMemoryPosts : Prop :=
  ∀ (s : State) (h : Th) (vd rs1 c : RegNo) (imm : Imm13) (g : PredNo),
    let u := s.th h
    let lanes := u.active g
    let rule : Instr → Bool → List RegNo → List RegNo → Bool → (Nat → Bool) → (Nat → Word) → Prop := fun i st xs vs bad badLane at_ =>
      s.Executes h xs (vd :: vs) → (st = true → s.gated h.tile = false) →
      let ok := bad = false ∧ ∀ j ∈ lanes, badLane j = false
      (bad = true → s.Gives i (s.Took h 7 (at_ (lanes.headD 0)))) ∧
      (∀ j, bad = false → j ∈ lanes → badLane j = true → (∀ k ∈ lanes, k < j → badLane k = false) → s.Gives i (s.Took h 7 (at_ j))) ∧
      (ok → lanes = [] → s.Gives i (s.WentTo h (u.pc + 4))) ∧
      (∀ ps, ok → lanes ≠ [] → s.accesses h u < 32 → (∀ p ∈ ps, ∃ a, p.loc = .mem a ∧ ∀ d ∈ s.locDoms (.mem a), s.isOn d = true) →
        s.plan (s.viaTile h.tile) st false false (lanes.map fun j => ⟨j, at_ j, 4, (u.getV vd j).toNat, u.vpsn vd j⟩) = .go ps [] → ps ≠ [] →
        s.Gives i (fun t => s.OthersKeep h t ∧ (t.th h).pc = u.pc + 4 ∧ (t.th h).x = u.x ∧ (t.th h).v = u.v ∧ (t.th h).p = u.p ∧
          ∃ a : Acc, (t.th h).acc = u.acc ++ [a] ∧ a.kind = (if st then .store false else .vload vd.toNat) ∧ a.todo = groupParts ps ∧ a.bad = 0 ∧ a.wake = []))
    rule (.vld h vd rs1 imm g) false [rs1] [] (u.xpsn rs1) (fun _ => false) (fun j => u.getX rs1 + BitVec.ofInt 64 (imm.toInt * 4) + BitVec.ofNat 64 (4 * j)) ∧
    rule (.vst h vd rs1 imm g) true [rs1] [] (u.xpsn rs1) (fun _ => false) (fun j => u.getX rs1 + BitVec.ofInt 64 (imm.toInt * 4) + BitVec.ofNat 64 (4 * j)) ∧
    rule (.vlds h vd rs1 c g) false [rs1, c] [] (u.xpsn rs1 || u.xpsn c) (fun _ => false) (fun j => u.getX rs1 + BitVec.ofNat 64 j * u.getX c) ∧
    rule (.vsts h vd rs1 c g) true [rs1, c] [] (u.xpsn rs1 || u.xpsn c) (fun _ => false) (fun j => u.getX rs1 + BitVec.ofNat 64 j * u.getX c) ∧
    rule (.vldx h vd rs1 c g) false [rs1] [c] (u.xpsn rs1) (fun j => u.vpsn c j) (fun j => u.getX rs1 + (u.getV c j).setWidth 64) ∧
    rule (.vstx h vd rs1 c g) true [rs1] [c] (u.xpsn rs1) (fun j => u.vpsn c j) (fun j => u.getX rs1 + (u.getV c j).setWidth 64)

/-- Accumulators (R182, R183): with no outstanding Matrix command that uses the accumulator, or once those issued before it have returned, ACCRD copies a row into vd, ACCWR copies vs1 into a row and no other element changes, ACCZ zeroes the whole accumulator unpoisoned and no other; while such a command is outstanding the thread waits in WAIT_ENG. -/
def Obligations.AccumulatorInstructions : Prop :=
  ∀ (s : State) (h : Th) (v : RegNo) (acc : Imm2) (row : RegNo),
    let u := s.th h
    let k := acc.toNat
    let el : State → Nat → Nat → Nat → Lane × Bool := fun t a r j => (t.tile h.tile).getAcc a r j
    let rest : State → Prop := fun t => (∀ a b, a * 16 + b ≠ h.tile * 16 + h.thr → t.thread a b = s.thread a b) ∧
      t = { s with threads := t.threads, tiles := t.tiles, resumeq := t.resumeq }
    let next : Thread := { u with pc := u.pc + 4, instret := u.instret + 1, waitAcc := none }
    (s.accCmds h.tile k = [] ∨ u.accReady k = true →
      (s.Executes h [] [v] → s.Gives (.accrd h v acc row) (fun t => s.OnlyThread h t ∧
        (∀ r j, j < 32 → (t.th h).getV r j = if r = v then (el s k row.toNat j).1 else u.getV r j) ∧
        (∀ r j, j < 32 → (t.th h).vpsn r j = if r = v then (el s k row.toNat j).2 else u.vpsn r j) ∧
        t.th h = { next with v := (t.th h).v, vp := (t.th h).vp })) ∧
      (s.Executes h [] [v] → s.Gives (.accwr h v acc row) (fun t => rest t ∧ t.th h = next ∧
        ∀ a r j, a < 4 → r < 32 → j < 32 → el t a r j = if a = k ∧ r = row.toNat then (u.getV v j, u.vpsn v j) else el s a r j)) ∧
      (s.Executes h [] [] → s.Gives (.accz h acc) (fun t => rest t ∧ t.th h = next ∧
        ∀ a r j, a < 4 → r < 32 → j < 32 → el t a r j = if a = k then (0, false) else el s a r j))) ∧
    (s.accCmds h.tile k ≠ [] → u.accReady k = false →
      let waits : State → Prop := fun t => s.OnlyThread h t ∧ t.th h = { u with st := .waitEng, waitAcc := some ⟨k, u.pc, s.accCmds h.tile k⟩ }
      (s.Executes h [] [v] → s.Gives (.accrd h v acc row) waits ∧ s.Gives (.accwr h v acc row) waits) ∧
      (s.Executes h [] [] → s.Gives (.accz h acc) waits))

/-- ENG (R164 to R167): with a free command slot and buffer entry and a clean, aligned descriptor at home, rd takes a handle that names the slot, the engine and the thread's next sequence number, the slot becomes outstanding, and the copied descriptor waits in the tile's command buffer or the engine's queue; with neither left rd takes 0 and nothing is issued. ENGWAIT and ENGPOLL (R169, R170): a stale handle gives STATUS INVALID with DETAIL 0xFFF at once; a returned result goes to rd and frees the slot; for a command not returned ENGPOLL gives 0 and keeps the slot, and ENGWAIT enters WAIT_ENG. -/
def Obligations.EngineIssueAndRetrieval : Prop :=
  (
    ∀ (s : State) (h : Th) (rd rs1 : RegNo), s.Executes h [rd, rs1] [] → (s.th h).serr = [] → (s.th h).acc = [] → (s.th h).xpsn rs1 = false →
      ((s.th h).getX rs1).toNat % 64 = 0 →
      let u := s.th h
      let none_ : State → Prop := s.WroteX h rd 0 false (u.pc + 4)
      let takes : Nat → Instr → Prop := fun eng i =>
        ((u.freeSlot = none ∨ (32 ≤ s.bufUsed h.tile ∧ s.gated h.tile = false)) → s.Gives i none_) ∧
        (∀ slot a, s.gated h.tile = false → u.freeSlot = some slot → s.bufUsed h.tile < 32 →
          s.resolve (s.viaTile h.tile).tenant (u.getX rs1) 64 false = .ok (.mem a) → (∀ d ∈ s.locDoms (.mem a), s.isOn d = true) →
          cacheable (s.viaTile h.tile).cl (.mem a) = false → s.homePsn a 64 = false →
          s.Gives i (fun t =>
            (∀ r, (t.th h).getX r = if r = rd ∧ r ≠ 0 then BitVec.ofNat 64 (slot + 8 * eng + 128 + 256 * (u.seq + 1)) else u.getX r) ∧
            (t.th h).slots = Tab.set u.slots none slot (some ⟨eng, u.seq + 1, none⟩) ∧ (t.th h).seq = u.seq + 1 ∧ (t.th h).pc = u.pc + 4 ∧
            (∃ c : Cmd, c.tile = h.tile ∧ c.thr = h.thr ∧ c.slot = slot ∧ c.seq = u.seq + 1 ∧ c.eng = eng ∧ c.desc = s.homeBytes a 64 ∧
              (c ∈ t.ebuf ∨ ∃ q ∈ t.eng.q, q.cmd = c)) ∧
            s.OthersKeep h t))
      takes 0 (.engMx h rd rs1) ∧ takes 1 (.engAt h rd rs1) ∧ takes 2 (.engSc h rd rs1) ∧
      takes 3 (.engCv h rd rs1) ∧ takes 4 (.engSt h rd rs1) ∧ takes 5 (.engPp h rd rs1)) ∧
  (
    ∀ (s : State) (h : Th) (rd rs1 : RegNo), s.Executes h [rd, rs1] [] → (s.th h).xpsn rs1 = false →
      let u := s.th h
      let w := u.getX rs1
      let slot := w.toNat % 8
      let stale := ∀ sl, Tab.get u.slots none slot = some sl → engHandle slot sl.eng sl.seq ≠ w
      (stale → s.Gives (.engwait h rd rs1) (s.WroteX h rd (BitVec.ofNat 64 (7 + 0xFFF * 16 + 2 ^ 63)) false (u.pc + 4)) ∧
        s.Gives (.engpoll h rd rs1) (s.WroteX h rd (BitVec.ofNat 64 (7 + 0xFFF * 16 + 2 ^ 63)) false (u.pc + 4))) ∧
      (∀ sl, Tab.get u.slots none slot = some sl → engHandle slot sl.eng sl.seq = w →
        (∀ r, sl.res = some r →
          let got : State → Prop := fun t => s.OnlyThread h t ∧ (∀ q, (t.th h).getX q = if q = rd ∧ q ≠ 0 then r else u.getX q) ∧
            Tab.get (t.th h).slots none slot = none ∧ (t.th h).pc = u.pc + 4
          s.Gives (.engwait h rd rs1) got ∧ s.Gives (.engpoll h rd rs1) got) ∧
        (sl.res = none →
          s.Gives (.engpoll h rd rs1) (s.WroteX h rd 0 false (u.pc + 4)) ∧
          s.Gives (.engwait h rd rs1) (fun t => s.OnlyThread h t ∧ t.th h = { u with st := .waitEng, waitAcc := none, deadline := w }))))

/-- Matrix, Attention and Scan commands (R166, R212 to R263, R269 to R292): the next command of a free engine instance leaves its queue and runs. An invalid descriptor gives INVALID with the code of the first check that fails; a Matrix command with no row or column, an APPEND of no token and an EVICT of a state that is not resident end OK without effect; a valid Matrix command leaves in the accumulators what its rows give, and returns how many outputs are poisoned; ATTEND, APPEND, MERGE, SCAN and CONVOLVE run to OK, POISON or FORMAT; an APPEND whose pool is empty gives QUOTA; a chunk ahead of its stream is set aside, one behind it refused; an access that was refused, a poisoned stream record and a commit that finds the sequence changed give FAULT. -/
def Obligations.EngineCommandsRun : Prop :=
  (∀ (s : State) (tile : Nat) (stop : Option Nat) (c : Cmd), tile < 128 →
    s.nextCmd 0 tile = some c → s.running 0 tile = none → (s.runs.any fun r => r.tiles.contains tile) = false → s.isOn (16 + tile / 8) = true →
    s.cmdReady c = true → s.accFirst c = false →
    let x := mxD c.desc
    let v := s.viaCmd c
    (∀ d, mxCheck c.desc = some d → s.Gives (.mxCommand tile stop) (s.BegunPlain 0 tile c 7 d 0)) ∧
    (mxCheck c.desc = none → x.m = 0 ∨ x.n = 0 → s.Gives (.mxCommand tile stop) (s.BegunPlain 0 tile c 0 0 0)) ∧
    (mxCheck c.desc = none → x.m ≠ 0 → x.n ≠ 0 →
      (∀ d, mxAlign x = some d → s.Gives (.mxCommand tile stop) (s.BegunPlain 0 tile c 7 d 0)) ∧
      (mxAlign x = none → s.mxReach v x = .bad → s.Gives (.mxCommand tile stop) (s.BegunPlain 0 tile c 7 0x00A 0)) ∧
      (∀ ds, mxAlign x = none → s.mxReach v x = .ok ds → x.act = 0 → x.scaled = false → x.tag ≤ 32 →
        (s.domCheck ds = .refuse → s.Gives (.mxCommand tile stop) (s.Begun 0 tile c fun r => r.status = 5)) ∧
        (∀ p, s.Up ds → stop = some p → s.Gives (.mxCommand tile stop) (s.Begun 0 tile c fun r => r.status = 5)) ∧
        (s.Up ds → stop = none → s.Gives (.mxCommand tile stop) (fun t =>
          let i := (s.mxRead v tile x none).2
          let o := mxCompute x i (s.tile tile) (s.mxRead v tile x none).1.free x.n
          let psn := if x.out = 6 then o.heldPsn else (o.outs.flatten.filter (·.psn)).length
          let bad := i.a.any NRow.bad || i.b.any NRow.bad
          t.tile tile = { o.tile with mxHold := .none } ∧ (∀ k, k ≠ tile → t.tile k = s.tile k) ∧
          s.Begun 0 tile c (fun r => r.status = (if x.out ≠ 6 ∧ anyPsn o.outs.flatten = true then 1 else if bad = true then 2 else 0) ∧
            r.value = min psn (2 ^ 31 - 1) ∧ r.detail % 2 = (if 0 < o.sat then 1 else 0)) t))))) ∧
  (∀ (s : State) (u : Nat) (q : QCmd), u < 16 → q.cmd.tile / 8 = u → s.EngReady 1 u q →
    let c := q.cmd
    let op := bits (field c.desc 0 1) 1 0
    let ran : State → Prop := s.Begun 1 u c fun r => r.status = 0 ∨ r.status = 1 ∨ r.status = 2
    let failed : State → Prop := s.Begun 1 u c fun r => r.status = 5
    let x := atD c.desc
    let v := s.viaCmd c
    let w := viaAt c u
    let scales : List (Nat × NFmt) → Prop := fun l => ∀ e ∈ l, s.scaleFmtBad v e.1 e.2 = false ∧ (s.scaleStart v e.1 e.2).2.valid = true ∧
      ∃ ds, s.reach v e.1 32 true locLocal = .ok ds ∧ s.Up ds
    let out := if x.out = 3 then [(x.scale, NFmt.s8)] else []
    (∀ d, atCheck c.desc = some d →
      (op = 0 ∨ op = 3 → ∀ stop, s.Gives (.attend u stop) (s.BegunPlain 1 u c 7 d 0)) ∧
      (op = 1 → ∀ stop race lost, s.Gives (.append u stop race lost) (s.BegunPlain 1 u c 7 d 0)) ∧
      (op = 2 → ∀ stop, s.Gives (.merge u stop) (s.BegunPlain 1 u c 7 d 0))) ∧
    (atCheck c.desc = none → op = 2 →
      let parts := (List.range x.g).foldl (fun r k => r.and (s.reach v (x.q + k * x.vscale) (x.rows * (64 + 4 * x.dim)) false locLocal)) (Reach.ok [])
      (parts.and (s.reach v x.o x.outLen true locLocal) = .bad → ∀ stop, s.Gives (.merge u stop) (s.BegunPlain 1 u c 7 7 0)) ∧
      (∀ ds, parts.and (s.reach v x.o x.outLen true locLocal) = .ok ds → s.Up ds → scales out → x.tag ≤ 32 →
        s.Gives (.merge u none) ran ∧ ∀ k, s.Gives (.merge u (some k)) failed)) ∧
    (∀ d0 d1, atCheck c.desc = none →
      let r := s.seqRec w x.seq
      let pools := s.poolsOf w r
      (op = 0 → (((s.reach v x.q (x.rows * x.dim * (x.wf.width / 8)) false locLocal).and (s.reach v x.o x.outLen true locLocal)).and
          ((if x.causal || x.seg then s.reach v x.rowinfo (8 * x.rows) false locLocal else .ok []).and (s.reach v x.seq 64 false locLocal))) = .ok d0 →
        let l := if r.psn || x.rows == 0 then [] else x.pageList r.pages
        let es := s.ptEntries w r l
        (if r.psnHi then Reach.ok [] else s.reach v r.poolA (64 * min r.pools 16) false locLocal).and
          (l.foldl (fun q i => q.and (s.reach v (r.pt + 4 * i) 4 false locLocal)) (.ok [])) = .ok d1 →
        (∀ d, s.Up (d0 ++ d1) → s.atRecords w x r pools es = some d → ∀ stop, s.Gives (.attend u stop) (s.BegunPlain 1 u c 7 d 0)) ∧
        (∀ d2, s.atRecords w x r pools es = none → scales out → x.tag ≤ 32 →
          s.kvReach w r pools (es.filter fun t => !t.2.2 && !(r.poolOf pools t.1).psn) false = .ok d2 → s.Up (d0 ++ d1 ++ d2) →
          s.Gives (.attend u none) ran ∧ ∀ k, s.Gives (.attend u (some k)) failed)) ∧
      (op = 1 → ((((s.reach v x.q (x.rows * (x.kvh * x.dim * x.wf.width / 8)) false locLocal).and
            (s.reach v x.o (x.rows * (x.kvh * x.dim * x.wf.width / 8)) false locLocal)).and
          ((if x.seg then s.reach v x.rowinfo (8 * x.rows) false locLocal else .ok []).and (s.reach v x.seq 64 true locLocal))) = .ok d0) →
        let tl := r.tailPages
        let es := s.ptEntries w r tl
        let both := [(x.scale, kvFmt r.nf), (x.vscale, kvFmt r.nf)]
        (if r.psnHi then Reach.ok [] else s.reach v r.poolA (64 * min r.pools 16) true locLocal).and
          (tl.foldl (fun q i => q.and (s.reach v (r.pt + 4 * i) 4 true locLocal)) (.ok [])) = .ok d1 →
        s.atRecords w x r pools es = none → x.tag ≤ 32 →
        (s.Up (d0 ++ d1) → r.psn = true → scales (if !r.psnHi ∧ (kvFmt r.nf).isBlock then both else []) → ∀ stop race lost, stop ≠ some 0 →
          s.Gives (.append u stop race lost) (s.BegunPlain 1 u c 1 0 0)) ∧
        (∀ d2 d3,
          let hdr := match es with
            | t :: _ => s.readVia w (r.pageAddr pools t) 2
            | [] => []
          let tailOk := tl != [] && pnat hdr 0 1 == r.nf && !decide (16 < pnat hdr 1 1)
          let plan := appendPlan x.rows r.pages r.tail tailOk
          let first := if r.pages = 0 then 0 else if tailOk then 16 * (r.pages - 1) + r.tail else 16 * r.pages
          r.psn = false → (∀ e ∈ es, e.2.2 = false ∧ (r.poolOf pools e.1).psn = false) → s.kvReach w r pools es true = .ok d2 → ppsn hdr 0 2 = false →
          plan.fresh.foldl (fun q p => q.and (s.reach v (r.pt + 4 * p) 4 true locLocal)) (Reach.ok []) = .ok d3 →
          (∀ p ∈ plan.fresh, kvPageSize (kvFmt r.nf) x.kvh x.dblk ≤ (r.poolOf pools p).slotSize ∧ (r.poolOf pools p).psn = false) →
          r.pages + plan.fresh.length ≤ r.cap → ((kvFmt r.nf).isBlock = true → scales both) → s.Up (d0 ++ d1 ++ d2 ++ d3) →
          (∀ race lost, s.Gives (.append u (some 0) race lost) (s.BegunPlain 1 u c 5 0 0)) ∧
          (x.rows = 0 → ∀ stop race lost, stop ≠ some 0 → s.Gives (.append u stop race lost) (s.BegunPlain 1 u c 0 0 first)) ∧
          (x.rows ≠ 0 →
            let s0 := s.readAll w ((x.seq, 64) :: ((List.range pools.length).map fun k => (r.poolA + 64 * k, 64)) ++ es.map fun t => (r.pt + 4 * t.1, 4))
            (∀ s1 got d4, s0.popAll w r plan.fresh [] = (s1, got, .done) →
              s1.kvReach w r pools (got.map fun g => (g.1, g.2, false)) true = .ok d4 → s.Up d4 → ∀ lost,
              s.Gives (.append u none false lost) (s.Begun 1 u c fun k => (k.status = 0 ∨ k.status = 1) ∧ k.value = first) ∧
              s.Gives (.append u none true lost) (s.Begun 1 u c fun k => k.status = 5 ∧ k.detail = 0x0E0) ∧
              ∀ k race, s.Gives (.append u (some (k + 1)) race lost) (s.Begun 1 u c fun k => k.status = 5 ∧ k.detail = 0)) ∧
            (∀ s1 got e stop race lost, stop ≠ some 0 → s0.popAll w r plan.fresh [] = (s1, got, e) →
              ((∃ p, e = .empty p) → s.Gives (.append u stop race lost) (s.Begun 1 u c fun k => k.status = 6 ∧ k.detail = 0x0D0)) ∧
              (e = .range → s.Gives (.append u stop race lost) (s.Begun 1 u c fun k => k.status = 5 ∧ k.detail = 0x0E1)) ∧
              (e = .poison → s.Gives (.append u stop race lost) (s.Begun 1 u c fun k => k.status = 1 ∧ k.detail = 0)))))))) ∧
  (∀ (s : State) (u : Nat) (q : QCmd), u < 16 → q.cmd.tile / 8 = u → s.EngReady 2 u q →
    let c := q.cmd
    let op := bits (field c.desc 0 1) 1 0
    let x := scD c.desc
    let v := s.viaCmd c
    let r := s.stRec c.tenant x.stream
    let d := seqAhead x.seq r.next
    let aside : Nat → State → Prop := fun why t => (∃ p ∈ t.queueOf 2 u, p.cmd = c ∧ p.aside = why) ∧ t.runs = s.runs ∧ t.threads = s.threads
    let ends : Nat → Nat → Nat → Prop := fun st k val =>
      (op = 0 ∨ op = 3 → ∀ stop race, s.Gives (.scan u stop race) (s.BegunPlain 2 u c st k val)) ∧
      (op = 1 → ∀ stop, s.Gives (.convolve u stop) (s.BegunPlain 2 u c st k val)) ∧
      (op = 2 → ∀ stop, s.Gives (.evict u stop) (s.BegunPlain 2 u c st k val))
    (scReserved c.desc = true → ends 7 1 0) ∧
    (scReserved c.desc = false → x.lenOk = false → ends 7 2 0) ∧
    (∀ d0, scReserved c.desc = false → x.lenOk = true → s.reach v x.stream 64 true locLocal = .ok d0 → s.Up d0 →
      (∀ k, s.scRecords c u r = some k → ends 7 k 0) ∧
      (∀ d1, s.scRecords c u r = none → s.scReach v x r = .ok d1 → s.Up d1 →
        (∀ k, s.scScales c = some k → ends 7 k 0) ∧
        (s.scScales c = none → r.psn = true → ends 5 0x0C0 0) ∧
        (s.scScales c = none → r.psn = false →
          let kept := r.resident = true ∧ s.scLost c.tenant x.stream r = false
          (op = 0 → d ≠ 0 → d < 2 ^ 63 → ∀ stop race, s.Gives (.scan u stop race) (aside 1)) ∧
          (op = 0 → 2 ^ 63 ≤ d → ∀ stop race, s.Gives (.scan u stop race) (s.Begun 2 u c fun r => r.status = 7 ∧ r.detail = 0x00A)) ∧
          (op = 0 → d = 0 → r.resident = false → ∀ stop race, s.Gives (.scan u stop race) (aside 3)) ∧
          (op = 0 → d = 0 → kept → r.cluster ≠ u → ∀ stop race, s.Gives (.scan u stop race) (fun t => aside 2 t ∧ (r.cluster, c.tenant, x.stream) ∈ t.sc.saves)) ∧
          (op = 0 → d = 0 → kept → r.cluster = u →
            s.Gives (.scan u none false) (s.Begun 2 u c fun r => r.status = 0 ∨ r.status = 1 ∨ r.status = 2) ∧
            s.Gives (.scan u none true) (s.Begun 2 u c fun r => r.status = 5 ∧ r.detail = 0x0C2) ∧
            ∀ k race, s.Gives (.scan u (some k) race) (s.Begun 2 u c fun r => r.status = 5)) ∧
          (op = 1 → (x.sequenced = true → d = 0) → (x.needs = true → kept ∧ r.cluster = u) →
            s.Gives (.convolve u none) (s.Begun 2 u c fun r => r.status = 0 ∨ r.status = 1 ∨ r.status = 2) ∧
            ∀ k, s.Gives (.convolve u (some k)) (s.Begun 2 u c fun r => r.status = 5)) ∧
          (op = 2 → r.resident = false → ∀ stop, s.Gives (.evict u stop) (s.BegunPlain 2 u c 0 (if q.fault = true then 8 else 0) q.slots)) ∧
          (op = 2 → r.resident = true → s.scLost c.tenant x.stream r = true → s.Gives (.evict u false) (s.Begun 2 u c fun r => r.status = 0 ∧ r.value = 1)) ∧
          (op = 2 → kept → r.cluster ≠ u → ∀ stop, s.Gives (.evict u stop) (aside 2)) ∧
          (op = 2 → r.resident = true → r.cluster = u → s.Gives (.evict u true) (s.Begun 2 u c fun r => r.status = 5 ∧ r.detail = 0x0C1)) ∧
          (∀ y, op = 2 → kept → r.cluster = u → s.scFind u c.tenant x.stream = some y → s.saveTry y = .ready →
            s.Gives (.evict u false) (fun t => s.Begun 2 u c (fun r => r.status = 0 ∧ r.value = 1) t ∧
              ∀ z ∈ t.sc.st, ¬(z.cluster = y.cluster ∧ z.tenant = y.tenant ∧ z.va = y.va)))))))

/-- Convolution, Stem and Post-processing commands (R300 to R333): validated and run as those of R166; an invalid descriptor gives INVALID, one with no output ends OK, a poisoned extension record gives FAULT; a Convolution command whose halo rows or slots are not there is set aside, and a row that differs from what it expects gives FAULT 0x0D1; Stem and Post-processing commands fail when their wait for D14 reached its limit; a Post-processing command returns how many boxes it kept. -/
def Obligations.ImageCommandsRun : Prop :=
  (∀ (s : State) (u : Nat) (q : QCmd), u < 16 → s.EngReady 3 u q → q.conv = [] → ∀ stop,
    let c := q.cmd
    let v := s.viaCmd c
    let s1 := (s.cvExt v (field c.desc 56 8)).1
    let eb := (s.cvExt v (field c.desc 56 8)).2
    let x := cvD false c.desc (eb.map (·.1))
    let found := ∀ k ∈ x.haloNeed, ∃ h, s.haloFind u c.ctx x k = some h ∧ h.fmt = x.inK ∧ h.comp = x.inComp ∧ h.len = x.inL
    let credit := q.slots = 1 ∨ x.sendList = [] ∨ (s.haloReserve c x).isSome = true
    let aside : State → Prop := fun t => (∃ p ∈ t.queueOf 3 u, p.cmd = c ∧ p.aside = 4) ∧ t.runs = s.runs ∧ t.threads = s.threads
    (s.reach v (field c.desc 56 8) 64 false locLocal = .bad ∨ ∃ d0, s.reach v (field c.desc 56 8) 64 false locLocal = .ok d0 ∧ s.Up d0) →
    (∀ d, s1.cvValidate v c x (eb.map (·.1)) u = some d → s.Gives (.convCommand u stop) (s1.BegunPlain 3 u c 7 d 0)) ∧
    (∀ ds, s1.cvValidate v c x (eb.map (·.1)) u = none → s1.cvReach v x = .ok ds → s.Up ds →
      (∀ d, s1.cvScales v x false = some d → s.Gives (.convCommand u stop) (s1.BegunPlain 3 u c 7 d 0)) ∧
      (s1.cvScales v x false = none →
        let none_ := x.rowCount = 0 ∨ x.cout = 0 ∨ x.outW = 0
        let psn := ppsn eb 0 16 || ppsn eb 32 32
        (none_ → s.Gives (.convCommand u stop) (s1.BegunPlain 3 u c 0 0 0)) ∧
        (¬ none_ → psn = true → s.Gives (.convCommand u stop) (s1.BegunPlain 3 u c 5 0 0)) ∧
        (¬ none_ → psn = false →
          ((∃ k ∈ x.haloNeed, s.haloFind u c.ctx x k = none) ∨ ¬ credit → s.Gives (.convCommand u stop) aside) ∧
          (credit → (∀ k ∈ x.haloNeed, (s.haloFind u c.ctx x k).isSome = true) →
            (∃ k ∈ x.haloNeed, ∃ h, s.haloFind u c.ctx x k = some h ∧ (h.fmt ≠ x.inK ∨ h.comp ≠ x.inComp ∨ h.len ≠ x.inL)) →
            s.Gives (.convCommand u stop) (s.Begun 3 u c fun r => r.status = 5 ∧ r.detail = 0x0D1)) ∧
          (credit → found → (∀ k ∈ x.tiles u, s.running 0 k = none ∧ ∀ e ∈ s.ebuf, ¬(e.eng = 0 ∧ e.tile = k)) →
            (stop = none → s.Gives (.convCommand u stop) (s.Begun 3 u c fun r => (r.status = 0 ∨ r.status = 1 ∨ r.status = 2) ∧ r.tiles = x.tiles u)) ∧
            (stop ≠ none → s.Gives (.convCommand u stop) (s.Begun 3 u c fun r => r.status = 5))))))) ∧
  (∀ (s : State) (q : QCmd), s.EngReady 4 0 q → q.conv = [] → ∀ stop,
    let c := q.cmd
    let v := s.viaCmd c
    let s1 := (s.cvExt v (field c.desc 56 8)).1
    let eb := (s.cvExt v (field c.desc 56 8)).2
    let x := cvD true c.desc (eb.map (·.1))
    (s.reach v (field c.desc 56 8) 64 false locLocal = .bad ∨ ∃ d0, s.reach v (field c.desc 56 8) 64 false locLocal = .ok d0 ∧ s.Up d0) →
    (∀ d, s1.cvValidate v c x (eb.map (·.1)) 0 = some d → s.Gives (.stemCommand false stop) (s1.BegunPlain 4 0 c 7 d 0)) ∧
    (∀ ds, s1.cvValidate v c x (eb.map (·.1)) 0 = none → s1.cvReach v x = .ok ds → s.Up ds →
      (∀ d, s1.cvScales v x false = some d → s.Gives (.stemCommand false stop) (s1.BegunPlain 4 0 c 7 d 0)) ∧
      (s1.cvScales v x false = none →
        let none_ := x.rowCount = 0 ∨ x.cout = 0 ∨ x.outW = 0
        let psn := ppsn eb 0 16 || ppsn eb 32 32
        (none_ → s.Gives (.stemCommand false stop) (s1.BegunPlain 4 0 c 0 0 0)) ∧
        (¬ none_ → psn = true → s.Gives (.stemCommand false stop) (s1.BegunPlain 4 0 c 5 0 0)) ∧
        (¬ none_ → psn = false →
          (stop = none → s.Gives (.stemCommand false stop) (s.Begun 4 0 c fun r => r.status = 0 ∨ r.status = 1 ∨ r.status = 2)) ∧
          (stop ≠ none → s.Gives (.stemCommand false stop) (s.Begun 4 0 c fun r => r.status = 5)))))) ∧
  (∀ (s : State) (q : QCmd), s.isOn 14 = false → q.hold.doms.isSome = true →
    (s.engNext 4 0 = some q → s.running 4 0 = none → ∀ stop, s.Gives (.stemCommand true stop) (s.Begun 4 0 q.cmd fun r => r.status = 5)) ∧
    (s.engNext 5 0 = some q → s.running 5 0 = none → ∀ stop, s.Gives (.ppCommand true stop) (s.Begun 5 0 q.cmd fun r => r.status = 5))) ∧
  (∀ (s : State) (q : QCmd), s.EngReady 5 0 q → ∀ stop,
    let c := q.cmd
    let v := s.viaCmd c
    let x := ppD c.desc
    (∀ d, ppValidate c.desc x = some d → s.Gives (.ppCommand false stop) (s.BegunPlain 5 0 c 7 d 0)) ∧
    (ppValidate c.desc x = none → s.ppReach v x = .bad → s.Gives (.ppCommand false stop) (s.BegunPlain 5 0 c 7 6 0)) ∧
    (∀ ds, ppValidate c.desc x = none → s.ppReach v x = .ok ds → s.Up ds →
      (stop = true → s.Gives (.ppCommand false stop) (s.BegunPlain 5 0 c 5 0 0)) ∧
      (stop = false → s.Gives (.ppCommand false stop) (s.Begun 5 0 c fun r =>
        let cs := (s.ppCells v x).2.1
        let sorted := cs.foldl (fun l c => candIns c l) []
        r.value = (x.suppress ((sorted.take x.presel).map fun q => x.decode q.1 q.2.1 q.2.2.1 q.2.2.2) []).1.length ∧
        r.value ≤ x.maxOut ∧ (r.detail % 2 = 1 ↔ x.presel < cs.length) ∧
        r.status = (if (s.ppCells v x).2.2.1 = true then 1 else if (s.ppCells v x).2.2.2 = true then 2 else 0))))) ∧
  (∀ (s : State) (u idx : Nat) (q : QCmd), u < 16 → (s.queueOf 3 u)[idx]? = some q → q.aside = 4 →
    (s.isOn (16 + u) = true → s.Gives (.cvSetAsideReexamine u idx) (fun t => t.runs = s.runs ∧ t.threads = s.threads ∧ t.jobs = s.jobs ∧
      ∃ p ∈ t.queueOf 3 u, p.cmd.same q.cmd = true ∧ (p.aside = 0 ∨ p.aside = 4))) ∧
    (s.asideNs q ≤ s.limitNs (A.CV_HALO_LIMIT u) → s.Gives (.cvHaloLimitExpiry u idx) (fun t => t = s)) ∧
    (s.limitNs (A.CV_HALO_LIMIT u) < s.asideNs q → s.running 3 u = none → s.Gives (.cvHaloLimitExpiry u idx) (fun t =>
      s.Begun 3 u q.cmd (fun r => r.status = 5 ∧ r.detail = 0x0D0) t ∧ t.mem = s.mem))) ∧
  (∀ (s : State) (u idx : Nat) (q : QCmd), u < 16 → (s.queueOf 2 u)[idx]? = some q → s.isOn (16 + u) = true →
    let x := scD q.cmd.desc
    let v := viaSc u q.cmd.tenant q.cmd.part
    let r := s.stRec q.cmd.tenant x.stream
    let d := seqAhead x.seq r.next
    (q.aside = 1 → d = 0 → s.Gives (.scSetAsideReexamine u idx) (fun t => t = s.setQ { q with aside := 0 })) ∧
    (q.aside = 1 → d ≠ 0 → d < 2 ^ 63 → s.Gives (.scSetAsideReexamine u idx) (fun t => t = s)) ∧
    (q.aside = 1 → 2 ^ 63 ≤ d → s.running 2 u = none → s.Gives (.scSetAsideReexamine u idx) (s.Begun 2 u q.cmd fun r => r.status = 7 ∧ r.detail = 0x00A)) ∧
    (q.aside = 1 → d ≠ 0 → d < 2 ^ 63 → s.limitNs (A.SC_ORDER_LIMIT u) ≤ s.aheadNs q → s.running 2 u = none →
      s.Gives (.scOrderLimitExpiry u idx) (s.Begun 2 u q.cmd fun r => r.status = 7 ∧ r.detail = 0x00B)) ∧
    (q.aside = 1 → s.aheadNs q < s.limitNs (A.SC_ORDER_LIMIT u) → s.Gives (.scOrderLimitExpiry u idx) (fun t => t = s)) ∧
    (q.aside = 3 →
      (s.running 2 u = none → s.Gives (.scStateLoadDone u idx true) (s.Begun 2 u q.cmd fun r => r.status = 5 ∧ r.detail = 0x0C1)) ∧
      (r.resident = true → s.Gives (.scStateLoadDone u idx false) (fun t => (∃ p ∈ t.queueOf 2 u, p.cmd = q.cmd ∧ p.aside = 0) ∧ t.sc = s.sc ∧ t.mem = s.mem)) ∧
      (∀ ds s2, r.resident = false → (s.reach v x.stream 64 true locLocal).and (s.reach v r.save r.bytes true locLocal) = .ok ds → s.Up ds →
        s.scMake u q.cmd.part q.cmd.tenant r.units = (s2, .ready) →
        s.Gives (.scStateLoadDone u idx false) (fun t => (∃ p ∈ t.queueOf 2 u, p.cmd = q.cmd ∧ p.aside = 0) ∧
          ∃ y, t.sc.st.head? = some y ∧ y.cluster = u ∧ y.tenant = q.cmd.tenant ∧ y.va = x.stream ∧ y.part = q.cmd.part ∧
            y.els = unpack (stFmt r.fmt).width r.width (s2.readVia v r.save r.bytes))))) ∧
  (∀ (s : State) (idx u n va : Nat), s.sc.saves[idx]? = some (u, n, va) →
    (s.scFind u n va = none → ∀ fail, s.Gives (.scStateSaveDone idx fail) (fun t => t = { s with sc := { s.sc with saves := listDel s.sc.saves idx } })) ∧
    (∀ y, s.scFind u n va = some y → s.scBusy y = true → ∀ fail, s.Gives (.scStateSaveDone idx fail) (fun t => t = s)) ∧
    (∀ y, s.scFind u n va = some y → s.scBusy y = false → s.isOn (16 + u) = true →
      (s.saveTry y = .ready → s.Gives (.scStateSaveDone idx false) (fun t => t.threads = s.threads ∧ t.sc.saves = listDel s.sc.saves idx ∧
        ∀ z ∈ t.sc.st, z ∈ s.sc.st ∧ ¬(z.cluster = y.cluster ∧ z.tenant = y.tenant ∧ z.va = y.va))) ∧
      s.Gives (.scStateSaveDone idx true) (fun t => t.sc.st = s.sc.st ∧ t.mem = s.mem ∧ t.threads = s.threads))) ∧
  (∀ (s : State) (u : Nat) (above : Bool), u < 16 →
    ((∀ h ∈ s.halo, ¬(h.cluster = u ∧ h.above = above ∧ h.stage = 1)) → s.Gives (.haloRowArrival u above) (fun t => t = s)) ∧
    (∀ pre h post, s.halo = pre ++ h :: post → h.cluster = u → h.above = above → h.stage = 1 →
      (∀ g ∈ pre, ¬(g.cluster = u ∧ g.above = above ∧ g.stage = 1)) → s.isOn (16 + u) = true →
      s.Gives (.haloRowArrival u above) (fun t => t = { s with halo := pre ++ { h with stage := 2 } :: post })))

/-- Results of engine commands (R169, R170, R183, R234): when the running command of an engine returns, it leaves the engine, CMD_COUNT grows by one and BUSY_CYCLES by the cycles it ran, and the result word of its STATUS, DETAIL and VALUE stands in the issuing thread's slot, DETAIL telling an overrun of a command that was not INVALID; a thread that waits for the result is READY. A Scan command commits first (R279, R287): its stream's state takes the new elements, unless NEXT_SEQ is no longer its chunk's number, which gives FAULT 0x0C2. -/
def Obligations.EngineResultsReturn : Prop :=
  ∀ (s : State) (cycles ns : Nat),
    let returns : Nat → Nat → Option Nat → Nat → Nat → Nat → Nat → (Run → Nat) → Instr → Prop := fun e u n cnt busy lim lev ov i =>
      ∀ r, s.running e u = some r → r.cmd.thr < 16 → (∀ k, n = some k → r.cmd.tenant = k) → s.resultReady r = true → r.commit = none →
        let late := overrun (s.fget lim (15, 0)) lev ns
        let u0 := s.thread r.cmd.tile r.cmd.thr
        (late = false → s.Gives i (fun t => (∀ x ∈ t.runs, x ∈ s.runs ∧ x.cmd.same r.cmd = false) ∧
          (∀ sl, Tab.get u0.slots none r.cmd.slot = some sl → sl.seq = r.cmd.seq →
            Tab.get (t.thread r.cmd.tile r.cmd.thr).slots none r.cmd.slot = some { sl with res := some (BitVec.ofNat 64
              (r.status % 16 + r.detail % 4096 * 16 + r.value % 2 ^ 31 * 2 ^ 32 + 2 ^ 63)) }) ∧
          (u0.st = .waitEng → u0.waitAcc = none → (t.thread r.cmd.tile r.cmd.thr).st = .ready) ∧
          (∀ a b, b < 16 → a ≠ r.cmd.tile → t.thread a b = s.thread a b) ∧
          (r.bumps = [] → r.scale = [] → r.assay = none → s.RegsBut [cnt, busy] t ∧ t.mem = s.mem ∧
            t.rd cnt = BitVec.ofNat 64 (min ((s.rd cnt).toNat + 1) (2 ^ 64 - 1)) ∧
            t.rd busy = BitVec.ofNat 64 (min ((s.rd busy).toNat + cycles) (2 ^ 64 - 1))))) ∧
        (late = true → s.Gives i (fun t => (∀ x ∈ t.runs, x ∈ s.runs ∧ x.cmd.same r.cmd = false) ∧
          (∀ sl, Tab.get u0.slots none r.cmd.slot = some sl → sl.seq = r.cmd.seq →
            Tab.get (t.thread r.cmd.tile r.cmd.thr).slots none r.cmd.slot = some { sl with res := some (BitVec.ofNat 64
              (r.status % 16 + (r.detail + if r.status = 7 then 0 else ov r) % 4096 * 16 + r.value % 2 ^ 31 * 2 ^ 32 + 2 ^ 63)) })))
    (∀ tile, tile < 128 → returns 0 tile none (A.MX_CMD_COUNT tile) (A.MX_BUSY_CYCLES tile) (A.MX_NP_LIMIT tile) (s.clkLevel (tile / 8)) (fun _ => 8) (.mxResult tile cycles ns)) ∧
    (∀ u n, u < 16 → n < 8 →
      returns 1 u (some n) (A.AT_CMD_COUNT u n) (A.AT_BUSY_CYCLES u n) (A.AT_NP_LIMIT u) (s.clkLevel u) (fun r => if 32 ≤ r.detail then 0 else 4) (.atResult u cycles ns) ∧
      returns 2 u (some n) (A.SC_CMD_COUNT u n) (A.SC_BUSY_CYCLES u n) (A.SC_NP_LIMIT u) (s.clkLevel u) (fun r => if 64 ≤ r.detail then 0 else 4) (.scResult u cycles ns) ∧
      returns 3 u (some n) (A.CV_CMD_COUNT u n) (A.CV_BUSY_CYCLES u n) (A.CV_NP_LIMIT u) (s.clkLevel u) (fun r => if 32 ≤ r.detail then 0 else 4) (.cvResult u cycles ns)) ∧
    (∀ n, n < 8 →
      returns 4 0 (some n) (A.ST_CMD_COUNT n) (A.ST_BUSY_CYCLES n) A.ST_NP_LIMIT 2 (fun _ => 4) (.stResult cycles ns) ∧
      returns 5 0 (some n) (A.PP_CMD_COUNT n) (A.PP_BUSY_CYCLES n) A.PP_NP_LIMIT 2 (fun _ => 2) (.ppResult cycles ns)) ∧
    (∀ u r m ds, u < 16 → s.running 2 u = some r → r.cmd.thr < 16 → s.resultReady r = true → r.commit = some m →
      s.reach (viaSc u m.tenant r.cmd.part) m.va 64 true locLocal = .ok ds → s.Up ds →
      let next := (s.stRec m.tenant m.va).next
      (∀ y els, (∀ k, m.next = some k → k = (next + 1) % 2 ^ 64) → s.scFind u m.tenant m.va = some y → m.els = some els →
        s.Gives (.scResult u cycles ns) (fun t => (∀ x ∈ t.runs, x ∈ s.runs ∧ x.cmd.same r.cmd = false) ∧ t.sc.st.head? = some { y with els := els })) ∧
      (∀ k sl, m.next = some k → k ≠ (next + 1) % 2 ^ 64 → Tab.get (s.thread r.cmd.tile r.cmd.thr).slots none r.cmd.slot = some sl → sl.seq = r.cmd.seq →
        s.Gives (.scResult u cycles ns) (fun t => t.sc.st = s.sc.st ∧
          ∃ val, Tab.get (t.thread r.cmd.tile r.cmd.thr).slots none r.cmd.slot = some { sl with res := some (BitVec.ofNat 64 (5 + 0x0C2 * 16 + val % 2 ^ 31 * 2 ^ 32 + 2 ^ 63)) })))

/-- A register write of a requester outside the tiles (R5, R6, R8, R10, R66): to a register whose domain is On it takes effect by its block's rules when its size and alignment are the register's and the requester may write there; otherwise nothing is written. A field takes a write by its access code: RW takes the value, RO keeps its own, W1C and W1S clear and set the bits written one, RWL takes the value until the plat locks it; a reserved encoding keeps the field. -/
def Obligations.RegisterWrites : Prop :=
  (∀ (s : State) (who : Who) (a n : Nat) (v : Word), s.Up [regDom a] → s.extq = [] →
    (regAt a = none → s.Gives (.registerWrite who a n v) (fun t => t = s)) ∧
    (∀ h, regAt a = some h →
      (h.sizeOk a n = false → s.Gives (.registerWrite who a n v) (fun t => t = s)) ∧
      (h.sizeOk a n = true → s.regOk who h true = false → s.Gives (.registerWrite who a n v) (fun t => t = s.regRefused who)) ∧
      (h.sizeOk a n = true → s.regOk who h true = true → h.reg.win = 0 →
        s.Gives (.registerWrite who a n v) (fun t => t = (s.regWrite ⟨who, none⟩ h a (v.toNat % 2 ^ (8 * n))).1)) ∧
      (h.sizeOk a n = true → s.regOk who h true = true → h.reg.win = 0 → ["MX", "AT", "SC", "CV", "ST", "PP"].contains h.blk = true →
        commandReg h.reg.name = false → s.Gives (.registerWrite who a n v) (fun t => t = s.writeReg a (v.toNat % 2 ^ (8 * n)) h.reg)) ∧
      (h.sizeOk a n = true → s.regOk who h true = true → h.reg.win ≠ 0 →
        s.Gives (.registerWrite who a n v) (fun t => t = s.winWrite h n v.toNat)))) ∧
  (∀ (s : State) (who : Who) (a n : Nat) (v : Word), s.isOn (regDom a) = false → (s.dom (regDom a)).entering = none → (s.domE (regDom a)).wakeAcc = true → s.extq = [] →
    s.Gives (.registerWrite who a n v) (fun t => t.regs = s.regs ∧ t.mem = s.mem ∧ t.extq = [.reg who a n v.toNat])) ∧
  (∀ (s : State) (who : Who) (a n : Nat) (v : Word), ∃ t, exec (.registerWrite who a n v) s = .next t) ∧
  (∀ (s : State) (a v : Nat) (f : Fld), f.lo ≤ f.hi → f.hi < 64 →
    let x := bits v f.hi f.lo
    let old := s.fget a (f.hi, f.lo)
    let t := s.writeField a v f
    s.OnlyRegs [a] t ∧ (∀ hi lo, lo ≤ hi → (hi < f.lo ∨ f.hi < lo) → t.fget a (hi, lo) = s.fget a (hi, lo)) ∧
    t.fget a (f.hi, f.lo) =
      if f.rsv.contains x then old
      else match f.acc with
      | .rw => x
      | .ro => old
      | .wo => old
      | .w1c => old - (old &&& x)
      | .w1s => old ||| x
      | .rwl => if s.plat.locked then old else x)

/-- The mapping commands (R78 to R82, R87, R96): a command of a tenant on its own page, not BUSY, ends with STATUS and DETAIL and the entry in VC_CMD_ENTRY. MAP sets the entry and takes a zeroed frame, UNMAP clears the entry and frees and zeroes its frame, PROTECT replaces WRITABLE and PINNED, MIGRATE queues a move, QUERY only reports; an UNMAP of a moving page waits; no cached translation of a page survives a change of its entry (R78); a command that fails changes nothing else; one during BUSY sets OVERRUN alone; a read of VC_MIG_RESULT removes the oldest result. -/
def Obligations.MappingCommands : Prop :=
  ∀ (s : State) (n page : Nat), n < 8 → page < 2 ^ 19 →
    let st := A.VC_CMD_STATUS n
    let e := s.ent n page
    let ended : Nat → Nat → State → Prop := fun status detail t =>
      t.flag st F.VC_CMD_STATUS_BUSY = false ∧ t.fget st F.VC_CMD_STATUS_STATUS = status ∧ t.fget st F.VC_CMD_STATUS_DETAIL = detail ∧
      t.rd (A.VC_CMD_ENTRY n) = t.ent n page ∧ s.RegsBut [st, A.VC_CMD_ENTRY n] t ∧
      ∀ m q, m * 2 ^ 19 + q ≠ n * 2 ^ 19 + page → t.ent m q = s.ent m q
    let fails : Nat → Nat → State → Prop := fun status detail t => ended status detail t ∧ s.OnlyRegs [st, A.VC_CMD_ENTRY n] t
    let mapped : Nat → Nat → Nat → Bool → Bool → State → Prop := fun tier frame cls wr pin t =>
      let f := t.ent n page
      entValid f = true ∧ entTier f = tier ∧ entFrame f = frame ∧ entClass f = cls ∧ entWritable f = wr ∧ entPinned f = pin ∧
      entMigrating f = false ∧ entPoisoned f = false ∧ ∀ c ∈ t.tlb, c.2.contains (n * 2 ^ 19 + page) = false
    let gone : State → Prop := fun t => t.ent n page = 0 ∧ ∀ c ∈ t.tlb, c.2.contains (n * 2 ^ 19 + page) = false
    let onlyEnts : State → Prop := fun t => t = { s with regs := t.regs, vc := { s.vc with ents := t.vc.ents }, tlb := t.tlb }
    let took : Nat → Bool → State → Prop := fun k pin t =>
      t.frame k = ⟨true, n, pin, false⟩ ∧ (∀ j, j ≠ k → t.frame j = s.frame j) ∧
      (∀ i, i < pageSize → t.byte (frameAddr k + i) = 0) ∧ s.BytesBut (frameAddr k) pageSize t ∧
      t = { s with regs := t.regs, vc := t.vc, mem := t.mem, psn := t.psn, tlb := t.tlb }
    let busy := s.flag st F.VC_CMD_STATUS_BUSY
    (busy = true → s.Gives (.query (.tenant n) n page) (fun t => s.OnlyRegs [st] t ∧ t.flag st F.VC_CMD_STATUS_OVERRUN = true)) ∧
    (busy = false → s.Gives (.query (.tenant n) n page) (fails 0 0)) ∧
    (∀ tier cls loc peer wr pin strict, busy = false → tier < 4 → cls < 5 → loc < 2 ^ 16 → peer < 2 ^ 14 →
      let does := s.Gives (.map (.tenant n) n page tier cls wr pin strict loc peer)
      let u := if tier = 1 then loc % 128 else loc % 4
      let here := (tier = 1 ∧ s.ownsVault n u = true) ∨ (tier = 2 ∧ s.ownsChan n u = true ∧ s.trained u ≠ 0)
      (entValid e = true → does (fails 7 1)) ∧
      (entValid e = false →
        (tier = 0 → s.ownsTile n (loc % 128) = false → does (fails 7 3)) ∧
        (tier = 0 → s.ownsTile n (loc % 128) = true → does (fun t => ended 0 0 t ∧ mapped 0 (loc % 128) cls wr pin t ∧ onlyEnts t)) ∧
        (tier = 3 → (s.route peer).isSome = true → s.usedPages n 3 + 1 ≤ s.quota n 3 →
          does (fun t => ended 0 0 t ∧ mapped 3 (loc + peer * 65536) cls wr pin t ∧ onlyEnts t)) ∧
        (∀ k, here → s.usedPages n tier + 1 ≤ s.quota n tier → s.pickFrame n tier u strict = some k → k < 98304 →
          (tier = 1 ↔ k < 65536) → does (fun t => ended 0 0 t ∧ mapped tier (k % 65536) cls wr pin t ∧ took k pin t)) ∧
        (here → s.usedPages n tier + 1 ≤ s.quota n tier → s.pickFrame n tier u strict = none → does (fails 5 7)) ∧
        (here → s.quota n tier < s.usedPages n tier + 1 → does (fun t =>
          t.fget st F.VC_CMD_STATUS_STATUS = 6 ∧ t.fget st F.VC_CMD_STATUS_DETAIL = 6 ∧ t.ent n page = e ∧
          t.fget (A.VC_QUOTA_REFUSED n) (31, 0) = min (s.fget (A.VC_QUOTA_REFUSED n) (31, 0) + 1) (2 ^ 32 - 1) ∧
          s.OnlyRegs [st, A.VC_CMD_ENTRY n, A.VC_QUOTA_REFUSED n] t)))) ∧
    (busy = false →
      let does := s.Gives (.unmap (.tenant n) n page)
      (entValid e = false → does (fails 7 2)) ∧
      (entValid e = true → s.moving n page = true → does (fun t => t.flag st F.VC_CMD_STATUS_BUSY = true ∧ s.RegsBut [st] t ∧
        t = { s with regs := t.regs, vc := { s.vc with unmapWait := s.vc.unmapWait ++ [(n, page)] } })) ∧
      (entValid e = true → s.moving n page = false → s.LinesAligned →
        (entTier e = 0 → does (fun t => ended 0 0 t ∧ gone t ∧ onlyEnts t)) ∧
        (∀ k, entKey e = some k → (entTier e = 2 → ∀ c, s.inlineEcc c = true) → does (fun t => ended 0 0 t ∧ gone t ∧
          t.frame k = Frame.free ∧ (∀ i, i < pageSize → t.byte (frameAddr k + i) = 0) ∧ s.BytesBut (frameAddr k) pageSize t ∧
          t = { s with regs := t.regs, vc := t.vc, mem := t.mem, psn := t.psn, caches := t.caches, tlb := t.tlb, arb := t.arb })) ∧
        (entTier e = 3 → does (fun t => ended 0 0 t ∧ gone t ∧
          t = { s with regs := t.regs, vc := { s.vc with ents := t.vc.ents }, caches := t.caches, tlb := t.tlb })))) ∧
    (∀ wr pin, busy = false →
      let does := s.Gives (.protect (.tenant n) n page wr pin)
      (entValid e = false → does (fails 7 2)) ∧
      (entValid e = true → s.moving n page = true → does (fails 7 5)) ∧
      (entValid e = true → s.moving n page = false → does (fun t =>
        let f := t.ent n page
        ended 0 0 t ∧ entWritable f = wr ∧ entPinned f = pin ∧ entValid f = true ∧ entTier f = entTier e ∧ entFrame f = entFrame e ∧
        entClass f = entClass e ∧ entPoisoned f = entPoisoned e ∧ (∀ k, entKey e = some k → t.frame k = { s.frame k with pinned := pin }) ∧
        (∀ c ∈ t.tlb, c.2.contains (n * 2 ^ 19 + page) = false) ∧ t = { s with regs := t.regs, vc := t.vc, tlb := t.tlb }))) ∧
    (∀ tier strict loc, busy = false → tier < 3 → loc < 2 ^ 16 →
      let does := s.Gives (.migrate (.tenant n) n page tier strict loc)
      let u := if tier = 2 then loc % 4 else loc % 128
      let there := (tier = 0 ∧ s.ownsTile n u = true ∧ (entTier e ≠ 0 ∨ entFrame e ≠ u)) ∨
        (tier = 1 ∧ s.ownsVault n u = true ∧ (entTier e ≠ 1 ∨ entFrame e / 384 ≠ u))
      let room := (s.vc.moves.filter fun m => m.tenant == n).length + (Tab.get s.vc.results [] n).length < 8
      (entValid e = false → does (fails 7 2)) ∧
      (entValid e = true → there →
        (entPinned e = true → does (fails 7 4)) ∧
        (entPinned e = false → s.moving n page = true → does (fails 7 5)) ∧
        (entPinned e = false → s.moving n page = false → room →
          (tier = 0 → does (fun t => ended 0 0 t ∧ t.ent n page = e ∧
            t = { s with regs := t.regs, vc := { s.vc with moves := s.vc.moves ++ [⟨n, page, 0, u, false, []⟩] } })) ∧
          (∀ k, tier = 1 → s.usedPages n 1 + 1 ≤ s.quota n 1 → s.pickFrame n 1 u strict = some k → k < 65536 →
            does (fun t => ended 0 0 t ∧ t.ent n page = e ∧ took k false t ∧ t.vc.moves = s.vc.moves ++ [⟨n, page, 1, k, false, []⟩] ∧ t.tlb = s.tlb))))) ∧
    (s.vc.unmapWait.contains (n, page) = true → s.moving n page = false → entTier e = 0 →
      s.Gives (.unmapAfterMove n page) (fun t => ended 0 0 t ∧ gone t ∧
        t.vc.unmapWait = s.vc.unmapWait.filter (fun x => x != (n, page)) ∧ t = { s with regs := t.regs, vc := t.vc, tlb := t.tlb })) ∧
    (∀ r rs, Tab.get s.vc.results [] n = r :: rs → s.Gives (.migResultRead (.tenant n) n) (fun t =>
      Tab.get t.vc.results [] n = rs ∧ t = { s with vc := { s.vc with results := t.vc.results } }))

/-- Page moves (R83 to R85): a free lane takes the next move, sets MIGRATING in the page's entry and writes its lines back; while an access already issued to the page is outstanding the copy waits; when the copy ends the entry names the new frame, the bytes are those of the old one, the old frame is free and zero, the result is posted and the accesses stalled on the page resume; a copy that fails leaves the entry at its source and frees the destination. -/
def Obligations.PageMoves : Prop :=
  (∀ (s : State) (m : Move), (s.vc.moves.filter fun x => x.lane).length < 4 → s.nextMove = some m → s.Up (s.moveDoms m) → s.LinesAligned →
    (entTier (s.ent m.tenant m.page) = 2 → ∀ c, s.inlineEcc c = true) →
    let e := s.ent m.tenant m.page
    s.Gives .migrationLaneStart (fun t =>
      t.ent m.tenant m.page = e ||| 0x40#64 ∧ entMigrating (t.ent m.tenant m.page) = true ∧
      (∀ n q, n * 2 ^ 19 + q ≠ m.tenant * 2 ^ 19 + m.page → t.ent n q = s.ent n q) ∧
      t.vc.moves = s.vc.moves.map (fun x => if x = m then { x with lane := true, began := s.arb.grants } else x) ∧
      (∀ k, entKey e = some k → s.BytesBut (frameAddr k) pageSize t) ∧ (entKey e = none → t.mem = s.mem) ∧
      t = { s with vc := t.vc, mem := t.mem, psn := t.psn, caches := t.caches, tlb := t.tlb, arb := t.arb })) ∧
  (∀ (s : State) (n page : Nat) (data marks : List Nat) (m : Move),
    s.vc.moves.find? (fun x => x.tenant == n && x.page == page && x.lane) = some m → s.extq = [] →
    let e := s.ent n page
    let ends : Nat → State → Prop := fun status t =>
      entMigrating (t.ent n page) = false ∧ (∀ a q, a * 2 ^ 19 + q ≠ n * 2 ^ 19 + page → t.ent a q = s.ent a q) ∧
      t.vc.moves = s.vc.moves.filter (fun x => x != m) ∧ Tab.get t.vc.results [] n = Tab.get s.vc.results [] n ++ [⟨status, 0, page⟩] ∧
      (∀ a b tier, b < 16 → s.stallq.contains (a * 16 + b, 0) = true → (s.thread a b).hold = .move n page tier →
        t.thread a b = { s.thread a b with st := .ready, hold := .none }) ∧
      (∀ a b, b < 16 → (s.stallq.contains (a * 16 + b, 0) = false ∨ ∀ tier, (s.thread a b).hold ≠ .move n page tier) → t.thread a b = s.thread a b)
    let down := ∃ ds, s.domCheck (s.moveDoms m) = .wait ds
    let fails : Bool → Prop := fun f => s.domCheck (s.moveDoms m) = .refuse ∨ (f = true ∧ (down ∨ 2 ≤ entTier e))
    (∀ f, m.tier = 0 → fails f → s.Gives (.migrationCommit n page f data marks) (fun t =>
      ends 5 t ∧ entTier (t.ent n page) = entTier e ∧ entFrame (t.ent n page) = entFrame e ∧ t.mem = s.mem ∧ (¬down → t.regs = s.regs))) ∧
    (∀ f, m.tier = 1 → m.frame < 65536 → fails f → s.Gives (.migrationCommit n page f data marks) (fun t =>
      ends 5 t ∧ entTier (t.ent n page) = entTier e ∧ entFrame (t.ent n page) = entFrame e ∧ t.frame m.frame = Frame.free ∧
      (∀ i, i < pageSize → t.byte (frameAddr m.frame + i) = 0) ∧ s.BytesBut (frameAddr m.frame) pageSize t ∧ (¬down → t.regs = s.regs))) ∧
    (s.domCheck (s.moveDoms m) = .go → s.pageBusy (entPlace e) = true → s.Gives (.migrationCommit n page false data marks) (fun t => t = s)) ∧
    (∀ k, s.domCheck (s.moveDoms m) = .go → s.pageBusy (entPlace e) = false → m.tier = 1 → m.frame < 49152 → entTier e = 1 → entKey e = some k →
      k ≠ m.frame → entFrame e < 49152 → entPoisoned e = false → (∀ c ∈ s.caches, ∀ l ∈ c.2, l.addr + 128 ≤ frameAddr k ∨ frameAddr k + pageSize ≤ l.addr) →
      (∀ g, frameAddr k / 16 ≤ g → g < (frameAddr k + pageSize) / 16 → s.psn.has g = false) →
      s.Gives (.migrationCommit n page false data marks) (fun t =>
        ends 0 t ∧ entTier (t.ent n page) = 1 ∧ entFrame (t.ent n page) = m.frame ∧ entValid (t.ent n page) = entValid e ∧
        entWritable (t.ent n page) = entWritable e ∧ entClass (t.ent n page) = entClass e ∧ t.frame k = Frame.free ∧
        (∀ i, i < pageSize → t.byte (frameAddr m.frame + i) = s.byte (frameAddr k + i)) ∧
        (∀ i, i < pageSize → t.byte (frameAddr k + i) = 0) ∧
        (∀ x, ¬(frameAddr k ≤ x ∧ x < frameAddr k + pageSize) → ¬(frameAddr m.frame ≤ x ∧ x < frameAddr m.frame + pageSize) → t.byte x = s.byte x) ∧
        t.regs = s.regs)))

/-- External memory channels (R92, R93, R98): training starts only before a plat is applied; its end records each enabled channel's usable capacity, 7/8 of it with inline ECC, at most 64 units, or its failure, and sets DONE; polling records the refresh codes; nothing else changes. Losses of memory (R619 to R621, R633): a lost layer, vault or channel reads as poison from then on, each entry that maps a frame of it is POISONED and no other entry changes; a lost layer is Off, and while a copy of the journal or of the system rows is gone JOURNAL_SINGLE is set; the loss of the other copy before they are rewritten is a loss of power; the rewrite clears JOURNAL_SINGLE; a lost channel has no capacity. -/
def Obligations.ChannelsAndLosses : Prop :=
  (
    ∀ (s : State) (k : Nat), k < 2 →
      (s.isOn (36 + k) = true → s.plat.cur = none → s.Gives (.xmTrainStart k) (fun t =>
        s.OnlyRegs [A.XM_TRAIN k] t ∧ t.fget (A.XM_TRAIN k) F.XM_TRAIN_DONE = 0 ∧ t.fget (A.XM_TRAIN k) F.XM_TRAIN_FAIL = 0)) ∧
      (s.isOn (36 + k) = true → s.plat.cur ≠ none → s.Gives (.xmTrainStart k) (fun t => t = s)) ∧
      (∀ cap0 cap1 fail0 fail1, s.plat.cur = none → s.Gives (.xmTrainDone k cap0 cap1 fail0 fail1) (fun t =>
        let en0 := s.flag (A.XM_CFG k) F.XM_CFG_CH0_EN
        let en1 := s.flag (A.XM_CFG k) F.XM_CFG_CH1_EN
        let usable : Nat → Nat := fun u => min 64 (if s.flag (A.XM_CFG k) F.XM_CFG_INLINE_ECC then u * 7 / 8 else u)
        s.OnlyRegs [A.XM_TRAIN k, A.XM_CAP k] t ∧ t.flag (A.XM_TRAIN k) F.XM_TRAIN_DONE = true ∧
        t.fget (A.XM_CAP k) F.XM_CAP_CH0_CAP = (if en0 = true ∧ fail0 = false then usable cap0 else 0) ∧
        t.fget (A.XM_CAP k) F.XM_CAP_CH1_CAP = (if en1 = true ∧ fail1 = false then usable cap1 else 0) ∧
        t.fget (A.XM_TRAIN k) F.XM_TRAIN_FAIL = (if en0 = true ∧ fail0 = true then 1 else 0) + (if en1 = true ∧ fail1 = true then 2 else 0))) ∧
      (∀ code0 code1, code0 < 8 → code1 < 8 → s.isOn (36 + k) = true → s.Gives (.mr4TemperaturePolling k code0 code1) (fun t =>
        s.RegsBut [A.XM_TEMP k] t ∧ t = { s with regs := t.regs, free := t.free, arb := t.arb } ∧ t.fget (A.XM_TEMP k) F.XM_TEMP_CH0 = code0 ∧ t.fget (A.XM_TEMP k) F.XM_TEMP_CH1 = code1))) ∧
  (
    ∀ (s : State), s.PlatOk →
      let marked : (Nat → Bool) → State → Prop := fun p t => (∀ n page, t.ent n page = if entValid (s.ent n page) && (match entKey (s.ent n page) with
        | some k => p k
        | none => false) then s.ent n page ||| 0x20#64 else s.ent n page) ∧ t.threads = s.threads ∧ t.jobs = s.jobs
      let lost : List Nat → State := fun ks => { s with vc := { s.vc with lostLayers := ks.foldl (fun m k => NSet.add k m) s.vc.lostLayers } }
      let single := s.flag A.FL_STATUS F.FL_STATUS_JOURNAL_SINGLE
      (∀ l, 4 ≤ l ∨ s.layerGone l = true → s.Gives (.layerLoss l) (fun t => t = s)) ∧
      (∀ l, l < 4 → s.layerGone l = false →
        let w := lost ((List.range 128).map (fun v => v * 4 + l))
        (w.copiesGone single = true → exec (.layerLoss l) s = exec .lossOfPower w) ∧
        (w.copiesGone single = false → s.Gives (.layerLoss l) (fun t => marked (fun k => decide (k < 65536) && layerOf (frameAddr k) == l) t ∧
          (∀ v, v < 128 → t.vc.lostLayers.has (v * 4 + l) = true) ∧ (t.dom (32 + l)).st = .off ∧ (∀ d, d ≠ 32 + l → t.dom d = s.dom d) ∧
          (l = 0 ∨ l = 2 → t.flag A.FL_STATUS F.FL_STATUS_JOURNAL_SINGLE = true)))) ∧
      (∀ v, v < 128 → (∀ l, l < 4 → s.vc.lostLayers.has (v * 4 + l) = false) →
        s.Gives (.vaultFault v none) (fun t => marked (fun k => decide (k < 65536) && k / 384 == v && decide (layerOf (frameAddr k) < 4)) t ∧ ∀ l, l < 4 → t.vc.lostLayers.has (v * 4 + l) = true) ∧
        (∀ l, l < 4 → s.Gives (.vaultFault v (some l)) (fun t => marked (fun k => decide (k < 65536) && k / 384 == v && layerOf (frameAddr k) == l) t ∧
          ∀ m, t.vc.lostLayers.has m = true ↔ m = v * 4 + l ∨ s.vc.lostLayers.has m = true))) ∧
      (∀ c, c < 4 → s.vc.lostLayers.has (512 + c) = false → s.Gives (.channelLoss c) (fun t => marked (fun k => decide (65536 ≤ k) && (k - 65536) / 8192 == c) t ∧
        t.vc.lostLayers.has (512 + c) = true ∧ t.fget (A.XM_CAP (c / 2)) (if c % 2 = 0 then F.XM_CAP_CH0_CAP else F.XM_CAP_CH1_CAP) = 0)) ∧
      (∀ c, 4 ≤ c ∨ s.vc.lostLayers.has (512 + c) = true → s.Gives (.channelLoss c) (fun t => t = s)) ∧
      (single = false → s.Gives .journalRewrite (fun t => t = s)) ∧
      (single = true → (∀ j ∈ s.plat.journal, (s.rewritten j.2).isSome = true) → s.Gives .journalRewrite (fun t => t.flag A.FL_STATUS F.FL_STATUS_JOURNAL_SINGLE = false ∧ s.RegsBut [A.FL_STATUS] t ∧
        t.plat.journal = s.plat.journal.map (fun j => (j.1, (s.rewritten j.2).getD j.2)) ∧ t = { s with regs := t.regs, plat := { s.plat with journal := t.plat.journal } })) ∧
      (single = true → (∃ j ∈ s.plat.journal, s.rewritten j.2 = none) → s.Gives .journalRewrite (fun t => t = s)))

/-- Applying a plat (R51 to R58, R585): PLAT_LOAD of an image that passes every check, with the affected partitions quiesced, begins to apply it and locks the RWL fields; a failed check, a busy device or partitions not quiesced reply INVALID with the detail and leave the applied plat. The drain ends when no transaction to a changed route is outstanding; the commit, once the saves of R285 are made, makes the plat the applied one and replies OK; a vault fill zeroes the vault's pages but reserved frames. -/
def Obligations.PlatApplication : Prop :=
  (∀ (s : State) (c : NtCmd) (img : List Nat), s.ntPending 8 = some c → c.op = 1 → c.off = 0 → s.ntNow = some 8 → s.Up [6, 13, 15] →
    s.plat.shadow = none → s.ntArg 8 1 ≤ 131072 → (s.ntTake 8).ntImage c.boot (s.ntArg 8 0) (s.ntArg 8 1) = some (img, false) →
    let refused : Nat → State → Prop := fun d t =>
      t.plat = s.plat ∧ t.flag (A.NT_MB_STATUS 8) F.NT_MB_STATUS_BUSY = false ∧ t.fget (A.NT_MB_STATUS 8) F.NT_MB_STATUS_STATUS = 7 ∧
      t.fget (A.NT_MB_STATUS 8) F.NT_MB_STATUS_DETAIL = d % 256 ∧ t.ntPending 8 = none ∧ t.flag A.HG_PLAT_STATUS F.HG_PLAT_STATUS_LAST_FAILED = true ∧
      t.fget A.HG_PLAT_ERROR F.HG_PLAT_ERROR_DETAIL = d % 256 ∧ t.mem = s.mem ∧ t.threads = s.threads
    (∀ f, (s.ntTake 8).validate img = .inl f → s.Gives .platLoad (refused f.1)) ∧
    (∀ q, (s.ntTake 8).validate img = .inr q → (∃ i ∈ s.affectedBy q, s.quiesced i = false) → s.Gives .platLoad (refused 0x80)) ∧
    (∀ q, (s.ntTake 8).validate img = .inr q → (∀ i ∈ s.affectedBy q, s.quiesced i = true) → s.Gives .platLoad (fun t =>
      t.plat.shadow = some q ∧ t.plat.cur = s.plat.cur ∧ t.plat.locked = true ∧ t.plat.drained = (changedRoutes s.routeEs q.routes).isEmpty ∧
      t.ntPending 8 = some { c with off := 1 } ∧ t.fget A.HG_PLAT_STATUS F.HG_PLAT_STATUS_STATE = 2))) ∧
  (∀ (s : State), s.plat.shadow ≠ none → s.plat.drained = false → s.drainBusy = false →
    s.Gives .platRouteDrainEnd (fun t => t = { s with plat := { s.plat with drained := true } })) ∧
  (∀ (s : State) (q : Plat), s.plat.shadow = some q → s.plat.drained = true → ((s.platSave q).savesDue q).any (s.platSave q).saveWaits = true →
    s.Gives .platApplyCommit (fun t => t = s.platSave q)) ∧
  (∀ (s : State) (q : Plat), s.plat.shadow = some q → s.plat.drained = true → s.savesDue q = [] → s.Up [13, 15] →
    s.Gives .platApplyCommit (fun t => t.plat.cur = some q ∧ t.plat.shadow = none ∧ t.plat.drain = [] ∧ t.plat.locked = s.plat.locked ∧
      t.plat.ringFrames = s.plat.shRings ∧ t.plat.journal = s.plat.shJournal ∧
      (∀ c, s.ntPending 8 = some c → c.op = 1 → c.off = 1 → t.ntPending 8 = none ∧
        t.flag (A.NT_MB_STATUS 8) F.NT_MB_STATUS_BUSY = false ∧ t.fget (A.NT_MB_STATUS 8) F.NT_MB_STATUS_STATUS = 0))) ∧
  (∀ (s : State) (v : Nat), s.vc.fill.contains v = true → s.Up [16 + v / 8, 32, 33, 34, 35] →
    let pages := (s.placeKeys 1 v).filter fun f => !s.reservedFrames.contains f
    s.Gives (.vaultFillDone v) (fun t => t.vc = { s.vc with fill := s.vc.fill.filter fun x => x != v } ∧
      (∀ f ∈ pages, ∀ i, i < pageSize → t.byte (frameAddr f + i) = 0) ∧
      (∀ x, (∀ f ∈ pages, ¬(frameAddr f ≤ x ∧ x < frameAddr f + pageSize)) → t.byte x = s.byte x) ∧
      t.flag A.HG_PLAT_STATUS F.HG_PLAT_STATUS_VAULT_FILL = (s.vc.fill.filter (fun x => x != v) != []) ∧
      s.RegsBut [A.HG_PLAT_STATUS] t ∧ t = { s with regs := t.regs, vc := t.vc, mem := t.mem, psn := t.psn }))

/-- The Notary's mailbox (R581 to R588, R593, R596): a command of the page whose turn it is gets its reply: STATUS, DETAIL and RESULT stand, BUSY clears and the page is free. MEASURE extends a measurement register by the digest of its range, REPORT stores the signed report, SPDM_RELAY the response, UNBIND erases a quiesced tenant and its binding, FLOOR_SET burns a greater floor, REVOKE_SLOT a revoke; a reserved OP gets INVALID 0xFF; in confidential mode a turn of 100 µs passes on. -/
def Obligations.MailboxCommands : Prop :=
  (∀ (s : State) (k : Nat) (c : NtCmd), k ≤ 8 → s.ntPending k = some c → s.ntNow = some k → s.Up [6] → s.plat.shadow = none →
    let u := s.ntTake k
    let replied : Nat → Nat → Nat → State → Prop := fun status detail value t =>
      t.flag (A.NT_MB_STATUS k) F.NT_MB_STATUS_BUSY = false ∧ t.fget (A.NT_MB_STATUS k) F.NT_MB_STATUS_STATUS = status ∧
      t.fget (A.NT_MB_STATUS k) F.NT_MB_STATUS_DETAIL = detail ∧ t.rd (A.NT_MB_RESULT k) = BitVec.ofNat 64 value ∧ t.ntPending k = none
    let only : State → Prop := fun t => t = { s with regs := t.regs, nt := t.nt }
    (ntOpOk k c.op = false → s.Gives .notaryTurn (fun t => replied 7 0xFF 0 t ∧ only t)) ∧
    (k < 8 → c.op = 2 →
      let len := s.ntArg k 1
      let i := s.ntArg k 2 % 8
      let ext := Tab.get (s.ntTen k).ext 0 i
      (len % 64 ≠ 0 → s.Gives (.measure k) (fun t => replied 7 0 0 t ∧ only t)) ∧
      (len = 0 → s.Gives (.measure k) (fun t => replied 0 0 ext t ∧ only t)) ∧
      (∀ b, c.off = 0 → 0 < len → len ≤ 0x100000 → len % 64 = 0 → u.ntRead k (s.ntArg k 0) len = .got b → b.length = len →
        (b.any (·.2) = true → s.Gives (.measure k) (fun t => replied 1 0 0 t ∧ only t)) ∧
        (b.any (·.2) = false → s.Gives (.measure k) (fun t => replied 0 0 (ext + 1) t ∧ only t ∧
          Tab.get (t.ntTen k).tmr [] i = sha384 ((Tab.get (s.ntTen k).tmr [] i ++ List.replicate 48 0).take 48 ++ sha384 (b.map (·.1))) ∧
          Tab.get (t.ntTen k).ext 0 i = ext + 1)))) ∧
    (k < 8 → c.op = 3 →
      (s.ntArg k 0 % 64 ≠ 0 → s.Gives (.report k) (fun t => replied 7 0x02 0 t ∧ only t)) ∧
      (∀ b, s.ntArg k 0 % 64 = 0 → u.ntMayWrite k (s.ntArg k 0) 864 = .inl true → u.ntRead k (s.ntArg k 1) 32 = .got b → b.any (·.2) = false →
        let r := u.report k (b.map (·.1)) true
        s.Gives (.report k) (fun t => replied 0 0 0 t ∧ t.threads = s.threads ∧ t.mem = (r.1.writeHome k (s.ntArg k 0) (clean r.2)).mem ∧
          r.2.take (u.reportBody k (b.map (·.1)) true).length = u.reportBody k (b.map (·.1)) true))) ∧
    (k < 8 → c.op = 4 → ∀ b, u.ntRead k (s.ntArg k 0) (s.ntArg k 2 % 2 ^ 24) = .got b → b.any (·.2) = false →
      u.ntMayWrite k (s.ntArg k 1) (bits (s.ntArg k 2) 47 24) = .inl true →
      let r := u.spdm none (b.map (·.1)) []
      (bits (s.ntArg k 2) 47 24 < r.2.length → s.Gives (.spdmRelay k) (fun t => replied 7 0x01 0 t ∧ t.mem = r.1.mem)) ∧
      (r.2.length ≤ bits (s.ntArg k 2) 47 24 → s.Gives (.spdmRelay k) (fun t => replied 0 0 r.2.length t ∧
        t.mem = (r.1.writeHome k (s.ntArg k 1) (clean r.2)).mem))) ∧
    (k = 8 → c.op = 5 →
      let n := s.ntArg 8 0 % 8
      ((∃ p ∈ s.partsOf n, s.quiesced p.id = false) → s.Gives .unbind (fun t => replied 7 0x03 0 t ∧ only t)) ∧
      ((∀ p ∈ s.partsOf n, s.quiesced p.id = true) → s.Up ((s.vaultsOf n).flatMap (fun v => [16 + v / 8, 32, 33, 34, 35]) ++ (s.chansOf n).map chanDom) →
        s.Gives .unbind (fun t => replied 0 0 0 t ∧ (t.ntTen n).binder = none ∧ (t.ntTen n).count = 0 ∧ (t.ntTen n).tmr = [] ∧
          (t.ntTen n).session = (s.ntTen n).session ∧ ∀ page, page < 2 ^ 19 → entValid (t.ent n page) = false))) ∧
    (k = 8 → c.op = 6 →
      let v := s.ntArg 8 0
      let fits := s.nt.floor < v ∧ v ≤ (s.rd A.HG_PLAT_SERIAL).toNat ∧ s.nt.fuse.floors.length < 16
      (fits → s.Gives .floorSet (fun t => replied 0 0 0 t ∧ only t ∧ t.nt.fuse = { s.nt.fuse with floors := s.nt.fuse.floors ++ [v] } ∧ t.rd A.NT_FLOOR = BitVec.ofNat 64 v)) ∧
      (¬fits → s.Gives .floorSet (fun t => replied 7 0 0 t ∧ only t ∧ t.nt.fuse = s.nt.fuse))) ∧
    (k = 8 → c.op = 7 → s.Gives .revokeSlot (fun t => replied 0 0 0 t ∧ only t ∧
      t.nt.fuse = { s.nt.fuse with revoked := NSet.add (s.ntArg 8 0 % 4) s.nt.fuse.revoked } ∧
      bit (t.fget A.NT_INFO F.NT_INFO_SLOT_REVOKED) (s.ntArg 8 0 % 4) = true))) ∧
  (∀ (s : State), s.confMode = true → s.ntNow = none → s.nt.since + ntTurn ≤ s.now →
    s.Gives .notaryTurn (fun t => t = { s with nt := { s.nt with turn := s.nextTurn s.nt.turn, since := s.nt.since + ntTurn } }))

/-- The SPDM responder (R579, R590 to R595): each request, with the Notary On, gets one response, sent last on the transport it came by: negotiation moves from version to capabilities to the one algorithm set; digests and certificates show slot 0; a challenge or a key exchange is answered and signed; an open session takes KEY_UPDATE and END_SESSION; BIND_TENANT is refused with its detail or waits for the ingress ring, and then the tenant is bound to the session's identity with new bounce keys. Memory and threads stay. -/
def Obligations.SpdmExchanges : Prop :=
  (∀ (s : State) (req : List Nat), s.rs.up = true → s.Up [6] →
    let c := s.nt.conn
    let replies : List Nat → State → Prop := fun rsp t => t.nt.out = s.nt.out ++ [(0, rsp)] ∧ t = { s with nt := t.nt }
    let begins : List Nat → State → Prop := fun head t => (∃ rest, t.nt.out = s.nt.out ++ [(0, head ++ rest)]) ∧ t = { s with nt := t.nt }
    let code : Nat → Prop := fun x => field req 1 1 = x
    let ready := c.stage = 3 ∧ versionOk req = true
    (code 0x84 → field req 0 1 = 0x10 → s.Gives (.getVersion none req) (fun t =>
      replies [0x10, 0x04, 0, 0, 0, 1, 0x00, 0x12] t ∧ t.nt.conn.stage = 1)) ∧
    (code 0xE1 → c.stage = 1 → versionOk req = true → 20 ≤ req.length → s.Gives (.getCapabilities none req) (fun t =>
      begins [0x12, 0x61, 0, 0, 0] t ∧ t.nt.conn.stage = 2)) ∧
    (code 0xE1 → c.stage ≠ 1 → s.Gives (.getCapabilities none req) (fun t => replies unexpectedRequest t ∧ t.nt.conn = c)) ∧
    (code 0xE3 → c.stage = 2 → versionOk req = true → 32 ≤ req.length → bit (field req 8 4) 7 = true → bit (field req 12 4) 1 = true →
      s.Gives (.negotiateAlgorithms none req) (fun t => begins ([0x12, 0x63, 4, 0, 52, 0, 1, 0, 4, 0, 0, 0, 0x80, 0, 0, 0, 2, 0, 0, 0]) t ∧ t.nt.conn.stage = 3)) ∧
    (code 0x81 → ready → s.Gives (.getDigests none req) (fun t => replies ([0x12, 0x01, 0, 1] ++ sha384 s.spdmChain) t)) ∧
    (code 0x82 → ready → field req 2 1 % 16 = 0 → field req 4 2 < s.spdmChain.length → 8 ≤ req.length → s.Gives (.getCertificate none req) (fun t =>
      let o := field req 4 2
      let n := min (field req 6 2) (s.spdmChain.length - o)
      replies ([0x12, 0x02, 0, 0] ++ natLe 2 n ++ natLe 2 (s.spdmChain.length - o - n) ++ slice s.spdmChain o n) t)) ∧
    (code 0x83 → ready → field req 2 1 = 0 → 36 ≤ req.length → s.Gives (.challenge none req) (fun t =>
      begins ([0x12, 0x03, 0, 1] ++ sha384 s.spdmChain) t ∧ t.nt.conn.msgs = [] ∧ t.nt.conn.stage = 3)) ∧
    (code 0xE0 → ready → field req 3 1 = 0 → s.Gives (.getMeasurements none req) (begins [0x12, 0x60, 8, 0, 0, 0, 0, 0])) ∧
    (code 0xE0 → ready → 8 < field req 3 1 → field req 3 1 ≠ 0xFF → s.Gives (.getMeasurements none req) (replies invalidRequest)) ∧
    (∀ z, code 0xE4 → ready → s.nt.sess.length < 9 → field req 3 1 = 0 → 138 ≤ req.length →
      ecdh (Config.secret s.nt.draw) (slice req 40 96) = some z → s.Gives (.keyExchange none req) (fun t =>
        begins [0x12, 0x64, 0, 0] t ∧ ∃ x : Sess, t.nt.sess = s.nt.sess ++ [x] ∧ x.open_ = false ∧ x.bound = [] ∧ x.id % 65536 = field req 4 2 % 65536)) ∧
    (code 0xFF → versionOk req = true → s.Gives (.respondIfReady none req) (replies unexpectedRequest))) ∧
  (∀ (s : State) (id : Nat) (x : Sess) (req : List Nat), s.rs.up = true → s.Up [6] → s.sess (some id) = some x →
    let replies : List Nat → State → Prop := fun rsp t => t.nt.out = s.nt.out ++ [(id, rsp)] ∧ t = { s with nt := t.nt }
    let ready := s.nt.conn.stage = 3 ∧ versionOk req = true
    (∀ chain, field req 1 1 = 0xE5 → ready → x.open_ = true → s.Gives (.finish (some id) req chain) (replies unexpectedRequest)) ∧
    (∀ chain, field req 1 1 = 0xE5 → ready → x.open_ = false → Config.requesterKey chain = none → s.Gives (.finish (some id) req chain) (fun t =>
      replies (spdmError 6 0) t ∧ t.nt.sess = s.nt.sess.filter fun y => y.id != x.id)) ∧
    (∀ chain key, field req 1 1 = 0xE5 → ready → x.open_ = false → Config.requesterKey chain = some key → field req 2 1 % 2 = 1 →
      ecdsaOk key (spdmSigned "requester-finish signing" (sha384 (x.trans ++ sha384 chain ++ req.take 4))) (slice req 4 96) = true →
      slice req 100 48 = hmac (finishedKey x.hs "req hs data" (sha384 (x.trans.take (x.trans.length - 48)))) (sha384 (x.trans ++ sha384 chain ++ req.take 4 ++ slice req 4 96)) →
      s.Gives (.finish (some id) req chain) (fun t => replies [0x12, 0x65, 0, 0] t ∧
        ∃ y, y ∈ t.nt.sess ∧ y.id = x.id ∧ y.open_ = true ∧ y.key = key ∧ y.chain = chain)) ∧
    (field req 1 1 = 0xE9 → versionOk req = true → x.open_ = true → 1 ≤ field req 2 1 → field req 2 1 ≤ 3 →
      s.Gives (.keyUpdate (some id) req) (replies [0x12, 0x69, field req 2 1, field req 3 1])) ∧
    (field req 1 1 = 0xEC → versionOk req = true → x.open_ = true → s.Gives (.endSession (some id) req) (fun t =>
      replies [0x12, 0x6C, 0, 0] t ∧ t.nt.sess = s.nt.sess.filter fun y => y.id != x.id)) ∧
    (∀ n, vendorOp req = some (1, n) → x.open_ = true →
      (∀ d, s.bindRefusal x n = some d → s.Gives (.bindTenant (some id) req) (replies (vendorRefusal d))) ∧
      (s.bindRefusal x n = none → s.nt.bind = none → s.Gives (.bindTenant (some id) req) (fun t =>
        t = { s with nt := { s.nt with bind := some (x.id, n, s.now) } }))) ∧
    (∀ n, vendorOp req = some (2, n) → x.open_ = true →
      ((s.tenE n).isSome = true → s.Gives (.status (some id) req) (replies (s.vendorStatus n))) ∧
      (s.tenE n = none → s.Gives (.status (some id) req) (replies (vendorRefusal 2)))) ∧
    (∀ n t0, s.nt.bind = some (id, n, t0) →
      (s.inDrained n = true → s.Up [6, 7] → s.bindRefusal x n = none → s.Gives .bindDrainDone (fun t =>
        let se := ((s.ntTen n).session + 1) % 2 ^ 32
        t.nt.bind = none ∧ (t.ntTen n).binder = some x.identity ∧ (t.ntTen n).count = (s.ntTen n).count + 1 ∧ (t.ntTen n).session = se ∧
        Tab.get t.host.inKey [] n = bounceKey x.ems "evcor bounce in" n se ∧ Tab.get t.host.outKey [] n = bounceKey x.ems "evcor bounce out" n se ∧
        t.rd (A.HI_T_IN_COUNTER n) = 0 ∧ t.rd (A.HI_T_OUT_COUNTER n) = 0 ∧ t.nt.out = s.nt.out ++ [(id, vendorRsp [1, n])] ∧
        s.RegsBut [A.HI_T_IN_COUNTER n, A.HI_T_OUT_COUNTER n, A.HI_T_IN_CFG n] t ∧ t = { s with nt := t.nt, host := t.host, regs := t.regs })) ∧
      (s.inDrained n = false → t0 + 2560000000 < s.now → s.Gives .bindDrainDone (fun t =>
        t.nt.bind = none ∧ t.nt.out = s.nt.out ++ [(id, vendorRefusal 4)] ∧ t = { s with nt := t.nt }))))

/-- Doorbells and acceptance (R337 to R349, R368): a tenant's doorbell for an enabled ring of its own joins the queue once; for a disabled ring it sets RESCAN, for another's ring it is refused and counted. Serving a ring gives its next good packet a journal entry, or refuses a bad one and stops the ring; acceptance advances ACCEPT_NEXT, CONS_BYTES and ACCEPT_TIME, and opens the gate of a job that began before it (R350), whose s6 takes the time; a packet that is no longer the next of an enabled ring stays unaccepted, and a job begun for it ends without effect. -/
def Obligations.DoorbellsAndAcceptance : Prop :=
  (∀ (s : State) (n r : Nat), n < 8 → r < 65536 →
    (s.ringTenant r ≠ some n → s.Gives (.doorbell (.tenant n) n r) (fun t => s.OnlyRegs [A.HG_DB_REFUSED n] t ∧
      t.fget (A.HG_DB_REFUSED n) (31, 0) = min (s.fget (A.HG_DB_REFUSED n) (31, 0) + 1) (2 ^ 32 - 1))) ∧
    (s.ringTenant r = some n → (s.ringSt r).enabled = false → s.Gives (.doorbell (.tenant n) n r) (fun t =>
      t = { s with hg := { s.hg with rescan := NSet.add r s.hg.rescan } })) ∧
    (s.ringTenant r = some n → (s.ringSt r).enabled = true → s.hg.dbq.contains r = true → s.Gives (.doorbell (.tenant n) n r) (fun t => t = s)) ∧
    (s.ringTenant r = some n → (s.ringSt r).enabled = true → s.hg.dbq.contains r = false → s.dbRoom n = true → s.Gives (.doorbell (.tenant n) n r) (fun t =>
      t = { s with hg := { s.hg with dbq := s.hg.dbq ++ [r] }, regs := t.regs } ∧ s.RegsBut [A.HG_DBQ_STATUS] t)) ∧
    (s.ringTenant r = some n → (s.ringSt r).enabled = true → s.hg.dbq.contains r = false → s.dbRoom n = false → s.Gives (.doorbell (.tenant n) n r) (fun t =>
      t = { s with hg := { s.hg with rescan := NSet.add r s.hg.rescan }, regs := t.regs } ∧ s.RegsBut [A.HG_DBQ_OVERFLOW] t))) ∧
  (∀ (s : State) (r : Nat) (e : RingE), s.accepting = true → s.isOn 13 = true → s.nextServe = some (r, false) → s.Up (t1Doms (s.ringBase r)) → s.ringE r = some e →
    (s.homePB (s.ringBase r) 256).any (·.2) = false → (s.ringSt r).enabled = true → s.writing r = none →
    let x := s.ringSt r
    let gap := (s.ringProd r + 2 ^ 64 - x.cons) % 2 ^ 64
    let h := s.homePB (s.ringAt r x.cons) 64
    let taken : HgSt := { s.hg with dbq := s.hg.dbq.filter (fun q => q != r), served := s.hg.served + 1 }
    gap ≠ 0 → gap < 2 ^ 63 →
    (∀ len, s.examine r x (s.ringProd r) h = .packet len → s.jrUsed e.part < 32768 → s.Gives .hgServeRing (fun t =>
      t = { s with hg := { taken with jr := s.hg.jr ++ [⟨e.part, r, pnat h 4 4, x.cons, len, pnat h 8 4, pnat h 1 1, pnat h 0x10 8, 0, .writing, 0xFFFF, 0, 0, 0, false, 0⟩] } })) ∧
    (∀ len, s.examine r x (s.ringProd r) h = .packet len → 32768 ≤ s.jrUsed e.part → s.Gives .hgServeRing (fun t =>
      t = { s with hg := { taken with rescan := NSet.add r s.hg.rescan }, regs := t.regs } ∧ s.RegsBut [A.HG_P_JOURNAL_FULL e.part] t)) ∧
    (∀ k seq, s.examine r x (s.ringProd r) h = .refuse k seq → s.Gives .hgServeRing (fun t =>
      t.ringSt r = { x with refused := min (x.refused + 1) (2 ^ 32 - 1), refuseSeq := seq, refuseInfo := 7 + k * 16 + 4096, stopped := true } ∧
      t.hg.jr = s.hg.jr ∧ s.BytesBut (s.ringBase r + 0x40) 0x60 t ∧ t.threads = s.threads))) ∧
  (∀ (s : State) (r : Nat) (e : JEnt), s.writing r = some e →
    ((s.ringSt r).enabled = false ∨ e.seq ≠ (s.ringSt r).acceptNext ∨ e.count ≠ (s.ringSt r).cons → e.ctx = 0xFFFF → s.Gives (.packetAccept r) (fun t =>
      t = { s with hg := { s.hg with jr := s.hg.jr.filter (fun f => f != e), rescan := NSet.add r s.hg.rescan } })) ∧
    ((s.ringSt r).enabled = false ∨ e.seq ≠ (s.ringSt r).acceptNext ∨ e.count ≠ (s.ringSt r).cons → e.ctx ≠ 0xFFFF →
      s.Gives (.packetAccept r) (fun t => t.hg.jr = s.hg.jr.filter (fun f => f != e) ∧ t.job e.ctx = none ∧
        t.ctx e.ctx = { Ctx.free with save := (s.ctx e.ctx).save } ∧ t.mem = s.mem ∧ t.hg.rescan.has r = true)) ∧
    (let x := s.ringSt r
     let stored := (x.cons + e.len) % 2 ^ 64
     let good := x.enabled = true ∧ e.seq = x.acceptNext ∧ e.count = x.cons ∧ s.Up (s.journalDoms e.part) ∧ s.ringProd r = stored
     (∀ j, good → e.ctx ≠ 0xFFFF → s.job e.ctx = some j → s.Gives (.packetAccept r) (fun t =>
      t.hg.jr = s.hg.jr.map (fun f => if f = e then { e with st := .dispatched, acceptTime := s.time } else f) ∧ (t.ctx e.ctx).tval = s.time ∧
      (∀ k ∈ j.tiles, (t.thread k 0).getX 6 = BitVec.ofNat 64 s.time) ∧ t.jobs = s.jobs)) ∧
     (good → e.ctx = 0xFFFF → s.Gives (.packetAccept r) (fun t =>
      t.ringSt r = { x.goOn with acceptNext := (x.acceptNext + 1) % 2 ^ 32, cons := stored, acceptTime := s.time } ∧
      t.hg.jr = s.hg.jr.map (fun f => if f = e then { e with st := .accepted, acceptTime := s.time } else f) ∧
      t.fget (A.HG_P_ACCEPTED e.part) (63, 0) = min (s.fget (A.HG_P_ACCEPTED e.part) (63, 0) + 1) (2 ^ 64 - 1) ∧
      s.RegsBut [A.HG_P_ACCEPTED e.part] t ∧ s.BytesBut (s.ringBase r + 0x40) 0x60 t ∧
      t = { s with hg := t.hg, regs := t.regs, mem := t.mem, psn := t.psn })))) ∧
  (∀ (s : State) (n a : Nat), n < 8 → a < 2 ^ 64 →
    let c := s.fget (A.HG_CTX_SEL n) F.HG_CTX_SEL_CONTEXT
    let own := ∃ e ∈ s.ringEs, e.ctx0 ≤ c ∧ c < e.ctx0 + e.ctxN ∧ ∃ p, s.partE e.part = some p ∧ p.tenant = n
    (own → (s.ctx c).st = 0 → s.Gives (.hgCtxSaveWrite (.tenant n) n a) (fun t => t = s.setCtx c { s.ctx c with save := a })) ∧
    ((¬own ∨ (s.ctx c).st ≠ 0) → s.Gives (.hgCtxSaveWrite (.tenant n) n a) (fun t =>
      s.OnlyRegs [A.HG_RING_STATUS n] t ∧ t.flag (A.HG_RING_STATUS n) F.HG_RING_STATUS_CMD_REFUSED = true))) ∧
  (∀ (s : State) (tile c v : Nat), c < 1024 → v < 2 ^ 32 →
    ((s.tile tile).job = some c → (s.ctx c).st = 1 → s.Gives (.hgResultWrite tile c v) (fun t => t = s.setCtx c { s.ctx c with result := v })) ∧
    ((s.tile tile).job ≠ some c ∨ (s.ctx c).st ≠ 1 → s.Gives (.hgResultWrite tile c v) (fun t => t = s)))

/-- Ring commands and completion (R357 to R359, R373, R374): ENABLE, DISABLE, ABORT_QUEUED, ABORT_JOBS and SET_RESUME of a tenant act on the ring it has selected, when that is its own; one that may not run sets CMD_REFUSED alone; a packet whose acceptance is under way when its ring is disabled stays unaccepted. The completion of a ring's oldest ended packet advances COMPLETE_NEXT and the release point, frees its context and drops its journal entry. -/
def Obligations.RingCommandsAndCompletion : Prop :=
  (∀ (s : State) (n : Nat), n < 8 →
    let r := s.fget (A.HG_RING_SEL n) F.HG_RING_SEL_RING
    let x := s.ringSt r
    let who : Who := .tenant n
    let refused : State → Prop := fun t => s.OnlyRegs [A.HG_RING_STATUS n] t ∧ t.flag (A.HG_RING_STATUS n) F.HG_RING_STATUS_CMD_REFUSED = true
    let control : State → Prop := fun t => s.BytesBut (s.ringBase r + 0x40) 0x60 t ∧ (∀ q, q ≠ r → t.ringSt q = s.ringSt q) ∧ t.regs = s.regs ∧
      t.threads = s.threads ∧ t.hg.jr = s.hg.jr ∧ t.hg.ctx = s.hg.ctx
    (s.ringTenant r ≠ some n → s.Gives (.enable who n) refused ∧ s.Gives (.disable who n) refused ∧ s.Gives (.abortQueued who n) refused ∧
      s.Gives (.abortJobs who n) refused ∧ s.Gives (.setResume who n) refused) ∧
    (s.ringTenant r = some n →
      s.Gives (.enable who n) (fun t => t.ringSt r = { x with enabled := true } ∧ control t ∧ t.hg.rescan = NSet.add r s.hg.rescan) ∧
      (s.writing r = none → s.Gives (.disable who n) (fun t => t.ringSt r = { x with enabled := false } ∧ control t ∧ t.hg.rescan = s.hg.rescan)) ∧
      (∀ e, s.writing r = some e → e.ctx = 0xFFFF → s.Gives (.disable who n) (fun t => t.ringSt r = { x with enabled := false } ∧
        t.hg.jr = s.hg.jr.filter (fun f => f != e) ∧ t.hg.rescan = NSet.add r s.hg.rescan ∧ t.threads = s.threads ∧ t.regs = s.regs)) ∧
      (x.enabled = true → s.Gives (.abortQueued who n) refused) ∧
      (x.enabled = false → s.Gives (.abortQueued who n) (fun t => t = { s with hg := { s.hg with jr := s.hg.jr.map fun e =>
        if e.ring = r ∧ e.st = .accepted then { e with st := .done, ctx := 0xFFFF, status := 4, cause := 0x20, result := 0, endTime := s.time } else e } })) ∧
      s.Gives (.abortJobs who n) (fun t => t = { s with hg := { s.hg with ctx := t.hg.ctx }, jobs := t.jobs } ∧
        ∀ c, (t.ctx c) = if (∃ e ∈ s.hg.jr, e.ring = r ∧ e.st = .dispatched ∧ e.ctx = c) ∧ (s.ctx c).st ≠ 0 ∧ (s.ctx c).st ≠ 3 ∧ (s.ctx c).kill = none
          then { s.ctx c with kill := some (4, 0x20) } else s.ctx c) ∧
      (s.drained r = false → s.Gives (.setResume who n) refused) ∧
      (s.drained r = true → s.Gives (.setResume who n) (fun t => control t ∧
        t.ringSt r = { x with acceptNext := (s.rd (A.HG_RING_CMD_VALUE n)).toNat, completeNext := (s.rd (A.HG_RING_CMD_VALUE n)).toNat,
                              cons := s.ringProd r, release := s.ringProd r })))) ∧
  (∀ (s : State) (r : Nat) (e : JEnt), s.hg.jr.find? (fun f => f.ring == r) = some e → s.isOn 13 = true →
    (e.st ≠ .done → s.Gives (.completionPublish r) (fun t => t = s)) ∧
    (e.st = .done → s.Up (s.journalDoms e.part ++ t1Doms (s.ringBase r)) → s.Gives (.completionPublish r) (fun t =>
      let x := s.ringSt r
      t.ringSt r = { x with completeNext := (x.completeNext + 1) % 2 ^ 32, release := (e.count + e.len) % 2 ^ 64 } ∧
      t.hg.jr = s.hg.jr.filter (fun f => f != e) ∧ (e.ctx ≠ 0xFFFF → t.ctx e.ctx = { Ctx.free with save := (s.ctx e.ctx).save }) ∧
      (∀ c, c ≠ e.ctx → t.ctx c = s.ctx c) ∧ (∀ q, q ≠ r → t.ringSt q = s.ringSt q) ∧ t.threads = s.threads ∧
      (e.status ≠ 1 → (∀ i, i < 32 → s.isLost (s.ringAt r e.count + 0x20 + i) = false) →
        ∀ i, i < 32 → t.byte (s.ringAt r e.count + 0x20 + i) = BitVec.ofNat 8 (e.record.getD i 0)))))

/-- Jobs (R102, R103, R350, R352 to R358, R367, R379, R384 to R386, R398): the packet offered first is bound to the lowest free context of its ring, and with none ready one whose acceptance is under way, whose job stays gated (R350); the job that has waited longest starts on its group's tiles, thread 0 of each READY at its entry with s1 to s6 as R103 says and the others idle; a job that is over leaves its tiles and its context ENDING with the worst status, or is dispatched once more; a tick binds a packet or a tick job, or is skipped, and counts the overrun of one still bound; a tenant commits or declines the exchange proposed for a group of its own. -/
def Obligations.JobsStartAndEnd : Prop :=
  (∀ (s : State) (part : Nat) (p : PartE) (e : JEnt) (re : RingE) (c : Nat), s.isOn 13 = true → s.partE part = some p → (p.policy = 0 → s.boundOf part = []) →
    s.bestPacket (s.hg.jr.filter fun e => e.part == part && s.readyPacket e &&
      (s.ringE e.ring).any fun re => re.tick == 0xFF && (s.freeContext re).isSome && !s.groupHeld re.group) = some e →
    s.ringE e.ring = some re → s.freeContext re = some c → s.Up (s.journalDoms part) →
    s.Gives (.jobDispatch part) (fun t => t = { s with hg := t.hg } ∧
      t.hg.jr = s.hg.jr.map (fun f => if f = e then { e with st := .dispatched, ctx := c } else f) ∧
      (t.sch re.part).waiting = (s.sch re.part).waiting ++ [c] ∧ (∀ d, d ≠ c → t.ctx d = s.ctx d) ∧
      t.ctx c = { Ctx.free with st := 1, save := (s.ctx c).save, retried := e.retried, grp := re.group, part := re.part, ring := e.ring, seq := e.seq,
                                program := e.program, hdr := s.ringAt e.ring e.count, plen := e.plen, tval := e.acceptTime })) ∧
  (∀ (s : State) (part : Nat) (p : PartE) (e : JEnt) (re : RingE) (c : Nat), s.isOn 13 = true → s.partE part = some p → (p.policy = 0 → s.boundOf part = []) →
    let offered : (JEnt → Bool) → Option JEnt := fun ready => s.bestPacket (s.hg.jr.filter fun e => e.part == part && ready e &&
      (s.ringE e.ring).any fun re => re.tick == 0xFF && (s.freeContext re).isSome && !s.groupHeld re.group)
    offered s.readyPacket = none → offered s.readyEarly = some e → s.ringE e.ring = some re → s.freeContext re = some c → s.Up (s.journalDoms part) →
    s.Gives (.jobDispatch part) (fun t => t = { s with hg := t.hg } ∧ t.hg.jr = s.hg.jr.map (fun f => if f = e then { e with ctx := c } else f) ∧
      (t.sch re.part).waiting = (s.sch re.part).waiting ++ [c] ∧ (t.ctx c).st = 1 ∧ (t.ctx c).seq = e.seq ∧ (t.ctx c).program = e.program ∧ ∀ d, d ≠ c → t.ctx d = s.ctx d)) ∧
  (∀ (s s1 : State) (part c : Nat) (es : List Nat), (s.sch part).cur = none → s.nextWaiting part = some c → (s.ctx c).st = 1 → (s.ctx c).kill = none →
    s.accepting = true → s.flag (A.HG_SCH_WEAR_CTRL (s.ctx c).grp) F.HG_SCH_WEAR_CTRL_COMMIT = false → (s.partE part).isSome = true →
    let x := s.ctx c
    let tiles := s.rankMap x.grp
    let n := ((s.partE part).map (·.tenant)).getD 0
    (x.part = part → tiles.Nodup → s.readProg n x.program tiles = (s1, .entries es) → (∀ k ∈ tiles, s.isOn (16 + k / 8) = true) →
      s.Gives (.jobStart part) (fun t => (t.sch part).cur = some c ∧ (t.sch part).phase = .run ∧ (t.sch part).t0 = s.now ∧
        (t.ctx c).started = true ∧ (t.ctx c).release = s.time ∧
        t.job c = some ⟨tiles, n, part, true, false, false, [], [], [], [], []⟩ ∧
        ∀ r, r < tiles.length →
          let k := tiles.getD r 0
          let u := t.thread k 0
          (t.tile k).job = some c ∧ u.st = .ready ∧ u.pc = BitVec.ofNat 64 (es.getD r 0 / 4 * 4) ∧
          u.getX 1 = BitVec.ofNat 64 c ∧ u.getX 2 = BitVec.ofNat 64 r ∧ u.getX 3 = BitVec.ofNat 64 tiles.length ∧
          u.getX 4 = BitVec.ofNat 64 x.hdr ∧ u.getX 5 = BitVec.ofNat 64 x.plen ∧ u.getX 6 = BitVec.ofNat 64 x.tval ∧
          ∀ m, m < 16 → m ≠ 0 → (t.thread k m).st = .idle)) ∧
    (s.readProg n x.program tiles = (s1, .fault) → s1.gatedCtx c = false → x.tick = false → x.part = part → s.job c = none → s.Gives (.jobStart part) (fun t =>
      (t.ctx c).st = 3 ∧ (t.ctx c).status = 5 ∧ (t.ctx c).cause = 0x12 ∧ t.threads = s.threads)) ∧
    (s.readProg n x.program tiles = (s1, .poison) → s1.gatedCtx c = false → x.tick = false → x.part = part → s.job c = none → s.Gives (.jobStart part) (fun t =>
      (t.ctx c).st = 3 ∧ (t.ctx c).status = 1 ∧ (t.ctx c).cause = 0x12 ∧ t.threads = s.threads))) ∧
  (∀ (s : State) (c : Nat), c ≠ bootCtx →
    let x := s.ctx c
    let sk := s.statusNow c
    (¬((x.st = 1 ∨ x.st = 2) ∧ s.isOn 13 = true ∧ s.jobOver c = true) → s.Gives (.jobEnd c) (fun t => t = s)) ∧
    (x.st = 1 ∨ x.st = 2 → s.isOn 13 = true → s.jobOver c = true → s.Up (s.journalDoms x.part) → s.fl.retiring = [] →
      (State.isRetry x = false ∨ sk.2 ≠ 0x30 → s.Gives (.jobEnd c) (fun t =>
        t.job c = none ∧ (∀ j, s.job c = some j → ∀ k ∈ j.tiles, (s.tile k).job = some c → (t.tile k).job = none ∧ ∀ m, m < 16 → t.thread k m = Thread.idle) ∧
        (x.tick = false → (t.ctx c).st = 3 ∧ (t.ctx c).status = sk.1 ∧ (t.ctx c).cause = sk.2 ∧ (t.ctx c).endTime = s.time) ∧
        (x.tick = true → t.ctx c = { Ctx.free with save := x.save }))) ∧
      (∀ e, State.isRetry x = true → sk.2 = 0x30 → s.hg.jr.find? (fun e => e.ctx == c && e.st == .dispatched) = some e → bit e.flags 2 = true → e.retried = false →
        s.Gives (.jobEnd c) (fun t => t.job c = none ∧ t.ctx c = { Ctx.free with save := x.save } ∧
          t.hg.jr = s.hg.jr.map (fun f => if f = e then { e with st := .accepted, ctx := 0xFFFF, retried := true } else f))))) ∧
  (∀ s : State,
    (s.hg.ticks = [] → s.Gives .tickRelease (fun t => t = s)) ∧
    (∀ k tv ts, s.hg.ticks = (k, tv) :: ts → k < 8 →
      (s.plat.cur = none → s.Gives .tickRelease (fun t => t = { s with hg := { s.hg with ticks := ts } })) ∧
      (∀ pl, s.plat.cur = some pl → s.Up (13 :: s.tickDoms k) →
        let late := (s.hg.ctx.filter fun kv => kv.2.cls == some k && (kv.2.st == 1 || kv.2.st == 2)).map (·.1)
        let bound := s.ringEs.filter fun re => re.tick == k
        (late = [] → bound = [] → s.Gives .tickRelease (fun t => t = { s with hg := { s.hg with ticks := ts } })) ∧
        (∀ re, late = [] → bound = [re] → re.part < 16 → (∃ i, i < re.count ∧ (s.ringSt (re.first + i)).enabled = true) →
          (s.freeContext re = none → s.Gives .tickRelease (fun t =>
            t.fget (A.HG_SCH_TICK_SKIPPED re.part) (31, 0) = min (s.fget (A.HG_SCH_TICK_SKIPPED re.part) (31, 0) + 1) (2 ^ 32 - 1) ∧
            s.RegsBut [A.HG_SCH_TICK_SKIPPED re.part] t ∧ t = { s with hg := { s.hg with ticks := ts }, regs := t.regs })) ∧
          (∀ c, s.freeContext re = some c →
            let best := s.bestPacket (s.hg.jr.filter fun e => decide (re.first ≤ e.ring) && decide (e.ring < re.first + re.count) && s.readyPacket e)
            (∀ e, best = some e → s.Gives .tickRelease (fun t => t = { s with hg := t.hg } ∧ (t.ctx c).st = 1 ∧ (t.ctx c).cls = some k ∧ (t.ctx c).tval = tv ∧
              (t.ctx c).seq = e.seq ∧ t.hg.jr = s.hg.jr.map (fun f => if f = e then { e with st := .dispatched, ctx := c } else f))) ∧
            (best = none → (s.ringSt re.first).tickProg ≠ 0 → s.Gives .tickRelease (fun t => t = { s with hg := t.hg, regs := t.regs } ∧
              s.RegsBut [A.HG_P_TICK_RELEASE re.part] t ∧ t.hg.jr = s.hg.jr ∧ (t.ctx c).st = 1 ∧ (t.ctx c).tick = true ∧ (t.ctx c).tval = tv ∧
              (t.ctx c).program = (s.ringSt re.first).tickProg)))) ∧
        (∀ c, late = [c] → bound = [] → (s.ctx c).part < 16 → s.Gives .tickRelease (fun t => (t.ctx c).overran = true ∧
          t.fget (A.HG_SCH_TICK_OVERRUN (s.ctx c).part k) (31, 0) = min (s.fget (A.HG_SCH_TICK_OVERRUN (s.ctx c).part k) (31, 0) + 1) (2 ^ 32 - 1) ∧
          t.hg.ticks = ts ∧ t.threads = s.threads))))) ∧
  (∀ (s : State) (who : Who) (g : Nat), g < 256 →
    (s.wearOk who g = false → s.Gives (.wearCommit who g) (fun t => t = s) ∧ s.Gives (.wearDecline who g) (fun t => t = s)) ∧
    (s.wearOk who g = true →
      let a := A.HG_SCH_WEAR_CTRL g
      s.Gives (.wearCommit who g) (fun t => s.OnlyRegs [a] t ∧ t.flag a F.HG_SCH_WEAR_CTRL_PROPOSED = s.flag a F.HG_SCH_WEAR_CTRL_PROPOSED ∧
        (s.flag a F.HG_SCH_WEAR_CTRL_PROPOSED = true → t.flag a F.HG_SCH_WEAR_CTRL_COMMIT = true)) ∧
      s.Gives (.wearDecline who g) (fun t => s.OnlyRegs [a] t ∧ t.flag a F.HG_SCH_WEAR_CTRL_PROPOSED = false ∧ t.flag a F.HG_SCH_WEAR_CTRL_COMMIT = false)))

/-- Slices and reply slots (R370 to R372, R381 to R393): a slice that expires goes on when no job waits or the job cannot be saved, and otherwise stops the job, whose commands that have not started are withdrawn; once nothing of it is left in its tiles the debt is charged and it is saved, its tiles free and its context SAVED; a restore makes it RUNNING again. A reply or a timeout lands in the slot it is for; for a running job it reaches the thread's register, and one for no pending slot is counted. -/
def Obligations.SlicesAndReplySlots : Prop :=
  (∀ (s : State) (part c : Nat) (e : PartE) (j : Job), part < 16 → s.partE part = some e → (s.sch part).cur = some c → s.job c = some j → j.ending = false →
    let h := s.sch part
    let repay := min (s.ctx c).debt (e.sliceUs * 750)
    (e.policy = 1 → h.phase = .run → h.t0 + h.slice * 256 ≤ s.now → (s.ctx c).kill = none → s.gatedCtx c = false →
      (h.waiting = [] → s.Gives (.sliceEnd part) (fun t => t.sch part = { h with t0 := s.now, slice := e.sliceUs * 1000 - repay } ∧
        t.ctx c = { s.ctx c with debt := (s.ctx c).debt - repay } ∧ t = { s with hg := t.hg, regs := t.regs } ∧ s.RegsBut [A.HG_SCH_SLICES part] t)) ∧
      (h.waiting ≠ [] → s.saveOk c j.tenant = false → s.Gives (.sliceEnd part) (fun t => (t.sch part).cur = some c ∧ (t.sch part).phase = .run ∧
        (t.sch part).t0 = s.now ∧ t.threads = s.threads ∧ t.job c = some j)) ∧
      (h.waiting ≠ [] → s.saveOk c j.tenant = true → s.Gives (.sliceEnd part) (fun t => t.sch part = { h with phase := .stop, tEnd := s.now } ∧
        t.job c = some { j with running := false } ∧ (∀ d ∈ t.ebuf, d.ctx ≠ c) ∧ (∀ q ∈ t.eng.q, q.cmd.ctx ≠ c) ∧
        ∀ d ∈ s.ebuf, d.ctx = c → ∃ w ∈ t.hg.wdrawn, w.cmd = d))) ∧
    (h.phase ≠ .run ∨ s.now < h.t0 + h.slice * 256 ∨ e.policy ≠ 1 ∨ s.gatedCtx c = true → s.Gives (.sliceEnd part) (fun t => t = s)) ∧
    (h.phase = .stop → (∀ r ∈ s.runs, r.cmd.ctx ≠ c) → (∀ k ∈ j.tiles, ∀ m, m < 16 → (s.thread k m).acc = [] ∧ s.midInstr k m = false) → ∀ stalled,
      let debt := (s.now - h.tEnd) / 256 - 1000
      s.Gives (.jobQuiescent part stalled) (fun t => t.sch part = { h with phase := .save, tEnd := s.now } ∧
        (t.ctx c).debt = min ((s.ctx c).debt + debt) (2 ^ 32 - 1) ∧ t.threads = s.threads ∧
        t.fget (A.HG_SCH_DEBT_NS part) (63, 0) = min (s.fget (A.HG_SCH_DEBT_NS part) (63, 0) + debt) (2 ^ 64 - 1))) ∧
    (h.phase = .stop → (∃ r ∈ s.runs, r.cmd.ctx = c) → ∀ stalled, s.Gives (.jobQuiescent part stalled) (fun t => t.sch part = h)) ∧
    (h.phase = .save →
      s.Gives (.saveWritten part false) (fun t => (t.ctx c).st = 2 ∧ (∃ m, t.job c = some { j with saved := true, running := false, savedMq := m }) ∧
        (∀ k ∈ j.tiles, (t.tile k).job = none ∧ ∀ m, m < 16 → t.thread k m = Thread.idle) ∧ ∀ w ∈ t.hg.wdrawn, w.cmd.ctx ≠ c) ∧
      ((s.ctx c).slots = [] → s.Gives (.saveWritten part true) (fun t => (t.sch part).cur = some c ∧ (t.sch part).phase = .run ∧ t.threads = s.threads ∧
        t.job c = some { j with running := true } ∧ (∀ w ∈ t.hg.wdrawn, w.cmd.ctx ≠ c)))) ∧
    (h.phase = .restore → s.Up (j.tiles.map fun k => 16 + k / 8) → (s.ctx c).slots = [] →
      s.Gives (.restoreDone part) (fun t => (t.ctx c).st = 1 ∧ (t.sch part).cur = some c ∧ (t.sch part).phase = .run ∧ (t.sch part).t0 = s.now ∧
        t.job c = some { j with saved := false, running := true, held := [], heldB := [], credBack := [], savedMq := [] } ∧
        ∀ k ∈ j.tiles, (t.tile k).job = some c))) ∧
  (∀ (s : State) (c i tag data code : Nat) (psn : Bool),
    let r := (s.ctx c).slot i
    (r.st ≠ 1 ∨ r.tag ≠ tag ∨ 64 ≤ i → s.Gives (.replyArrival c i tag data code psn) (fun t => s.OnlyRegs [A.HG_LATE_REPLY] t ∧
      t.fget A.HG_LATE_REPLY (31, 0) = min (s.fget A.HG_LATE_REPLY (31, 0) + 1) (2 ^ 32 - 1))) ∧
    (∀ j, r.st = 1 → r.tag = tag → i < 64 → s.job c = some j →
      (j.running = false → s.Gives (.replyArrival c i tag data code psn) (fun t =>
        (t.ctx c).slot i = { r with st := 2, data := if r.kind = 2 then r.data else data % 2 ^ 64, code := code, psn := psn } ∧
        (∀ k, k ≠ i → (t.ctx c).slot k = (s.ctx c).slot k) ∧ (∀ d, d ≠ c → t.ctx d = s.ctx d) ∧
        t = { s with hg := t.hg, reqs := s.reqs.filter fun q => q.slot != some (c, i) })) ∧
      (let tile := j.tiles.getD r.rank 0
       let u := s.thread tile r.thr
       j.running = true → s.Up [16 + tile / 8] → r.kind ≠ 2 → code = 0 → r.reg < 32 → r.thr < 16 →
        s.Gives (.replyArrival c i tag data code psn) (fun t => (t.ctx c).slot i = RSlot.free ∧
          (t.thread tile r.thr).st = .ready ∧ (t.thread tile r.thr).hold = .none ∧ (t.thread tile r.thr).pc = u.pc + 4 ∧
          (∀ q : RegNo, (t.thread tile r.thr).getX q = if q.toNat = r.reg ∧ q ≠ 0 then
            (if r.sx = true then BitVec.ofInt 64 (sgn (8 * r.size) (data % 2 ^ 64)) else BitVec.ofNat 64 (data % 2 ^ 64 % 2 ^ (8 * r.size))) else u.getX q) ∧
          (∀ a b, b < 16 → (a ≠ tile ∨ b ≠ r.thr) → t.thread a b = s.thread a b) ∧ t.mem = s.mem))) ∧
    (r.st ≠ 1 ∨ s.now < r.since + s.blTimeout → s.Gives (.replySlotTimeout c i) (fun t => t = s)) ∧
    (∀ j, r.st = 1 → r.since + s.blTimeout ≤ s.now → s.job c = some j → j.running = false → s.Gives (.replySlotTimeout c i) (fun t =>
      (t.ctx c).slot i = { r with st := 2, data := if r.kind = 2 then r.data else 0, code := 5, psn := false } ∧
      (∀ q ∈ t.reqs, q.slot ≠ some (c, i)) ∧ t.threads = s.threads ∧ t.mem = s.mem)))

/-- Boot (R637, R639 to R644): power-on reset starts every state from reset with the fuses as they stand and begins the boot from the sampled source; a boot frame with the right CRC and alive value is staged, another is discarded; a staged image that is not well formed is a failure with ERROR 2; a well-formed, signed one starts the boot program on thread 0 of tile 0 with the image's place and length and the source in s1 to s3; loss of power keeps the fuses alone. -/
def Obligations.BootOfTheDevice : Prop :=
  (∀ s : State, s.Gives .lossOfPower (fun t =>
    t = { State.reset with pending := s.pending, free := s.free, nt := { NtSt.reset with fuse := s.nt.fuse, draw := s.nt.draw } })) ∧
  (∀ (s : State) (sel addr : Nat) (uid : List Nat) (life : Nat) (keys : List (List Nat)) (floors : List Nat) (n r : Nat) (fw cert : List Nat) (g : Nat),
    sel < 4 →
    (s.rs.up = true → s.Gives (.powerOnReset sel addr uid life keys floors n r fw cert g) (fun t => t = s)) ∧
    (s.rs.up = false → s.Gives (.powerOnReset sel addr uid life keys floors n r fw cert g) (fun t =>
      t.rs.up = true ∧ t.mem = [] ∧ t.threads = [] ∧ t.plat.cur = none ∧ t.time = 0 ∧ t.now = 0 ∧
      (s.nt.fuse ≠ Fuses.blank → t.nt.fuse = s.nt.fuse) ∧
      (s.nt.fuse = Fuses.blank → t.nt.fuse.uid = uid ∧ t.nt.fuse.life = life ∧ t.nt.fuse.floors = floors ∧ t.nt.fuse.svnN = n ∧ t.nt.fuse.svnR = r) ∧
      t.fget A.LK_BOOT_STATUS F.LK_BOOT_STATUS_SOURCE = sel ∧ t.fget A.LK_BOOT_STATUS F.LK_BOOT_STATUS_STAGE = 0 ∧
      t.fget A.LK_BOOT_STATUS F.LK_BOOT_STATUS_ERROR = (if 2 ≤ sel then 1 else 0) ∧
      t.fget A.IO_ADDR F.IO_ADDR_STATIC_ADDR = 0x58 + addr % 4 ∧ t.wakeq.contains 6 = true ∧
      (sel = 0 → t.wakeq.contains 7 = true ∧ t.wakeq.contains 8 = true) ∧ (sel = 1 → t.wakeq.contains 39 = true)))) ∧
  (∀ (s : State) (bytes : List Nat), s.bootWaits = true → s.bootSel = 1 → s.fget A.LK_BOOT_STATUS F.LK_BOOT_STATUS_ERROR = 0 →
    let k := s.rs.frame
    let good := bytes.length = 64 ∧ field bytes 60 4 = crc32c (bytes.take 60) ∧ field bytes 58 2 = k % 65536
    let n := if k = 0 then field bytes 8 4 else s.spiLen
    let m := min 58 (n - 58 * k)
    (¬good → s.Gives (.bootSpiFrame bytes) (fun t => t = s)) ∧
    (good → s.Up [39, 15, 31, 33] → imageLenOk n = true → 58 * k < n → zeroBytes bytes m (58 - m) = true → s.isLost (stagingBase + 58 * k) = false →
      s.Gives (.bootSpiFrame bytes) (fun t =>
        (∀ i, i < m → t.byte (stagingBase + 58 * k + i) = BitVec.ofNat 8 (bytes.getD i 0)) ∧ s.BytesBut (stagingBase + 58 * k) m t ∧
        t = { s with mem := t.mem, psn := t.psn, rs := { s.rs with frame := k + 1 } }))) ∧
  (∀ (s : State), s.bootWaits = true → s.fget A.LK_BOOT_STATUS F.LK_BOOT_STATUS_ERROR = 0 →
    let n := if s.bootSel = 0 then s.rs.bootLen else s.spiLen
    let img := s.homeBytes stagingBase n
    (if s.bootSel = 0 then n ≠ 0 else s.rs.frame ≠ 0 ∧ n ≤ 58 * s.rs.frame) → s.Up ([6, 15, 16, 31, 33] ++ s.sourceDoms) →
    (imageLenOk n = false ∨ bootImageOk img n = false ∨ s.homePsn stagingBase n = true → s.Gives .bootImageStaged (fun t =>
      t.fget A.LK_BOOT_STATUS F.LK_BOOT_STATUS_ERROR = 2 ∧ t.rs.boot = false ∧ t.plat.cur = none)) ∧
    (∀ v1 u1 v2 u2, imageLenOk n = true → bootImageOk img n = true → s.homePsn stagingBase n = false →
      let sec := bootSec img 3
      let slot := (((bootDir img).find? fun d => d.ty == 3).map (·.slot)).getD 0
      Config.firmware s.nt.fuse.fwKey (bootSec img 1) = some (v1, u1) → s.nt.fuse.svnN ≤ v1 →
      Config.firmware s.nt.fuse.fwKey (bootSec img 2) = some (v2, u2) → s.nt.fuse.svnR ≤ v2 →
      128 ≤ sec.length → Tab.get s.nt.fuse.keys [] slot ≠ [] → s.nt.fuse.revoked.has slot = false →
      ecdsaOk (Tab.get s.nt.fuse.keys [] slot) (sha384 (sec.take (sec.length - 128))) (slice sec (sec.length - 128) 96) = true →
      zeroBytes sec (sec.length - 32) 32 = true →
      s.Gives .bootImageStaged (fun t =>
        let u := t.thread 0 0
        t.rs.boot = true ∧ t.fget A.LK_BOOT_STATUS F.LK_BOOT_STATUS_STAGE = 3 ∧ u.st = .ready ∧ u.pc = BitVec.ofNat 64 t0Base ∧
        u.getX 1 = BitVec.ofNat 64 stagingBase ∧ u.getX 2 = BitVec.ofNat 64 n ∧ u.getX 3 = BitVec.ofNat 64 s.bootSel ∧
        t.nt.svnN = v1 ∧ t.nt.svnR = v2 ∧ t.nt.fwN = sha384 (bootSec img 1) ∧ t.nt.fwR = sha384 (bootSec img 2) ∧
        ∀ k, k < 16 → k ≠ 0 → (t.thread 0 k).st = .idle)))

/-- Resets (R490, R585, R607, R637, R638, R645 to R652): RST_N and a DEVICE reset end every thread and job, keep the plat and disable every ring; a reset of a partition or a tile, by its tenant, zeroes its threads; a reset that meets a wider one is absorbed, one by a stranger refused; a Notary security reset and a thermal trip erase memory, threads, plat and keys; a trip holds until the sensors allow its clearing. -/
def Obligations.ResetsOfTheDevice : Prop :=
  (∀ s : State, s.rs.up = true →
    (s.pw.trip = false → s.rs.warm ≠ some 1 → s.Gives .rstNAssert (fun t =>
      t.rs.warm = some 1 ∧ t.rs.rstLow = true ∧ t.fget A.LK_RESET_CAUSE F.LK_RESET_CAUSE_CAUSE = 1 ∧
      (∀ a b, t.thread a b = Thread.idle) ∧ (∀ c, t.job c = none) ∧ t.caches = [] ∧ t.plat.cur = s.plat.cur ∧ t.retired = s.retired)) ∧
    (s.rs.warm = some 1 → s.Gives .rstNAssert (fun t => t = { s with rs := { s.rs with rstLow := true }, regs := t.regs } ∧ s.RegsBut [A.LK_RESET_ABSORBED] t)) ∧
    (∀ c, s.rs.rstLow = true → s.rs.warm = some c → s.Gives .rstNRise (fun t =>
      t.rs.warm = none ∧ t.rs.rstLow = false ∧ t.plat.cur = s.plat.cur ∧ (∀ r, (s.ringE r).isSome = true → (t.ringSt r).enabled = false) ∧ t.isOn 13 = true)) ∧
    (∀ who, s.lkAdmin who = true → s.pw.trip = false → s.rs.warm = none → s.Gives (.device who) (fun t =>
      t.rs.warm = none ∧ t.fget A.LK_RESET_CAUSE F.LK_RESET_CAUSE_CAUSE = 2 ∧ t.fget A.LK_RESET_STATUS F.LK_RESET_STATUS_LAST_KIND = 1 ∧
      t.plat.cur = s.plat.cur ∧ (∀ a b, t.thread a b = Thread.idle) ∧ ∀ r, (s.ringE r).isSome = true → (t.ringSt r).enabled = false)) ∧
    (∀ dom, dom = 13 ∨ dom = 15 → s.pw.trip = false → s.rs.warm = none → s.Gives (.deviceFault dom) (fun t =>
      t.rs.warm = none ∧ t.fget A.LK_RESET_CAUSE F.LK_RESET_CAUSE_CAUSE = 3 ∧ t.plat.cur = s.plat.cur ∧ ∀ a b, t.thread a b = Thread.idle))) ∧
  (∀ (s : State) (n : Nat),
    let who : Who := .tenant n
    let refused : State → Prop := fun t => s.OnlyRegs [A.LK_RESET_STATUS] t ∧ t.flag A.LK_RESET_STATUS F.LK_RESET_STATUS_REFUSED = true
    let free := s.rs.warm = none ∧ s.pw.trip = false ∧ s.partResetRuns 0x23 = false
    (s.admin ≠ some n → s.Gives (.device who) refused) ∧
    (∀ part, part < 16 → s.admin ≠ some n → (∀ p, s.partE part = some p → p.tenant ≠ n) → s.Gives (.partition who part) refused) ∧
    (∀ tile, tile < 128 → s.admin ≠ some n → s.ownsTile n tile = false → s.Gives (.tile who tile) refused) ∧
    (∀ part p, part < 16 → s.partE part = some p → p.tenant = n → free → s.Up (13 :: s.journalDoms part) → s.Gives (.partition who part) (fun t =>
      t.fget A.LK_RESET_STATUS F.LK_RESET_STATUS_LAST_KIND = 2 ∧
      (∀ k thr, bit p.tiles k = true → k < 128 → thr < 16 → (t.thread k thr).st = .idle ∧ ∀ x, (t.thread k thr).getX x = 0) ∧
      (∀ e ∈ s.ringEs, e.part = part → ∀ i, i < e.count → (t.ringSt (e.first + i)).enabled = false) ∧
      ∀ e ∈ t.hg.jr, e.part = part → e.st ≠ .accepted)) ∧
    (∀ tile, tile < 128 → s.ownsTile n tile = true → free → s.partResetRuns 0x24 = false → s.retired.has tile = false →
      (∀ e ∈ s.fl.cls, ¬(e.eng = 0 ∧ e.unit = tile)) → s.Gives (.tile who tile) (fun t =>
        t.fget A.LK_RESET_STATUS F.LK_RESET_STATUS_LAST_KIND = 3 ∧ t.mem = s.mem ∧
        (∀ thr, thr < 16 → (t.thread tile thr).st = .idle ∧ ∀ x, (t.thread tile thr).getX x = 0) ∧
        ∀ a thr, a ≠ tile → thr < 16 → t.thread a thr = s.thread a thr))) ∧
  (∀ (s : State) (c : NtCmd),
    let erased : State → Prop := fun t => t.mem = [] ∧ t.psn = [] ∧ t.caches = [] ∧ (∀ a b, t.thread a b = Thread.idle) ∧ (∀ k, t.job k = none) ∧
      t.plat.cur = none ∧ t.nt.sess = [] ∧ t.nt.fuse = s.nt.fuse ∧ t.reqs = [] ∧ t.net = []
    (s.rs.up = true → s.isOn 6 = true → s.nt.fwN ≠ [] → s.Gives .notaryFwFault (fun t => erased t ∧ t.retired = [] ∧
      t.fget A.LK_RESET_CAUSE F.LK_RESET_CAUSE_CAUSE = 4)) ∧
    (s.ntPending 8 = some c → c.op = 8 → s.ntNow = some 8 → s.Up [6] → s.ntArg 8 0 = 0x53454352 → s.Gives .securityReset (fun t => erased t ∧ t.retired = [])) ∧
    (s.ntPending 8 = some c → c.op = 8 → s.ntNow = some 8 → s.Up [6] → s.ntArg 8 0 ≠ 0x53454352 → s.Gives .securityReset (fun t =>
      t.fget (A.NT_MB_STATUS 8) F.NT_MB_STATUS_STATUS = 7 ∧ t.ntPending 8 = none ∧ t = { s with regs := t.regs, nt := t.nt })) ∧
    (∀ logic dram, s.pw.trip = false → ({ s with pw := { s.pw with logic := logic, dram := dram } } : State).hotter 420 = true →
      s.Gives (.thermalSample logic dram) (fun t => erased t ∧ t.retired = s.retired ∧ t.pw.trip = true ∧
        t.flag A.LK_STATUS F.LK_STATUS_TRIP = true ∧ t.fget A.LK_RESET_CAUSE F.LK_RESET_CAUSE_CAUSE = 5 ∧ ∀ d, d < 40 → (t.isOn d = true ↔ d = 0))) ∧
    (∀ who, (s.pw.trip = false ∨ s.hotter 380 = true → s.Gives (.lkTripClr who) (fun t => t = s)) ∧
      (s.pw.trip = true → s.hotter 380 = false → s.Gives (.lkTripClr who) (fun t => t.pw.trip = false ∧
        t.fget A.LK_BOOT_STATUS F.LK_BOOT_STATUS_STAGE = 0 ∧ t.mem = s.mem))))

/-- Power domains (R470 to R481, R681): an idle domain without a refuser begins to enter its idle state, with one the refusal is counted and named; an entry ends in its new state and is counted, a failed one leaves the domain On, and so does one of memory to Off that a packet or a frame has come to need (R22); FORCE 1 asks for a wake; a wake source wakes the domains of its map when enabled; the next wake begins when its reserve fits; a domain that has become ready is On and releases the accesses held for it. -/
def Obligations.PowerDomainEvents : Prop :=
  (∀ (s : State) (d : Nat), 0 < d → d < 40 →
    let x := s.dom d
    (∀ t0, x.st = .on → x.waking = false → x.entering = none → s.force d ≠ 1 → s.domIdle d = true → (s.domE d).target = some t0 →
      (s.refuser d t0 false = none → (d < 9 ∨ (12 < d ∧ d < 16) ∨ 31 < d) → s.Gives (.domainIdleExpiry d) (fun t =>
        t = s.setDom d { x with entering := some t0 })) ∧
      (∀ r, s.refuser d t0 false = some r → t0 = .ret → s.force d < 2 → s.Gives (.domainIdleExpiry d) (fun t =>
        s.OnlyRegs [A.LK_D_REFUSED d, A.LK_D_STATUS d] t ∧ t.fget (A.LK_D_STATUS d) F.LK_D_STATUS_REFUSER = r.1 % 8 ∧
        t.fget (A.LK_D_REFUSED d) (31, 0) = min (s.fget (A.LK_D_REFUSED d) (31, 0) + 1) (2 ^ 32 - 1)))) ∧
    (∀ who, s.lkForceOk who d = true → x.waking = false → x.entering = none →
      s.Gives (.lkForce who d 0) (fun t => s.OnlyRegs [A.LK_D_CTRL d] t ∧ t.force d = 0) ∧
      (x.st = .on → s.Gives (.lkForce who d 1) (fun t => s.OnlyRegs [A.LK_D_CTRL d] t ∧ t.force d = 1)) ∧
      (x.st ≠ .on → s.portHeld d = false → s.Gives (.lkForce who d 1) (fun t => t.force d = 1 ∧ t.wakeq.contains d = true ∧
        t = { s with regs := t.regs, wakeq := t.wakeq } ∧ s.RegsBut [A.LK_D_CTRL d] t))) ∧
    (∀ t0, x.entering = some t0 → x.force = 0 →
      s.Gives (.domainEntryCommit d true) (fun t => (t.dom d).st = x.st ∧ (t.dom d).entering = none ∧ t.mem = s.mem ∧ t.threads = s.threads ∧
        t.fget (A.LK_D_ABORTED d) (31, 0) = min (s.fget (A.LK_D_ABORTED d) (31, 0) + 1) (2 ^ 32 - 1)) ∧
      ((9 ≤ d ∧ d ≤ 12 → (s.blPort (d - 9)).retAsk = false) → (t0 = .off → 32 ≤ d → s.layerTraffic d = none ∧ s.liveState d = none) →
        (t0 = .off → 16 ≤ d → d ≤ 31 → (s.prepCluster (d - 16)).2 = .ready) → s.Gives (.domainEntryCommit d false) (fun t =>
        t.dom d = { x with st := t0, entering := none } ∧ (t0 = .ret → t.mem = s.mem) ∧
        (t0 = .off → 16 ≤ d → d ≤ 31 → ∀ a b, 8 * (d - 16) ≤ a → a < 8 * (d - 16) + 8 → b < 16 → t.thread a b = Thread.idle))) ∧
      (t0 = .off → 32 ≤ d → ((s.layerTraffic d).isSome ∨ (s.liveState d).isSome) → s.Gives (.domainEntryCommit d false) (fun t =>
        (t.dom d).st = x.st ∧ (t.dom d).entering = none ∧ t.mem = s.mem ∧ t.threads = s.threads))) ∧
    (x.waking = true → x.force = 0 → s.extq = [] → s.Gives (.domainReady d) (fun t =>
      t.dom d = { x with st := .on, waking := false } ∧ t.isOn d = true ∧ t.mem = s.mem ∧
      t.fget (A.LK_D_WAKES d) (31, 0) = min (s.fget (A.LK_D_WAKES d) (31, 0) + 1) (2 ^ 32 - 1) ∧
      (d = 39 → t.pw.i2c = false) ∧
      (∀ a b, b < 16 → (s.thread a b).hold.doms = some [d] → s.stallq.contains (a * 16 + b, 0) = true →
        (t.thread a b).st = .ready ∧ (t.thread a b).hold = .none) ∧
      (∀ a b, b < 16 → (s.thread a b).hold.doms = none → t.thread a b = s.thread a b)))) ∧
  (∀ (s : State) (i : Nat) (commit : Bool), i < 40 → i ≠ 0 → i ≠ 1 → ¬(28 ≤ i ∧ i ≤ 35) →
    (s.flag (A.LK_WAKE_CFG i) F.LK_WAKE_CFG_EN = false → s.Gives (.wakeSourceAssert i commit) (fun t =>
      t.flag (A.LK_WAKE_CFG i) F.LK_WAKE_CFG_SEEN = true ∧ s.RegsBut [A.LK_WAKE_CFG i] t ∧ t = { s with regs := t.regs, pw := t.pw, io := t.io })) ∧
    (∀ d, s.flag (A.LK_WAKE_CFG i) F.LK_WAKE_CFG_EN = true → s.srcDoms i = [d] → s.isOn d = false → s.portHeld d = false → (s.dom d).waking = false →
      (s.dom d).entering = none → s.Gives (.wakeSourceAssert i commit) (fun t => t.wakeq.contains d = true ∧
        t.flag (A.LK_WAKE_CFG i) F.LK_WAKE_CFG_SEEN = true ∧ t.mem = s.mem ∧ t.threads = s.threads)) ∧
    s.Gives (.wakeSourceDeassert i) (fun t => t.pw = { s.pw with src := NSet.rem i s.pw.src } ∧ t = { s with pw := t.pw, io := t.io })) ∧
  (∀ (s : State) (addr : Nat), addr = s.fget A.IO_ADDR F.IO_ADDR_STATIC_ADDR → s.isOn 39 = false → s.Gives (.i2cAddressMatch addr) (fun t =>
    t.pw.i2c = true ∧ t.flag (A.LK_WAKE_CFG 0) F.LK_WAKE_CFG_SEEN = true ∧ t.mem = s.mem ∧ t.threads = s.threads)) ∧
  (∀ (s : State) (d : Nat), s.nextWake = some d → s.wakingNow = none → s.pw.trip = false → (∀ e ∈ domDeps d, s.isOn e = true) →
    (s.wakeFits d = true → s.Gives .domainWakeStart (fun t => t.dom d = { s.dom d with waking := true } ∧ (∀ e, e ≠ d → t.dom e = s.dom e) ∧
      t.wakeq = s.wakeq.filter (fun e => e != d) ∧ t.mem = s.mem ∧ t.threads = s.threads)) ∧
    (s.wakeFits d = false → s.pw.held ≠ some d → s.Gives .domainWakeStart (fun t => t.wakeq = s.wakeq ∧ t.doms = s.doms ∧ t.pw.held = some d ∧
      t.fget A.LK_GOV_HELD (31, 0) = min (s.fget A.LK_GOV_HELD (31, 0) + 1) (2 ^ 32 - 1))))

/-- Levels, power, temperature and wear (R396, R482 to R491, R667): a sample of the rails gives their power and the total; a cap withheld rises after 1 ms below 90% of the limit, the vault limit first; a clock follows its level once the voltage is reached; sensor samples show in the clusters' registers and lower thermal caps, which rise one level after 10 ms; wear of the tiles of On clusters accumulates; a refresh holds the accesses that wait at its vault for at most 500 ns and changes nothing else. -/
def Obligations.LevelsAndTemperature : Prop :=
  ∀ s : State,
    (∀ rails : List Nat, s.Gives (.governorSample rails) (fun t =>
      let p := min (rails.foldl (· + ·) 0) (2 ^ 18 - 1)
      t.fget A.LK_PWR_NOW F.LK_PWR_NOW_MW = p ∧ (∀ r, r < 11 → t.fget (A.LK_RAIL_MW r) F.LK_RAIL_MW_MW = min (rails.getD r 0) (2 ^ 18 - 1)) ∧
      t.pw.overran = (if s.fget A.LK_PWR_LIMIT F.LK_PWR_LIMIT_MW < p then s.pw.overran + 1 else 0) ∧ t.pw.last = s.now ∧
      t = { s with regs := t.regs, pw := t.pw })) ∧
    (∀ t0, s.pw.low = some t0 → t0 + 256 * 1000000 ≤ s.now →
      (0 < s.fget A.LK_STATUS F.LK_STATUS_VAULT_LIMIT → s.Gives .governorRaise (fun t =>
        t.fget A.LK_STATUS F.LK_STATUS_VAULT_LIMIT = s.fget A.LK_STATUS F.LK_STATUS_VAULT_LIMIT - 1 ∧
        s.RegsBut [A.LK_STATUS] t ∧ t = { s with regs := t.regs, pw := { s.pw with low := some s.now } })) ∧
      (∀ c, s.fget A.LK_STATUS F.LK_STATUS_VAULT_LIMIT = 0 → s.confMode = false → c < 16 → s.fget (A.LK_C_LEVEL c) F.LK_C_LEVEL_GOV_CAP < 3 →
        (∀ e, e < 16 → e ≠ c → s.fget (A.LK_C_LEVEL e) F.LK_C_LEVEL_GOV_CAP = 3) → s.Gives .governorRaise (fun t =>
          t.fget (A.LK_C_LEVEL c) F.LK_C_LEVEL_GOV_CAP = s.fget (A.LK_C_LEVEL c) F.LK_C_LEVEL_GOV_CAP + 1 ∧
          t = { s with regs := t.regs, pw := t.pw } ∧ s.RegsBut [A.LK_C_LEVEL c, A.LK_STATUS] t))) ∧
    (∀ c, c < 16 →
      let l := s.fget (A.LK_C_LEVEL c) F.LK_C_LEVEL_EFFECTIVE
      s.clkLevel c ≠ l → s.voltNow c = levelMv l → s.pw.unacked = false → s.Gives (.levelRampDone c) (fun t =>
        t.clkLevel c = l ∧ (∀ e, e ≠ c → t.clkLevel e = s.clkLevel e) ∧ t = { s with pw := t.pw })) ∧
    (∀ c t0, c < 16 → Tab.get s.pw.cool none c = some t0 → t0 + 256 * 10000000 ≤ s.now → Tab.get s.pw.tcap 3 c < 3 → s.Gives (.thermalCapRaise c) (fun t =>
      Tab.get t.pw.tcap 3 c = Tab.get s.pw.tcap 3 c + 1 ∧ (∀ e, e ≠ c → Tab.get t.pw.tcap 3 e = Tab.get s.pw.tcap 3 e) ∧ t = { s with regs := t.regs, pw := t.pw })) ∧
    (∀ logic dram, s.pw.trip = false →
      let u : State := { s with pw := { s.pw with logic := logic, dram := dram } }
      u.hotter 420 = false → s.Gives (.thermalSample logic dram) (fun t =>
        t.pw.logic = logic ∧ t.pw.dram = dram ∧
        (∀ c, c < 16 → t.fget (A.LK_C_TEMP c) F.LK_C_TEMP_LOGIC = unsgn 12 (u.tempC c) ∧ t.fget (A.LK_C_TEMP c) F.LK_C_TEMP_DRAM = unsgn 12 (u.tempM c) ∧
          Tab.get t.pw.tcap 3 c = min (Tab.get s.pw.tcap 3 c) (u.thermCap c 0)) ∧
        t = { s with regs := t.regs, pw := t.pw })) ∧
    s.Gives .wearCountUpdate (fun t =>
      (∀ c i, c < 16 → i < 8 →
        let add := wearWeight (s.fget (A.LK_C_LEVEL c) F.LK_C_LEVEL_EFFECTIVE) * wearFactor (s.tempC c - 340)
        let x := Tab.get s.pw.wear 0 (8 * c + i)
        Tab.get t.pw.wear 0 (8 * c + i) = if s.isOn (16 + c) = true then (x + add) % 2 ^ 18 else x) ∧
      t = { s with regs := t.regs, pw := { s.pw with wear := t.pw.wear } }) ∧
    (∀ v, s.Gives (.dramRefresh v) (fun t => t = { s with free := s.free + 1, arb := { s.arb with due := t.arb.due } } ∧
      ∀ k, Tab.get t.arb.due 0 k ≤ max (Tab.get s.arb.due 0 k) 500)) ∧
    (∀ ack, s.Gives (.pmbusVoutRetry ack) (fun t => t = { s with pw := { s.pw with unacked := !ack } }))

/-- The audio ring and the Seep event (R405, R406, R410, R432 to R439): a 16 kHz sample instant puts the saturated samples of the clocked microphones into the ring, zero while muted, and the calibration takes effect; at the end of each frame the detector logs its energy, moves its floor, and a run of ABOVE frames of the length set fires the event, which is merged with one pending or gives its onset and firing time; an owner acknowledges it; a microphone constant for 1 ms is STUCK. -/
def Obligations.AudioSamplesAndEvents : Prop :=
  ∀ s : State,
    (∀ (ma mb bc : Int) (ue : List Nat), s.au.fetch = none → s.auIdx + 1 < 2 ^ 64 → s.Gives (.audioSample ma mb bc ue) (fun t =>
      let i := s.auIdx
      let onB := s.flag A.AU_CLK_CFG F.AU_CLK_CFG_LISTEN_MICS = false
      let onC := s.flag A.AU_CLK_CFG F.AU_CLK_CFG_BC_EN = true
      let q : Int → Nat := fun x => unsgn 16 (clampI (-32768) 32767 x)
      t.auIdx = i + 1 ∧ t = { s with au := t.au, regs := t.regs } ∧
      (s.flag A.AU_MUTE F.AU_MUTE_MUTE = true → Tab.get t.au.ring 0 (i % 65536) = 0) ∧
      (s.flag A.AU_MUTE F.AU_MUTE_MUTE = false →
        (onB → onC → Tab.get t.au.ring 0 (i % 65536) = q ma + q mb * 2 ^ 16 + q bc * 2 ^ 32) ∧
        (¬onB → onC → Tab.get t.au.ring 0 (i % 65536) = q ma + q bc * 2 ^ 32) ∧
        (onB → ¬onC → Tab.get t.au.ring 0 (i % 65536) = q ma + q mb * 2 ^ 16) ∧
        (¬onB → ¬onC → Tab.get t.au.ring 0 (i % 65536) = q ma)) ∧
      (∀ k, k ≠ i % 65536 → Tab.get t.au.ring 0 k = Tab.get s.au.ring 0 k) ∧
      (∀ c, c < 9 → (t.rd (A.AU_CAL_EFF c)).toNat = s.calEff c) ∧
      s.RegsBut ([A.AU_HIST_INDEX, A.AU_NARROW_CLIP] ++ (List.range 9).map A.AU_CAL_EFF) t)) ∧
    (∀ e0, s.auIdx % 160 ≠ 0 ∨ s.auIdx / 160 ≤ s.au.judged → s.Gives (.audioFrameEnd e0) (fun t => t = s)) ∧
    (∀ e0, s.auIdx % 160 = 0 → s.au.judged < s.auIdx / 160 → s.au.fetch = none →
      let f := s.auIdx / 160 - 1
      let a := s.au
      let e := if s.detSilent = true then 0 else min e0 30720
      let above := a.muted = false ∧ s.detSilent = false ∧ a.floor + a.margin ≤ e
      let n := bits a.cfg 6 3
      s.Gives (.audioFrameEnd e0) (fun t => t.au.judged = f + 1 ∧ t.au.muted = false ∧ t.mem = s.mem ∧ t.threads = s.threads ∧
        (above → t.au.run = a.run + 1 ∧ (t.rd A.AU_ENERGY).toNat = e + 32768) ∧ (¬above → t.au.run = 0 ∧ (t.rd A.AU_ENERGY).toNat = e) ∧
        (a.floorW = true → t.au.floor = s.fget A.AU_FLOOR F.AU_FLOOR_FLOOR) ∧ (a.floorW = false → a.muted = true → t.au.floor = a.floor) ∧
        (a.floorW = false → a.muted = false → t.au.floor = min 32767 (max a.floorMin (if e < a.floor then a.floor - (a.floor - e) / 2 ^ bits a.cfg 10 7
          else a.floor + min (bits a.cfg 18 11) (e - a.floor)))) ∧
        (¬(above ∧ n ≠ 0 ∧ a.run + 1 = n) → s.RegsBut [A.AU_ENERGY, A.AU_FLOOR] t ∧ t.wakeq = s.wakeq) ∧
        (above ∧ n ≠ 0 ∧ a.run + 1 = n → t.fget A.AU_EVENT_COUNT (31, 0) = min (s.fget A.AU_EVENT_COUNT (31, 0) + 1) (2 ^ 32 - 1) ∧
          t.flag A.AU_EVENT_CTRL F.AU_EVENT_CTRL_PENDING = true ∧
          (s.flag A.AU_EVENT_CTRL F.AU_EVENT_CTRL_PENDING = true → t.rd A.AU_EVENT_ONSET = s.rd A.AU_EVENT_ONSET ∧ t.rd A.AU_EVENT_FIRE = s.rd A.AU_EVENT_FIRE ∧
            t.fget A.AU_EVENT_MERGED (31, 0) = min (s.fget A.AU_EVENT_MERGED (31, 0) + 1) (2 ^ 32 - 1)) ∧
          (s.flag A.AU_EVENT_CTRL F.AU_EVENT_CTRL_PENDING = false → t.rd A.AU_EVENT_ONSET = BitVec.ofNat 64 (160 * (f + 1 - n)) ∧
            t.rd A.AU_EVENT_FIRE = BitVec.ofNat 64 (160 * (f + 1)))))) ∧
    (∀ who, (s.auOk who = true → s.Gives (.auEventAck who) (fun t => s.OnlyRegs [A.AU_EVENT_CTRL] t ∧ t.flag A.AU_EVENT_CTRL F.AU_EVENT_CTRL_PENDING = false)) ∧
      (s.auOk who = false → s.Gives (.auEventAck who) (fun t => t = s))) ∧
    (∀ c, c ≤ 8 → (2 ≤ c → c ≤ 7 → s.isOn 3 = true) → s.Gives (.stuckDetect c) (fun t => s.OnlyRegs [A.AU_STATUS] t ∧ t.flag A.AU_STATUS (4 + c, 4 + c) = true)) ∧
    (∀ c, 2 ≤ c → c ≤ 7 → s.isOn 3 = false → s.Gives (.stuckDetect c) (fun t => t = s))

/-- The fetch command and the wide stream (R408, R409, R414, R427, R428, R435, R436, R441, R442): a fetch that names nothing ends OK, one that names entries already gone, too many or not yet written is INVALID, one that waits is BUSY until its entries are written, CANCEL ends it ABORTED; at its end BUSY clears with OK, POISON or FAULT. PDM_CLK0 follows D3; the chain settles at a multiple of 160; an owner enables a good ring; samples count from then on; a drift window that is not quiet shows its seven differences. -/
def Obligations.FetchAndWideStream : Prop :=
  ∀ s : State,
    let ends : Nat → Nat → State → Prop := fun st det t => t.fget A.AU_FETCH_STATUS F.AU_FETCH_STATUS_STATUS = st ∧ t.fget A.AU_FETCH_STATUS F.AU_FETCH_STATUS_DETAIL = det ∧
      t.flag A.AU_FETCH_STATUS F.AU_FETCH_STATUS_BUSY = false ∧ t.au.fetch = none ∧ s.RegsBut [A.AU_FETCH_STATUS] t ∧ t.threads = s.threads
    (∀ who n ring chans wait, s.auOk who = false → s.Gives (.auFetch who n ring chans wait) (fun t => t = s) ∧ s.Gives (.auFetchCancel who) (fun t => t = s)) ∧
    (∀ who n ring chans wait, s.auOk who = true → n < 2 ^ 17 → ring < 3 → chans < 8 →
      let busy := s.flag A.AU_FETCH_STATUS F.AU_FETCH_STATUS_BUSY
      let h := if ring = 0 then 65536 else if ring = 1 then 512 else 64
      let src := (s.rd A.AU_FETCH_SRC).toNat
      let dst := (s.rd A.AU_FETCH_DST).toNat
      let wi := s.histW ring
      let cmd : Instr := .auFetch who n ring chans wait
      let shape := n ≤ h ∧ (ring = 0 ↔ chans ≠ 0)
      (busy = true → s.Gives cmd (fun t => s.OnlyRegs [A.AU_FETCH_STATUS] t ∧ t.flag A.AU_FETCH_STATUS F.AU_FETCH_STATUS_OVERRUN = true)) ∧
      (busy = true → s.Gives (.auFetchCancel who) (fun t => ends 4 0 t ∧ t.mem = s.mem)) ∧
      (busy = false → s.Gives (.auFetchCancel who) (fun t => t = s)) ∧
      (busy = false → n = 0 → s.Gives cmd (fun t => ends 0 0 t ∧ t.mem = s.mem)) ∧
      (busy = false → n ≠ 0 → ¬shape → s.Gives cmd (fun t => ends 7 1 t ∧ t.mem = s.mem)) ∧
      (busy = false → n ≠ 0 → shape → src + h < wi → s.Gives cmd (fun t => ends 7 2 t ∧ t.mem = s.mem)) ∧
      (busy = false → n ≠ 0 → shape → wi ≤ src + h → wi < src + n → (wait = false ∨ wi + h < src + n) → s.Gives cmd (fun t => ends 7 3 t ∧ t.mem = s.mem)) ∧
      (∀ m, busy = false → n ≠ 0 → shape → wi ≤ src + h → (wi < src + n → wait = true ∧ src + n ≤ wi + h) → s.auTenant = some m →
        (s.reach (viaHome m) dst (n * histEntry ring chans) true locNear = .bad → s.Gives cmd (fun t => ends 5 0 t ∧ t.mem = s.mem)) ∧
        (s.reach (viaHome m) dst (n * histEntry ring chans) true locNear ≠ .bad → wi ≤ src → s.Gives cmd (fun t =>
          t.au.fetch = some ⟨ring, m, src, n, dst, chans, false⟩ ∧ t.flag A.AU_FETCH_STATUS F.AU_FETCH_STATUS_BUSY = true ∧ t.mem = s.mem ∧
          s.RegsBut [A.AU_FETCH_STATUS] t)) ∧
        (∀ ds, n = 1 → src < wi → s.reach (viaHome m) dst (histEntry ring chans) true locNear = .ok ds → s.Up ds → s.Gives cmd (fun t =>
          (∃ f, t.au.fetch = some f ∧ f.next = src + 1 ∧ f.left = 0) ∧ t.flag A.AU_FETCH_STATUS F.AU_FETCH_STATUS_BUSY = true)))) ∧
    (s.au.fetch = none → ∀ fail, s.Gives (.auFetchDone fail) (fun t => t = s)) ∧
    (∀ f, s.au.fetch = some f → (f.left = 0 ∨ s.histW f.ring ≤ f.next) →
      s.Gives (.auFetchDone true) (fun t => ends 5 0 t ∧ t.mem = s.mem) ∧
      (f.left = 0 → s.Gives (.auFetchDone false) (fun t => ends (if f.psn = true then 1 else 0) 0 t ∧ t.mem = s.mem)) ∧
      (f.left ≠ 0 → s.Gives (.auFetchDone false) (fun t => t = s))) ∧
    (s.isOn 3 = true → s.Gives .pdmClockSwitch (fun t => s.OnlyRegs [A.AU_STATUS] t ∧ t.fget A.AU_STATUS F.AU_STATUS_CLK0_RATE = 2)) ∧
    (s.isOn 3 = false → s.Gives .pdmClockSwitch (fun t => t.rd A.AU_WIDE_START = BitVec.allOnes 64 ∧ t.au.settled = false ∧ t.au.wbuf = [] ∧
      t.flag A.AU_STATUS F.AU_STATUS_WIDE_ON = false ∧ t.fget A.AU_STATUS F.AU_STATUS_CLK0_RATE = s.fget A.AU_CLK_CFG F.AU_CLK_CFG_LISTEN_RATE)) ∧
    (¬(s.isOn 3 = true ∧ s.fget A.AU_STATUS F.AU_STATUS_CLK0_RATE = 2 ∧ s.au.settled = false) → s.Gives .wideChainSettled (fun t => t = s)) ∧
    (s.isOn 3 = true → s.fget A.AU_STATUS F.AU_STATUS_CLK0_RATE = 2 → s.au.settled = false → s.Gives .wideChainSettled (fun t =>
      let w := ceilDiv s.auIdx 160 * 160
      t.rd A.AU_WIDE_START = BitVec.ofNat 64 w ∧ t.rd A.AU_WIDE_INDEX = BitVec.ofNat 64 (3 * w) ∧ t.au = { s.au with settled := true, wm := 3 * w } ∧
      t.fget A.AU_STATUS F.AU_STATUS_WIDE_ON = s.fget A.AU_WIDE_CTRL F.AU_WIDE_CTRL_WIDE_EN ∧ t = { s with au := t.au, regs := t.regs })) ∧
    (∀ who width pages mask, pages < 7 → mask < 256 → s.auOk who = true → s.Up [3] → s.flag A.AU_WIDE_CTRL F.AU_WIDE_CTRL_WIDE_EN = false →
      let u := ((s.fset A.AU_WIDE_CTRL F.AU_WIDE_CTRL_WIDTH (b2n width)).fset A.AU_WIDE_CTRL F.AU_WIDE_CTRL_PAGES pages).fset A.AU_WIDE_CTRL F.AU_WIDE_CTRL_CH_MASK mask
      (u.wideRingOk = true → s.Gives (.wideEnable who width pages mask) (fun t => s.OnlyRegs [A.AU_WIDE_CTRL, A.AU_STATUS] t ∧
        t.flag A.AU_WIDE_CTRL F.AU_WIDE_CTRL_WIDE_EN = true ∧ t.fget A.AU_WIDE_CTRL F.AU_WIDE_CTRL_PAGES = pages ∧
        t.fget A.AU_WIDE_CTRL F.AU_WIDE_CTRL_CH_MASK = mask ∧ t.flag A.AU_WIDE_CTRL F.AU_WIDE_CTRL_WIDTH = width ∧
        t.flag A.AU_STATUS F.AU_STATUS_WIDE_ON = s.au.settled)) ∧
      (u.wideRingOk = false → s.Gives (.wideEnable who width pages mask) (fun t => s.OnlyRegs [A.AU_WIDE_CTRL, A.AU_STATUS] t ∧
        t.flag A.AU_WIDE_CTRL F.AU_WIDE_CTRL_WIDE_EN = false ∧ t.flag A.AU_STATUS F.AU_STATUS_WIDE_ERR = true))) ∧
    (∀ xs, s.au.settled = false ∨ s.isOn 3 = false → s.Gives (.wideSample xs) (fun t => t = s)) ∧
    (∀ xs, s.au.settled = true → s.isOn 3 = true →
      (s.flag A.AU_WIDE_CTRL F.AU_WIDE_CTRL_WIDE_EN = false → s.Gives (.wideSample xs) (fun t => t = { s with au := { s.au with wm := s.au.wm + 1, wx := t.au.wx } })) ∧
      (∀ m ds, s.flag A.AU_WIDE_CTRL F.AU_WIDE_CTRL_WIDE_EN = true → s.au.wbuf = [] → s.auTenant = some m →
        let ctrl := (s.rd A.AU_WIDE_CTRL).toNat
        let n := if bit ctrl 1 = true then 32 else 16
        s.reach (viaHome m) ((s.rd A.AU_WIDE_BASE).toNat + s.au.wm % wideSlots ctrl * n) n true locNear = .ok ds → s.Up ds → s.Gives (.wideSample xs) (fun t =>
          t.au.wm = s.au.wm + 1 ∧ t.au.wbuf = [] ∧ t.rd A.AU_WIDE_INDEX = BitVec.ofNat 64 (s.au.wm + 1) ∧ t.threads = s.threads))) ∧
    (∀ quiet diff, (quiet = true ∨ s.isOn 3 = false ∨ s.flag A.AU_RECAL_CTRL F.AU_RECAL_CTRL_RECAL_EN = false → s.Gives (.driftWindowEnd quiet diff) (fun t => t = s)) ∧
      (quiet = false → s.isOn 3 = true → s.flag A.AU_RECAL_CTRL F.AU_RECAL_CTRL_RECAL_EN = true → s.Gives (.driftWindowEnd quiet diff) (fun t =>
        s.OnlyRegs ((List.range 7).map A.AU_DRIFT) t ∧ ∀ c, c < 7 → t.rd (A.AU_DRIFT c) = BitVec.ofNat 64 (unsgn 16 (diff.getD c 0) + 65536))))

/-- The Runnel core (R411 to R415, R421 to R423): a pending event wakes it from SLEEP into LISTENING; each frame evaluated moves it on by 10 ms, and a model that has met its threshold CONFIRM times decides, the others of that frame being merged; HOLD frames of quiet end the listening and acknowledge the event; STOP, LISTEN and TRIGGER move it as R411 says and are refused elsewhere; a load checks its image, which is swapped in at a frame boundary or reported by the offset of the field that failed; a held record is placed on the Leat ring. -/
def Obligations.RunnelCore : Prop :=
  (∀ s : State, s.isOn 1 = true →
    let shows : Nat → State → Prop := fun k t => t.fget A.RN_STATUS F.RN_STATUS_STATE = (if s.rn.load.isSome = true then 4 else k)
    let hears : Nat → Bool → State → Prop := fun onset trig t => t.rn.st = 1 ∧ shows 1 t ∧ t.rn.onset = onset ∧ t.rn.trig = trig ∧
      t.rn.next = max ((onset - s.fget A.RN_LOOKBACK F.RN_LOOKBACK_SAMPLES) / 160 * 160) s.oldestFrame ∧ t.rn.quiet = 0 ∧
      t.fget A.RN_WAKES (31, 0) = min (s.fget A.RN_WAKES (31, 0) + 1) (2 ^ 32 - 1) ∧ s.RegsBut [A.RN_WAKES, A.RN_STATUS] t ∧ t.mem = s.mem
    let pending := s.flag A.AU_EVENT_CTRL F.AU_EVENT_CTRL_PENDING
    let d3 := s.fget A.RN_CASCADE_CFG F.RN_CASCADE_CFG_D3_ON
    let refused : State → Prop := fun t => s.OnlyRegs [A.RN_STATUS] t ∧ t.flag A.RN_STATUS F.RN_STATUS_CMD_REFUSED = true
    (s.rn.st ≠ 0 ∨ pending = false → s.Gives .runnelWake (fun t => t = s)) ∧
    (s.rn.st = 0 → pending = true → d3 ≠ 1 → s.Gives .runnelWake (hears (s.rd A.AU_EVENT_ONSET).toNat false)) ∧
    (∀ who, s.auOk who = false → s.Gives (.stop who) (fun t => t = s) ∧ s.Gives (.listen who) (fun t => t = s) ∧ s.Gives (.trigger who) (fun t => t = s) ∧
      s.Gives (.load who) (fun t => t = s) ∧ s.Gives (.rnPinClear who) (fun t => t = s)) ∧
    (∀ who, s.auOk who = true → s.Up [1] →
      (s.rn.st ≤ 2 → s.Gives (.stop who) (fun t => t.rn = { s.rn with st := 3, decided := [], conf := [], trig := false } ∧ shows 3 t ∧ t = { s with rn := t.rn, regs := t.regs })) ∧
      (2 < s.rn.st → s.Gives (.stop who) refused) ∧
      (s.rn.st = 3 → pending = false → s.Gives (.listen who) (fun t => t.rn = { s.rn with st := 0 } ∧ shows 0 t ∧ t = { s with rn := t.rn, regs := t.regs })) ∧
      (s.rn.st = 3 → pending = true → d3 ≠ 1 → s.Gives (.listen who) (hears (s.rd A.AU_EVENT_ONSET).toNat false)) ∧
      (s.rn.st ≠ 3 → s.Gives (.listen who) refused) ∧
      (s.rn.st = 0 → d3 ≠ 1 → s.Gives (.trigger who) (hears s.auIdx true)) ∧
      (s.rn.st ≠ 0 → s.Gives (.trigger who) refused) ∧
      s.Gives (.rnPinClear who) (fun t => s.OnlyRegs [A.RN_STATUS] t ∧ t.flag A.RN_STATUS F.RN_STATUS_PIN_ASSERTED = false) ∧
      (s.rn.load.isSome = true → s.Gives (.load who) refused) ∧
      (let a := (s.rd A.RN_LOAD_ADDR).toNat
       let bad : Nat → State → Prop := fun o t => t.rd A.RN_LOAD_STATUS = BitVec.ofNat 64 (7 + o * 16) ∧ t.rn.load = none ∧ t.rn.image = s.rn.image ∧ t.rn.st = s.rn.st ∧
         t.fget A.RN_LOAD_FAIL (31, 0) = min (s.fget A.RN_LOAD_FAIL (31, 0) + 1) (2 ^ 32 - 1)
       s.rn.load = none →
        (a % 64 ≠ 0 → s.Gives (.load who) (bad 0)) ∧
        (∀ m u u1 u2 hd ds ds2 bs, a % 64 = 0 → s.auTenant = some m → u = s.setRn { s.rn with load := some (a, none) } →
          u.reach (viaHome m) a 32 false locT12 = .ok ds → u.Up ds → u.readBytes (viaHome m) a 32 = (u1, hd) → rnLenOk (pnat hd 8 4) = true →
          u1.reach (viaHome m) a (pnat hd 8 4) false locT12 = .ok ds2 → u1.Up ds2 → u1.readBytes (viaHome m) a (pnat hd 8 4) = (u2, bs) →
          ((rnCheck bs).1 = none → s.Gives (.load who) (fun t => t.rn = { s.rn with load := some (a, some (rnCheck bs).2) } ∧ t.fget A.RN_STATUS F.RN_STATUS_STATE = 4)) ∧
          (∀ o, (rnCheck bs).1 = some o → s.Gives (.load who) (bad o))))) ∧
    (s.rn.load = none → s.Gives .runnelLoadSwap (fun t => t = s)) ∧
    (∀ a img, s.rn.load = some (a, some img) → img.bytes.length ≤ 1048576 → img.models.length ≤ 8 → s.Gives .runnelLoadSwap (fun t =>
      t.rn.image = some img ∧ t.rn.load = none ∧ t.rn.conf = [] ∧ t.rn.st = (if s.rn.st = 5 then 0 else s.rn.st) ∧ t.rd A.RN_LOAD_STATUS = 0 ∧
      t.fget A.RN_STATUS F.RN_STATUS_MODELS = img.models.length ∧
      t.rd A.RN_SWAP_INDEX = BitVec.ofNat 64 (if s.rn.st = 1 ∨ s.rn.st = 2 then s.rn.next else ceilDiv s.auIdx 160 * 160) ∧ t.mem = s.mem)) ∧
    (s.rn.st = 1 → max 1 (s.fget A.RN_HOLD F.RN_HOLD_HOLD_FRAMES) ≤ s.rn.quiet → s.Gives .runnelHoldExpiry (fun t => t.rn = { s.rn with st := 0, trig := false } ∧ shows 0 t ∧
      t.flag A.AU_EVENT_CTRL F.AU_EVENT_CTRL_PENDING = false ∧ s.RegsBut [A.AU_EVENT_CTRL, A.RN_STATUS] t)) ∧
    (s.rn.st ≠ 1 ∨ s.rn.quiet < max 1 (s.fget A.RN_HOLD F.RN_HOLD_HOLD_FRAMES) → s.Gives .runnelHoldExpiry (fun t => t = s)) ∧
    (s.rn.st = 2 → s.refractory s.rn.decided = [] → s.Gives .runnelRefractoryEnd (fun t => t.rn = { s.rn with st := 1, decided := [] } ∧ shows 1 t)) ∧
    (s.rn.st ≠ 2 ∨ s.refractory s.rn.decided ≠ [] → s.Gives .runnelRefractoryEnd (fun t => t = s)) ∧
    (s.rn.st = 1 ∨ s.rn.st = 2 → s.oldestFrame ≤ s.rn.next → ∀ scores classes starts,
      let i := s.rn.next
      let ms := s.rn.pick fun m => m.kind != 2
      let on := fun m => bits (s.thresh m (i / 160)) 15 0
      let met : Nat → Bool := fun m => scoreMeets (scores.getD m 0) (on m)
      let seen : Nat → Nat := fun m => if met m then Tab.get s.rn.conf 0 m + 1 else 0
      let win := ms.filter fun m => decide (bits (s.thresh m (i / 160)) 23 16 ≠ 0) && decide (bits (s.thresh m (i / 160)) 23 16 ≤ seen m) &&
        (Tab.get? (s.refractory s.rn.decided) m).isNone
      (s.auIdx < i + 160 → s.Gives (.runnelFrameEval false scores classes starts) (fun t => t = s)) ∧
      (i + 160 ≤ s.auIdx → (∀ k, k < 160 → s.au.bad.has ((i + k) % 65536) = false) →
        (win = [] → s.Gives (.runnelFrameEval false scores classes starts) (fun t => t.rn.next = i + 160 ∧ t.rn.st = s.rn.st ∧ t.rn.seq = s.rn.seq ∧
          t.rn.quiet = (if s.logFlag (i / 160) 0 = true then 0 else s.rn.quiet + 1) ∧ t = { s with rn := t.rn })) ∧
        (∀ m rest, win = m :: rest → d3 ≠ 2 → s.Gives (.runnelFrameEval false scores classes starts) (fun t => t.rn.next = i + 160 ∧ t.rn.st = 2 ∧ t.rn.seq = s.rn.seq + 1 ∧
          t.fget A.RN_DECISIONS (31, 0) = min (s.fget A.RN_DECISIONS (31, 0) + 1) (2 ^ 32 - 1) ∧
          (t.rd A.RN_LAST_RECORD).toNat % 65536 = 257 ∧ (s.rn.trig = false → m < 8 → (t.rd A.RN_LAST_RECORD).toNat / 65536 % 256 = m) ∧ t.mem = s.mem))))) ∧
  (∀ (s : State) (n : Nat), s.isOn 1 = true →
    let r := s.fget A.RN_LEAT_RING F.RN_LEAT_RING_RING
    (s.auTenant = none → s.Gives .runnelHandoffPlace (fun t => t = s)) ∧
    (s.auTenant = some n → s.ringTenant r = some n → s.rn.held = [] → s.rn.synced = true → s.Gives .runnelHandoffPlace (fun t => t = s)) ∧
    (∀ rec_ rest, s.auTenant = some n → s.ringTenant r = some n → s.rn.held = rec_ :: rest → s.ringProd r = (s.ringSt r).cons → s.leatReady = true →
      s.Up (13 :: t1Doms (s.ringBase r)) → s.Gives .runnelHandoffPlace (fun t => t.rn = { s.rn with held := rest, synced := true } ∧
        (t.hg.dbq.contains r = true ∨ t.hg.rescan.has r = true) ∧ t.threads = s.threads ∧ t.hg.jr = s.hg.jr)))

/-- Cameras, streams and the glance port (R407, R446 to R451, R458 to R467): a header that cannot be corrected, or a packet no enabled stream matches, is counted; a Frame Start begins a frame with the next index, a line joins it or is dropped when the share is full, a Frame End ends it, and its record turns DONE once its writes are made; an owner enables a stream whose configuration is good, disables it, queues parameter sets for later frames and clears the queue; a glance frame joins the glance ring. -/
def Obligations.CamerasAndGlance : Prop :=
  (∀ (s : State) (rx vc hdr : Nat), rx < 4 →
    let plus : Nat → State → Prop := fun a t => t.fget a (31, 0) = min (s.fget a (31, 0) + 1) (2 ^ 32 - 1)
    let deaf := s.isOn 5 = false ∨ s.flag (A.CA_CTRL rx) F.CA_CTRL_EN = false
    let hears := s.isOn 5 = true ∧ s.flag (A.CA_CTRL rx) F.CA_CTRL_EN = true
    (∀ num dt crc sot full data, (deaf → s.Gives (.csiFrameStart rx vc num hdr) (fun t => t = s) ∧ s.Gives (.csiLongPacket rx vc dt hdr crc sot full data) (fun t => t = s) ∧
        s.Gives (.csiFrameEnd rx vc hdr) (fun t => t = s) ∧ s.Gives (.deskewSequence rx) (fun t => t = s) ∧ ∀ enter, s.Gives (.ulpsEntryExit rx enter) (fun t => t = s)) ∧
      (hears → 2 ≤ hdr →
        let lost : State → Prop := fun t => t = { s with regs := t.regs, cam := { s.cam with seen := t.cam.seen } } ∧ s.RegsBut [A.CA_ECC_UNCORR rx] t ∧ plus (A.CA_ECC_UNCORR rx) t
        s.Gives (.csiFrameStart rx vc num hdr) lost ∧ s.Gives (.csiLongPacket rx vc dt hdr crc sot full data) lost ∧ s.Gives (.csiFrameEnd rx vc hdr) lost) ∧
      (hears → s.isMatch rx vc (fun _ => true) = [] →
        s.Gives (.csiFrameStart rx vc num 0) (fun t => plus (A.CA_UNMATCHED rx) t ∧ s.RegsBut [A.CA_UNMATCHED rx] t) ∧
        s.Gives (.csiFrameEnd rx vc 0) (fun t => plus (A.CA_UNMATCHED rx) t ∧ s.RegsBut [A.CA_UNMATCHED rx] t)) ∧
      (∀ n, hears → s.isMatch rx vc (fun _ => true) = [n] →
        ((s.isSt n).cur = none → (∀ p ∈ (s.isSt n).queue, ((s.rd (A.IS_S_FRAME_INDEX n)).toNat + 1) % 2 ^ 64 < p.2) → s.Gives (.csiFrameStart rx vc num 0) (fun t =>
          t.rd (A.IS_S_FRAME_INDEX n) = s.rd (A.IS_S_FRAME_INDEX n) + 1 ∧ t.threads = s.threads ∧
          ∃ x, (t.isSt n).cur = some x ∧ x.idx = (s.rd (A.IS_S_FRAME_INDEX n) + 1).toNat ∧ x.num = num % 65536 ∧ x.fs = s.time ∧ x.lines = [] ∧
            x.par = (s.isSt n).par.getD IsParam.default)) ∧
        ((s.isSt n).cur = none → s.Gives (.csiFrameEnd rx vc 0) (fun t => t.flag (A.CA_STATUS rx) F.CA_STATUS_SYNC_ERR = true ∧ s.RegsBut [A.CA_STATUS rx] t)) ∧
        (∀ x, (s.isSt n).cur = some x → s.Gives (.csiFrameEnd rx vc 0) (fun t => (t.isSt n).cur = none ∧ plus (A.IS_S_FRAMES n) t ∧
          ∃ y, (t.isSt n).ended = (s.isSt n).ended ++ [y] ∧ y.idx = x.idx ∧ y.lines = x.lines ∧ y.fe = s.time ∧ y.ended = true))) ∧
      (hears → dtOk dt = false → s.Gives (.csiLongPacket rx vc dt 0 crc false full data) (fun t => plus (A.CA_UNMATCHED rx) t ∧ s.RegsBut [A.CA_UNMATCHED rx] t)) ∧
      (∀ n, hears → dtOk dt = true → s.isMatch rx vc (fun c => c.dt == dt) = [n] →
        ((s.isSt n).cur = none → s.Gives (.csiLongPacket rx vc dt 0 false false full data) (fun t =>
          t.flag (A.CA_STATUS rx) F.CA_STATUS_SYNC_ERR = true ∧ s.RegsBut [A.CA_STATUS rx] t)) ∧
        (∀ x, (s.isSt n).cur = some x → x.lines.length < (s.isCfg n).h → (full = true ∨ s.isFull n = false) →
          s.Gives (.csiLongPacket rx vc dt 0 crc false full data) (fun t => ∃ y, (t.isSt n).cur = some y ∧ y.idx = x.idx ∧ y.recv = x.recv + 1 ∧
            y.lenErr = x.lenErr + (if data.length = (s.isCfg n).lineBytes then 0 else 1) ∧
            y.lines = x.lines ++ [⟨if full = true then [] else unpackLine dt (data.take (s.isCfg n).lineBytes), crc, full⟩] ∧
            (crc = true → plus (A.CA_CRC_ERR rx) t ∧ plus (A.IS_S_CRC_LINES n) t) ∧ (full = true → plus (A.IS_S_LINES_DROPPED n) t))))) ∧
    (hears → s.Gives (.deskewSequence rx) (fun t => t.flag (A.CA_STATUS rx) F.CA_STATUS_DESKEW_DONE = true ∧ s.RegsBut [A.CA_STATUS rx] t) ∧
      ∀ enter, s.Gives (.ulpsEntryExit rx enter) (fun t => s.OnlyRegs [A.CA_STATUS rx] t ∧ t.flag (A.CA_STATUS rx) F.CA_STATUS_ULPS = enter))) ∧
  (∀ (s : State) (who : Who) (n : Nat), n < 16 →
    let x := s.isSt n
    let k := ((s.rd (A.IS_S_FRAME_INDEX n)).toNat + 1) % 2 ^ 64
    let a := (s.rd (A.IS_S_PUSH_ADDR n)).toNat
    let refused : Nat → State → Prop := fun why t => t.flag (A.IS_S_QSTATUS n) F.IS_S_QSTATUS_REFUSED = true ∧ t.fget (A.IS_S_QSTATUS n) F.IS_S_QSTATUS_REASON = why ∧ t.cam = s.cam
    (s.cam.out = [] → x.ended = [] → s.Gives (.ispFrameDone n) (fun t => t = s)) ∧
    (∀ f rest, s.cam.out = [] → x.ended = f :: rest → s.Gives (.ispFrameDone n) (fun t => t.isSt n = { x with ended := rest } ∧ t.threads = s.threads)) ∧
    (s.isOk who n = false → s.Gives (.isStreamEnable who n) (fun t => t = s) ∧ s.Gives (.isStreamDisable who n) (fun t => t = s) ∧
      s.Gives (.clear who n) (fun t => t = s) ∧ ∀ abs, s.Gives (.push who n abs) (fun t => t = s)) ∧
    (s.isOk who n = true → s.Up [4] →
      (s.isOnStream n = true → s.Gives (.isStreamEnable who n) (fun t => t = s)) ∧
      (s.isOnStream n = false → s.isEnableOk n = true → s.Gives (.isStreamEnable who n) (fun t => t.isOnStream n = true ∧
        t.rd (A.IS_S_FRAME_INDEX n) = BitVec.allOnes 64 ∧ t.flag A.IS_STATUS (n, n) = true ∧ t.isSt n = { x with cur := none, par := some IsParam.default, queue := [] } ∧
        t = { s with regs := t.regs, cam := t.cam })) ∧
      (s.isOnStream n = false → s.isEnableOk n = false → s.Gives (.isStreamEnable who n) (fun t => s.OnlyRegs [A.IS_S_CFG n] t ∧
        t.flag (A.IS_S_CFG n) F.IS_S_CFG_CFG_ERR = true ∧ t.isOnStream n = false)) ∧
      (s.isOnStream n = false → s.Gives (.isStreamDisable who n) (fun t => t = s)) ∧
      (s.isOnStream n = true → x.cur = none → s.Gives (.isStreamDisable who n) (fun t => t.isOnStream n = false ∧ t.flag A.IS_STATUS (n, n) = false ∧
        t.isSt n = { x with queue := [] } ∧ t = { s with regs := t.regs, cam := t.cam })) ∧
      s.Gives (.clear who n) (fun t => t.isSt n = { x with queue := [] } ∧ t.fget (A.IS_S_QSTATUS n) F.IS_S_QSTATUS_DEPTH = 0 ∧ s.RegsBut [A.IS_S_QSTATUS n] t) ∧
      (∀ abs, s.isOnStream n = false → s.Gives (.push who n abs) (refused 3)) ∧
      (∀ abs, s.isOnStream n = true → a % 64 ≠ 0 → s.Gives (.push who n abs) (refused 2)) ∧
      (∀ abs, s.isOnStream n = true → a % 64 = 0 → s.reach (viaHome (s.isCfg n).tenant) a 1792 false locNear ≠ .bad →
        let want := if abs = true then (s.rd (A.IS_S_PUSH_FRAME n)).toNat else k + s.fget (A.IS_S_CFG n) F.IS_S_CFG_DELAY
        let ap := max want k
        ((∀ p ∈ x.queue, p.2 ≠ ap) → 8 ≤ x.queue.length → s.Gives (.push who n abs) (refused 1)) ∧
        ((∃ p ∈ x.queue, p.2 = ap) ∨ x.queue.length < 8 → s.Gives (.push who n abs) (fun t =>
          t.isSt n = { x with queue := (x.queue.filter fun p => p.2 != ap) ++ [(a, ap)] } ∧ t.rd (A.IS_S_LAST_APPLY n) = BitVec.ofNat 64 ap))))) ∧
  (∀ (s : State) (lines : List (List Nat)) (ago back : Nat),
    (s.isOn 2 = false ∨ s.flag A.GP_CTRL F.GP_CTRL_EN = false → s.Gives (.glanceFrameEnd lines ago back) (fun t => t = s)) ∧
    (s.isOn 2 = true → s.flag A.GP_CTRL F.GP_CTRL_EN = true → s.au.fetch = none → s.Gives (.glanceFrameEnd lines ago back) (fun t =>
      let g := (s.rd A.AU_GLANCE_INDEX).toNat
      t.rd A.AU_GLANCE_INDEX = s.rd A.AU_GLANCE_INDEX + 1 ∧ t.fget A.GP_FRAMES (31, 0) = min (s.fget A.GP_FRAMES (31, 0) + 1) (2 ^ 32 - 1) ∧
      (∀ i, i ≠ g % 64 → Tab.get t.au.glance (List.replicate 256 0) i = Tab.get s.au.glance (List.replicate 256 0) i) ∧
      field (Tab.get t.au.glance (List.replicate 256 0) (g % 64)) 0 8 = g ∧
      field (Tab.get t.au.glance (List.replicate 256 0) (g % 64)) 8 8 = (s.time + 2 ^ 64 - ago) % 2 ^ 64 ∧
      t = { s with au := t.au, cam := t.cam, regs := t.regs })))

/-- The Time unit (R502 to R511): each D0 cycle adds the increment of the rate, after the steps accepted; a step is accepted once for each ARM, else refused and counted; an enabled channel whose time has come fires, a one-shot then off and a periodic one set to its next time; a period below 10 ms is refused; a pulse ends after its WIDTH; an edge that an enabled input accepts is stamped, one within 1 µs only counted; a shared engine's wheel moves on when its window has ended. -/
def Obligations.TimeUnit : Prop :=
  ∀ s : State,
    (s.Gives (.timeAdvance 0) (fun t => t = s)) ∧
    (∀ n, 0 < n → s.Gives (.timeAdvance n) (fun t =>
      (t.tu.acc : Int) = ((s.tu.steps.foldl (fun a o => (a + o % 2 ^ 64 * 2 ^ 40) % 2 ^ 104) s.tu.acc : Nat) + n * tuInc s.tuRate) % 2 ^ 104 ∧
      t.tu.steps = [] ∧ t.now = s.now + (n * 31250 + s.tu.frac) / 3 ∧ t.tu.frac = (n * 31250 + s.tu.frac) % 3 ∧ t.mem = s.mem ∧ t.threads = s.threads ∧
      (s.stallCharges s.waitings = [] → s.arb.due = [] → t.fget A.TU_STEPS (31, 0) = min (s.fget A.TU_STEPS (31, 0) + s.tu.steps.length) (2 ^ 32 - 1)) ∧
      (∀ c, c < 16 → Tab.get t.ticks 0 c = Tab.get s.ticks 0 c + (if s.isOn (16 + c) = true then (n * 31250 + s.tu.frac) / 3 * levelTenths (s.clkLevel c) else 0)))) ∧
    (∀ who off, (s.lkAdmin who = false → s.Gives (.tuStepWrite who off) (fun t => t = s) ∧ s.Gives (.arm who) (fun t => t = s)) ∧
      (s.lkAdmin who = true →
        (s.flag A.TU_CTRL F.TU_CTRL_STEP_ARMED = true → s.Gives (.tuStepWrite who off) (fun t => t.flag A.TU_CTRL F.TU_CTRL_STEP_ARMED = false ∧
          s.RegsBut [A.TU_CTRL] t ∧ t = { s with regs := t.regs, tu := { s.tu with steps := s.tu.steps ++ [off % 2 ^ 64] } })) ∧
        (s.flag A.TU_CTRL F.TU_CTRL_STEP_ARMED = false → s.Gives (.tuStepWrite who off) (fun t => s.OnlyRegs [A.TU_STEP_REFUSED] t ∧
          t.fget A.TU_STEP_REFUSED (31, 0) = min (s.fget A.TU_STEP_REFUSED (31, 0) + 1) (2 ^ 32 - 1))) ∧
        (s.PlatOk → s.Gives (.arm who) (fun t => t.flag A.TU_CTRL F.TU_CTRL_STEP_ARMED = true ∧ t.nt.rearmed = true ∧ t.threads = s.threads ∧ t.tu = s.tu)))) ∧
    (∀ n, n < 8 →
      let due := s.flag (A.TU_TC_CTRL n) F.TU_TC_CTRL_EN = true ∧ timeReached (BitVec.ofNat 64 s.time) (s.rd (A.TU_TC_TIME n)) = true
      let mine := A.TU_TC_CTRL n
      let bound := s.flag (A.TU_TC_BIND n) F.TU_TC_BIND_BOUND
      (¬due → s.Gives (.tcFire n) (fun t => t = s)) ∧
      (due → s.Gives (.tcFire n) (fun t => t.flag mine F.TU_TC_CTRL_FIRED = true ∧ t.mem = s.mem ∧ t.threads = s.threads ∧
        t.hg.ticks = s.hg.ticks ++ (if bound = true then [(s.fget (A.TU_TC_BIND n) F.TU_TC_BIND_CLASS, (s.rd (A.TU_TC_TIME n)).toNat)] else []) ∧
        (s.flag mine F.TU_TC_CTRL_MODE = false → t.flag mine F.TU_TC_CTRL_EN = false ∧ t.rd (A.TU_TC_TIME n) = s.rd (A.TU_TC_TIME n)) ∧
        (s.flag mine F.TU_TC_CTRL_MODE = true → t.flag mine F.TU_TC_CTRL_EN = true ∧ (s.rd (A.TU_TC_PERIOD n) ≠ 0 →
          let k := (BitVec.ofNat 64 s.time - s.rd (A.TU_TC_TIME n)).toNat / (s.rd (A.TU_TC_PERIOD n)).toNat
          t.rd (A.TU_TC_TIME n) = s.rd (A.TU_TC_TIME n) + BitVec.ofNat 64 ((k + 1) * (s.rd (A.TU_TC_PERIOD n)).toNat) ∧
          t.fget (A.TU_TC_BIND n) F.TU_TC_BIND_MISSED = min (s.fget (A.TU_TC_BIND n) F.TU_TC_BIND_MISSED + k) (2 ^ 24 - 1))) ∧
        t.flag (A.LK_WAKE_CFG (28 + n)) F.LK_WAKE_CFG_SEEN = true)) ∧
      (∀ who, (s.tcOwner who n = false → s.Gives (.tcEnable who n) (fun t => t = s)) ∧
        (s.tcOwner who n = true →
          (s.flag mine F.TU_TC_CTRL_MODE = true → (s.rd (A.TU_TC_PERIOD n)).toNat < 2560000 → s.Gives (.tcEnable who n) (fun t => s.OnlyRegs [mine] t ∧
            t.flag mine F.TU_TC_CTRL_CFG_ERR = true ∧ t.fget mine F.TU_TC_CTRL_EN = s.fget mine F.TU_TC_CTRL_EN)) ∧
          (s.flag mine F.TU_TC_CTRL_MODE = false ∨ 2560000 ≤ (s.rd (A.TU_TC_PERIOD n)).toNat → s.Gives (.tcEnable who n) (fun t => s.OnlyRegs [mine] t ∧
            t.flag mine F.TU_TC_CTRL_EN = true)))) ∧
      (Tab.get s.tu.pulse none n = none → s.Gives (.tpPulseEnd n) (fun t => t = s)) ∧
      (∀ p e, Tab.get s.tu.pulse none n = some (p, e) →
        (s.now < e → s.Gives (.tpPulseEnd n) (fun t => t = s)) ∧
        (e ≤ s.now → s.Gives (.tpPulseEnd n) (fun t => Tab.get t.tu.pulse none n = none ∧ (∀ m, m ≠ n → Tab.get t.tu.pulse none m = Tab.get s.tu.pulse none m) ∧
          t = { s with tu := { s.tu with pulse := t.tu.pulse } })))) ∧
    (∀ i falling lasted, i < 2 →
      let a := A.TU_TI_CFG i
      let f := s.fget a F.TU_TI_CFG_FILTER
      let takes := s.flag a F.TU_TI_CFG_EN = true ∧ s.flag a F.TU_TI_CFG_EDGE = falling ∧ f ≤ lasted
      let soon := ∃ t0, Tab.get s.tu.edge none i = some t0 ∧ s.now < t0 + 256000
      (¬takes → s.Gives (.tiEdge i falling lasted) (fun t => t = s)) ∧
      (takes → soon → s.Gives (.tiEdge i falling lasted) (fun t => s.OnlyRegs [A.TU_TI_REJECT i] t ∧
        t.fget (A.TU_TI_REJECT i) (31, 0) = min (s.fget (A.TU_TI_REJECT i) (31, 0) + 1) (2 ^ 32 - 1))) ∧
      (takes → ¬soon → s.Gives (.tiEdge i falling lasted) (fun t =>
        let stamp := (s.time + 2 ^ 64 - f * 31250 / 3) % 2 ^ 64
        t.rd (A.TU_TI_STAMP i) = BitVec.ofNat 64 stamp ∧ t.fget (A.TU_TI_COUNT i) (31, 0) = min (s.fget (A.TU_TI_COUNT i) (31, 0) + 1) (2 ^ 32 - 1) ∧
        (s.tu.unread.has i = true → t.flag a F.TU_TI_CFG_OVERRUN = true) ∧ t.tu.unread.has i = true ∧
        t.hg.ticks = s.hg.ticks ++ ((s.tickEs.filter fun e => e.source == i + 1).map fun e => (e.id, stamp)) ∧
        t.flag (A.LK_WAKE_CFG (26 + i)) F.LK_WAKE_CFG_SEEN = true ∧ t.mem = s.mem)) ∧
      ∀ who, s.Gives (.tiStampRead who i) (fun t => t = { s with tu := { s.tu with unread := NSet.rem i s.tu.unread } })) ∧
    (∀ e u, 1 ≤ e → e ≤ 5 → u < 16 → (4 ≤ e → u = 0) →
      let w := Tab.get s.eng.wheel none (engKey e u)
      let moves : Nat → State → Prop := fun m t => Tab.get t.eng.wheel none (engKey e u) = some (m, s.now) ∧
        t = { s with eng := { s.eng with wheel := t.eng.wheel } } ∧ ∀ k, k ≠ engKey e u → Tab.get t.eng.wheel none k = Tab.get s.eng.wheel none k
      (s.wheeled e u = false → s.Gives (.tenantWindowStart e u) (fun t => t = s)) ∧
      (∀ f fs, s.wheeled e u = true → s.wheelTenants e u = f :: fs →
        (w = none → s.Gives (.tenantWindowStart e u) (moves f)) ∧
        (∀ m t0, w = some (m, t0) →
          ((s.now - t0) * s.wheelClk e u < 256000000 → s.Gives (.tenantWindowStart e u) (fun t => t = s)) ∧
          (256000000 ≤ (s.now - t0) * s.wheelClk e u →
            ((∀ k ∈ f :: fs, k ≤ m) → s.Gives (.tenantWindowStart e u) (moves f)) ∧
            (∀ pre k post, f :: fs = pre ++ k :: post → (∀ j ∈ pre, j ≤ m) → m < k → s.Gives (.tenantWindowStart e u) (moves k))))))

/-- Blocks and ports of the Brefen link (R517 to R519, R521 to R528, R532, R541 to R545): a running port sends a stored block again, a waiting frame for which it has credit, or an idle block; what this device has issued goes to the port its route gives, or ends; a received block that fails its check is answered with NAK; a good idle block is taken; a good block in order gives its frame; a lane fault, replays, a lost lock, the end of a retrain and a port reset move STATE; a frame held too long is discarded and counted. -/
def Obligations.LinkBlocksAndPorts : Prop :=
  let plus : State → Nat → State → Prop := fun s a t => t.fget a (31, 0) = min (s.fget a (31, 0) + 1) (2 ^ 32 - 1)
  (∀ (s : State) (n : Nat), s.reqs = [] → s.bl.outq = [] →
    let p := s.blPort n
    let run : (State → Prop) → Prop := s.Gives (.blBlockSend n)
    (4 ≤ n → run (fun t => t = s)) ∧
    (n < 4 → s.isOn (9 + n) = false → p.q ≠ [] → run (fun t => t = s.demandWake (9 + n))) ∧
    (n < 4 → s.isOn (9 + n) = true → s.blState n = 5 → run (fun t => t = s)) ∧
    (n < 4 → s.isOn (9 + n) = true → s.blState n = 2 ∨ s.blState n = 3 → s.blSealed n = false → p.txKey = none → p.txNew = none → p.retAsk = false → p.ret = [] → p.cur = [] →
      let head : Bool → Option Nat → Nat := fun idle off => blkHeader p.txSeq ((p.rxSeq + 4095) % 4096) p.nak idle false 0 0 off 0
      (∀ q b, p.resend = some q → p.replay.find? (fun x => x.seq == q) = some b → run (fun t => ∃ re, t = s.setPort n { p with
        out := p.out ++ [b.bytes], replay := p.replay.map (fun c => if c.seq = q then { c with sent := c.sent + 1 } else c), resend := re })) ∧
      (p.resend = none → p.q = [] → run (fun t => t = s.setPort n { p with out := p.out ++ [mkBlock none (head true none) []], nak := false })) ∧
      (∀ x, p.resend = none → p.q = [x] → x.inp < 9 → x.fr.pay.length ≤ 128 → s.credOk n x.fr = true → p.replay.length < 512 → run (fun t =>
        let b := mkBlock none (head false (some 0)) x.fr.bytes
        t.blPort n = { p with q := [], rr := x.inp, credit := Tab.set p.credit 0 (s.credKey x.fr) (Tab.get p.credit 0 (s.credKey x.fr) - s.cost x.fr),
                              out := p.out ++ [b], nak := false, txSeq := (p.txSeq + 1) % 4096, replay := p.replay ++ [⟨p.txSeq % 4096, b, 0⟩] } ∧
        s.RegsBut [A.BL_TX_BYTES n, A.BL_FWD_FRAMES n] t ∧ t.fget (A.BL_TX_BYTES n) (63, 0) = min (s.fget (A.BL_TX_BYTES n) (63, 0) + x.fr.bytes.length) (2 ^ 64 - 1) ∧
        t = { s with bl := t.bl, regs := t.regs })))) ∧
  (∀ (s : State) (m n w : Nat) (q : RReq), m < 4 → s.isOn (9 + m) = true → s.blState m = 5 → s.reqs = [q] → s.bl.outq = [] → q.wire = none → s.draining q.dev = false →
    (s.way q.dev (q.tile + q.thr) = .port n → s.freeWire q.tile q.thr = some w → s.Gives (.blBlockSend m) (fun t =>
      let g := Tab.get s.bl.gens 0 w
      t = ({ s with reqs := [{ q with wire := some (w, g, n) }] } : State).enqueue n ⟨8, { s.reqFrame q w g with vc := s.leaveVc n none 0 }, s.now, some q.tag⟩)) ∧
    (s.way q.dev (q.tile + q.thr) = .noRoute → q.kind = .message → s.Gives (.blBlockSend m) (fun t => t = (({ s with reqs := [] } : State).bump A.BL_NO_ROUTE).reqBounce q 3))) ∧
  (∀ (s : State) (n : Nat) (corr bs : List Nat) (fec : Bool), n < 4 → s.isOn (9 + n) = true → bs.length = 160 → corr.length = 8 →
    let p := s.blPort n
    let run : (State → Prop) → Prop := s.Gives (.blBlockReceive n fec corr bs)
    let sum := corr.foldl (· + ·) 0
    let regs := A.BL_FEC_CORR n :: (List.range 8).map (A.BL_LANE_CORR n)
    let fixed : State → Prop := fun t => t.fget (A.BL_FEC_CORR n) (63, 0) = min (s.fget (A.BL_FEC_CORR n) (63, 0) + sum) (2 ^ 64 - 1)
    let good := fec = true ∧ crc32c (bs.take 152) = field bs 152 4 ∧ field bs 156 4 = 0
    (s.blState n = 5 → run (fun t => t = s)) ∧
    (s.blState n = 2 ∨ s.blState n = 3 → ¬good → run (fun t => plus s (A.BL_CRC_ERR n) t ∧ fixed t ∧ s.RegsBut (A.BL_CRC_ERR n :: regs) t ∧
      t.blPort n = { p with nak := true } ∧ t = { s with bl := t.bl, regs := t.regs })) ∧
    (∀ seq ack off cb cc, s.blState n = 2 ∨ s.blState n = 3 → good → s.confMode = false → p.rxKey = none → p.replay = [] → p.resend = none → p.rxBuf = [] → seq < 4096 → ack < 4096 → cb < 5 → cc < 4096 →
      let p := { p with credit := Tab.set p.credit 0 (cb * 16 + 15) (Tab.get p.credit 0 (cb * 16 + 15) + cc) }
      (field bs 0 8 = blkHeader seq ack false true false cb cc none 0 → seq = p.rxSeq → run (fun t => t.blPort n = p ∧ fixed t ∧ s.RegsBut regs t ∧ t = { s with bl := t.bl, regs := t.regs })) ∧
      (field bs 0 8 = blkHeader seq ack false false false cb cc off 0 → seq ≠ p.rxSeq → run (fun t => t.blPort n = { p with nak := true } ∧ t.bl.inbox = s.bl.inbox ∧ fixed t)) ∧
      (∀ f : LFrame, field bs 0 8 = blkHeader seq ack false false false cb cc (some 0) 0 → seq = p.rxSeq → LFrame.ofHeader f.header f.pay = f → slice bs 8 144 = zeroTo 144 f.bytes →
        frameType f.ty = true → f.pay.length ≤ 128 → f.pay.length % 16 = 0 → f.dst = s.devId → run (fun t =>
          t.bl.inbox = s.bl.inbox ++ [(n, f, s.now)] ∧ t.blPort n = { p with rxSeq := (seq + 1) % 4096 } ∧ fixed t ∧
          t.fget (A.BL_RX_BYTES n) (63, 0) = min (s.fget (A.BL_RX_BYTES n) (63, 0) + f.bytes.length) (2 ^ 64 - 1) ∧
          s.RegsBut (A.BL_RX_BYTES n :: regs) t ∧ t = { s with bl := t.bl, regs := t.regs })))) ∧
  (∀ (s : State) (n lane : Nat), n < 4 → lane < 8 → s.isOn (9 + n) = true → s.PlatOk → s.sentBy n = [] →
    let p := s.blPort n
    let lanes := (List.range 8).map (A.BL_LANE_STATUS n)
    let retrain : State → Prop := fun t => t.blState n = 4 ∧ plus s (A.BL_RETRAIN n) t
    let known := s.flag (A.BL_STATUS n) F.BL_STATUS_PARTNER_VALID = true ∧ (s.blSealed n = true → p.txKey.isSome = true)
    let runs := s.blState n = 2 ∨ s.blState n = 3
    (s.blState n = 1 → known → s.Gives (.blBringupDone n) (fun t => t.blState n = 2 ∧ s.RegsBut (A.BL_STATUS n :: lanes) t ∧ t = { s with regs := t.regs } ∧
      ∀ l, l < 8 → t.flag (A.BL_LANE_STATUS n l) F.BL_LANE_STATUS_LOCK = true)) ∧
    (¬(s.blState n = 1 ∧ known) → s.Gives (.blBringupDone n) (fun t => t = s)) ∧
    (runs → s.Gives (.blLaneFault n lane) (fun t => t.flag (A.BL_LANE_STATUS n lane) F.BL_LANE_STATUS_FAULT = true ∧ t.flag (A.BL_LANE_STATUS n lane) F.BL_LANE_STATUS_LOCK = false ∧
      plus s (A.BL_LANE_FAULT n) t ∧
      (s.blState n = 2 ∧ s.flag (A.BL_CFG n) F.BL_CFG_DEGRADE_EN = true → retrain t ∧ t.threads = s.threads) ∧
      (s.blState n = 3 ∨ s.flag (A.BL_CFG n) F.BL_CFG_DEGRADE_EN = false → t.blState n = 5 ∧ t.fget (A.BL_STATUS n) F.BL_STATUS_DOWN_CAUSE = 1 ∧ (t.blPort n).q = []))) ∧
    (runs → (∃ b ∈ p.replay, 8 ≤ b.sent) ∨ 64 ≤ (s.recent p.replays).length → s.Gives (.blReplayLimit n) (fun t => retrain t ∧ s.RegsBut [A.BL_STATUS n, A.BL_RETRAIN n] t ∧
      t.blPort n = { p with replays := [], replay := p.replay.map (fun b => { b with sent := 0 }) })) ∧
    (¬(∃ b ∈ p.replay, 8 ≤ b.sent) → (s.recent p.replays).length < 64 → s.Gives (.blReplayLimit n) (fun t => t = s)) ∧
    (runs → p.q = [] → s.Gives (.blLockLost n) (fun t => t.blState n = 1 ∧ t.flag (A.BL_STATUS n) F.BL_STATUS_PARTNER_VALID = false ∧ s.RegsBut (A.BL_STATUS n :: lanes) t ∧
      (t.blPort n).txKey = none ∧ (t.blPort n).rxKey = none ∧ (t.blPort n).replay = [] ∧ t = { s with bl := t.bl, regs := t.regs })) ∧
    (s.blState n = 4 →
      (s.halfBad n 0 = false → s.halfBad n 1 = false → s.Gives (.blRetrainEnd n) (fun t => t.blState n = 2 ∧ s.OnlyRegs [A.BL_STATUS n] t)) ∧
      (s.halfBad n 0 ≠ s.halfBad n 1 → s.flag (A.BL_CFG n) F.BL_CFG_DEGRADE_EN = true → s.Gives (.blRetrainEnd n) (fun t => t.blState n = 3 ∧ s.OnlyRegs [A.BL_STATUS n] t ∧
        (t.flag (A.BL_STATUS n) F.BL_STATUS_HALF = true ↔ s.halfBad n 0 = true))) ∧
      (s.halfBad n 0 = true → s.halfBad n 1 = true → s.Gives (.blRetrainEnd n) (fun t => t.blState n = 5 ∧ t.fget (A.BL_STATUS n) F.BL_STATUS_DOWN_CAUSE = 1))) ∧
    (∀ who, s.lkAdmin who = false → s.Gives (.blPortReset who n) (fun t => t = s)) ∧
    (∀ who, s.lkAdmin who = true → (s.dom (9 + n)).entering = none → s.Gives (.blPortReset who n) (fun t => t.blState n = 1 ∧ (t.blPort n).txKey = none ∧ (t.blPort n).q = [] ∧ (t.blPort n).txSeq = 0)) ∧
    (∀ idx x, p.q[idx]? = some x →
      (x.since + s.blTimeout / 16 < s.now → s.Gives (.blFrameAgeDiscard false n idx) (fun t => t.blPort n = { p with q := listDel p.q idx } ∧ plus s (A.BL_UNDELIVERED n) t ∧
        s.RegsBut [A.BL_UNDELIVERED n] t ∧ t = { s with bl := t.bl, regs := t.regs })) ∧
      (s.now ≤ x.since + s.blTimeout / 16 → s.Gives (.blFrameAgeDiscard false n idx) (fun t => t = s))) ∧
    (∀ idx f t0, s.bl.inbox[idx]? = some (n, f, t0) → t0 + s.blTimeout / 16 < s.now → s.Gives (.blFrameAgeDiscard true n idx) (fun t =>
      t.bl.inbox = listDel s.bl.inbox idx ∧ plus s (A.BL_UNDELIVERED n) t ∧ s.RegsBut [A.BL_UNDELIVERED n] t))) ∧
  (∀ (s : State) (idx n : Nat) (f : LFrame) (t0 : Nat), s.bl.inbox[idx]? = some (n, f, t0) → n < 4 → s.PlatOk →
    let vals := (List.range ((f.pay.length - 2) / 2)).map (fun i => field f.pay (2 + 2 * i) 2)
    let id := vals.headD 0 % 2 ^ 14
    let expected := s.flag (A.BL_CFG n) F.BL_CFG_EXPECT_EN = true → id = s.fget (A.BL_CFG n) F.BL_CFG_EXPECT_ID
    (f.ty ≠ 14 → s.Gives (.link idx) (fun t => t = s)) ∧
    (f.ty = 14 → f.pay.headD 0 = 0 → expected → s.Gives (.link idx) (fun t => t.partner n = id ∧ t.flag (A.BL_STATUS n) F.BL_STATUS_PARTNER_VALID = true ∧
      s.RegsBut [A.BL_STATUS n] t ∧ t.bl.inbox = listDel s.bl.inbox idx ∧
      (s.confMode = false → ∀ b, b < 4 → Tab.get (t.blPort n).credit 0 (b * 16 + 15) = (vals.drop 1).getD b 0))) ∧
    (f.ty = 14 → f.pay.headD 0 = 0 → ¬expected → s.Gives (.link idx) (fun t => t.blState n = 5 ∧ t.fget (A.BL_STATUS n) F.BL_STATUS_DOWN_CAUSE = 3)))

/-- Requests of peers served here (R108 to R112, R121, R521 to R523, R529, R530, R532 to R534): READ answers with the bytes, WRITE performs its bytes and is acknowledged, ATOMIC performs and answers with the old value, each at its home and counted as class 2 of its vault (R97); an access the tenant may not make is answered ACCESS, one to a domain that is not On waits for it, up to its stall limit. A MESSAGE reaches its thread's queue or goes back with its reason; a CARRY behind a refused WRITE goes back UNREACHABLE; a DOORBELL rings its ring. Each answer goes out by the port its request came by; a request that has waited too long gets none, which is counted. Behind a message that waits for the full holding buffer no request of its port and VC is taken. -/
def Obligations.FramesServed : Prop :=
  ∀ (s : State) (idx n : Nat) (f : LFrame) (t0 : Nat), s.bl.inbox[idx]? = some (n, f, t0) → n < 4 →
    let plus : Nat → State → Prop := fun a t => t.fget a (31, 0) = min (s.fget a (31, 0) + 1) (2 ^ 32 - 1)
    let gone : State → Prop := fun t => t.bl.inbox = listDel s.bl.inbox idx ∧ t.threads = s.threads ∧ t.reqs = s.reqs
    let late := t0 + s.blTimeout / 2 < s.now
    let ans : Nat → Nat → Nat → List Nat → LFrame := fun ty status poison pay => ⟨ty, 0, f.src, s.devId, f.tenant, 255, f.tag, 0, poison, status, f.gen, pay⟩
    let sent : LFrame → State → Prop := fun x t =>
      (¬late → t.bl.outq = s.bl.outq ++ [⟨n, x, s.now, none⟩]) ∧ (late → t.bl.outq = s.bl.outq ∧ plus A.BL_STALE_RSP t)
    let doms := s.locDoms (.mem f.addr)
    let keep : State → Prop := fun t => t = { s with bl := t.bl, regs := t.regs } ∧ s.RegsBut [A.BL_STALE_RSP] t
    let moved : State → Nat → State → Prop := fun u m t => t = { u with arb := (s.moved 255 f.addr m).arb }
    let held : State → Prop := fun t => ∀ ds, s.domCheck doms = .wait ds → t = ds.foldl (fun s d => s.demandWake d) s
    let mem : State → Nat → (Nat → BitVec 8) → Prop := fun t m v => (∀ x, t.byte x = if f.addr ≤ x ∧ x < f.addr + m then v (x - f.addr) else s.byte x) ∧
      moved { s with bl := t.bl, regs := t.regs, mem := t.mem, psn := t.psn } m t ∧ s.RegsBut [A.BL_STALE_RSP] t
    let open_ := s.heldUp idx n f = false
    (s.heldUp idx n f = true → (∀ x ∈ ([(4, .message idx), (5, .carry idx), (6, .doorbellFrame idx)] : List (Nat × Instr)), f.ty = x.1 → s.Gives x.2 (fun t => t = s)) ∧
      ∀ lim, ∀ x ∈ ([(1, .read idx lim), (2, .write idx lim), (3, .atomic idx lim)] : List (Nat × Instr)), f.ty = x.1 → s.Gives x.2 (fun t => t = s)) ∧
    (f.ty = 1 → open_ → (∀ g ∈ s.ahead idx f, sameLine f g = false) →
      let m := 2 ^ (f.op % 8)
      let may := f.addr % m = 0 ∧ s.peerOk f.tenant f.addr m = true
      (may → s.Up doms → ∀ lim, s.Gives (.read idx lim) (fun t => gone t ∧ moved { s with bl := t.bl, regs := t.regs } m t ∧ s.RegsBut [A.BL_STALE_RSP] t ∧ sent (ans 8 0 (s.peerPsn f.addr m) (payload (s.homeBytes f.addr m))) t)) ∧
      (¬may → ∀ lim, s.Gives (.read idx lim) (fun t => gone t ∧ keep t ∧ sent (ans 8 3 0 (List.replicate 16 0)) t)) ∧
      (may → (∃ ds, s.domCheck doms = .wait ds) → s.Gives (.read idx false) held ∧
        s.Gives (.read idx true) (fun t => gone t ∧ sent (ans 8 4 0 (List.replicate 16 0)) t ∧ plus (A.LK_D_STALL_LIMIT (s.limitDom doms)) t))) ∧
    (f.ty = 1 → (∃ g ∈ s.ahead idx f, sameLine f g = true) → ∀ lim, s.Gives (.read idx lim) (fun t => t = s)) ∧
    (f.ty = 2 → open_ → (∀ g ∈ s.ahead idx f, sameLine f g = false) →
      let m := 2 ^ (f.op % 8)
      let may := f.addr % m = 0 ∧ s.peerOk f.tenant f.addr m = true
      (may → s.Up doms → s.isLost f.addr = false → f.pay.length = 16 * ceilDiv m 16 → ∀ lim, s.Gives (.write idx lim) (fun t =>
        gone t ∧ mem t m (fun i => BitVec.ofNat 8 (f.pay.getD i 0)) ∧ sent (ans 9 0 0 []) t)) ∧
      (¬may → (s.blPort n).refused = [] → 0 < s.trackMax → ∀ lim, s.Gives (.write idx lim) (fun t => gone t ∧ keep t ∧ (t.blPort n).refused = [(s.trackKey f, f.path, s.now)] ∧ sent (ans 9 3 0 []) t)) ∧
      (may → (∃ ds, s.domCheck doms = .wait ds) → s.Gives (.write idx false) held)) ∧
    (f.ty = 3 → open_ → (∀ g ∈ s.ahead idx f, sameLine f g = false) →
      let m := if bit f.op 4 then 8 else 4
      let may := f.addr % m = 0 ∧ s.peerOk f.tenant f.addr m = true
      let old := leNat (s.homeBytes f.addr m)
      let pold := s.homePsn f.addr m
      let new := amoStore (f.op % 16) m old pold (field f.pay 0 m) (bit f.poison 1 || (bit f.poison 0 && !bit f.poison 2)) (field f.pay 8 m)
        (bit f.poison 2 || (bit f.poison 0 && !bit f.poison 1))
      let back := sent (ans 10 0 (b2n pold) (payload (natLe m old)))
      (may → s.Up doms → s.isLost f.addr = false → ∀ lim v z, new = some (v, z) → s.Gives (.atomic idx lim) (fun t =>
        gone t ∧ mem t m (fun i => BitVec.ofNat 8 (v / 256 ^ i)) ∧ back t)) ∧
      (may → s.Up doms → ∀ lim, new = none → s.Gives (.atomic idx lim) (fun t => gone t ∧ moved { s with bl := t.bl, regs := t.regs } m t ∧ s.RegsBut [A.BL_STALE_RSP] t ∧ back t)) ∧
      (¬may → ∀ lim, s.Gives (.atomic idx lim) (fun t => gone t ∧ keep t ∧ sent (ans 10 3 0 (List.replicate 16 0)) t))) ∧
    (let m := (s.frameMsg n t0 f).2
     let rsp : Nat → LFrame := fun r => ⟨0xB, 0, f.src, s.devId, f.tenant, 255, f.tag, 0, if r = 0 then 0 else m.msg.unitPsn, r * 16, f.gen, if r = 0 then [] else (m.msg.pay.flatMap fun w => natLe 8 w.toNat) ++ List.replicate 8 0⟩
     let answered : Nat → State → Prop := fun r t => t.bl.inbox = listDel s.bl.inbox idx ∧ sent (rsp r) t ∧ t.net = s.net ∧ s.RegsBut [A.BL_STALE_RSP] t ∧ (¬late → t.regs = s.regs) ∧ t.mem = s.mem
     let tile : Job → Nat := fun j => j.tiles.getD (tgtRank m.target) 0
     let clear := open_ ∧ (∀ r ∈ (s.blPort n).refused, r.1 ≠ s.trackKey f) ∧ 0 < s.trackMax ∧ (∀ g ∈ s.ahead idx f, sameTarget f g = false) ∧ s.holdingFull f.tenant = false ∧ s.reachDev (tgtDev m.target) = true ∧ (∀ x ∈ s.net, x.srcLocal = false → x.target ≠ m.target ∨ x.bounce = true)
     let both : (State → Prop) → Prop := fun p => (f.ty = 4 → s.Gives (.message idx) p) ∧ (f.ty = 5 → (∀ g ∈ s.ahead idx f, g.ty ≠ 2) → s.Gives (.carry idx) p)
     (clear → (∀ r, s.bounceReason f.tenant m.target = some r → both (fun t => answered r t ∧ t.threads = s.threads)) ∧
       (∀ j, s.bounceReason f.tenant m.target = none → s.job (tgtCtx m.target) = some j → j.saved = false → s.isOn (16 + tile j / 8) = true →
         let u := s.thread (tile j) (tgtThr m.target)
         u.mq.length < 8 → both (fun t => answered 0 t ∧ ∀ a b, t.thread a b = if a * 16 + b = tile j * 16 + tgtThr m.target then
           { u with mq := u.mq ++ [m.msg], st := if u.st = .waitMsg then .ready else u.st } else s.thread a b))) ∧
     (f.ty = 4 → s.holdingFull f.tenant = true → s.Gives (.message idx) (fun t => t = s)) ∧
     (f.ty = 5 → (∃ g ∈ s.ahead idx f, g.ty = 2) → s.Gives (.carry idx) (fun t => t = s)) ∧
     (f.ty = 5 → open_ → (∀ g ∈ s.ahead idx f, g.ty ≠ 2 ∧ sameTarget f g = false) → (∃ r ∈ (s.blPort n).refused, r.1 = s.trackKey f ∧ r.2.1 = f.path) → s.Gives (.carry idx) (fun t => answered 3 t ∧ t.threads = s.threads ∧
       ∀ r ∈ (t.blPort n).refused, ¬(r.1 = s.trackKey f ∧ r.2.1 = f.path)))) ∧
    (f.ty = 6 → open_ → (∀ g ∈ s.ahead idx f, g.ty ≠ 2) → s.Up [13] → f.tenant < 8 →
      let r := f.addr % 65536
      (s.ringTenant r ≠ some f.tenant → s.Gives (.doorbellFrame idx) (fun t => gone t ∧ t.hg = s.hg ∧ plus (A.HG_DB_REFUSED f.tenant) t)) ∧
      (s.ringTenant r = some f.tenant → (s.ringSt r).enabled = false → s.Gives (.doorbellFrame idx) (fun t => gone t ∧ t.hg = { s.hg with rescan := NSet.add r s.hg.rescan } ∧ t.regs = s.regs)) ∧
      (s.ringTenant r = some f.tenant → (s.ringSt r).enabled = true → s.hg.dbq.contains r = false → s.dbRoom f.tenant = true → s.Gives (.doorbellFrame idx) (fun t =>
        gone t ∧ t.hg = { s.hg with dbq := s.hg.dbq ++ [r] } ∧ s.RegsBut [A.HG_DBQ_STATUS] t))) ∧
    (∀ k r, (s.blPort n).refused[k]? = some r →
      (s.now < r.2.2 + s.blTimeout → s.Gives (.carryTrackExpiry n k) (fun t => t = s)) ∧
      (r.2.2 + s.blTimeout ≤ s.now → s.Gives (.carryTrackExpiry n k) (fun t => t = s.setPort n { s.blPort n with refused := listDel (s.blPort n).refused k })))

/-- Answers to this device's requests (R107, R109, R110, R152, R372, R521, R527, R531 to R534, R545): a READ_RSP ends a read, a WRITE_ACK a store, an ATOMIC_RSP writes the old value, a MSG_RSP returns the credit or the message; a status ends the access with its exception; an UNDELIVERED frame and a request timeout end a request; a response that matches none is discarded and counted. BL_DB_SEND sends a doorbell to a peer. -/
def Obligations.AnswersOfPeers : Prop :=
  (∀ (s : State) (idx n : Nat) (f : LFrame) (t0 : Nat), s.bl.inbox[idx]? = some (n, f, t0) →
    let gone : State → Prop := fun t => t.bl.inbox = listDel s.bl.inbox idx
    let stale : State → Prop := fun t => gone t ∧ t.fget A.BL_STALE_RSP (31, 0) = min (s.fget A.BL_STALE_RSP (31, 0) + 1) (2 ^ 32 - 1) ∧ s.RegsBut [A.BL_STALE_RSP] t ∧
      (∀ r ∈ t.bl.reserved, r.1 ≠ f.tag) ∧ t = { s with bl := t.bl, regs := t.regs }
    let others : RReq → State → Prop := fun q t => t.reqs = s.reqs.filter (fun r => r.tag != q.tag) ∧ (∀ a b, a * 16 + b ≠ q.tile * 16 + q.thr → t.thread a b = s.thread a b) ∧ t.mem = s.mem ∧ (f.poison = 0 → t.regs = s.regs)
    (s.reqOf f = none → (f.ty = 8 → s.Gives (.readRsp idx) stale) ∧ (f.ty = 9 → s.Gives (.writeAck idx) stale) ∧ (f.ty = 10 → s.Gives (.atomicRsp idx) stale) ∧ (f.ty = 11 → s.Gives (.msgRsp idx) stale)) ∧
    (f.ty = 12 → s.reqUndel f = none → s.Gives (.undelivered idx) stale) ∧
    (∀ q, s.reqOf f = some q → q.slot = none → q.tile < 128 → q.thr < 16 → s.Up [16 + q.tile / 8] →
      let u := s.thread q.tile q.thr
      (∀ w, f.ty = 8 → q.kind = .read → f.op % 16 = 0 → s.makeRoom (s.viaTile q.tile).cl (s.viaTile q.tile).ways ((q.dev + 1) * 2 ^ 43 + q.addr) = (s, some w) → s.Gives (.readRsp idx) (fun t => gone t ∧ others q t ∧
        (q.acc = 0 → u.st = .stalled → u.hold = .link → t.thread q.tile q.thr = { u with st := .ready, hold := .none }) ∧
        (q.acc ≠ 0 → t.thread q.tile q.thr = u.readDone q f.pay f.poison))) ∧
      (f.ty = 8 → q.kind = .read → f.op % 16 ≠ 0 → q.acc = 0 → u.st = .stalled → u.hold = .link → s.Gives (.readRsp idx) (fun t => gone t ∧
        t.threads = ((s.setThread q.tile q.thr { u with st := .ready, hold := .none }).raise q.tile q.thr (f.op % 16) 0 u.holdVa).threads)) ∧
      (f.ty = 9 → q.kind = .write → f.op % 16 = 0 → s.Gives (.writeAck idx) (fun t => gone t ∧ others q t ∧
        (∀ a p, u.acc = [a] → a.id = q.acc → a.todo = [[p]] → p.tag = q.tag + 1 → t.thread q.tile q.thr = { u with acc := [] }))) ∧
      (∀ a rd m, f.ty = 10 → q.kind = .atomic → f.op % 16 = 0 → u.acc.find? (fun a => a.id == q.acc) = some a → (∃ op, a.kind = .amo op rd m) → s.Gives (.atomicRsp idx) (fun t => gone t ∧ others q t ∧
        let v := t.thread q.tile q.thr
        v = { u with st := .ready, hold := .none, pc := u.pc + 4, instret := u.instret + 1, acc := u.acc.filter (fun b => b.id != a.id), x := v.x, xp := v.xp } ∧
        ∀ r : RegNo, v.getX r = (if r = BitVec.ofNat 5 rd ∧ r ≠ 0 then loadValue m true (field f.pay 0 m) else u.getX r) ∧
          v.xpsn r = (if r = BitVec.ofNat 5 rd ∧ r ≠ 0 then bit f.poison 0 else u.xpsn r))) ∧
      (let back := bits f.op 6 4
       let ctx := bits (field q.data 0 8) 23 14
       f.ty = 11 → (q.kind = .message ∨ q.kind = .carry) →
        (back ≠ 0 → s.Gives (.msgRsp idx) (fun t => gone t ∧ others q t ∧ t.thread q.tile q.thr = u ∧ ∃ b, t.net = s.net ++ [b] ∧ b.bounce = true ∧ b.srcTile = q.tile ∧ b.srcThr = q.thr ∧
          bits b.msg.hdr.toNat 54 54 = 1 ∧ bits b.msg.hdr.toNat 57 55 = back % 8)) ∧
        (back = 0 → (s.tile q.tile).job = some ctx → s.Gives (.msgRsp idx) (fun t => gone t ∧ others q t ∧ t.thread q.tile q.thr = u.gainCredit)))) ∧
    (∀ q, f.ty = 12 → s.reqUndel f = some q →
      (q.kind = .message ∨ q.kind = .carry → s.Gives (.undelivered idx) (fun t => gone t ∧ t.reqs = s.reqs.filter (fun r => r.tag != q.tag) ∧ t.threads = s.threads ∧
        ∃ b, t.net = s.net ++ [b] ∧ b.bounce = true ∧ b.srcTile = q.tile ∧ b.srcThr = q.thr ∧ bits b.msg.hdr.toNat 57 55 = 3)) ∧
      (let u := s.thread q.tile q.thr
       q.kind = .read → q.slot = none → q.tile < 128 → s.Up [16 + q.tile / 8] → q.acc = 0 → u.st = .stalled → u.hold = .link → s.Gives (.undelivered idx) (fun t => gone t ∧
        t.threads = ((s.setThread q.tile q.thr { u with st := .ready, hold := .none }).raise q.tile q.thr excAccess 0 u.holdVa).threads)))) ∧
  (∀ (s : State) (tag w g n : Nat) (q : RReq), s.reqs.find? (fun q => q.tag == tag) = some q → q.slot = none → q.wire = some (w, g, n) →
    (s.now < q.since + s.blTimeout → s.Gives (.blRequestTimeout tag) (fun t => t = s)) ∧
    (q.since + s.blTimeout ≤ s.now → q.kind = .message → s.Gives (.blRequestTimeout tag) (fun t => t.reqs = s.reqs.filter (fun r => r.tag != tag) ∧ t.bl.reserved = s.bl.reserved ++ [(w, q.since)] ∧
      Tab.get t.bl.gens 0 w = (Tab.get s.bl.gens 0 w + 1) % 16 ∧ t.threads = s.threads ∧ t.regs = s.regs ∧
      ∃ b, t.net = s.net ++ [b] ∧ b.bounce = true ∧ b.srcTile = q.tile ∧ b.srcThr = q.thr ∧ bits b.msg.hdr.toNat 57 55 = 3))) ∧
  (∀ (s : State) (idx w t0 : Nat), s.bl.reserved[idx]? = some (w, t0) →
    (s.now < t0 + 33 * s.blTimeout → s.Gives (.slotReservationEnd idx) (fun t => t = s)) ∧
    (t0 + 33 * s.blTimeout ≤ s.now → s.Gives (.slotReservationEnd idx) (fun t => t = { s with bl := { s.bl with reserved := listDel s.bl.reserved idx } }))) ∧
  (∀ (s : State) (who : Who) (n tile thr dev ring : Nat), n < 8 → dev < 2 ^ 14 → ring < 65536 →
    (who ≠ .tenant n → s.Gives (.blDbSend who n tile thr dev ring) (fun t => t = s)) ∧
    (dev ≠ s.devId → s.Gives (.blDbSend (.tenant n) n tile thr dev ring) (fun t => t.fget (A.BL_DB_SENT n) (31, 0) = min (s.fget (A.BL_DB_SENT n) (31, 0) + 1) (2 ^ 32 - 1) ∧
      s.RegsBut [A.BL_DB_SENT n] t ∧ t.bl.outq = s.bl.outq ++ [⟨8, ⟨6, 0, dev, s.devId, n, 255, (tile * 16 + thr) % 2048 * 32, ring, 0, 0, 0, []⟩, s.now, none⟩] ∧
      t = { s with bl := t.bl, regs := t.regs })) ∧
    (dev = s.devId → s.ringTenant ring = some n → (s.ringSt ring).enabled = false → s.Gives (.blDbSend (.tenant n) n tile thr dev ring) (fun t =>
      t.hg = { s.hg with rescan := NSet.add ring s.hg.rescan } ∧ t.bl = s.bl ∧ t.threads = s.threads)))

/-- Keys of a link port (R539, R540, R597, R598, R544): the threshold asks for a second key, which the Notary derives from the held master secret; HELLO, CERT, SHARE, SIGN and DONE each take the exchange one message on; a message out of turn, a wrong identifier, a chain, a signature or a HMAC that fails takes the port DOWN with cause KEY; after DONE both keys are installed with SESSION one more. -/
def Obligations.LinkKeys : Prop :=
  (∀ (s : State) (n : Nat) (m : List Nat) (k r : LKey), n < 4 →
    let p := s.blPort n
    p.txKey = some k →
    ((s.rd (A.BL_REKEY_THRESH n)).toNat ≤ k.counter → p.txNew = none → s.Gives (.blRekeyThreshold n) (fun t => t = s.setPort n { p with rekey := true })) ∧
    (k.counter < (s.rd (A.BL_REKEY_THRESH n)).toNat → s.Gives (.blRekeyThreshold n) (fun t => t = s)) ∧
    (p.master = some m → p.rxKey = some r →
      let key : Nat → Nat → LKey := fun sender session => ⟨hkdfExpand m (ascii "brefen " ++ natLe 2 sender ++ natLe 4 session) 32, session, 0⟩
      let more : State → Prop := fun t => t.fget (A.BL_REKEYS n) (31, 0) = min (s.fget (A.BL_REKEYS n) (31, 0) + 1) (2 ^ 32 - 1) ∧ s.RegsBut [A.BL_REKEYS n] t ∧ t = { s with bl := t.bl, regs := t.regs }
      (s.isOn 6 = false → ∀ rx, s.Gives (.rekeyKeyInstall n rx) (fun t => t = s.demandWake 6)) ∧
      (s.isOn 6 = true → s.Gives (.rekeyKeyInstall n true) (fun t => t.blPort n = { p with rxNew := some (key (s.partner n) (r.session + 1)) } ∧ more t)) ∧
      (s.isOn 6 = true → p.rekey = true → s.Gives (.rekeyKeyInstall n false) (fun t => t.blPort n = { p with txNew := some (key s.devId (k.session + 1)) } ∧ more t)) ∧
      (s.isOn 6 = true → p.rekey = false → s.Gives (.rekeyKeyInstall n false) (fun t => t = s)))) ∧
  (∀ (s : State) (idx n : Nat) (f : LFrame) (t0 : Nat), s.bl.inbox[idx]? = some (n, f, t0) → n < 4 →
    let rows : List (Nat × Instr) := [(1, .hello idx), (2, .cert idx), (3, .share idx), (4, .sign idx), (5, .done_ idx)]
    (∀ x ∈ rows, f.ty ≠ 15 ∨ f.pay.headD 0 ≠ x.1 → s.Gives x.2 (fun t => t = s)) ∧
    (∀ x ∈ rows, f.ty = 15 → f.pay.headD 0 = x.1 → s.isOn 6 = false → (s.dom 6).entering = none → s.Gives x.2 (fun t => t = s.demandWake 6)) ∧
    (f.ty = 15 → s.Up [6] → s.PlatOk →
      let p := s.blPort n
      let down : State → Prop := fun t => t.blState n = 5 ∧ t.fget (A.BL_STATUS n) F.BL_STATUS_DOWN_CAUSE = 6 ∧ (t.blPort n).kx = none ∧ (t.blPort n).txKey = none ∧ (t.blPort n).master = none
      (∀ x ∈ rows, f.pay.headD 0 = x.1 → (∀ kx, p.kx = some kx → kx.stage ≠ x.1) → s.Gives x.2 down) ∧
      (∀ kx, p.kx = some kx → f.pay.headD 0 = kx.stage →
        let joined := kx.trans ++ f.pay
        let first := s.devId < s.partner n
        let step : Nat → Nat → (Kx → List Nat → Prop) → State → Prop := fun stage msg body t => ∃ kx' b,
          (t.blPort n).kx = some kx' ∧ kx'.stage = stage ∧ kx'.seq = kx.seq + 1 ∧ body kx' b ∧ kx'.trans = joined ++ payload ([msg, kx.seq % 256] ++ b) ∧
          (t.blPort n).q = p.q ++ [⟨8, ⟨15, 0, kx.peer, s.devId, 0, 255, 0, 0, 0, 0, 0, payload ([msg, kx.seq % 256] ++ b)⟩, s.now, none⟩] ∧
          t.bl.inbox = listDel s.bl.inbox idx ∧ t.regs = s.regs ∧ t.threads = s.threads
        (kx.stage = 1 → field f.pay 36 2 ≠ kx.peer → s.Gives (.hello idx) down) ∧
        (kx.stage = 1 → field f.pay 36 2 = kx.peer → first → s.Gives (.hello idx) (step 2 2 (fun k b => b = natLe 2 0 ++ slice s.chain 0 124 ∧ k.theirs = slice f.pay 4 32 ∧ k.chainLen = field f.pay 38 4 ∧ k.nonce = kx.nonce))) ∧
        (kx.stage = 1 → field f.pay 36 2 = kx.peer → ¬first → s.Gives (.hello idx) (step 2 1 (fun k b => b = [0, 0] ++ k.nonce ++ natLe 2 s.devId ++ natLe 4 s.chain.length ∧ k.nonce.length = 32 ∧
          k.theirs = slice f.pay 4 32 ∧ k.chainLen = field f.pay 38 4))) ∧
        (kx.stage = 2 →
          let off := field f.pay 2 2
          let whole := kx.chain ++ (slice f.pay 4 124).take (kx.chainLen - kx.chain.length)
          let got : Kx → Prop := fun k => k.chain = whole ∧ k.nonce = kx.nonce ∧ k.theirs = kx.theirs
          let rejected := kx.chainLen ≤ whole.length ∧ s.judgeChain (whole.take kx.chainLen) = none
          let all := kx.chainLen ≤ whole.length ∧ s.chain.length ≤ off + 124
          (rejected → s.Gives (.cert idx) down) ∧
          (¬rejected → first → all → s.Gives (.cert idx) (step 3 3 (fun k b => got k ∧ b = [0, 0] ++ ecPublic (Config.secret (leNat kx.nonce))))) ∧
          (¬rejected → first → ¬all → s.Gives (.cert idx) (step 2 2 (fun k b => got k ∧ b = natLe 2 (off + 124) ++ slice s.chain (off + 124) 124))) ∧
          (¬rejected → ¬first → all → s.Gives (.cert idx) (step 3 2 (fun k b => got k ∧ b = natLe 2 off ++ slice s.chain off 124))) ∧
          (¬rejected → ¬first → ¬all → s.Gives (.cert idx) (step 2 2 (fun k b => got k ∧ b = natLe 2 off ++ slice s.chain off 124)))) ∧
        (kx.stage = 3 →
          let secret := ecdh (Config.secret (leNat kx.nonce)) (slice f.pay 4 96)
          (secret = none → s.Gives (.share idx) down) ∧
          (∀ z, secret = some z → first → s.Gives (.share idx) (step 4 4 (fun k b => k.master = hkdfExtract (kx.nonce ++ kx.theirs) z ∧ k.point = slice f.pay 4 96 ∧ ∃ g, b = [0, 0] ++ g ∧
            g = ecdsaSign s.aliasSecret (Config.secret s.nt.draw) (sha384 joined)))) ∧
          (∀ z, secret = some z → ¬first → s.Gives (.share idx) (step 4 3 (fun k b => k.master = hkdfExtract (kx.theirs ++ kx.nonce) z ∧ k.point = slice f.pay 4 96 ∧ b = [0, 0] ++ ecPublic (Config.secret (leNat kx.nonce)))))) ∧
        (kx.stage = 4 →
          let key := s.judgeChain (kx.chain.take kx.chainLen)
          let ok : List Nat → Prop := fun y => ecdsaOk y (sha384 kx.trans) (slice f.pay 4 96) = true
          ((∀ y, key = some y → ¬ok y) → s.Gives (.sign idx) down) ∧
          (∀ y, key = some y → ok y → first → s.Gives (.sign idx) (step 5 5 (fun k b => b = [0, 0] ++ hmac kx.master joined ∧ k.master = kx.master))) ∧
          (∀ y, key = some y → ok y → ¬first → s.Gives (.sign idx) (step 5 4 (fun k b => k.master = kx.master ∧ b = [0, 0] ++ ecdsaSign s.aliasSecret (Config.secret s.nt.draw) (sha384 joined))))) ∧
        (kx.stage = 5 → slice f.pay 4 48 ≠ hmac kx.master kx.trans → s.Gives (.done_ idx) down) ∧
        (kx.stage = 5 → slice f.pay 4 48 = hmac kx.master kx.trans → s.Gives (.done_ idx) (fun t =>
          let tx := (s.rd (A.BL_SEAL_TX_SESSION n)).toNat + 1
          let rx := (s.rd (A.BL_SEAL_RX_SESSION n)).toNat + 1
          (t.blPort n).txKey = some (linkKey kx.master s.devId tx) ∧ (t.blPort n).rxKey = some (linkKey kx.master (s.partner n) rx) ∧ (t.blPort n).master = some kx.master ∧ (t.blPort n).kx = none ∧
          t.rd (A.BL_SEAL_TX_SESSION n) = BitVec.ofNat 64 tx ∧ t.rd (A.BL_SEAL_RX_SESSION n) = BitVec.ofNat 64 rx ∧ t.rd (A.BL_SEAL_COUNTER n) = 0 ∧
          s.RegsBut [A.BL_SEAL_TX_SESSION n, A.BL_SEAL_RX_SESSION n, A.BL_SEAL_COUNTER n, A.BL_REKEYS n] t ∧
          (first → (t.blPort n).q = p.q) ∧
          (¬first → ∃ b, (t.blPort n).q = p.q ++ [⟨8, ⟨15, 0, kx.peer, s.devId, 0, 255, 0, 0, 0, 0, 0, payload ([5, kx.seq % 256] ++ ([0, 0] ++ b))⟩, s.now, none⟩] ∧ b = hmac kx.master joined))))))

/-- Requests of the host (R552 to R559, R568, R640): a write or read through a BAR wakes the link from L1, counts its bytes, and reaches a register, an MSI-X word, the staging area before a plat, a ring's producer count and packet area, or a tenant's objects; one outside what it may reach is counted and a read completes with all ones; one to memory that is not On stands in the queue. -/
def Obligations.HostRequests : Prop :=
  ∀ (s : State) (bar o len : Nat) (bs : List Nat), s.isOn 7 = true → s.isOn 8 = true → s.host.link = .l0 → s.rs.warm = none → (∀ c ∈ s.extq, extFrom c ≠ .host) → bs.length = len →
    let s' := s.fadd A.HI_RX_BYTES F.HI_RX_BYTES_COUNT len
    let write : (State → Prop) → Prop := s.Gives (.hostPostedWrite bar o bs false)
    let read : (State → Prop) → Prop := s.Gives (.hostRead bar o len)
    let plus : State → Nat → State → Prop := fun s a t => t.fget a (31, 0) = min (s.fget a (31, 0) + 1) (2 ^ 32 - 1) ∧ s.OnlyRegs [a] t
    let completes : State → List (Nat × Bool) → State → Prop := fun s d t => t.host = { s.host with cpl := s.host.cpl ++ [⟨d, []⟩] }
    let ones : Nat → State → Prop := fun a t => completes s (List.replicate len (0xFF, false)) t ∧ s.RegsBut [a] t ∧
      t.fget a (31, 0) = min (s.fget a (31, 0) + 1) (2 ^ 32 - 1) ∧ t = { s with regs := t.regs, host := t.host }
    let stores : Nat → (Nat → Prop) → State → Prop := fun b at_ t => (∀ i, i < len → at_ i → t.byte (b + i) = BitVec.ofNat 8 (bs.getD i 0)) ∧
      (∀ x, ¬(∃ i, i < len ∧ at_ i ∧ x = b + i) → t.byte x = s.byte x)
    let whole : Nat → Prop := fun b => ∀ i, i < len → s.isLost (b + i) = false
    (tlpOk bar o len = false → write (fun t => t = s) ∧ read (fun t => t = s)) ∧
    (tlpOk bar o len = true →
      (bar = 0 → s.bar0 o = .none → write (plus s' A.HI_BAD_ACCESS) ∧ read (ones A.HI_BAD_ACCESS)) ∧
      (∀ k, bar = 0 → s.bar0 o = .table k → msixOk k len = true → s.host.pba = [] →
        write (fun t => (∀ i, t.msixWord i = if k / 4 ≤ i ∧ i < k / 4 + len / 4 then field bs (4 * (i - k / 4)) 4 else s.msixWord i) ∧ t = { s' with host := { s.host with msix := t.host.msix } }) ∧
        read (fun t => ∃ d, completes s d t ∧ t = { s with host := t.host } ∧ d = clean ((List.range (len / 4)).flatMap fun i => natLe 4 (s.msixWord (k / 4 + i))))) ∧
      (∀ who a, bar = 0 → s.bar0 o = .reg who a → s.bellShut o = false → s.Up [regDom a] →
        (∀ v, (s'.extWrite who a len (field bs 0 len)).2 = .ok v → write (fun t => t = (s'.extWrite who a len (field bs 0 len)).1)) ∧
        (∀ v, (s.extRead who a len).2 = some (.ok v) → read (completes (s.extRead who a len).1 (clean (natLe len v.toNat))))) ∧
      (bar = 2 → s.plat.cur.isSome = true →
        let n := o / 0x100000000
        (s.winRing n (o % 0x100000000) len = none ∨ s.confMode = true → write (plus s' (A.HI_T_WIN_MISS n)) ∧ read (ones (A.HI_T_WIN_MISS n))) ∧
        (∀ r k, s.confMode = false → s.winRing n (o % 0x100000000) len = some (r, k) → s.Up (t1Doms (s.ringBase r)) →
          (whole (s.ringBase r + k) → write (fun t => stores (s.ringBase r + k) (fun i => k + i < 8 ∨ 256 ≤ k + i) t ∧ t.hg = s.hg ∧ t.host = s.host ∧ s.RegsBut [A.HI_RX_BYTES, A.HI_T_WIN_MISS n] t ∧
            ((∀ i, i < len → k + i < 8 ∨ 256 ≤ k + i) → s'.RegsBut [] t))) ∧
          read (fun t => completes s (s.homePB (s.ringBase r + k) len) t ∧ s.RegsBut [A.HI_POISON_READ] t ∧ t.mem = s.mem))) ∧
      (bar = 2 → s.plat.cur = none → s.bootWaits = true → s.bootSel = 0 → s.Up [15, 31, 33] → o + len ≤ 0x800000 →
        (s.rs.bootLen = 0 → whole (stagingBase + o) → write (fun t => stores (stagingBase + o) (fun _ => True) t ∧ s'.RegsBut [] t ∧ t.rs = s.rs)) ∧
        (s.rs.bootLen ≠ 0 → write (fun t => t = s')) ∧
        read (fun t => completes s (s.homePB (stagingBase + o) len) t ∧ s.RegsBut [A.HI_POISON_READ] t ∧ t.mem = s.mem)) ∧
      (bar = 4 → (∀ k, s.lines (lineSet 16 k) = []) →
        let n := o / 0x200000000
        let va := s.objWin n (o % 0x200000000)
        (s.confMode = true → write (plus s' (A.HI_T_WIN_MISS n)) ∧ read (ones (A.HI_T_WIN_MISS n))) ∧
        (∀ e, s.confMode = false → s.resolve n (BitVec.ofNat 64 va) len true = .bad e → write (plus s' (A.HI_T_WIN_MISS n))) ∧
        (∀ e, s.confMode = false → s.resolve n (BitVec.ofNat 64 va) len false = .bad e → read (ones (A.HI_T_WIN_MISS n))) ∧
        (∀ a, s.confMode = false → s.resolve n (BitVec.ofNat 64 va) len true = .ok (.mem a) →
          (s.Up (s.locDoms (.mem a)) → whole a → write (fun t => stores a (fun _ => True) t ∧ s'.RegsBut [] t ∧ t.threads = s.threads ∧ t.host = s.host)) ∧
          (∀ ds, s.domCheck (s.locDoms (.mem a)) = .wait ds → (∀ d ∈ s.locDoms (.mem a), (s.dom d).entering = none) → write (fun t => t.extq = s.extq ++ [.hostWrite 4 o bs false] ∧ t.mem = s.mem ∧ s'.RegsBut [] t))) ∧
        (∀ a, s.confMode = false → s.resolve n (BitVec.ofNat 64 va) len false = .ok (.mem a) → s.Up (s.locDoms (.mem a)) → whole a → read (fun t => t.mem = s.mem ∧ s.RegsBut [A.HI_POISON_READ] t ∧
          ∃ d, completes s d t ∧ d.map (·.1) = s.homeBytes a len)))) ∧
    (∀ link, (link = .down ∨ link = .l2) → exec (.hostPostedWrite bar o bs false) { s with host := { s.host with link := link } } = .next { s with host := { s.host with link := link } } ∧
      exec (.hostRead bar o len) { s with host := { s.host with link := link } } = .next { s with host := { s.host with link := link } }) ∧
    (tlpOk bar o len = true → exec (.hostRead bar o len) { s with host := { s.host with link := .l1 } } = exec (.hostRead bar o len) s)

/-- Events of the host interface (R562, R564 to R567, R569 to R573): configuration writes, link states and resets; a vector's message when its hold-off ends or it is unmasked; a record of an ingress ring is checked in R570's order, stopped with its cause, or applied with COUNTER and CONS advanced; an export becomes an egress record; an egress record is sealed and written. -/
def Obligations.HostInterfaceEvents : Prop :=
  (∀ (s : State),
    let up := s.Up [7, 8] ∧ (s.host.link = .l0 ∨ s.host.link = .l1)
    let dead := s.host.link = .down ∨ s.host.link = .l2 ∨ (s.dom 7).st = .off ∨ (s.dom 8).st = .off
    (∀ bme d3, dead → s.Gives (.configurationWrite bme d3) (fun t => t = s)) ∧
    (∀ bme d3, up → s.host.pba = [] → s.Gives (.configurationWrite bme d3) (fun t => t.host = { s.host with bme := bme, d3hot := d3, link := .l0 } ∧ s.RegsBut [A.HI_LINK_STATUS] t ∧
      (t.flag A.HI_LINK_STATUS F.HI_LINK_STATUS_BME = true ↔ bme = true) ∧ (t.flag A.HI_LINK_STATUS F.HI_LINK_STATUS_D3HOT = true ↔ d3 = true) ∧ t = { s with host := t.host, regs := t.regs })) ∧
    (s.host.link = .l0 → s.Gives .aspmL1Entry (fun t => t = { s with host := { s.host with link := .l1 } })) ∧
    (s.host.link ≠ .l0 → s.Gives .aspmL1Entry (fun t => t = s)) ∧
    (up → s.Gives .pmeTurnOff (fun t => t = { s with host := { s.host with link := .l2 } })) ∧
    (dead → s.Gives .pmeTurnOff (fun t => t = s)) ∧
    (∀ speed width, (s.host.link = .l0 ∨ s.host.link = .l1 ∨ speed = 0 ∨ 5 < speed ∨ width = 16) → s.Gives (.linkReachesL0 speed width) (fun t => t = s)) ∧
    (∀ speed width, (s.host.link = .down ∨ s.host.link = .l2) → 1 ≤ speed → speed ≤ 5 → width ∈ [1, 2, 4, 8] → s.rs.up = true → s.Up [7, 8] → s.Gives (.linkReachesL0 speed width) (fun t =>
      t.host = { s.host with link := .l0 } ∧ s.RegsBut [A.HI_LINK_STATUS] t ∧ t.fget A.HI_LINK_STATUS F.HI_LINK_STATUS_SPEED = speed ∧ t.fget A.HI_LINK_STATUS F.HI_LINK_STATUS_WIDTH = width)) ∧
    (let gone : HLink → State → Prop := fun l t => t.host = s.host.cleared l ∧ (∀ a, hostReg a = false → t.rd a = s.rd a) ∧ (∀ c ∈ t.extq, extFrom c ≠ .host) ∧
       t = { s with regs := t.regs, host := t.host, extq := t.extq }
     s.Gives (.hostIfReset false) (fun t => gone .down t ∧ ∀ a, hostReg a = true → t.rd a = regReset a) ∧
     (s.isOn 7 = true → s.Gives (.hostIfReset true) (fun t => gone s.host.link t ∧ (∀ a, hostReg a = true → a ≠ A.HI_LINK_STATUS → t.rd a = regReset a) ∧
       t.fget A.HI_LINK_STATUS F.HI_LINK_STATUS_SPEED = s.fget A.HI_LINK_STATUS F.HI_LINK_STATUS_SPEED)) ∧
     (s.isOn 7 = false → s.Gives (.hostIfReset true) (fun t => t = s))) ∧
    (∀ v, v < 2048 →
      let c := (Tab.get s.host.vec (0, 0) v).1
      let t0 := (Tab.get s.host.vec (0, 0) v).2
      let h := s.fget (A.HI_VEC_MOD v) F.HI_VEC_MOD_HOLDOFF_US
      let word : Nat → Nat := fun i => s.msixWord (4 * v + i)
      let message := (word 0 / 4 * 4 + word 1 * 2 ^ 32, natLe 4 (word 2))
      (c = 0 ∨ h = 0 ∨ s.now < t0 + h * 256000 → s.Gives (.msixHoldoffExpiry v) (fun t => t = s)) ∧
      (c ≠ 0 → h ≠ 0 → t0 + h * 256000 ≤ s.now → s.vecMasked v = false → s.hostUp = true → s.Gives (.msixHoldoffExpiry v) (fun t =>
        t.host.out = s.host.out ++ [message] ∧ Tab.get t.host.vec (0, 0) v = (0, 0) ∧ t.host.pba = s.host.pba ∧ t.regs = s.regs)) ∧
      (c ≠ 0 → h ≠ 0 → t0 + h * 256000 ≤ s.now → s.vecMasked v = true ∨ s.hostUp = false → s.Gives (.msixHoldoffExpiry v) (fun t => t.host.out = s.host.out ∧ t.host.pba = NSet.add v s.host.pba)) ∧
      (s.isOn 7 = true → s.hostUp = true → s.host.pba.has v = true → s.Gives (.msixUnmask v) (fun t => t.vecMasked v = false ∧ t.host.out = s.host.out ++ [message] ∧ t.host.pba = NSet.rem v s.host.pba ∧ t.regs = s.regs)) ∧
      (s.isOn 7 = true → s.host.pba.has v = false → s.Gives (.msixUnmask v) (fun t => t.vecMasked v = false ∧ t.host.out = s.host.out ∧ t.host.pba = s.host.pba ∧ ∀ w, w ≠ v → t.vecMasked w = s.vecMasked w)))) ∧
  (∀ (s : State) (n : Nat) (bs : List Nat), s.bounceUp n = true → s.flag (A.HI_T_IN_CFG n) F.HI_T_IN_CFG_EN = true →
    let cons := s.rd (A.HI_T_IN_CONS n)
    let key := Tab.get s.host.inKey [] n
    let h := bs.take 32
    let len := field h 0 4
    let opened := gcmOpen key (slice h 16 4 ++ slice h 8 8) h (slice bs 32 len) (slice bs (32 + len) 16)
    let run : (State → Prop) → Prop := s.Gives (.ingressRecord n bs)
    let stop : Nat → State → Prop := fun cause t => t.flag (A.HI_T_IN_CFG n) F.HI_T_IN_CFG_IN_STOPPED = true ∧ t.fget (A.HI_T_IN_CFG n) F.HI_T_IN_CFG_CAUSE = cause ∧
      bit (t.rd (A.HI_T_EVENT n)).toNat 2 = true ∧ s.RegsBut [A.HI_T_IN_CFG n, A.HI_T_EVENT n] t ∧ t.mem = s.mem ∧ t.hg = s.hg
    let passed : Nat → State → Prop := fun k t => t.rd (A.HI_T_IN_CONS n) = cons + BitVec.ofNat 64 k ∧
      t.rd (A.HI_T_IN_COUNTER n) = BitVec.ofNat 64 ((s.rd (A.HI_T_IN_COUNTER n)).toNat + 1)
    let few : State → Prop := fun t => s.RegsBut [A.HI_T_IN_CONS n, A.HI_T_IN_COUNTER n, A.HI_T_EVENT n] t ∧ t.mem = s.mem ∧ t.hg = s.hg
    (s.flag (A.HI_T_IN_CFG n) F.HI_T_IN_CFG_IN_STOPPED = true ∨ key = [] ∨ s.rd (A.HI_T_IN_PROD n) = cons → run (fun t => t = s)) ∧
    (s.flag (A.HI_T_IN_CFG n) F.HI_T_IN_CFG_IN_STOPPED = false → key ≠ [] → timeReached (s.rd (A.HI_T_IN_PROD n)) cons = true → s.rd (A.HI_T_IN_PROD n) ≠ cons → len + 64 ≤ bs.length →
      (∀ c, s.inCheck n h = some c → c < 8 → run (stop c)) ∧
      (s.inCheck n h = none → len = 0 → run (fun t => passed (s.inSize n - cons.toNat % s.inSize n) t ∧ few t)) ∧
      (s.inCheck n h = none → len ≠ 0 → opened = none → run (stop 1)) ∧
      (∀ pt, s.inCheck n h = none → len ≠ 0 → opened = some pt →
        (field h 4 2 = 0 → run (fun t => passed (pt.length + 64) t ∧ few t)) ∧
        (field h 4 2 = 2 → pt.length ≠ 64 → run (stop 3)) ∧
        (let a := field pt 0 8
         let l := field pt 8 4
         field h 4 2 = 2 → pt.length = 64 → a % 64 = 0 → l % 64 = 0 → l ≠ 0 → l ≤ 16777152 → zeroBytes pt 20 44 = true → area a 1 = .obj →
           run (fun t => passed 128 t ∧ few t ∧ t.host.exports = s.host.exports ++ [⟨n, a, l, pt⟩])) ∧
        (let r := field h 6 2
         field h 4 2 = 1 →
          (s.ringTenant r ≠ some n → run (stop 3)) ∧
          (∀ c, s.ringTenant r = some n → pt.length = packetLen (field pt 8 4) → s.placeAt r pt.length = some (c, false) → s.Up ([13] ++ t1Doms (s.ringBase r)) →
            (∀ x, s.isLost x = false) → Tab.get s.host.inWait 0 n = 0 → (∀ b ∈ pt, b < 256) → c + pt.length < 2 ^ 64 → run (fun t => passed (pt.length + 64) t ∧
              t.homeBytes (s.ringAt r c) pt.length = pt ∧ leNat (t.homeBytes (s.ringBase r) 8) = c + pt.length ∧ t.threads = s.threads)) ∧
          (s.ringTenant r = some n → pt.length = packetLen (field pt 8 4) → s.placeAt r pt.length = none → Tab.get s.host.inWait 0 n = 0 → run (fun t =>
            t = { s with host := { s.host with inWait := Tab.set s.host.inWait 0 n (s.now + 1) } })))))) ∧
  (∀ (s : State) (x : Export) (rest : List Export) (data marks : List Nat), s.host.exports = x :: rest → s.isOn 7 = true →
    let ps := pagePieces x.addr x.len
    (∀ p ∈ ps, ∃ e, s.resolve x.tenant (BitVec.ofNat 64 p.1) p.2 false = .bad e) → ps ≠ [] → s.Gives (.exportDone none data marks) (fun t =>
      t = { s with host := { s.host with exports := rest, egress := s.host.egress ++ [⟨x.tenant, 2, 0, putBytes x.req 0x3C [5] ++ List.replicate x.len 0⟩] } })) ∧
  (∀ (s : State) (x : Export) (rest : List Export) (a k : Nat), s.host.exports = x :: rest → s.isOn 7 = true → pagePieces x.addr x.len = [(a, k)] → k = x.len →
    ∀ b, s.resolve x.tenant (BitVec.ofNat 64 a) k false = .ok (.mem b) → s.Up (s.locDoms (.mem b)) → (s.readHome x.tenant a k).any (·.2) = false → (s.readHome x.tenant a k).length = k →
      s.Gives (.exportDone none [] []) (fun t =>
        t = { s with host := { s.host with exports := rest, egress := s.host.egress ++ [⟨x.tenant, 2, 0, putBytes x.req 0x3C [0] ++ (s.readHome x.tenant a k).map (·.1)⟩] } })) ∧
  (∀ (s : State) (n : Nat) (e : Egress), s.host.egress = [e] → e.tenant = n → s.bounceUp n = true → s.flag (A.HI_T_OUT_CFG n) F.HI_T_OUT_CFG_EN = true → Tab.get s.host.outKey [] n ≠ [] →
    let size := 2 ^ s.fget (A.HI_T_OUT_CFG n) F.HI_T_OUT_CFG_LOG2
    let prod := (s.rd (A.HI_T_OUT_PROD n)).toNat
    let used := (prod + 2 ^ 64 - (s.rd (A.HI_T_OUT_CONS n)).toNat) % 2 ^ 64
    let need := e.data.length + 64
    let c := (s.rd (A.HI_T_OUT_COUNTER n)).toNat
    let h := bounceHead e.data.length e.kind (e.ring % 65536) c (Tab.get s.host.sess 0 n)
    let sealed := gcmSeal (Tab.get s.host.outKey [] n) (slice h 16 4 ++ slice h 8 8) h e.data
    prod % size + need ≤ size →
    (size < used + need → s.Gives (.egressRecordWrite n) (fun t => bit (t.rd (A.HI_T_EVENT n)).toNat 4 = true ∧ s.RegsBut [A.HI_T_EVENT n] t ∧ t.host.egress = [e])) ∧
    (used + need ≤ size → e.kind ≠ 1 → c + 1 < (s.rd A.HI_CONF_REKEY).toNat → s.Gives (.egressRecordWrite n) (fun t =>
      t.host = { s.host with egress := [], out := s.host.out ++ [((s.rd (A.HI_T_OUT_BASE n)).toNat + prod % size, h ++ sealed.1 ++ sealed.2 ++ natLe 16 0)] } ∧
      t.rd (A.HI_T_OUT_PROD n) = BitVec.ofNat 64 (prod + need) ∧ t.rd (A.HI_T_OUT_COUNTER n) = BitVec.ofNat 64 (c + 1) ∧
      s.RegsBut [A.HI_T_OUT_PROD n, A.HI_T_OUT_COUNTER n] t ∧ t = { s with host := t.host, regs := t.regs })))

/-- The Fault ledger (R611 to R618, R630, R632): a tile fault is counted, the job on the tile is ended with FAULT 0x30, and it is classified, once; an engine fault ends the running command with FAULT; when the repeats have ended the verdict is counted, a transient one leaves the unit in service, a permanent one retires the tile or fences the engine; RETIRE retires a tile that no job uses, ACK releases its groups; corrected and uncorrectable granules are counted, reported and poisoned, and a step of the scrub counts the frame it has read in each vault; an owner enables its ring. -/
def Obligations.FaultLedger : Prop :=
  (∀ (s : State) (k cause synd : Nat), s.PlatOk →
    let faulted := ∃ e ∈ s.fl.cls, e.eng = 0 ∧ e.unit = k
    let plus : Nat → State → Prop := fun a t => t.fget a (31, 0) = min (s.fget a (31, 0) + 1) (2 ^ 32 - 1)
    (s.tilePart k = none ∨ faulted → s.Gives (.tileFault k cause synd) (fun t => t = s)) ∧
    (∀ p, s.tilePart k = some p → ¬faulted →
      let running := ¬∃ e ∈ s.fl.cls, e.part = p.id
      ((s.tile k).job = none → s.Gives (.tileFault k cause synd) (fun t => plus A.FL_TILE_FAULTS t ∧ t.jobs = s.jobs ∧ t.threads = s.threads ∧
        t.flag A.FL_STATUS F.FL_STATUS_CLASSIFYING = true ∧
        ∃ e, t.fl.cls = s.fl.cls ++ [e] ∧ e.eng = 0 ∧ e.unit = k ∧ e.part = p.id ∧ e.synd = synd ∧ e.ctx = 0xFFFF ∧ (e.running = true ↔ running))) ∧
      (∀ c, (s.tile k).job = some c → c ≠ 0xFFFF → (s.ctx c).st = 1 → (s.ctx c).kill = none → s.Gives (.tileFault k cause synd) (fun t => plus A.FL_TILE_FAULTS t ∧
        (t.ctx c).kill = some (5, 0x30) ∧ (∀ j, s.job c = some j → t.job c = some { j with ending := true }) ∧
        ∃ e, t.fl.cls = s.fl.cls ++ [e] ∧ e.eng = 0 ∧ e.unit = k ∧ e.part = p.id ∧ e.ctx = c ∧ e.seq = (s.ctx c).seq)))) ∧
  (∀ (s : State) (e u synd : Nat), 1 ≤ e → e ≤ 3 →
    (s.running e u = none → s.Gives (.engineFault e u synd) (fun t => t = s)) ∧
    (∀ r, s.running e u = some r → (∀ x ∈ s.fl.cls, ¬(x.eng = e ∧ x.unit = u)) → s.Gives (.engineFault e u synd) (fun t =>
      (∃ q, t.running e u = some q ∧ q.cmd = r.cmd ∧ q.status = 5 ∧ q.scale = [] ∧ q.commit = none) ∧ t.threads = s.threads ∧ t.jobs = s.jobs ∧
      ∃ x, t.fl.cls = s.fl.cls ++ [x] ∧ x.eng = e ∧ x.unit = u ∧ x.part = r.cmd.part))) ∧
  (∀ (s : State) (part synd : Nat) (again equal ref disagree : Bool), s.PlatOk →
    (s.fl.cls.find? (fun e => e.part == part && e.running) = none → s.Gives (.faultRepeatDone part again equal ref disagree synd) (fun t => t = s)) ∧
    (∀ e, s.fl.cls = [e] → e.part = part → e.running = true → (e.ctx = 0xFFFF ∨ (s.ctx e.ctx).kill ≠ some (5, 0x30)) → s.transientLimit e = false → s.plat.shadow = none →
      let count : Nat → State → Prop := fun a t => t.fget a (31, 0) = min (s.fget a (31, 0) + 1) (2 ^ 32 - 1)
      let gone : State → Prop := fun t => t.fl.cls = [] ∧ t.flag A.FL_STATUS F.FL_STATUS_CLASSIFYING = false
      let run : (State → Prop) → Prop := s.Gives (.faultRepeatDone part again equal ref disagree synd)
      let clean := again = false ∧ equal = true
      (ref = false ∨ s.reference e = none →
        (clean → run (fun t => gone t ∧ count A.FL_TRANSIENT t ∧ t.retired = s.retired ∧ t.fl.fenced = s.fl.fenced)) ∧
        (¬clean → s.reference e ≠ none → again = false → disagree = true → run (fun t => gone t ∧ count A.FL_UNRESOLVED t ∧ t.retired = s.retired ∧ t.fl.fenced = s.fl.fenced)) ∧
        (¬clean → (s.reference e = none ∨ again = true ∨ disagree = false) →
          (e.eng = 0 → e.unit < 128 → run (fun t => gone t ∧ count A.FL_PERMANENT t ∧ t.retired.has e.unit = true ∧ t.fget (A.FL_RETIRED (e.unit / 32)) (e.unit % 32, e.unit % 32) = 1)) ∧
          (e.eng ≠ 0 → run (fun t => gone t ∧ count A.FL_PERMANENT t ∧ t.retired = s.retired ∧ t.fl.fenced.has (engKey e.eng e.unit) = true)))) ∧
      (∀ u, ref = true → s.reference e = some u → run (fun t => count A.FL_TILE_FAULTS t ∧ ∃ f, t.fl.cls = [e, f] ∧ f.eng = e.eng ∧ f.unit = u ∧ f.part = part ∧ f.running = false)))) ∧
  (∀ (s : State) (who : Who) (k g : Nat), s.PlatOk →
    (s.lkAdmin who = false → s.Gives (.retire who k) (fun t => t = s) ∧ s.Gives (.ack who g) (fun t => t = s)) ∧
    (s.lkAdmin who = true → s.Up [15] → k < 128 → g < 256 →
      (s.retired.has k = true → s.Gives (.retire who k) (fun t => t = s)) ∧
      (s.retired.has k = false → s.fl.retiring = [] → s.plat.shadow = none → s.groupJobs (s.groupsOf k) 1 = [] → s.groupJobs (s.groupsOf k) 2 = [] →
        s.Gives (.retire who k) (fun t => t.retired.has k = true ∧ t.fl.retiring = [] ∧ t.fget (A.FL_RETIRED (k / 32)) (k % 32, k % 32) = 1 ∧
          (∀ d ∈ s.groupsOf k, t.hg.held.has d = true) ∧ t.threads = s.threads)) ∧
      (s.retired.has k = false → s.groupJobs (s.groupsOf k) 1 = [] → s.plat.shadow.isSome = true →
        s.Gives (.retire who k) (fun t => t.retired = s.retired ∧ ∃ e, t.fl.retiring = s.fl.retiring ++ [e] ∧ e.eng = 0 ∧ e.unit = k)) ∧
      s.Gives (.ack who g) (fun t => t.hg.held = (if g = 0xFF then [] else NSet.rem g s.hg.held) ∧ t.regs = s.regs ∧ t.mem = s.mem ∧ t.threads = s.threads))) ∧
  (∀ (s : State) (kind unit corr : Nat), s.isOn 15 = true → kind < 3 → unit < 128 →
    let pos := s.fget A.FL_SCRUB_T1 F.FL_SCRUB_T1_POS
    (kind = 0 → s.isOn (storeDom 0 unit) = true → s.Gives (.patrolScrub 0 unit corr [] false) (fun t =>
      t.fget A.FL_CE_T1 (63, 0) = min (s.fget A.FL_CE_T1 (63, 0) + corr) (2 ^ 64 - 1) ∧ s.RegsBut [A.FL_CE_T1] t ∧
      t = { s with regs := t.regs, fl := { s.fl with ce := t.fl.ce }, free := s.free + 1, arb := { s.arb with due := t.arb.due } })) ∧
    (∀ a, s.scrubs 0 unit a = true → s.PlatOk → s.flag A.FL_DEV_RING_CFG F.FL_T_RING_CFG_EN = false → (∀ n, n < 8 → s.flag (A.FL_T_RING_CFG n) F.FL_T_RING_CFG_EN = false) → s.Gives (.patrolScrub 0 unit 0 [a] false) (fun t => (∀ x, a / 32 * 32 ≤ x → x < a / 32 * 32 + 32 → t.homePsn x 1 = true) ∧ t.mem = s.mem ∧
      t.fget A.FL_UE_T1 (63, 0) = min (s.fget A.FL_UE_T1 (63, 0) + 2) (2 ^ 64 - 1))) ∧
    (let read : State → Prop := fun t => s.RegsBut [A.FL_SCRUB_T1] t ∧ t = { s with regs := t.regs, free := s.free + 1, arb := t.arb } ∧
       ∀ v, v < 128 → Tab.get t.arb.bytes 0 (v * 8 + 4) = (if (∀ d ∈ s.locDoms (.mem (v * 0x30000000 + pos * pageSize)), s.isOn d = true)
         then min (Tab.get s.arb.bytes 0 (v * 8 + 4) + pageSize) (2 ^ 64 - 1) else Tab.get s.arb.bytes 0 (v * 8 + 4))
     (pos < 383 → s.Gives (.patrolScrub 0 unit 0 [] true) (fun t => read t ∧ t.fget A.FL_SCRUB_T1 F.FL_SCRUB_T1_POS = pos + 1)) ∧
     (pos = 383 → s.Gives (.patrolScrub 0 unit 0 [] true) (fun t => read t ∧ t.fget A.FL_SCRUB_T1 F.FL_SCRUB_T1_POS = 0))) ∧
    (let c := (Tab.get s.fl.ce (0, 0) (kind * 65536 + unit)).1 + corr
     let t0 := (Tab.get s.fl.ce (0, 0) (kind * 65536 + unit)).2
     (c = 0 ∨ (t0 ≠ 0 ∧ s.now < t0 + 256000000) → s.Gives (.ceSummaryWindow kind unit corr) (fun t => (Tab.get t.fl.ce (0, 0) (kind * 65536 + unit)).1 = c ∧
       t = { s with regs := t.regs, fl := { s.fl with ce := t.fl.ce } })) ∧
     (c ≠ 0 → (t0 = 0 ∨ t0 + 256000000 ≤ s.now) → s.Gives (.ceSummaryWindow kind unit corr) (fun t =>
       Tab.get t.fl.ce (0, 0) (kind * 65536 + unit) = (0, s.now) ∧ t.threads = s.threads)))) ∧
  (∀ (s : State) (who : Who) (ring lg : Nat),
    let a := if ring = 8 then A.FL_DEV_RING_CFG else A.FL_T_RING_CFG ring
    let may := (ring = 8 ∧ s.lkAdmin who = true) ∨ (ring < 8 ∧ who = .tenant ring)
    (¬may → s.Gives (.fsrRingEnable who ring lg) (fun t => t = s)) ∧
    (may → s.Up [15] → 4 ≤ lg → lg ≤ 20 → (∀ r ∈ s.fsrBuf, r.1 ≠ ring) →
      (s.ringBaseOk ring lg = true → s.Gives (.fsrRingEnable who ring lg) (fun t => t.fget a F.FL_T_RING_CFG_LOG2 = lg ∧ t.flag a F.FL_T_RING_CFG_EN = true ∧
        s.RegsBut [a, A.FL_STATUS] t ∧ t.mem = s.mem)) ∧
      (s.ringBaseOk ring lg = false → s.Gives (.fsrRingEnable who ring lg) (fun t => s.OnlyRegs [a] t ∧ t.flag a F.FL_T_RING_CFG_EN = false ∧ t.fget a F.FL_T_RING_CFG_LOG2 = lg))))

/-- Tally units and Assay snapshots (R209 to R211, R622 to R625): a row of another than the owner has no effect; bytes fed change VALUE as CRC-32C does; a unit that is BUSY only sets OVERRUN; RUN checks its range and ends with the CRC of what it read, or with VALUE restored on poison; CHECK counts, shows the check value, and in the small class compares it with EXPECT; RESET makes VALUE all ones; a snapshot copies the four counters of a set of the tenant, with CLEAR zeroing them. -/
def Obligations.TallyAndAssay : Prop :=
  (∀ (s : State) (who : Who) (n : Nat),
    let v := s.tlValue n
    let st := A.TL_STATUS n
    let check := v ^^^ 0xFFFFFFFF
    let rows : List Instr → (State → Prop) → Prop := fun is p => ∀ i ∈ is, s.Gives i p
    (∀ d x y len, s.tlOk who n = false →
      rows [.tlFeed64 who n d, .tlFeed32 who n x, .tlFeed8 who n y, .run who n len, .check who n, .reset who n] (fun t => t = s)) ∧
    (∀ d x y len, s.tlOk who n = true → s.Up [15] → s.tlBusy n = true →
      rows [.tlFeed64 who n d, .tlFeed32 who n x, .tlFeed8 who n y, .run who n len, .check who n, .reset who n]
        (fun t => s.OnlyRegs [st] t ∧ t.flag st F.TL_STATUS_OVERRUN = true)) ∧
    (s.tlOk who n = true → s.Up [15] → s.tlBusy n = false →
      let fed : List Nat → State → Prop := fun bs t => s.OnlyRegs [A.TL_VALUE n] t ∧ t.tlValue n = crcFeed v bs % 2 ^ 64
      (s.fget (A.TL_CFG n) F.TL_CFG_SOURCE = 0 → ∀ (d : Word) (x y : Nat),
        s.Gives (.tlFeed64 who n d) (fed (natLe 8 d.toNat)) ∧ s.Gives (.tlFeed32 who n x) (fed (natLe 4 x)) ∧ s.Gives (.tlFeed8 who n y) (fed (natLe 1 y))) ∧
      (s.fget (A.TL_CFG n) F.TL_CFG_SOURCE ≠ 0 → ∀ (d : Word) (x y len : Nat),
        rows [.tlFeed64 who n d, .tlFeed32 who n x, .tlFeed8 who n y, .run who n len] (fun t => t = s)) ∧
      s.Gives (.reset who n) (fun t => s.OnlyRegs [A.TL_VALUE n] t ∧ t.tlValue n = 0xFFFFFFFF) ∧
      (s.flag (A.TL_CFG n) F.TL_CFG_ALIVE_EN = false →
        let counted : State → Prop := fun t => (t.rd (A.TL_RESULT n)).toNat = check % 2 ^ 64 ∧ t.fget (A.TL_CHECKS n) (31, 0) = min (s.fget (A.TL_CHECKS n) (31, 0) + 1) (2 ^ 32 - 1) ∧
          t.tlValue n = v ∧ t.threads = s.threads
        (s.largeClass = true → s.Gives (.check who n) (fun t => counted t ∧ t.flag st F.TL_STATUS_CHECKED = true ∧ s.RegsBut [A.TL_RESULT n, A.TL_CHECKS n, st] t)) ∧
        (s.largeClass = false → check = (s.rd (A.TL_EXPECT n)).toNat → s.Gives (.check who n) (fun t => counted t ∧ s.OnlyRegs [A.TL_RESULT n, A.TL_CHECKS n] t)) ∧
        (s.largeClass = false → check ≠ (s.rd (A.TL_EXPECT n)).toNat → s.flag (A.TL_CFG n) F.TL_CFG_IRQ_EN = false → s.Gives (.check who n) (fun t => counted t ∧
          t.flag st F.TL_STATUS_MISMATCH = true ∧ t.fget (A.TL_MISMATCHES n) (31, 0) = min (s.fget (A.TL_MISMATCHES n) (31, 0) + 1) (2 ^ 32 - 1)))) ∧
      (s.fget (A.TL_CFG n) F.TL_CFG_SOURCE = 0 → ∀ len, len < 2 ^ 24 →
        let o := (s.tlOwner n).getD 0
        let r := s.reach (viaHome o) (s.rd (A.TL_ADDR n)).toNat len false locLocal
        (len = 0 → s.Gives (.run who n len) (fun t => s.OnlyRegs [st] t ∧ t.fget st F.TL_STATUS_LAST_STATUS = 0)) ∧
        (len ≠ 0 → r = .bad → s.Gives (.run who n len) (fun t => s.OnlyRegs [st] t ∧ t.fget st F.TL_STATUS_LAST_STATUS = 7)) ∧
        (len ≠ 0 → r ≠ .bad → s.Gives (.run who n len) (fun t => t.flag st F.TL_STATUS_BUSY = true ∧ Tab.get t.fl.run none n = some (v, len) ∧ s.RegsBut [st] t ∧ t.mem = s.mem))))) ∧
  (∀ (s : State) (n : Nat), n < 16 → s.isOn 15 = true →
    (Tab.get s.fl.run none n = none → ∀ fail, s.Gives (.tlRunDone n fail) (fun t => t = s)) ∧
    (∀ v len ds, Tab.get s.fl.run none n = some (v, len) →
      let o := (s.tlOwner n).getD 0
      let a := (s.rd (A.TL_ADDR n)).toNat
      let b := s.readHome o a len
      let ends : Nat → State → Prop := fun k t => t.fget (A.TL_STATUS n) F.TL_STATUS_LAST_STATUS = k ∧ t.flag (A.TL_STATUS n) F.TL_STATUS_BUSY = false ∧
        Tab.get t.fl.run none n = none ∧ s.RegsBut [A.TL_STATUS n, A.TL_VALUE n] t ∧ t.mem = s.mem
      s.reach (viaHome o) a len false locLocal = .ok ds → s.Up ds →
      (b.any (·.2) = false → s.Gives (.tlRunDone n false) (fun t => ends 0 t ∧ t.tlValue n = crcFeed v (b.map (·.1)) % 2 ^ 64)) ∧
      (b.any (·.2) = true → s.Gives (.tlRunDone n false) (fun t => ends 1 t ∧ t.tlValue n = v % 2 ^ 64)) ∧
      s.Gives (.tlRunDone n true) (ends 5))) ∧
  (∀ (s : State) (who : Who) (n set : Nat), set < 256 →
    (s.asOk who n = false → s.Gives (.asSnapshot who n set) (fun t => t = s) ∧ s.Gives (.asSnapshotClear who n set) (fun t => t = s)) ∧
    (s.asOk who n = true → s.Up [15] →
      let refused : State → Prop := fun t => s.OnlyRegs [A.AS_SNAP_STATUS n] t ∧ t.flag (A.AS_SNAP_STATUS n) F.AS_SNAP_STATUS_REFUSED = true
      let copied : State → Prop := fun t => t.rd (A.AS_SNAP_SQERR n) = s.rd (A.AS_SQERR set) ∧ t.rd (A.AS_SNAP_COUNT n) = s.rd (A.AS_COUNT set) ∧
        t.rd (A.AS_SNAP_MAXERR n) = s.rd (A.AS_MAXERR set) ∧ t.rd (A.AS_SNAP_CLIP n) = s.rd (A.AS_CLIP set) ∧
        t.fget (A.AS_SNAP_STATUS n) F.AS_SNAP_STATUS_SET = set ∧ t.flag (A.AS_SNAP_STATUS n) F.AS_SNAP_STATUS_VALID = true
      let snap := [A.AS_SNAP_SQERR n, A.AS_SNAP_COUNT n, A.AS_SNAP_MAXERR n, A.AS_SNAP_CLIP n, A.AS_SNAP_STATUS n]
      (set / 32 ≠ n → s.Gives (.asSnapshot who n set) refused ∧ s.Gives (.asSnapshotClear who n set) refused) ∧
      (set / 32 = n → s.Gives (.asSnapshot who n set) (fun t => copied t ∧ s.OnlyRegs snap t) ∧
        s.Gives (.asSnapshotClear who n set) (fun t => copied t ∧ t.rd (A.AS_SQERR set) = 0 ∧ t.rd (A.AS_COUNT set) = 0 ∧ t.rd (A.AS_MAXERR set) = 0 ∧
          t.rd (A.AS_CLIP set) = 0 ∧ s.OnlyRegs (snap ++ [A.AS_SQERR set, A.AS_COUNT set, A.AS_MAXERR set, A.AS_CLIP set]) t))))

/-- The low-speed pins (R600, R626, R662 to R664, R675 to R678): a frame of the SPI safety channel is judged and queued, POP and PUSH by those who may; a UART character enters its FIFO or is lost, and the oldest one queued goes out; the I3C address commands assign and drop the dynamic address; each instruction of the test access port that R600 allows scans its register, a withheld one scans BYPASS. -/
def Obligations.LowSpeedPins : Prop :=
  ∀ (s : State), s.Up [39] →
    let flagOn : Nat → Nat × Nat → State → Prop := fun a f t => s.OnlyRegs [a] t ∧ t.flag a f = true
    let io : IoSt → State → Prop := fun i t => t = { s with io := i }
    (∀ cycles bs, (s.flag A.IO_SPI_CTRL F.IO_SPI_CTRL_EN = false ∨ s.rs.up = false ∨ (s.bootWaits = true ∧ s.bootSel = 1) → s.Gives (.spiFrame cycles bs) (fun t => t = s)) ∧
      (s.flag A.IO_SPI_CTRL F.IO_SPI_CTRL_EN = true → s.rs.up = true → ¬(s.bootWaits = true ∧ s.bootSel = 1) →
        (cycles ≠ 512 → s.Gives (.spiFrame cycles bs) (fun t => s.OnlyRegs [A.IO_SPI_LEN_ERR] t ∧ t.fget A.IO_SPI_LEN_ERR (31, 0) = min (s.fget A.IO_SPI_LEN_ERR (31, 0) + 1) (2 ^ 32 - 1))) ∧
        (cycles = 512 → bs.length = 64 → s.spiUnit = none → s.io.tx ≠ [] →
          (s.io.rx.length < 8 → s.Gives (.spiFrame cycles bs) (fun t => t.regs = s.regs ∧ ∃ v, v < 4 ∧
            t.io = { s.io with rx := s.io.rx ++ [(bs, v, field bs 60 4 == crc32c (bs.take 60))], sent := s.io.sent ++ [s.io.tx] })) ∧
          (8 ≤ s.io.rx.length → s.Gives (.spiFrame cycles bs) (fun t => t.io = { s.io with sent := s.io.sent ++ [s.io.tx] } ∧ s.RegsBut [A.IO_SPI_STATUS] t ∧
            t.flag A.IO_SPI_STATUS F.IO_SPI_STATUS_RX_OVERFLOW = true))) ∧
        (∀ n, cycles = 512 → bs.length = 64 → s.spiUnit = some n → s.Up [15] → s.io.tx ≠ [] → s.io.rx.length < 8 → s.PlatOk → (∀ b ∈ bs, b < 256) → s.Gives (.spiFrame cycles bs) (fun t =>
          t.fget (A.TL_EXPECT n) F.TL_EXPECT_EXPECT = field bs 60 4 ∧ t.fget (A.TL_ALIVE_IN n) F.TL_ALIVE_IN_VALUE = field bs 58 2 ∧
          ∃ v, v < 4 ∧ (s.flag (A.TL_CFG n) F.TL_CFG_ALIVE_EN = true → v = t.fget (A.TL_STATUS n) F.TL_STATUS_LAST_ALIVE) ∧
            t.io = { s.io with rx := s.io.rx ++ [(bs, v, field bs 60 4 == crc32c (bs.take 60))], sent := s.io.sent ++ [s.io.tx] })))) ∧
    (∀ who, (s.spiOk who = false → s.Gives (.pop who) (fun t => t = s) ∧ s.Gives (.ioSpiTxPush who) (fun t => t = s)) ∧
      (s.spiOk who = true → s.Gives (.pop who) (io { s.io with rx := s.io.rx.drop 1 })) ∧
      (∀ n, s.spiOk who = true → s.spiUnit = some n → s.Up [15] → s.Gives (.ioSpiTxPush who) (fun t =>
        let a := s.fget (A.TL_ALIVE n) F.TL_ALIVE_ALIVE_TX
        let b := s.spiPayload ++ natLe 2 a
        t.io = { s.io with tx := b ++ natLe 4 (crc32c b) } ∧ s.RegsBut [A.TL_ALIVE n] t ∧ t.fget (A.TL_ALIVE n) F.TL_ALIVE_ALIVE_TX = (a + 1) % 2 ^ 16 ∧ t = { s with io := t.io, regs := t.regs })) ∧
      (s.spiOk who = true → s.spiUnit = none → s.Gives (.ioSpiTxPush who) (fun t => t.regs = s.regs ∧ ∃ x, x.length = 6 ∧ t.io = { s.io with tx := s.spiPayload ++ x }))) ∧
    (let on := s.flag A.IO_UART_CFG F.IO_UART_CFG_EN = true
     (¬on → ∀ ch stop, s.Gives (.uartRxChar ch stop) (fun t => t = s) ∧ s.Gives .uartTxChar (fun t => t = s)) ∧
     (∀ ch, on → s.io.urx.length < 16 → s.Gives (.uartRxChar ch true) (io { s.io with urx := s.io.urx ++ [ch % 256] })) ∧
     (∀ ch, on → s.io.urx.length < 16 → s.Gives (.uartRxChar ch false) (fun t => t.io = { s.io with urx := s.io.urx ++ [ch % 256] } ∧ t.flag A.IO_UART_STATUS F.IO_UART_STATUS_FRAME_ERR = true ∧ s.RegsBut [A.IO_UART_STATUS] t)) ∧
     (∀ ch, on → 16 ≤ s.io.urx.length → s.Gives (.uartRxChar ch true) (flagOn A.IO_UART_STATUS F.IO_UART_STATUS_RX_OVERFLOW)) ∧
     (∀ c r, on → s.io.utx = c :: r → s.Gives .uartTxChar (io { s.io with utx := r, uart := s.io.uart ++ [c] })) ∧
     (∀ who ch, s.lkAdmin who = false → s.Gives (.uartDataWrite who ch) (fun t => t = s) ∧ s.Gives (.uartDataRead who) (fun t => t = s)) ∧
     (∀ who ch, s.lkAdmin who = true → (s.io.utx.length < 16 → s.Gives (.uartDataWrite who ch) (io { s.io with utx := s.io.utx ++ [ch % 256] })) ∧
       (16 ≤ s.io.utx.length → s.Gives (.uartDataWrite who ch) (fun t => t = s)) ∧ s.Gives (.uartDataRead who) (io { s.io with urx := s.io.urx.drop 1 }))) ∧
    (let valid := s.flag A.IO_ADDR F.IO_ADDR_DYN_VALID = true
     let takes : Nat → State → Prop := fun a t => s.OnlyRegs [A.IO_ADDR] t ∧ t.fget A.IO_ADDR F.IO_ADDR_DYN_ADDR = a ∧ t.flag A.IO_ADDR F.IO_ADDR_DYN_VALID = true
     ∀ a b, a < 128 →
       (¬valid → s.Gives (.entdaa a) (takes a)) ∧ (valid → s.Gives (.entdaa a) (fun t => t = s)) ∧
       (¬valid → b = s.fget A.IO_ADDR F.IO_ADDR_STATIC_ADDR → s.Gives (.setdasa b a) (takes a)) ∧
       (valid ∨ b ≠ s.fget A.IO_ADDR F.IO_ADDR_STATIC_ADDR → s.Gives (.setdasa b a) (fun t => t = s)) ∧
       (valid → b = s.fget A.IO_ADDR F.IO_ADDR_DYN_ADDR → s.Gives (.setnewda b a) (takes a)) ∧
       (¬valid ∨ b ≠ s.fget A.IO_ADDR F.IO_ADDR_DYN_ADDR → s.Gives (.setnewda b a) (fun t => t = s)) ∧
       s.Gives .rstdaa (fun t => s.OnlyRegs [A.IO_ADDR] t ∧ t.fget A.IO_ADDR F.IO_ADDR_DYN_ADDR = 0 ∧ t.flag A.IO_ADDR F.IO_ADDR_DYN_VALID = false)) ∧
    (∀ pins shift,
      let scan : List Nat → List Nat := fun r => (r ++ shift).take shift.length
      let out : Nat → List Nat → State → Prop := fun i r t => t.io = { s.io with tap := i, tdo := s.io.tdo ++ [scan r] } ∧ t.regs = s.regs
      let open_ := s.confMode = false
      s.Gives (.idcode shift) (fun t => out 1 (natBits 32 0x1A94D2B3) t ∧ t = { s with io := t.io }) ∧
      s.Gives (.bypass shift) (fun t => out 0xFF [0] t ∧ t = { s with io := t.io }) ∧
      s.Gives (.samplePreload pins shift) (fun t => t = { s with io := { s.io with tap := 2, bsr := (pins ++ shift).drop shift.length, tdo := s.io.tdo ++ [scan pins] } }) ∧
      (open_ → s.Gives (.clamp shift) (out 4 [0]) ∧ s.Gives (.highz shift) (out 5 [0])) ∧
      (open_ → (∀ e ∈ s.tenEs, e.debug = true) → s.Gives (.extest pins shift) (fun t => t.io = { s.io with tap := 3, bsr := (pins ++ shift).drop shift.length, tdo := s.io.tdo ++ [scan pins] } ∧ t.regs = s.regs)) ∧
      (open_ → (∃ e ∈ s.tenEs, e.debug = false) → s.Up [38] → s.Gives (.extest pins shift) (fun t => t.io = { s.io with tap := 0xFF, tdo := s.io.tdo ++ [scan [0]] } ∧ s.RegsBut [A.DB_REFUSED] t ∧
        t.fget A.DB_REFUSED (31, 0) = min (s.fget A.DB_REFUSED (31, 0) + 1) (2 ^ 32 - 1))) ∧
      (¬open_ → s.Gives (.extest pins shift) (out 0xFF [0]) ∧ s.Gives (.clamp shift) (out 0xFF [0]) ∧ s.Gives (.highz shift) (out 0xFF [0]))) ∧
    (∀ (d : Word) (reg : Nat) (wr : Bool), reg < 128 → (∀ c ∈ s.extq, extFrom c ≠ .debug) →
      let frame := natBits 72 (d.toNat + reg * 2 ^ 64 + b2n wr * 2 ^ 71)
      let t0 := (s.tapSelect 0x10).tdoOut (((natBits 72 s.io.dr) ++ frame).take 72)
      let a := A.DB_STATUS + 8 * reg
      (s.confMode = true → s.Gives (.dbAccess d reg wr) (fun t => t = (s.tapSelect 0x10).tdoOut (([0] ++ frame).take 72))) ∧
      (s.confMode = false → s.Up [regDom a] →
        (wr = true → s.Gives (.dbAccess d reg wr) (fun t => t = { (t0.extWrite .debug a (regBytes a) d.toNat).1 with io := { (t0.extWrite .debug a (regBytes a) d.toNat).1.io with dr := d.toNat } })) ∧
        (∀ v, wr = false → (t0.extRead .debug a (regBytes a)).2 = some (.ok v) → s.Gives (.dbAccess d reg wr) (fun t => t.io.dr = v.toNat))))
end

