-- ==== Sys2Proof/Laws/Crypto.lean ====
section
/-!
SUPPORT. Laws of the ciphers: lengths, and what AES-256-GCM seals it opens again.
-/
namespace Sys2Proof.Machine

@[simp] theorem natLe_length (n v : Nat) : (natLe n v).length = n := by
  induction n generalizing v with
  | zero => rfl
  | succ n ih => simp [natLe, ih]

@[simp] theorem natBe_length (n v : Nat) : (natBe n v).length = n := by simp [natBe]

@[simp] theorem xorBytes_length (a b : List Nat) : (xorBytes a b).length = min a.length b.length := by simp [xorBytes]

/-- Twice the same stream gives the bytes back. -/
theorem xorBytes_twice (a s : List Nat) (h : a.length ≤ s.length) : xorBytes (xorBytes a s) s = a := by
  induction a generalizing s with
  | nil => rfl
  | cons x a ih =>
    cases s with
    | nil => simp at h
    | cons y s =>
      have := ih s (by simpa using h)
      simp_all [xorBytes, Nat.xor_assoc]

theorem aesBlock_length (ks : List (List Nat)) (b : List Nat) (h : (ks.getD 14 []).length = 16) : (aesBlock ks b).length = 16 := by
  unfold aesBlock
  rw [xorBytes_length, h, aesShift]
  simp

theorem gcmStream_length (ks : List (List Nat)) (iv : List Nat) (n : Nat) (h : (ks.getD 14 []).length = 16) : (gcmStream ks iv n).length = n := by
  have e : ∀ l : List Nat, (l.flatMap fun i => aesBlock ks (iv ++ natBe 4 (i + 2))).length = 16 * l.length := by
    intro l
    induction l with
    | nil => rfl
    | cons i l ih => rw [List.flatMap_cons, List.length_append, ih, aesBlock_length ks _ h, List.length_cons]; omega
  rw [gcmStream, List.length_take, e, List.length_range, ceilDiv]
  omega

theorem gcmSeal_length (key iv aad pt : List Nat) (h : ((aesKeys key).getD 14 []).length = 16) :
    (gcmSeal key iv aad pt).1.length = pt.length ∧ (gcmSeal key iv aad pt).2.length = 16 := by
  refine ⟨?_, ?_⟩
  · simp [gcmSeal, gcmStream_length _ _ _ h]
  · simp [gcmSeal, gcmTag, aesBlock_length _ _ h]

/-- What is sealed opens again under the same key, IV and header. -/
theorem gcmOpen_gcmSeal (key iv aad pt : List Nat) (h : ((aesKeys key).getD 14 []).length = 16) :
    gcmOpen key iv aad (gcmSeal key iv aad pt).1 (gcmSeal key iv aad pt).2 = some pt := by
  unfold gcmOpen
  rw [if_pos (by rfl), (gcmSeal_length key iv aad pt h).1]
  exact congrArg some (xorBytes_twice pt _ (Nat.le_of_eq (gcmStream_length _ _ _ h).symm))

end Sys2Proof.Machine
end

