-- ==== Sys2Proof/Laws/Tab.lean ====
section
/-!
SUPPORT. Sparse tables: what a read gives after a write, and that every table operation keeps the canonical form.
-/
namespace Sys2Proof.Machine

variable {α : Type}

/-! ### Reading after writing -/

theorem Tab.get?_ins_self (k : Nat) (v : α) (t : Tab α) : (Tab.ins k v t).get? k = some v := by
  induction t with
  | nil => simp [Tab.ins, Tab.get?]
  | cons p t ih =>
    obtain ⟨a, w⟩ := p
    simp only [Tab.ins]
    split
    · simp [Tab.get?]
    · split
      · simp [Tab.get?]
      · simp [Tab.get?, *]

theorem Tab.get?_ins_ne {k j : Nat} (h : j ≠ k) (v : α) (t : Tab α) : (Tab.ins k v t).get? j = t.get? j := by
  induction t with
  | nil => simp [Tab.ins, Tab.get?, Ne.symm h]
  | cons p t ih =>
    obtain ⟨a, w⟩ := p
    simp only [Tab.ins]
    split
    · simp [Tab.get?, Ne.symm h]
    · split
      · next hk => subst hk; simp [Tab.get?, Ne.symm h]
      · simp [Tab.get?, ih]

theorem Tab.get?_del_self (k : Nat) (t : Tab α) : (Tab.del k t).get? k = none := by
  induction t with
  | nil => rfl
  | cons p t ih =>
    obtain ⟨a, w⟩ := p
    by_cases h : a = k
    · simpa [Tab.del, h] using ih
    · simpa [Tab.del, h, Tab.get?] using ih

theorem Tab.get?_del_ne {k j : Nat} (h : j ≠ k) (t : Tab α) : (Tab.del k t).get? j = t.get? j := by
  induction t with
  | nil => rfl
  | cons p t ih =>
    obtain ⟨a, w⟩ := p
    by_cases ha : a = k
    · subst ha
      simpa [Tab.del, Tab.get?, Ne.symm h] using ih
    · by_cases hj : a = j
      · subst hj
        simp [Tab.del, Tab.get?, h]
      · simpa [Tab.del, ha, Tab.get?, hj] using ih

/-- A read of the key that was written gives the value written. -/
@[simp] theorem Tab.get_set_self [DecidableEq α] (t : Tab α) (d : α) (k : Nat) (v : α) : (Tab.set t d k v).get d k = v := by
  unfold Tab.set
  split
  · next h => simp [Tab.get, Tab.get?_del_self, h]
  · simp [Tab.get, Tab.get?_ins_self]

/-- A write leaves every other key alone. -/
theorem Tab.get_set_ne [DecidableEq α] (t : Tab α) (d e : α) {k j : Nat} (h : j ≠ k) (v : α) : (Tab.set t d k v).get e j = t.get e j := by
  unfold Tab.set
  split
  · simp [Tab.get, Tab.get?_del_ne h]
  · simp [Tab.get, Tab.get?_ins_ne h]

/-- What a read gives after a write. -/
theorem Tab.get_set [DecidableEq α] (t : Tab α) (d : α) (k j : Nat) (v : α) :
    (Tab.set t d k v).get d j = if j = k then v else t.get d j := by
  split
  · next h => subst h; simp
  · next h => exact Tab.get_set_ne t d d h v

@[simp] theorem Tab.get_nil (d : α) (k : Nat) : Tab.get [] d k = d := rfl

/-! ### The canonical form -/

theorem Tab.sortedFrom_mono {b c : Nat} (h : c ≤ b) : ∀ {t : Tab α}, Tab.sortedFrom b t = true → Tab.sortedFrom c t = true
  | [], _ => rfl
  | (a, w) :: t, hs => by
    simp only [Tab.sortedFrom, Bool.and_eq_true, decide_eq_true_eq] at hs ⊢
    exact ⟨by omega, hs.2⟩

theorem Tab.sortedFrom_ins {b k : Nat} (hb : b ≤ k) (v : α) : ∀ {t : Tab α}, Tab.sortedFrom b t = true → Tab.sortedFrom b (Tab.ins k v t) = true
  | [], _ => by simp [Tab.ins, Tab.sortedFrom, hb]
  | (a, w) :: t, hs => by
    simp only [Tab.sortedFrom, Bool.and_eq_true, decide_eq_true_eq] at hs
    simp only [Tab.ins]
    split
    · simp only [Tab.sortedFrom, Bool.and_eq_true, decide_eq_true_eq]
      exact ⟨hb, by omega, hs.2⟩
    · split
      · next h => subst h; simp only [Tab.sortedFrom, Bool.and_eq_true, decide_eq_true_eq]; exact ⟨hb, hs.2⟩
      · simp only [Tab.sortedFrom, Bool.and_eq_true, decide_eq_true_eq]
        exact ⟨hs.1, Tab.sortedFrom_ins (by omega) v hs.2⟩

theorem Tab.sortedFrom_filter (p : Nat × α → Bool) : ∀ {b : Nat} {t : Tab α}, Tab.sortedFrom b t = true → Tab.sortedFrom b (t.filter p) = true
  | _, [], _ => rfl
  | b, (a, w) :: t, hs => by
    simp only [Tab.sortedFrom, Bool.and_eq_true, decide_eq_true_eq] at hs
    simp only [List.filter]
    split
    · simp only [Tab.sortedFrom, Bool.and_eq_true, decide_eq_true_eq]
      exact ⟨hs.1, Tab.sortedFrom_filter p hs.2⟩
    · exact Tab.sortedFrom_mono (by omega) (Tab.sortedFrom_filter p hs.2)

theorem Tab.mem_ins {k : Nat} {v : α} {t : Tab α} {q : Nat × α} (h : q ∈ Tab.ins k v t) : q = (k, v) ∨ q ∈ t := by
  induction t with
  | nil => simpa [Tab.ins] using h
  | cons p t ih =>
    obtain ⟨a, w⟩ := p
    simp only [Tab.ins] at h
    split at h
    · simpa using h
    · split at h
      · simp only [List.mem_cons] at h ⊢; rcases h with h | h <;> simp [h]
      · simp only [List.mem_cons] at h ⊢
        rcases h with h | h
        · exact Or.inr (Or.inl h)
        · rcases ih h with h | h
          · exact Or.inl h
          · exact Or.inr (Or.inr h)

/-- Dropping entries keeps the canonical form. -/
theorem Tab.wf_filter [DecidableEq α] {t : Tab α} {d : α} (h : Tab.wf t d = true) (p : Nat × α → Bool) : Tab.wf (t.filter p) d = true := by
  simp only [Tab.wf, Bool.and_eq_true] at h ⊢
  refine ⟨Tab.sortedFrom_filter p h.1, ?_⟩
  rw [List.all_eq_true] at h ⊢
  exact fun q hq => h.2 q ((List.mem_filter.1 hq).1)

/-- A write keeps the canonical form. -/
theorem Tab.wf_set [DecidableEq α] {t : Tab α} {d : α} (h : Tab.wf t d = true) (k : Nat) (v : α) : Tab.wf (Tab.set t d k v) d = true := by
  unfold Tab.set
  split
  · exact Tab.wf_filter h _
  · next hv =>
    simp only [Tab.wf, Bool.and_eq_true] at h ⊢
    refine ⟨Tab.sortedFrom_ins (by omega) v h.1, ?_⟩
    rw [List.all_eq_true] at h ⊢
    intro q hq
    rcases Tab.mem_ins hq with rfl | hq
    · simpa using hv
    · exact h.2 q hq

/-- Clearing a range keeps the canonical form. -/
theorem Tab.wf_clear [DecidableEq α] {t : Tab α} {d : α} (h : Tab.wf t d = true) (lo n : Nat) : Tab.wf (Tab.clear t lo n) d = true :=
  Tab.wf_filter h _

theorem Tab.wf_nil [DecidableEq α] (d : α) : Tab.wf ([] : Tab α) d = true := rfl

/-! ### Sets -/

theorem NSet.has_add (k j : Nat) (t : NSet) : (NSet.add k t).has j = (j == k || t.has j) := by
  induction t with
  | nil => simp [NSet.add, NSet.has, BEq.comm]
  | cons a t ih =>
    simp only [NSet.add]
    split
    · simp [NSet.has, BEq.comm]
    · split
      · next h => subst h; simp [NSet.has, BEq.comm]
      · have e : ∀ (l : NSet), NSet.has (a :: l) j = (a == j || NSet.has l j) := fun _ => rfl
        rw [e, e, ih]
        cases a == j <;> cases j == k <;> rfl

theorem NSet.has_rem (k j : Nat) (t : NSet) : (NSet.rem k t).has j = (j != k && t.has j) := by
  induction t with
  | nil => simp [NSet.rem, NSet.has]
  | cons a t ih =>
    by_cases h : a = k
    · subst h
      have : (NSet.rem a (a :: t)) = NSet.rem a t := by simp [NSet.rem]
      have e : ∀ (l : NSet), NSet.has (a :: l) j = (a == j || NSet.has l j) := fun _ => rfl
      rw [this, ih, e]
      by_cases hj : a = j
      · subst hj; simp
      · rw [beq_eq_false_iff_ne.2 hj, Bool.false_or]
    · have : (NSet.rem k (a :: t)) = a :: NSet.rem k t := by simp [NSet.rem, h]
      have e : ∀ (l : NSet), NSet.has (a :: l) j = (a == j || NSet.has l j) := fun _ => rfl
      rw [this, e, e, ih]
      by_cases hj : a = j
      · subst hj; simp [h]
      · rw [beq_eq_false_iff_ne.2 hj, Bool.false_or, Bool.false_or]

/-- What membership is after PUT. -/
theorem NSet.has_put (k j : Nat) (b : Bool) (t : NSet) : (NSet.put t k b).has j = if j = k then b else t.has j := by
  unfold NSet.put
  by_cases h : j = k
  · subst h; cases b <;> simp [NSet.has_add, NSet.has_rem]
  · cases b <;> simp [NSet.has_add, NSet.has_rem, h]

end Sys2Proof.Machine
end

