-- ==== Sys2Proof/Laws/State.lean ====
section
/-!
SUPPORT. What each named update of the state changes and what it leaves: one lemma per field per update, and what each record reads as after its own update.
-/
namespace Sys2Proof.Machine

variable (s : State)

/-! ### setThread -/

@[simp] theorem State.setThread_pending (a b : Nat) (t : Thread) : (s.setThread a b t).pending = s.pending := rfl
@[simp] theorem State.setThread_regs (a b : Nat) (t : Thread) : (s.setThread a b t).regs = s.regs := rfl
@[simp] theorem State.setThread_mem (a b : Nat) (t : Thread) : (s.setThread a b t).mem = s.mem := rfl
@[simp] theorem State.setThread_psn (a b : Nat) (t : Thread) : (s.setThread a b t).psn = s.psn := rfl
@[simp] theorem State.setThread_caches (a b : Nat) (t : Thread) : (s.setThread a b t).caches = s.caches := rfl
@[simp] theorem State.setThread_tlb (a b : Nat) (t : Thread) : (s.setThread a b t).tlb = s.tlb := rfl
@[simp] theorem State.setThread_arb (a b : Nat) (t : Thread) : (s.setThread a b t).arb = s.arb := rfl
@[simp] theorem State.setThread_vc (a b : Nat) (t : Thread) : (s.setThread a b t).vc = s.vc := rfl
@[simp] theorem State.setThread_plat (a b : Nat) (t : Thread) : (s.setThread a b t).plat = s.plat := rfl
@[simp] theorem State.setThread_tiles (a b : Nat) (t : Thread) : (s.setThread a b t).tiles = s.tiles := rfl
@[simp] theorem State.setThread_jobs (a b : Nat) (t : Thread) : (s.setThread a b t).jobs = s.jobs := rfl
@[simp] theorem State.setThread_net (a b : Nat) (t : Thread) : (s.setThread a b t).net = s.net := rfl
@[simp] theorem State.setThread_ebuf (a b : Nat) (t : Thread) : (s.setThread a b t).ebuf = s.ebuf := rfl
@[simp] theorem State.setThread_runs (a b : Nat) (t : Thread) : (s.setThread a b t).runs = s.runs := rfl
@[simp] theorem State.setThread_eng (a b : Nat) (t : Thread) : (s.setThread a b t).eng = s.eng := rfl
@[simp] theorem State.setThread_sc (a b : Nat) (t : Thread) : (s.setThread a b t).sc = s.sc := rfl
@[simp] theorem State.setThread_halo (a b : Nat) (t : Thread) : (s.setThread a b t).halo = s.halo := rfl
@[simp] theorem State.setThread_hg (a b : Nat) (t : Thread) : (s.setThread a b t).hg = s.hg := rfl
@[simp] theorem State.setThread_host (a b : Nat) (t : Thread) : (s.setThread a b t).host = s.host := rfl
@[simp] theorem State.setThread_au (a b : Nat) (t : Thread) : (s.setThread a b t).au = s.au := rfl
@[simp] theorem State.setThread_rn (a b : Nat) (t : Thread) : (s.setThread a b t).rn = s.rn := rfl
@[simp] theorem State.setThread_cam (a b : Nat) (t : Thread) : (s.setThread a b t).cam = s.cam := rfl
@[simp] theorem State.setThread_pw (a b : Nat) (t : Thread) : (s.setThread a b t).pw = s.pw := rfl
@[simp] theorem State.setThread_tu (a b : Nat) (t : Thread) : (s.setThread a b t).tu = s.tu := rfl
@[simp] theorem State.setThread_bl (a b : Nat) (t : Thread) : (s.setThread a b t).bl = s.bl := rfl
@[simp] theorem State.setThread_nt (a b : Nat) (t : Thread) : (s.setThread a b t).nt = s.nt := rfl
@[simp] theorem State.setThread_fl (a b : Nat) (t : Thread) : (s.setThread a b t).fl = s.fl := rfl
@[simp] theorem State.setThread_rs (a b : Nat) (t : Thread) : (s.setThread a b t).rs = s.rs := rfl
@[simp] theorem State.setThread_io (a b : Nat) (t : Thread) : (s.setThread a b t).io = s.io := rfl
@[simp] theorem State.setThread_doms (a b : Nat) (t : Thread) : (s.setThread a b t).doms = s.doms := rfl
@[simp] theorem State.setThread_wakeq (a b : Nat) (t : Thread) : (s.setThread a b t).wakeq = s.wakeq := rfl
@[simp] theorem State.setThread_stallq (a b : Nat) (t : Thread) : (s.setThread a b t).stallq = s.stallq := rfl
@[simp] theorem State.setThread_extq (a b : Nat) (t : Thread) : (s.setThread a b t).extq = s.extq := rfl
@[simp] theorem State.setThread_resumeq (a b : Nat) (t : Thread) : (s.setThread a b t).resumeq = s.resumeq := rfl
@[simp] theorem State.setThread_reqs (a b : Nat) (t : Thread) : (s.setThread a b t).reqs = s.reqs := rfl
@[simp] theorem State.setThread_tagNext (a b : Nat) (t : Thread) : (s.setThread a b t).tagNext = s.tagNext := rfl
@[simp] theorem State.setThread_fsrBuf (a b : Nat) (t : Thread) : (s.setThread a b t).fsrBuf = s.fsrBuf := rfl
@[simp] theorem State.setThread_now (a b : Nat) (t : Thread) : (s.setThread a b t).now = s.now := rfl
@[simp] theorem State.setThread_ticks (a b : Nat) (t : Thread) : (s.setThread a b t).ticks = s.ticks := rfl
@[simp] theorem State.setThread_retired (a b : Nat) (t : Thread) : (s.setThread a b t).retired = s.retired := rfl
@[simp] theorem State.setThread_free (a b : Nat) (t : Thread) : (s.setThread a b t).free = s.free := rfl

/-! ### setTile -/

@[simp] theorem State.setTile_pending (a : Nat) (x : Tile) : (s.setTile a x).pending = s.pending := rfl
@[simp] theorem State.setTile_regs (a : Nat) (x : Tile) : (s.setTile a x).regs = s.regs := rfl
@[simp] theorem State.setTile_mem (a : Nat) (x : Tile) : (s.setTile a x).mem = s.mem := rfl
@[simp] theorem State.setTile_psn (a : Nat) (x : Tile) : (s.setTile a x).psn = s.psn := rfl
@[simp] theorem State.setTile_caches (a : Nat) (x : Tile) : (s.setTile a x).caches = s.caches := rfl
@[simp] theorem State.setTile_tlb (a : Nat) (x : Tile) : (s.setTile a x).tlb = s.tlb := rfl
@[simp] theorem State.setTile_arb (a : Nat) (x : Tile) : (s.setTile a x).arb = s.arb := rfl
@[simp] theorem State.setTile_vc (a : Nat) (x : Tile) : (s.setTile a x).vc = s.vc := rfl
@[simp] theorem State.setTile_plat (a : Nat) (x : Tile) : (s.setTile a x).plat = s.plat := rfl
@[simp] theorem State.setTile_threads (a : Nat) (x : Tile) : (s.setTile a x).threads = s.threads := rfl
@[simp] theorem State.setTile_jobs (a : Nat) (x : Tile) : (s.setTile a x).jobs = s.jobs := rfl
@[simp] theorem State.setTile_net (a : Nat) (x : Tile) : (s.setTile a x).net = s.net := rfl
@[simp] theorem State.setTile_ebuf (a : Nat) (x : Tile) : (s.setTile a x).ebuf = s.ebuf := rfl
@[simp] theorem State.setTile_runs (a : Nat) (x : Tile) : (s.setTile a x).runs = s.runs := rfl
@[simp] theorem State.setTile_eng (a : Nat) (x : Tile) : (s.setTile a x).eng = s.eng := rfl
@[simp] theorem State.setTile_sc (a : Nat) (x : Tile) : (s.setTile a x).sc = s.sc := rfl
@[simp] theorem State.setTile_halo (a : Nat) (x : Tile) : (s.setTile a x).halo = s.halo := rfl
@[simp] theorem State.setTile_hg (a : Nat) (x : Tile) : (s.setTile a x).hg = s.hg := rfl
@[simp] theorem State.setTile_host (a : Nat) (x : Tile) : (s.setTile a x).host = s.host := rfl
@[simp] theorem State.setTile_au (a : Nat) (x : Tile) : (s.setTile a x).au = s.au := rfl
@[simp] theorem State.setTile_rn (a : Nat) (x : Tile) : (s.setTile a x).rn = s.rn := rfl
@[simp] theorem State.setTile_cam (a : Nat) (x : Tile) : (s.setTile a x).cam = s.cam := rfl
@[simp] theorem State.setTile_pw (a : Nat) (x : Tile) : (s.setTile a x).pw = s.pw := rfl
@[simp] theorem State.setTile_tu (a : Nat) (x : Tile) : (s.setTile a x).tu = s.tu := rfl
@[simp] theorem State.setTile_bl (a : Nat) (x : Tile) : (s.setTile a x).bl = s.bl := rfl
@[simp] theorem State.setTile_nt (a : Nat) (x : Tile) : (s.setTile a x).nt = s.nt := rfl
@[simp] theorem State.setTile_fl (a : Nat) (x : Tile) : (s.setTile a x).fl = s.fl := rfl
@[simp] theorem State.setTile_rs (a : Nat) (x : Tile) : (s.setTile a x).rs = s.rs := rfl
@[simp] theorem State.setTile_io (a : Nat) (x : Tile) : (s.setTile a x).io = s.io := rfl
@[simp] theorem State.setTile_doms (a : Nat) (x : Tile) : (s.setTile a x).doms = s.doms := rfl
@[simp] theorem State.setTile_wakeq (a : Nat) (x : Tile) : (s.setTile a x).wakeq = s.wakeq := rfl
@[simp] theorem State.setTile_stallq (a : Nat) (x : Tile) : (s.setTile a x).stallq = s.stallq := rfl
@[simp] theorem State.setTile_extq (a : Nat) (x : Tile) : (s.setTile a x).extq = s.extq := rfl
@[simp] theorem State.setTile_resumeq (a : Nat) (x : Tile) : (s.setTile a x).resumeq = s.resumeq := rfl
@[simp] theorem State.setTile_reqs (a : Nat) (x : Tile) : (s.setTile a x).reqs = s.reqs := rfl
@[simp] theorem State.setTile_tagNext (a : Nat) (x : Tile) : (s.setTile a x).tagNext = s.tagNext := rfl
@[simp] theorem State.setTile_fsrBuf (a : Nat) (x : Tile) : (s.setTile a x).fsrBuf = s.fsrBuf := rfl
@[simp] theorem State.setTile_now (a : Nat) (x : Tile) : (s.setTile a x).now = s.now := rfl
@[simp] theorem State.setTile_ticks (a : Nat) (x : Tile) : (s.setTile a x).ticks = s.ticks := rfl
@[simp] theorem State.setTile_retired (a : Nat) (x : Tile) : (s.setTile a x).retired = s.retired := rfl
@[simp] theorem State.setTile_free (a : Nat) (x : Tile) : (s.setTile a x).free = s.free := rfl

/-! ### setJob -/

@[simp] theorem State.setJob_pending (c : Nat) (j : Option Job) : (s.setJob c j).pending = s.pending := rfl
@[simp] theorem State.setJob_regs (c : Nat) (j : Option Job) : (s.setJob c j).regs = s.regs := rfl
@[simp] theorem State.setJob_mem (c : Nat) (j : Option Job) : (s.setJob c j).mem = s.mem := rfl
@[simp] theorem State.setJob_psn (c : Nat) (j : Option Job) : (s.setJob c j).psn = s.psn := rfl
@[simp] theorem State.setJob_caches (c : Nat) (j : Option Job) : (s.setJob c j).caches = s.caches := rfl
@[simp] theorem State.setJob_tlb (c : Nat) (j : Option Job) : (s.setJob c j).tlb = s.tlb := rfl
@[simp] theorem State.setJob_arb (c : Nat) (j : Option Job) : (s.setJob c j).arb = s.arb := rfl
@[simp] theorem State.setJob_vc (c : Nat) (j : Option Job) : (s.setJob c j).vc = s.vc := rfl
@[simp] theorem State.setJob_plat (c : Nat) (j : Option Job) : (s.setJob c j).plat = s.plat := rfl
@[simp] theorem State.setJob_threads (c : Nat) (j : Option Job) : (s.setJob c j).threads = s.threads := rfl
@[simp] theorem State.setJob_tiles (c : Nat) (j : Option Job) : (s.setJob c j).tiles = s.tiles := rfl
@[simp] theorem State.setJob_net (c : Nat) (j : Option Job) : (s.setJob c j).net = s.net := rfl
@[simp] theorem State.setJob_ebuf (c : Nat) (j : Option Job) : (s.setJob c j).ebuf = s.ebuf := rfl
@[simp] theorem State.setJob_runs (c : Nat) (j : Option Job) : (s.setJob c j).runs = s.runs := rfl
@[simp] theorem State.setJob_eng (c : Nat) (j : Option Job) : (s.setJob c j).eng = s.eng := rfl
@[simp] theorem State.setJob_sc (c : Nat) (j : Option Job) : (s.setJob c j).sc = s.sc := rfl
@[simp] theorem State.setJob_halo (c : Nat) (j : Option Job) : (s.setJob c j).halo = s.halo := rfl
@[simp] theorem State.setJob_hg (c : Nat) (j : Option Job) : (s.setJob c j).hg = s.hg := rfl
@[simp] theorem State.setJob_host (c : Nat) (j : Option Job) : (s.setJob c j).host = s.host := rfl
@[simp] theorem State.setJob_au (c : Nat) (j : Option Job) : (s.setJob c j).au = s.au := rfl
@[simp] theorem State.setJob_rn (c : Nat) (j : Option Job) : (s.setJob c j).rn = s.rn := rfl
@[simp] theorem State.setJob_cam (c : Nat) (j : Option Job) : (s.setJob c j).cam = s.cam := rfl
@[simp] theorem State.setJob_pw (c : Nat) (j : Option Job) : (s.setJob c j).pw = s.pw := rfl
@[simp] theorem State.setJob_tu (c : Nat) (j : Option Job) : (s.setJob c j).tu = s.tu := rfl
@[simp] theorem State.setJob_bl (c : Nat) (j : Option Job) : (s.setJob c j).bl = s.bl := rfl
@[simp] theorem State.setJob_nt (c : Nat) (j : Option Job) : (s.setJob c j).nt = s.nt := rfl
@[simp] theorem State.setJob_fl (c : Nat) (j : Option Job) : (s.setJob c j).fl = s.fl := rfl
@[simp] theorem State.setJob_rs (c : Nat) (j : Option Job) : (s.setJob c j).rs = s.rs := rfl
@[simp] theorem State.setJob_io (c : Nat) (j : Option Job) : (s.setJob c j).io = s.io := rfl
@[simp] theorem State.setJob_doms (c : Nat) (j : Option Job) : (s.setJob c j).doms = s.doms := rfl
@[simp] theorem State.setJob_wakeq (c : Nat) (j : Option Job) : (s.setJob c j).wakeq = s.wakeq := rfl
@[simp] theorem State.setJob_stallq (c : Nat) (j : Option Job) : (s.setJob c j).stallq = s.stallq := rfl
@[simp] theorem State.setJob_extq (c : Nat) (j : Option Job) : (s.setJob c j).extq = s.extq := rfl
@[simp] theorem State.setJob_resumeq (c : Nat) (j : Option Job) : (s.setJob c j).resumeq = s.resumeq := rfl
@[simp] theorem State.setJob_reqs (c : Nat) (j : Option Job) : (s.setJob c j).reqs = s.reqs := rfl
@[simp] theorem State.setJob_tagNext (c : Nat) (j : Option Job) : (s.setJob c j).tagNext = s.tagNext := rfl
@[simp] theorem State.setJob_fsrBuf (c : Nat) (j : Option Job) : (s.setJob c j).fsrBuf = s.fsrBuf := rfl
@[simp] theorem State.setJob_now (c : Nat) (j : Option Job) : (s.setJob c j).now = s.now := rfl
@[simp] theorem State.setJob_ticks (c : Nat) (j : Option Job) : (s.setJob c j).ticks = s.ticks := rfl
@[simp] theorem State.setJob_retired (c : Nat) (j : Option Job) : (s.setJob c j).retired = s.retired := rfl
@[simp] theorem State.setJob_free (c : Nat) (j : Option Job) : (s.setJob c j).free = s.free := rfl

/-! ### setDom -/

@[simp] theorem State.setDom_pending (d : Nat) (x : Dom) : (s.setDom d x).pending = s.pending := rfl
@[simp] theorem State.setDom_regs (d : Nat) (x : Dom) : (s.setDom d x).regs = s.regs := rfl
@[simp] theorem State.setDom_mem (d : Nat) (x : Dom) : (s.setDom d x).mem = s.mem := rfl
@[simp] theorem State.setDom_psn (d : Nat) (x : Dom) : (s.setDom d x).psn = s.psn := rfl
@[simp] theorem State.setDom_caches (d : Nat) (x : Dom) : (s.setDom d x).caches = s.caches := rfl
@[simp] theorem State.setDom_tlb (d : Nat) (x : Dom) : (s.setDom d x).tlb = s.tlb := rfl
@[simp] theorem State.setDom_arb (d : Nat) (x : Dom) : (s.setDom d x).arb = s.arb := rfl
@[simp] theorem State.setDom_vc (d : Nat) (x : Dom) : (s.setDom d x).vc = s.vc := rfl
@[simp] theorem State.setDom_plat (d : Nat) (x : Dom) : (s.setDom d x).plat = s.plat := rfl
@[simp] theorem State.setDom_threads (d : Nat) (x : Dom) : (s.setDom d x).threads = s.threads := rfl
@[simp] theorem State.setDom_tiles (d : Nat) (x : Dom) : (s.setDom d x).tiles = s.tiles := rfl
@[simp] theorem State.setDom_jobs (d : Nat) (x : Dom) : (s.setDom d x).jobs = s.jobs := rfl
@[simp] theorem State.setDom_net (d : Nat) (x : Dom) : (s.setDom d x).net = s.net := rfl
@[simp] theorem State.setDom_ebuf (d : Nat) (x : Dom) : (s.setDom d x).ebuf = s.ebuf := rfl
@[simp] theorem State.setDom_runs (d : Nat) (x : Dom) : (s.setDom d x).runs = s.runs := rfl
@[simp] theorem State.setDom_eng (d : Nat) (x : Dom) : (s.setDom d x).eng = s.eng := rfl
@[simp] theorem State.setDom_sc (d : Nat) (x : Dom) : (s.setDom d x).sc = s.sc := rfl
@[simp] theorem State.setDom_halo (d : Nat) (x : Dom) : (s.setDom d x).halo = s.halo := rfl
@[simp] theorem State.setDom_hg (d : Nat) (x : Dom) : (s.setDom d x).hg = s.hg := rfl
@[simp] theorem State.setDom_host (d : Nat) (x : Dom) : (s.setDom d x).host = s.host := rfl
@[simp] theorem State.setDom_au (d : Nat) (x : Dom) : (s.setDom d x).au = s.au := rfl
@[simp] theorem State.setDom_rn (d : Nat) (x : Dom) : (s.setDom d x).rn = s.rn := rfl
@[simp] theorem State.setDom_cam (d : Nat) (x : Dom) : (s.setDom d x).cam = s.cam := rfl
@[simp] theorem State.setDom_pw (d : Nat) (x : Dom) : (s.setDom d x).pw = s.pw := rfl
@[simp] theorem State.setDom_tu (d : Nat) (x : Dom) : (s.setDom d x).tu = s.tu := rfl
@[simp] theorem State.setDom_bl (d : Nat) (x : Dom) : (s.setDom d x).bl = s.bl := rfl
@[simp] theorem State.setDom_nt (d : Nat) (x : Dom) : (s.setDom d x).nt = s.nt := rfl
@[simp] theorem State.setDom_fl (d : Nat) (x : Dom) : (s.setDom d x).fl = s.fl := rfl
@[simp] theorem State.setDom_rs (d : Nat) (x : Dom) : (s.setDom d x).rs = s.rs := rfl
@[simp] theorem State.setDom_io (d : Nat) (x : Dom) : (s.setDom d x).io = s.io := rfl
@[simp] theorem State.setDom_wakeq (d : Nat) (x : Dom) : (s.setDom d x).wakeq = s.wakeq := rfl
@[simp] theorem State.setDom_stallq (d : Nat) (x : Dom) : (s.setDom d x).stallq = s.stallq := rfl
@[simp] theorem State.setDom_extq (d : Nat) (x : Dom) : (s.setDom d x).extq = s.extq := rfl
@[simp] theorem State.setDom_resumeq (d : Nat) (x : Dom) : (s.setDom d x).resumeq = s.resumeq := rfl
@[simp] theorem State.setDom_reqs (d : Nat) (x : Dom) : (s.setDom d x).reqs = s.reqs := rfl
@[simp] theorem State.setDom_tagNext (d : Nat) (x : Dom) : (s.setDom d x).tagNext = s.tagNext := rfl
@[simp] theorem State.setDom_fsrBuf (d : Nat) (x : Dom) : (s.setDom d x).fsrBuf = s.fsrBuf := rfl
@[simp] theorem State.setDom_now (d : Nat) (x : Dom) : (s.setDom d x).now = s.now := rfl
@[simp] theorem State.setDom_ticks (d : Nat) (x : Dom) : (s.setDom d x).ticks = s.ticks := rfl
@[simp] theorem State.setDom_retired (d : Nat) (x : Dom) : (s.setDom d x).retired = s.retired := rfl
@[simp] theorem State.setDom_free (d : Nat) (x : Dom) : (s.setDom d x).free = s.free := rfl

/-! ### wr -/

@[simp] theorem State.wr_pending (a : Nat) (v : Word) : (s.wr a v).pending = s.pending := rfl
@[simp] theorem State.wr_mem (a : Nat) (v : Word) : (s.wr a v).mem = s.mem := rfl
@[simp] theorem State.wr_psn (a : Nat) (v : Word) : (s.wr a v).psn = s.psn := rfl
@[simp] theorem State.wr_caches (a : Nat) (v : Word) : (s.wr a v).caches = s.caches := rfl
@[simp] theorem State.wr_tlb (a : Nat) (v : Word) : (s.wr a v).tlb = s.tlb := rfl
@[simp] theorem State.wr_arb (a : Nat) (v : Word) : (s.wr a v).arb = s.arb := rfl
@[simp] theorem State.wr_vc (a : Nat) (v : Word) : (s.wr a v).vc = s.vc := rfl
@[simp] theorem State.wr_plat (a : Nat) (v : Word) : (s.wr a v).plat = s.plat := rfl
@[simp] theorem State.wr_threads (a : Nat) (v : Word) : (s.wr a v).threads = s.threads := rfl
@[simp] theorem State.wr_tiles (a : Nat) (v : Word) : (s.wr a v).tiles = s.tiles := rfl
@[simp] theorem State.wr_jobs (a : Nat) (v : Word) : (s.wr a v).jobs = s.jobs := rfl
@[simp] theorem State.wr_net (a : Nat) (v : Word) : (s.wr a v).net = s.net := rfl
@[simp] theorem State.wr_ebuf (a : Nat) (v : Word) : (s.wr a v).ebuf = s.ebuf := rfl
@[simp] theorem State.wr_runs (a : Nat) (v : Word) : (s.wr a v).runs = s.runs := rfl
@[simp] theorem State.wr_eng (a : Nat) (v : Word) : (s.wr a v).eng = s.eng := rfl
@[simp] theorem State.wr_sc (a : Nat) (v : Word) : (s.wr a v).sc = s.sc := rfl
@[simp] theorem State.wr_halo (a : Nat) (v : Word) : (s.wr a v).halo = s.halo := rfl
@[simp] theorem State.wr_hg (a : Nat) (v : Word) : (s.wr a v).hg = s.hg := rfl
@[simp] theorem State.wr_host (a : Nat) (v : Word) : (s.wr a v).host = s.host := rfl
@[simp] theorem State.wr_au (a : Nat) (v : Word) : (s.wr a v).au = s.au := rfl
@[simp] theorem State.wr_rn (a : Nat) (v : Word) : (s.wr a v).rn = s.rn := rfl
@[simp] theorem State.wr_cam (a : Nat) (v : Word) : (s.wr a v).cam = s.cam := rfl
@[simp] theorem State.wr_pw (a : Nat) (v : Word) : (s.wr a v).pw = s.pw := rfl
@[simp] theorem State.wr_tu (a : Nat) (v : Word) : (s.wr a v).tu = s.tu := rfl
@[simp] theorem State.wr_bl (a : Nat) (v : Word) : (s.wr a v).bl = s.bl := rfl
@[simp] theorem State.wr_nt (a : Nat) (v : Word) : (s.wr a v).nt = s.nt := rfl
@[simp] theorem State.wr_fl (a : Nat) (v : Word) : (s.wr a v).fl = s.fl := rfl
@[simp] theorem State.wr_rs (a : Nat) (v : Word) : (s.wr a v).rs = s.rs := rfl
@[simp] theorem State.wr_io (a : Nat) (v : Word) : (s.wr a v).io = s.io := rfl
@[simp] theorem State.wr_doms (a : Nat) (v : Word) : (s.wr a v).doms = s.doms := rfl
@[simp] theorem State.wr_wakeq (a : Nat) (v : Word) : (s.wr a v).wakeq = s.wakeq := rfl
@[simp] theorem State.wr_stallq (a : Nat) (v : Word) : (s.wr a v).stallq = s.stallq := rfl
@[simp] theorem State.wr_extq (a : Nat) (v : Word) : (s.wr a v).extq = s.extq := rfl
@[simp] theorem State.wr_resumeq (a : Nat) (v : Word) : (s.wr a v).resumeq = s.resumeq := rfl
@[simp] theorem State.wr_reqs (a : Nat) (v : Word) : (s.wr a v).reqs = s.reqs := rfl
@[simp] theorem State.wr_tagNext (a : Nat) (v : Word) : (s.wr a v).tagNext = s.tagNext := rfl
@[simp] theorem State.wr_fsrBuf (a : Nat) (v : Word) : (s.wr a v).fsrBuf = s.fsrBuf := rfl
@[simp] theorem State.wr_now (a : Nat) (v : Word) : (s.wr a v).now = s.now := rfl
@[simp] theorem State.wr_ticks (a : Nat) (v : Word) : (s.wr a v).ticks = s.ticks := rfl
@[simp] theorem State.wr_retired (a : Nat) (v : Word) : (s.wr a v).retired = s.retired := rfl
@[simp] theorem State.wr_free (a : Nat) (v : Word) : (s.wr a v).free = s.free := rfl

/-! ### fset -/

@[simp] theorem State.fset_pending (a : Nat) (f : Nat × Nat) (x : Nat) : (s.fset a f x).pending = s.pending := rfl
@[simp] theorem State.fset_mem (a : Nat) (f : Nat × Nat) (x : Nat) : (s.fset a f x).mem = s.mem := rfl
@[simp] theorem State.fset_psn (a : Nat) (f : Nat × Nat) (x : Nat) : (s.fset a f x).psn = s.psn := rfl
@[simp] theorem State.fset_caches (a : Nat) (f : Nat × Nat) (x : Nat) : (s.fset a f x).caches = s.caches := rfl
@[simp] theorem State.fset_tlb (a : Nat) (f : Nat × Nat) (x : Nat) : (s.fset a f x).tlb = s.tlb := rfl
@[simp] theorem State.fset_arb (a : Nat) (f : Nat × Nat) (x : Nat) : (s.fset a f x).arb = s.arb := rfl
@[simp] theorem State.fset_vc (a : Nat) (f : Nat × Nat) (x : Nat) : (s.fset a f x).vc = s.vc := rfl
@[simp] theorem State.fset_plat (a : Nat) (f : Nat × Nat) (x : Nat) : (s.fset a f x).plat = s.plat := rfl
@[simp] theorem State.fset_threads (a : Nat) (f : Nat × Nat) (x : Nat) : (s.fset a f x).threads = s.threads := rfl
@[simp] theorem State.fset_tiles (a : Nat) (f : Nat × Nat) (x : Nat) : (s.fset a f x).tiles = s.tiles := rfl
@[simp] theorem State.fset_jobs (a : Nat) (f : Nat × Nat) (x : Nat) : (s.fset a f x).jobs = s.jobs := rfl
@[simp] theorem State.fset_net (a : Nat) (f : Nat × Nat) (x : Nat) : (s.fset a f x).net = s.net := rfl
@[simp] theorem State.fset_ebuf (a : Nat) (f : Nat × Nat) (x : Nat) : (s.fset a f x).ebuf = s.ebuf := rfl
@[simp] theorem State.fset_runs (a : Nat) (f : Nat × Nat) (x : Nat) : (s.fset a f x).runs = s.runs := rfl
@[simp] theorem State.fset_eng (a : Nat) (f : Nat × Nat) (x : Nat) : (s.fset a f x).eng = s.eng := rfl
@[simp] theorem State.fset_sc (a : Nat) (f : Nat × Nat) (x : Nat) : (s.fset a f x).sc = s.sc := rfl
@[simp] theorem State.fset_halo (a : Nat) (f : Nat × Nat) (x : Nat) : (s.fset a f x).halo = s.halo := rfl
@[simp] theorem State.fset_hg (a : Nat) (f : Nat × Nat) (x : Nat) : (s.fset a f x).hg = s.hg := rfl
@[simp] theorem State.fset_host (a : Nat) (f : Nat × Nat) (x : Nat) : (s.fset a f x).host = s.host := rfl
@[simp] theorem State.fset_au (a : Nat) (f : Nat × Nat) (x : Nat) : (s.fset a f x).au = s.au := rfl
@[simp] theorem State.fset_rn (a : Nat) (f : Nat × Nat) (x : Nat) : (s.fset a f x).rn = s.rn := rfl
@[simp] theorem State.fset_cam (a : Nat) (f : Nat × Nat) (x : Nat) : (s.fset a f x).cam = s.cam := rfl
@[simp] theorem State.fset_pw (a : Nat) (f : Nat × Nat) (x : Nat) : (s.fset a f x).pw = s.pw := rfl
@[simp] theorem State.fset_tu (a : Nat) (f : Nat × Nat) (x : Nat) : (s.fset a f x).tu = s.tu := rfl
@[simp] theorem State.fset_bl (a : Nat) (f : Nat × Nat) (x : Nat) : (s.fset a f x).bl = s.bl := rfl
@[simp] theorem State.fset_nt (a : Nat) (f : Nat × Nat) (x : Nat) : (s.fset a f x).nt = s.nt := rfl
@[simp] theorem State.fset_fl (a : Nat) (f : Nat × Nat) (x : Nat) : (s.fset a f x).fl = s.fl := rfl
@[simp] theorem State.fset_rs (a : Nat) (f : Nat × Nat) (x : Nat) : (s.fset a f x).rs = s.rs := rfl
@[simp] theorem State.fset_io (a : Nat) (f : Nat × Nat) (x : Nat) : (s.fset a f x).io = s.io := rfl
@[simp] theorem State.fset_doms (a : Nat) (f : Nat × Nat) (x : Nat) : (s.fset a f x).doms = s.doms := rfl
@[simp] theorem State.fset_wakeq (a : Nat) (f : Nat × Nat) (x : Nat) : (s.fset a f x).wakeq = s.wakeq := rfl
@[simp] theorem State.fset_stallq (a : Nat) (f : Nat × Nat) (x : Nat) : (s.fset a f x).stallq = s.stallq := rfl
@[simp] theorem State.fset_extq (a : Nat) (f : Nat × Nat) (x : Nat) : (s.fset a f x).extq = s.extq := rfl
@[simp] theorem State.fset_resumeq (a : Nat) (f : Nat × Nat) (x : Nat) : (s.fset a f x).resumeq = s.resumeq := rfl
@[simp] theorem State.fset_reqs (a : Nat) (f : Nat × Nat) (x : Nat) : (s.fset a f x).reqs = s.reqs := rfl
@[simp] theorem State.fset_tagNext (a : Nat) (f : Nat × Nat) (x : Nat) : (s.fset a f x).tagNext = s.tagNext := rfl
@[simp] theorem State.fset_fsrBuf (a : Nat) (f : Nat × Nat) (x : Nat) : (s.fset a f x).fsrBuf = s.fsrBuf := rfl
@[simp] theorem State.fset_now (a : Nat) (f : Nat × Nat) (x : Nat) : (s.fset a f x).now = s.now := rfl
@[simp] theorem State.fset_ticks (a : Nat) (f : Nat × Nat) (x : Nat) : (s.fset a f x).ticks = s.ticks := rfl
@[simp] theorem State.fset_retired (a : Nat) (f : Nat × Nat) (x : Nat) : (s.fset a f x).retired = s.retired := rfl
@[simp] theorem State.fset_free (a : Nat) (f : Nat × Nat) (x : Nat) : (s.fset a f x).free = s.free := rfl

/-! ### fadd -/

@[simp] theorem State.fadd_pending (a : Nat) (f : Nat × Nat) (n : Nat) : (s.fadd a f n).pending = s.pending := rfl
@[simp] theorem State.fadd_mem (a : Nat) (f : Nat × Nat) (n : Nat) : (s.fadd a f n).mem = s.mem := rfl
@[simp] theorem State.fadd_psn (a : Nat) (f : Nat × Nat) (n : Nat) : (s.fadd a f n).psn = s.psn := rfl
@[simp] theorem State.fadd_caches (a : Nat) (f : Nat × Nat) (n : Nat) : (s.fadd a f n).caches = s.caches := rfl
@[simp] theorem State.fadd_tlb (a : Nat) (f : Nat × Nat) (n : Nat) : (s.fadd a f n).tlb = s.tlb := rfl
@[simp] theorem State.fadd_arb (a : Nat) (f : Nat × Nat) (n : Nat) : (s.fadd a f n).arb = s.arb := rfl
@[simp] theorem State.fadd_vc (a : Nat) (f : Nat × Nat) (n : Nat) : (s.fadd a f n).vc = s.vc := rfl
@[simp] theorem State.fadd_plat (a : Nat) (f : Nat × Nat) (n : Nat) : (s.fadd a f n).plat = s.plat := rfl
@[simp] theorem State.fadd_threads (a : Nat) (f : Nat × Nat) (n : Nat) : (s.fadd a f n).threads = s.threads := rfl
@[simp] theorem State.fadd_tiles (a : Nat) (f : Nat × Nat) (n : Nat) : (s.fadd a f n).tiles = s.tiles := rfl
@[simp] theorem State.fadd_jobs (a : Nat) (f : Nat × Nat) (n : Nat) : (s.fadd a f n).jobs = s.jobs := rfl
@[simp] theorem State.fadd_net (a : Nat) (f : Nat × Nat) (n : Nat) : (s.fadd a f n).net = s.net := rfl
@[simp] theorem State.fadd_ebuf (a : Nat) (f : Nat × Nat) (n : Nat) : (s.fadd a f n).ebuf = s.ebuf := rfl
@[simp] theorem State.fadd_runs (a : Nat) (f : Nat × Nat) (n : Nat) : (s.fadd a f n).runs = s.runs := rfl
@[simp] theorem State.fadd_eng (a : Nat) (f : Nat × Nat) (n : Nat) : (s.fadd a f n).eng = s.eng := rfl
@[simp] theorem State.fadd_sc (a : Nat) (f : Nat × Nat) (n : Nat) : (s.fadd a f n).sc = s.sc := rfl
@[simp] theorem State.fadd_halo (a : Nat) (f : Nat × Nat) (n : Nat) : (s.fadd a f n).halo = s.halo := rfl
@[simp] theorem State.fadd_hg (a : Nat) (f : Nat × Nat) (n : Nat) : (s.fadd a f n).hg = s.hg := rfl
@[simp] theorem State.fadd_host (a : Nat) (f : Nat × Nat) (n : Nat) : (s.fadd a f n).host = s.host := rfl
@[simp] theorem State.fadd_au (a : Nat) (f : Nat × Nat) (n : Nat) : (s.fadd a f n).au = s.au := rfl
@[simp] theorem State.fadd_rn (a : Nat) (f : Nat × Nat) (n : Nat) : (s.fadd a f n).rn = s.rn := rfl
@[simp] theorem State.fadd_cam (a : Nat) (f : Nat × Nat) (n : Nat) : (s.fadd a f n).cam = s.cam := rfl
@[simp] theorem State.fadd_pw (a : Nat) (f : Nat × Nat) (n : Nat) : (s.fadd a f n).pw = s.pw := rfl
@[simp] theorem State.fadd_tu (a : Nat) (f : Nat × Nat) (n : Nat) : (s.fadd a f n).tu = s.tu := rfl
@[simp] theorem State.fadd_bl (a : Nat) (f : Nat × Nat) (n : Nat) : (s.fadd a f n).bl = s.bl := rfl
@[simp] theorem State.fadd_nt (a : Nat) (f : Nat × Nat) (n : Nat) : (s.fadd a f n).nt = s.nt := rfl
@[simp] theorem State.fadd_fl (a : Nat) (f : Nat × Nat) (n : Nat) : (s.fadd a f n).fl = s.fl := rfl
@[simp] theorem State.fadd_rs (a : Nat) (f : Nat × Nat) (n : Nat) : (s.fadd a f n).rs = s.rs := rfl
@[simp] theorem State.fadd_io (a : Nat) (f : Nat × Nat) (n : Nat) : (s.fadd a f n).io = s.io := rfl
@[simp] theorem State.fadd_doms (a : Nat) (f : Nat × Nat) (n : Nat) : (s.fadd a f n).doms = s.doms := rfl
@[simp] theorem State.fadd_wakeq (a : Nat) (f : Nat × Nat) (n : Nat) : (s.fadd a f n).wakeq = s.wakeq := rfl
@[simp] theorem State.fadd_stallq (a : Nat) (f : Nat × Nat) (n : Nat) : (s.fadd a f n).stallq = s.stallq := rfl
@[simp] theorem State.fadd_extq (a : Nat) (f : Nat × Nat) (n : Nat) : (s.fadd a f n).extq = s.extq := rfl
@[simp] theorem State.fadd_resumeq (a : Nat) (f : Nat × Nat) (n : Nat) : (s.fadd a f n).resumeq = s.resumeq := rfl
@[simp] theorem State.fadd_reqs (a : Nat) (f : Nat × Nat) (n : Nat) : (s.fadd a f n).reqs = s.reqs := rfl
@[simp] theorem State.fadd_tagNext (a : Nat) (f : Nat × Nat) (n : Nat) : (s.fadd a f n).tagNext = s.tagNext := rfl
@[simp] theorem State.fadd_fsrBuf (a : Nat) (f : Nat × Nat) (n : Nat) : (s.fadd a f n).fsrBuf = s.fsrBuf := rfl
@[simp] theorem State.fadd_now (a : Nat) (f : Nat × Nat) (n : Nat) : (s.fadd a f n).now = s.now := rfl
@[simp] theorem State.fadd_ticks (a : Nat) (f : Nat × Nat) (n : Nat) : (s.fadd a f n).ticks = s.ticks := rfl
@[simp] theorem State.fadd_retired (a : Nat) (f : Nat × Nat) (n : Nat) : (s.fadd a f n).retired = s.retired := rfl
@[simp] theorem State.fadd_free (a : Nat) (f : Nat × Nat) (n : Nat) : (s.fadd a f n).free = s.free := rfl

/-! ### bump -/

@[simp] theorem State.bump_pending (a : Nat) : (s.bump a).pending = s.pending := rfl
@[simp] theorem State.bump_mem (a : Nat) : (s.bump a).mem = s.mem := rfl
@[simp] theorem State.bump_psn (a : Nat) : (s.bump a).psn = s.psn := rfl
@[simp] theorem State.bump_caches (a : Nat) : (s.bump a).caches = s.caches := rfl
@[simp] theorem State.bump_tlb (a : Nat) : (s.bump a).tlb = s.tlb := rfl
@[simp] theorem State.bump_arb (a : Nat) : (s.bump a).arb = s.arb := rfl
@[simp] theorem State.bump_vc (a : Nat) : (s.bump a).vc = s.vc := rfl
@[simp] theorem State.bump_plat (a : Nat) : (s.bump a).plat = s.plat := rfl
@[simp] theorem State.bump_threads (a : Nat) : (s.bump a).threads = s.threads := rfl
@[simp] theorem State.bump_tiles (a : Nat) : (s.bump a).tiles = s.tiles := rfl
@[simp] theorem State.bump_jobs (a : Nat) : (s.bump a).jobs = s.jobs := rfl
@[simp] theorem State.bump_net (a : Nat) : (s.bump a).net = s.net := rfl
@[simp] theorem State.bump_ebuf (a : Nat) : (s.bump a).ebuf = s.ebuf := rfl
@[simp] theorem State.bump_runs (a : Nat) : (s.bump a).runs = s.runs := rfl
@[simp] theorem State.bump_eng (a : Nat) : (s.bump a).eng = s.eng := rfl
@[simp] theorem State.bump_sc (a : Nat) : (s.bump a).sc = s.sc := rfl
@[simp] theorem State.bump_halo (a : Nat) : (s.bump a).halo = s.halo := rfl
@[simp] theorem State.bump_hg (a : Nat) : (s.bump a).hg = s.hg := rfl
@[simp] theorem State.bump_host (a : Nat) : (s.bump a).host = s.host := rfl
@[simp] theorem State.bump_au (a : Nat) : (s.bump a).au = s.au := rfl
@[simp] theorem State.bump_rn (a : Nat) : (s.bump a).rn = s.rn := rfl
@[simp] theorem State.bump_cam (a : Nat) : (s.bump a).cam = s.cam := rfl
@[simp] theorem State.bump_pw (a : Nat) : (s.bump a).pw = s.pw := rfl
@[simp] theorem State.bump_tu (a : Nat) : (s.bump a).tu = s.tu := rfl
@[simp] theorem State.bump_bl (a : Nat) : (s.bump a).bl = s.bl := rfl
@[simp] theorem State.bump_nt (a : Nat) : (s.bump a).nt = s.nt := rfl
@[simp] theorem State.bump_fl (a : Nat) : (s.bump a).fl = s.fl := rfl
@[simp] theorem State.bump_rs (a : Nat) : (s.bump a).rs = s.rs := rfl
@[simp] theorem State.bump_io (a : Nat) : (s.bump a).io = s.io := rfl
@[simp] theorem State.bump_doms (a : Nat) : (s.bump a).doms = s.doms := rfl
@[simp] theorem State.bump_wakeq (a : Nat) : (s.bump a).wakeq = s.wakeq := rfl
@[simp] theorem State.bump_stallq (a : Nat) : (s.bump a).stallq = s.stallq := rfl
@[simp] theorem State.bump_extq (a : Nat) : (s.bump a).extq = s.extq := rfl
@[simp] theorem State.bump_resumeq (a : Nat) : (s.bump a).resumeq = s.resumeq := rfl
@[simp] theorem State.bump_reqs (a : Nat) : (s.bump a).reqs = s.reqs := rfl
@[simp] theorem State.bump_tagNext (a : Nat) : (s.bump a).tagNext = s.tagNext := rfl
@[simp] theorem State.bump_fsrBuf (a : Nat) : (s.bump a).fsrBuf = s.fsrBuf := rfl
@[simp] theorem State.bump_now (a : Nat) : (s.bump a).now = s.now := rfl
@[simp] theorem State.bump_ticks (a : Nat) : (s.bump a).ticks = s.ticks := rfl
@[simp] theorem State.bump_retired (a : Nat) : (s.bump a).retired = s.retired := rfl
@[simp] theorem State.bump_free (a : Nat) : (s.bump a).free = s.free := rfl

/-! ### setCtx -/

@[simp] theorem State.setCtx_pending (c : Nat) (x : Ctx) : (s.setCtx c x).pending = s.pending := rfl
@[simp] theorem State.setCtx_regs (c : Nat) (x : Ctx) : (s.setCtx c x).regs = s.regs := rfl
@[simp] theorem State.setCtx_mem (c : Nat) (x : Ctx) : (s.setCtx c x).mem = s.mem := rfl
@[simp] theorem State.setCtx_psn (c : Nat) (x : Ctx) : (s.setCtx c x).psn = s.psn := rfl
@[simp] theorem State.setCtx_caches (c : Nat) (x : Ctx) : (s.setCtx c x).caches = s.caches := rfl
@[simp] theorem State.setCtx_tlb (c : Nat) (x : Ctx) : (s.setCtx c x).tlb = s.tlb := rfl
@[simp] theorem State.setCtx_arb (c : Nat) (x : Ctx) : (s.setCtx c x).arb = s.arb := rfl
@[simp] theorem State.setCtx_vc (c : Nat) (x : Ctx) : (s.setCtx c x).vc = s.vc := rfl
@[simp] theorem State.setCtx_plat (c : Nat) (x : Ctx) : (s.setCtx c x).plat = s.plat := rfl
@[simp] theorem State.setCtx_threads (c : Nat) (x : Ctx) : (s.setCtx c x).threads = s.threads := rfl
@[simp] theorem State.setCtx_tiles (c : Nat) (x : Ctx) : (s.setCtx c x).tiles = s.tiles := rfl
@[simp] theorem State.setCtx_jobs (c : Nat) (x : Ctx) : (s.setCtx c x).jobs = s.jobs := rfl
@[simp] theorem State.setCtx_net (c : Nat) (x : Ctx) : (s.setCtx c x).net = s.net := rfl
@[simp] theorem State.setCtx_ebuf (c : Nat) (x : Ctx) : (s.setCtx c x).ebuf = s.ebuf := rfl
@[simp] theorem State.setCtx_runs (c : Nat) (x : Ctx) : (s.setCtx c x).runs = s.runs := rfl
@[simp] theorem State.setCtx_eng (c : Nat) (x : Ctx) : (s.setCtx c x).eng = s.eng := rfl
@[simp] theorem State.setCtx_sc (c : Nat) (x : Ctx) : (s.setCtx c x).sc = s.sc := rfl
@[simp] theorem State.setCtx_halo (c : Nat) (x : Ctx) : (s.setCtx c x).halo = s.halo := rfl
@[simp] theorem State.setCtx_host (c : Nat) (x : Ctx) : (s.setCtx c x).host = s.host := rfl
@[simp] theorem State.setCtx_au (c : Nat) (x : Ctx) : (s.setCtx c x).au = s.au := rfl
@[simp] theorem State.setCtx_rn (c : Nat) (x : Ctx) : (s.setCtx c x).rn = s.rn := rfl
@[simp] theorem State.setCtx_cam (c : Nat) (x : Ctx) : (s.setCtx c x).cam = s.cam := rfl
@[simp] theorem State.setCtx_pw (c : Nat) (x : Ctx) : (s.setCtx c x).pw = s.pw := rfl
@[simp] theorem State.setCtx_tu (c : Nat) (x : Ctx) : (s.setCtx c x).tu = s.tu := rfl
@[simp] theorem State.setCtx_bl (c : Nat) (x : Ctx) : (s.setCtx c x).bl = s.bl := rfl
@[simp] theorem State.setCtx_nt (c : Nat) (x : Ctx) : (s.setCtx c x).nt = s.nt := rfl
@[simp] theorem State.setCtx_fl (c : Nat) (x : Ctx) : (s.setCtx c x).fl = s.fl := rfl
@[simp] theorem State.setCtx_rs (c : Nat) (x : Ctx) : (s.setCtx c x).rs = s.rs := rfl
@[simp] theorem State.setCtx_io (c : Nat) (x : Ctx) : (s.setCtx c x).io = s.io := rfl
@[simp] theorem State.setCtx_doms (c : Nat) (x : Ctx) : (s.setCtx c x).doms = s.doms := rfl
@[simp] theorem State.setCtx_wakeq (c : Nat) (x : Ctx) : (s.setCtx c x).wakeq = s.wakeq := rfl
@[simp] theorem State.setCtx_stallq (c : Nat) (x : Ctx) : (s.setCtx c x).stallq = s.stallq := rfl
@[simp] theorem State.setCtx_extq (c : Nat) (x : Ctx) : (s.setCtx c x).extq = s.extq := rfl
@[simp] theorem State.setCtx_resumeq (c : Nat) (x : Ctx) : (s.setCtx c x).resumeq = s.resumeq := rfl
@[simp] theorem State.setCtx_reqs (c : Nat) (x : Ctx) : (s.setCtx c x).reqs = s.reqs := rfl
@[simp] theorem State.setCtx_tagNext (c : Nat) (x : Ctx) : (s.setCtx c x).tagNext = s.tagNext := rfl
@[simp] theorem State.setCtx_fsrBuf (c : Nat) (x : Ctx) : (s.setCtx c x).fsrBuf = s.fsrBuf := rfl
@[simp] theorem State.setCtx_now (c : Nat) (x : Ctx) : (s.setCtx c x).now = s.now := rfl
@[simp] theorem State.setCtx_ticks (c : Nat) (x : Ctx) : (s.setCtx c x).ticks = s.ticks := rfl
@[simp] theorem State.setCtx_retired (c : Nat) (x : Ctx) : (s.setCtx c x).retired = s.retired := rfl
@[simp] theorem State.setCtx_free (c : Nat) (x : Ctx) : (s.setCtx c x).free = s.free := rfl

/-! ### setSch -/

@[simp] theorem State.setSch_pending (p : Nat) (x : PartS) : (s.setSch p x).pending = s.pending := rfl
@[simp] theorem State.setSch_regs (p : Nat) (x : PartS) : (s.setSch p x).regs = s.regs := rfl
@[simp] theorem State.setSch_mem (p : Nat) (x : PartS) : (s.setSch p x).mem = s.mem := rfl
@[simp] theorem State.setSch_psn (p : Nat) (x : PartS) : (s.setSch p x).psn = s.psn := rfl
@[simp] theorem State.setSch_caches (p : Nat) (x : PartS) : (s.setSch p x).caches = s.caches := rfl
@[simp] theorem State.setSch_tlb (p : Nat) (x : PartS) : (s.setSch p x).tlb = s.tlb := rfl
@[simp] theorem State.setSch_arb (p : Nat) (x : PartS) : (s.setSch p x).arb = s.arb := rfl
@[simp] theorem State.setSch_vc (p : Nat) (x : PartS) : (s.setSch p x).vc = s.vc := rfl
@[simp] theorem State.setSch_plat (p : Nat) (x : PartS) : (s.setSch p x).plat = s.plat := rfl
@[simp] theorem State.setSch_threads (p : Nat) (x : PartS) : (s.setSch p x).threads = s.threads := rfl
@[simp] theorem State.setSch_tiles (p : Nat) (x : PartS) : (s.setSch p x).tiles = s.tiles := rfl
@[simp] theorem State.setSch_jobs (p : Nat) (x : PartS) : (s.setSch p x).jobs = s.jobs := rfl
@[simp] theorem State.setSch_net (p : Nat) (x : PartS) : (s.setSch p x).net = s.net := rfl
@[simp] theorem State.setSch_ebuf (p : Nat) (x : PartS) : (s.setSch p x).ebuf = s.ebuf := rfl
@[simp] theorem State.setSch_runs (p : Nat) (x : PartS) : (s.setSch p x).runs = s.runs := rfl
@[simp] theorem State.setSch_eng (p : Nat) (x : PartS) : (s.setSch p x).eng = s.eng := rfl
@[simp] theorem State.setSch_sc (p : Nat) (x : PartS) : (s.setSch p x).sc = s.sc := rfl
@[simp] theorem State.setSch_halo (p : Nat) (x : PartS) : (s.setSch p x).halo = s.halo := rfl
@[simp] theorem State.setSch_host (p : Nat) (x : PartS) : (s.setSch p x).host = s.host := rfl
@[simp] theorem State.setSch_au (p : Nat) (x : PartS) : (s.setSch p x).au = s.au := rfl
@[simp] theorem State.setSch_rn (p : Nat) (x : PartS) : (s.setSch p x).rn = s.rn := rfl
@[simp] theorem State.setSch_cam (p : Nat) (x : PartS) : (s.setSch p x).cam = s.cam := rfl
@[simp] theorem State.setSch_pw (p : Nat) (x : PartS) : (s.setSch p x).pw = s.pw := rfl
@[simp] theorem State.setSch_tu (p : Nat) (x : PartS) : (s.setSch p x).tu = s.tu := rfl
@[simp] theorem State.setSch_bl (p : Nat) (x : PartS) : (s.setSch p x).bl = s.bl := rfl
@[simp] theorem State.setSch_nt (p : Nat) (x : PartS) : (s.setSch p x).nt = s.nt := rfl
@[simp] theorem State.setSch_fl (p : Nat) (x : PartS) : (s.setSch p x).fl = s.fl := rfl
@[simp] theorem State.setSch_rs (p : Nat) (x : PartS) : (s.setSch p x).rs = s.rs := rfl
@[simp] theorem State.setSch_io (p : Nat) (x : PartS) : (s.setSch p x).io = s.io := rfl
@[simp] theorem State.setSch_doms (p : Nat) (x : PartS) : (s.setSch p x).doms = s.doms := rfl
@[simp] theorem State.setSch_wakeq (p : Nat) (x : PartS) : (s.setSch p x).wakeq = s.wakeq := rfl
@[simp] theorem State.setSch_stallq (p : Nat) (x : PartS) : (s.setSch p x).stallq = s.stallq := rfl
@[simp] theorem State.setSch_extq (p : Nat) (x : PartS) : (s.setSch p x).extq = s.extq := rfl
@[simp] theorem State.setSch_resumeq (p : Nat) (x : PartS) : (s.setSch p x).resumeq = s.resumeq := rfl
@[simp] theorem State.setSch_reqs (p : Nat) (x : PartS) : (s.setSch p x).reqs = s.reqs := rfl
@[simp] theorem State.setSch_tagNext (p : Nat) (x : PartS) : (s.setSch p x).tagNext = s.tagNext := rfl
@[simp] theorem State.setSch_fsrBuf (p : Nat) (x : PartS) : (s.setSch p x).fsrBuf = s.fsrBuf := rfl
@[simp] theorem State.setSch_now (p : Nat) (x : PartS) : (s.setSch p x).now = s.now := rfl
@[simp] theorem State.setSch_ticks (p : Nat) (x : PartS) : (s.setSch p x).ticks = s.ticks := rfl
@[simp] theorem State.setSch_retired (p : Nat) (x : PartS) : (s.setSch p x).retired = s.retired := rfl
@[simp] theorem State.setSch_free (p : Nat) (x : PartS) : (s.setSch p x).free = s.free := rfl

/-! ### putByte -/

@[simp] theorem State.putByte_pending (a b : Nat) : (s.putByte a b).pending = s.pending := rfl
@[simp] theorem State.putByte_regs (a b : Nat) : (s.putByte a b).regs = s.regs := rfl
@[simp] theorem State.putByte_psn (a b : Nat) : (s.putByte a b).psn = s.psn := rfl
@[simp] theorem State.putByte_caches (a b : Nat) : (s.putByte a b).caches = s.caches := rfl
@[simp] theorem State.putByte_tlb (a b : Nat) : (s.putByte a b).tlb = s.tlb := rfl
@[simp] theorem State.putByte_arb (a b : Nat) : (s.putByte a b).arb = s.arb := rfl
@[simp] theorem State.putByte_vc (a b : Nat) : (s.putByte a b).vc = s.vc := rfl
@[simp] theorem State.putByte_plat (a b : Nat) : (s.putByte a b).plat = s.plat := rfl
@[simp] theorem State.putByte_threads (a b : Nat) : (s.putByte a b).threads = s.threads := rfl
@[simp] theorem State.putByte_tiles (a b : Nat) : (s.putByte a b).tiles = s.tiles := rfl
@[simp] theorem State.putByte_jobs (a b : Nat) : (s.putByte a b).jobs = s.jobs := rfl
@[simp] theorem State.putByte_net (a b : Nat) : (s.putByte a b).net = s.net := rfl
@[simp] theorem State.putByte_ebuf (a b : Nat) : (s.putByte a b).ebuf = s.ebuf := rfl
@[simp] theorem State.putByte_runs (a b : Nat) : (s.putByte a b).runs = s.runs := rfl
@[simp] theorem State.putByte_eng (a b : Nat) : (s.putByte a b).eng = s.eng := rfl
@[simp] theorem State.putByte_sc (a b : Nat) : (s.putByte a b).sc = s.sc := rfl
@[simp] theorem State.putByte_halo (a b : Nat) : (s.putByte a b).halo = s.halo := rfl
@[simp] theorem State.putByte_hg (a b : Nat) : (s.putByte a b).hg = s.hg := rfl
@[simp] theorem State.putByte_host (a b : Nat) : (s.putByte a b).host = s.host := rfl
@[simp] theorem State.putByte_au (a b : Nat) : (s.putByte a b).au = s.au := rfl
@[simp] theorem State.putByte_rn (a b : Nat) : (s.putByte a b).rn = s.rn := rfl
@[simp] theorem State.putByte_cam (a b : Nat) : (s.putByte a b).cam = s.cam := rfl
@[simp] theorem State.putByte_pw (a b : Nat) : (s.putByte a b).pw = s.pw := rfl
@[simp] theorem State.putByte_tu (a b : Nat) : (s.putByte a b).tu = s.tu := rfl
@[simp] theorem State.putByte_bl (a b : Nat) : (s.putByte a b).bl = s.bl := rfl
@[simp] theorem State.putByte_nt (a b : Nat) : (s.putByte a b).nt = s.nt := rfl
@[simp] theorem State.putByte_fl (a b : Nat) : (s.putByte a b).fl = s.fl := rfl
@[simp] theorem State.putByte_rs (a b : Nat) : (s.putByte a b).rs = s.rs := rfl
@[simp] theorem State.putByte_io (a b : Nat) : (s.putByte a b).io = s.io := rfl
@[simp] theorem State.putByte_doms (a b : Nat) : (s.putByte a b).doms = s.doms := rfl
@[simp] theorem State.putByte_wakeq (a b : Nat) : (s.putByte a b).wakeq = s.wakeq := rfl
@[simp] theorem State.putByte_stallq (a b : Nat) : (s.putByte a b).stallq = s.stallq := rfl
@[simp] theorem State.putByte_extq (a b : Nat) : (s.putByte a b).extq = s.extq := rfl
@[simp] theorem State.putByte_resumeq (a b : Nat) : (s.putByte a b).resumeq = s.resumeq := rfl
@[simp] theorem State.putByte_reqs (a b : Nat) : (s.putByte a b).reqs = s.reqs := rfl
@[simp] theorem State.putByte_tagNext (a b : Nat) : (s.putByte a b).tagNext = s.tagNext := rfl
@[simp] theorem State.putByte_fsrBuf (a b : Nat) : (s.putByte a b).fsrBuf = s.fsrBuf := rfl
@[simp] theorem State.putByte_now (a b : Nat) : (s.putByte a b).now = s.now := rfl
@[simp] theorem State.putByte_ticks (a b : Nat) : (s.putByte a b).ticks = s.ticks := rfl
@[simp] theorem State.putByte_retired (a b : Nat) : (s.putByte a b).retired = s.retired := rfl
@[simp] theorem State.putByte_free (a b : Nat) : (s.putByte a b).free = s.free := rfl

/-! ### setGran -/

@[simp] theorem State.setGran_pending (g : Nat) (b : Bool) : (s.setGran g b).pending = s.pending := rfl
@[simp] theorem State.setGran_regs (g : Nat) (b : Bool) : (s.setGran g b).regs = s.regs := rfl
@[simp] theorem State.setGran_mem (g : Nat) (b : Bool) : (s.setGran g b).mem = s.mem := rfl
@[simp] theorem State.setGran_caches (g : Nat) (b : Bool) : (s.setGran g b).caches = s.caches := rfl
@[simp] theorem State.setGran_tlb (g : Nat) (b : Bool) : (s.setGran g b).tlb = s.tlb := rfl
@[simp] theorem State.setGran_arb (g : Nat) (b : Bool) : (s.setGran g b).arb = s.arb := rfl
@[simp] theorem State.setGran_vc (g : Nat) (b : Bool) : (s.setGran g b).vc = s.vc := rfl
@[simp] theorem State.setGran_plat (g : Nat) (b : Bool) : (s.setGran g b).plat = s.plat := rfl
@[simp] theorem State.setGran_threads (g : Nat) (b : Bool) : (s.setGran g b).threads = s.threads := rfl
@[simp] theorem State.setGran_tiles (g : Nat) (b : Bool) : (s.setGran g b).tiles = s.tiles := rfl
@[simp] theorem State.setGran_jobs (g : Nat) (b : Bool) : (s.setGran g b).jobs = s.jobs := rfl
@[simp] theorem State.setGran_net (g : Nat) (b : Bool) : (s.setGran g b).net = s.net := rfl
@[simp] theorem State.setGran_ebuf (g : Nat) (b : Bool) : (s.setGran g b).ebuf = s.ebuf := rfl
@[simp] theorem State.setGran_runs (g : Nat) (b : Bool) : (s.setGran g b).runs = s.runs := rfl
@[simp] theorem State.setGran_eng (g : Nat) (b : Bool) : (s.setGran g b).eng = s.eng := rfl
@[simp] theorem State.setGran_sc (g : Nat) (b : Bool) : (s.setGran g b).sc = s.sc := rfl
@[simp] theorem State.setGran_halo (g : Nat) (b : Bool) : (s.setGran g b).halo = s.halo := rfl
@[simp] theorem State.setGran_hg (g : Nat) (b : Bool) : (s.setGran g b).hg = s.hg := rfl
@[simp] theorem State.setGran_host (g : Nat) (b : Bool) : (s.setGran g b).host = s.host := rfl
@[simp] theorem State.setGran_au (g : Nat) (b : Bool) : (s.setGran g b).au = s.au := rfl
@[simp] theorem State.setGran_rn (g : Nat) (b : Bool) : (s.setGran g b).rn = s.rn := rfl
@[simp] theorem State.setGran_cam (g : Nat) (b : Bool) : (s.setGran g b).cam = s.cam := rfl
@[simp] theorem State.setGran_pw (g : Nat) (b : Bool) : (s.setGran g b).pw = s.pw := rfl
@[simp] theorem State.setGran_tu (g : Nat) (b : Bool) : (s.setGran g b).tu = s.tu := rfl
@[simp] theorem State.setGran_bl (g : Nat) (b : Bool) : (s.setGran g b).bl = s.bl := rfl
@[simp] theorem State.setGran_nt (g : Nat) (b : Bool) : (s.setGran g b).nt = s.nt := rfl
@[simp] theorem State.setGran_fl (g : Nat) (b : Bool) : (s.setGran g b).fl = s.fl := rfl
@[simp] theorem State.setGran_rs (g : Nat) (b : Bool) : (s.setGran g b).rs = s.rs := rfl
@[simp] theorem State.setGran_io (g : Nat) (b : Bool) : (s.setGran g b).io = s.io := rfl
@[simp] theorem State.setGran_doms (g : Nat) (b : Bool) : (s.setGran g b).doms = s.doms := rfl
@[simp] theorem State.setGran_wakeq (g : Nat) (b : Bool) : (s.setGran g b).wakeq = s.wakeq := rfl
@[simp] theorem State.setGran_stallq (g : Nat) (b : Bool) : (s.setGran g b).stallq = s.stallq := rfl
@[simp] theorem State.setGran_extq (g : Nat) (b : Bool) : (s.setGran g b).extq = s.extq := rfl
@[simp] theorem State.setGran_resumeq (g : Nat) (b : Bool) : (s.setGran g b).resumeq = s.resumeq := rfl
@[simp] theorem State.setGran_reqs (g : Nat) (b : Bool) : (s.setGran g b).reqs = s.reqs := rfl
@[simp] theorem State.setGran_tagNext (g : Nat) (b : Bool) : (s.setGran g b).tagNext = s.tagNext := rfl
@[simp] theorem State.setGran_fsrBuf (g : Nat) (b : Bool) : (s.setGran g b).fsrBuf = s.fsrBuf := rfl
@[simp] theorem State.setGran_now (g : Nat) (b : Bool) : (s.setGran g b).now = s.now := rfl
@[simp] theorem State.setGran_ticks (g : Nat) (b : Bool) : (s.setGran g b).ticks = s.ticks := rfl
@[simp] theorem State.setGran_retired (g : Nat) (b : Bool) : (s.setGran g b).retired = s.retired := rfl
@[simp] theorem State.setGran_free (g : Nat) (b : Bool) : (s.setGran g b).free = s.free := rfl

/-! ### setEnt -/

@[simp] theorem State.setEnt_pending (n p : Nat) (e : Word) : (s.setEnt n p e).pending = s.pending := rfl
@[simp] theorem State.setEnt_regs (n p : Nat) (e : Word) : (s.setEnt n p e).regs = s.regs := rfl
@[simp] theorem State.setEnt_mem (n p : Nat) (e : Word) : (s.setEnt n p e).mem = s.mem := rfl
@[simp] theorem State.setEnt_psn (n p : Nat) (e : Word) : (s.setEnt n p e).psn = s.psn := rfl
@[simp] theorem State.setEnt_caches (n p : Nat) (e : Word) : (s.setEnt n p e).caches = s.caches := rfl
@[simp] theorem State.setEnt_arb (n p : Nat) (e : Word) : (s.setEnt n p e).arb = s.arb := rfl
@[simp] theorem State.setEnt_plat (n p : Nat) (e : Word) : (s.setEnt n p e).plat = s.plat := rfl
@[simp] theorem State.setEnt_threads (n p : Nat) (e : Word) : (s.setEnt n p e).threads = s.threads := rfl
@[simp] theorem State.setEnt_tiles (n p : Nat) (e : Word) : (s.setEnt n p e).tiles = s.tiles := rfl
@[simp] theorem State.setEnt_jobs (n p : Nat) (e : Word) : (s.setEnt n p e).jobs = s.jobs := rfl
@[simp] theorem State.setEnt_net (n p : Nat) (e : Word) : (s.setEnt n p e).net = s.net := rfl
@[simp] theorem State.setEnt_ebuf (n p : Nat) (e : Word) : (s.setEnt n p e).ebuf = s.ebuf := rfl
@[simp] theorem State.setEnt_runs (n p : Nat) (e : Word) : (s.setEnt n p e).runs = s.runs := rfl
@[simp] theorem State.setEnt_eng (n p : Nat) (e : Word) : (s.setEnt n p e).eng = s.eng := rfl
@[simp] theorem State.setEnt_sc (n p : Nat) (e : Word) : (s.setEnt n p e).sc = s.sc := rfl
@[simp] theorem State.setEnt_halo (n p : Nat) (e : Word) : (s.setEnt n p e).halo = s.halo := rfl
@[simp] theorem State.setEnt_hg (n p : Nat) (e : Word) : (s.setEnt n p e).hg = s.hg := rfl
@[simp] theorem State.setEnt_host (n p : Nat) (e : Word) : (s.setEnt n p e).host = s.host := rfl
@[simp] theorem State.setEnt_au (n p : Nat) (e : Word) : (s.setEnt n p e).au = s.au := rfl
@[simp] theorem State.setEnt_rn (n p : Nat) (e : Word) : (s.setEnt n p e).rn = s.rn := rfl
@[simp] theorem State.setEnt_cam (n p : Nat) (e : Word) : (s.setEnt n p e).cam = s.cam := rfl
@[simp] theorem State.setEnt_pw (n p : Nat) (e : Word) : (s.setEnt n p e).pw = s.pw := rfl
@[simp] theorem State.setEnt_tu (n p : Nat) (e : Word) : (s.setEnt n p e).tu = s.tu := rfl
@[simp] theorem State.setEnt_bl (n p : Nat) (e : Word) : (s.setEnt n p e).bl = s.bl := rfl
@[simp] theorem State.setEnt_nt (n p : Nat) (e : Word) : (s.setEnt n p e).nt = s.nt := rfl
@[simp] theorem State.setEnt_fl (n p : Nat) (e : Word) : (s.setEnt n p e).fl = s.fl := rfl
@[simp] theorem State.setEnt_rs (n p : Nat) (e : Word) : (s.setEnt n p e).rs = s.rs := rfl
@[simp] theorem State.setEnt_io (n p : Nat) (e : Word) : (s.setEnt n p e).io = s.io := rfl
@[simp] theorem State.setEnt_doms (n p : Nat) (e : Word) : (s.setEnt n p e).doms = s.doms := rfl
@[simp] theorem State.setEnt_wakeq (n p : Nat) (e : Word) : (s.setEnt n p e).wakeq = s.wakeq := rfl
@[simp] theorem State.setEnt_stallq (n p : Nat) (e : Word) : (s.setEnt n p e).stallq = s.stallq := rfl
@[simp] theorem State.setEnt_extq (n p : Nat) (e : Word) : (s.setEnt n p e).extq = s.extq := rfl
@[simp] theorem State.setEnt_resumeq (n p : Nat) (e : Word) : (s.setEnt n p e).resumeq = s.resumeq := rfl
@[simp] theorem State.setEnt_reqs (n p : Nat) (e : Word) : (s.setEnt n p e).reqs = s.reqs := rfl
@[simp] theorem State.setEnt_tagNext (n p : Nat) (e : Word) : (s.setEnt n p e).tagNext = s.tagNext := rfl
@[simp] theorem State.setEnt_fsrBuf (n p : Nat) (e : Word) : (s.setEnt n p e).fsrBuf = s.fsrBuf := rfl
@[simp] theorem State.setEnt_now (n p : Nat) (e : Word) : (s.setEnt n p e).now = s.now := rfl
@[simp] theorem State.setEnt_ticks (n p : Nat) (e : Word) : (s.setEnt n p e).ticks = s.ticks := rfl
@[simp] theorem State.setEnt_retired (n p : Nat) (e : Word) : (s.setEnt n p e).retired = s.retired := rfl
@[simp] theorem State.setEnt_free (n p : Nat) (e : Word) : (s.setEnt n p e).free = s.free := rfl

/-! ### setFrame -/

@[simp] theorem State.setFrame_pending (k : Nat) (f : Frame) : (s.setFrame k f).pending = s.pending := rfl
@[simp] theorem State.setFrame_regs (k : Nat) (f : Frame) : (s.setFrame k f).regs = s.regs := rfl
@[simp] theorem State.setFrame_mem (k : Nat) (f : Frame) : (s.setFrame k f).mem = s.mem := rfl
@[simp] theorem State.setFrame_psn (k : Nat) (f : Frame) : (s.setFrame k f).psn = s.psn := rfl
@[simp] theorem State.setFrame_caches (k : Nat) (f : Frame) : (s.setFrame k f).caches = s.caches := rfl
@[simp] theorem State.setFrame_tlb (k : Nat) (f : Frame) : (s.setFrame k f).tlb = s.tlb := rfl
@[simp] theorem State.setFrame_arb (k : Nat) (f : Frame) : (s.setFrame k f).arb = s.arb := rfl
@[simp] theorem State.setFrame_plat (k : Nat) (f : Frame) : (s.setFrame k f).plat = s.plat := rfl
@[simp] theorem State.setFrame_threads (k : Nat) (f : Frame) : (s.setFrame k f).threads = s.threads := rfl
@[simp] theorem State.setFrame_tiles (k : Nat) (f : Frame) : (s.setFrame k f).tiles = s.tiles := rfl
@[simp] theorem State.setFrame_jobs (k : Nat) (f : Frame) : (s.setFrame k f).jobs = s.jobs := rfl
@[simp] theorem State.setFrame_net (k : Nat) (f : Frame) : (s.setFrame k f).net = s.net := rfl
@[simp] theorem State.setFrame_ebuf (k : Nat) (f : Frame) : (s.setFrame k f).ebuf = s.ebuf := rfl
@[simp] theorem State.setFrame_runs (k : Nat) (f : Frame) : (s.setFrame k f).runs = s.runs := rfl
@[simp] theorem State.setFrame_eng (k : Nat) (f : Frame) : (s.setFrame k f).eng = s.eng := rfl
@[simp] theorem State.setFrame_sc (k : Nat) (f : Frame) : (s.setFrame k f).sc = s.sc := rfl
@[simp] theorem State.setFrame_halo (k : Nat) (f : Frame) : (s.setFrame k f).halo = s.halo := rfl
@[simp] theorem State.setFrame_hg (k : Nat) (f : Frame) : (s.setFrame k f).hg = s.hg := rfl
@[simp] theorem State.setFrame_host (k : Nat) (f : Frame) : (s.setFrame k f).host = s.host := rfl
@[simp] theorem State.setFrame_au (k : Nat) (f : Frame) : (s.setFrame k f).au = s.au := rfl
@[simp] theorem State.setFrame_rn (k : Nat) (f : Frame) : (s.setFrame k f).rn = s.rn := rfl
@[simp] theorem State.setFrame_cam (k : Nat) (f : Frame) : (s.setFrame k f).cam = s.cam := rfl
@[simp] theorem State.setFrame_pw (k : Nat) (f : Frame) : (s.setFrame k f).pw = s.pw := rfl
@[simp] theorem State.setFrame_tu (k : Nat) (f : Frame) : (s.setFrame k f).tu = s.tu := rfl
@[simp] theorem State.setFrame_bl (k : Nat) (f : Frame) : (s.setFrame k f).bl = s.bl := rfl
@[simp] theorem State.setFrame_nt (k : Nat) (f : Frame) : (s.setFrame k f).nt = s.nt := rfl
@[simp] theorem State.setFrame_fl (k : Nat) (f : Frame) : (s.setFrame k f).fl = s.fl := rfl
@[simp] theorem State.setFrame_rs (k : Nat) (f : Frame) : (s.setFrame k f).rs = s.rs := rfl
@[simp] theorem State.setFrame_io (k : Nat) (f : Frame) : (s.setFrame k f).io = s.io := rfl
@[simp] theorem State.setFrame_doms (k : Nat) (f : Frame) : (s.setFrame k f).doms = s.doms := rfl
@[simp] theorem State.setFrame_wakeq (k : Nat) (f : Frame) : (s.setFrame k f).wakeq = s.wakeq := rfl
@[simp] theorem State.setFrame_stallq (k : Nat) (f : Frame) : (s.setFrame k f).stallq = s.stallq := rfl
@[simp] theorem State.setFrame_extq (k : Nat) (f : Frame) : (s.setFrame k f).extq = s.extq := rfl
@[simp] theorem State.setFrame_resumeq (k : Nat) (f : Frame) : (s.setFrame k f).resumeq = s.resumeq := rfl
@[simp] theorem State.setFrame_reqs (k : Nat) (f : Frame) : (s.setFrame k f).reqs = s.reqs := rfl
@[simp] theorem State.setFrame_tagNext (k : Nat) (f : Frame) : (s.setFrame k f).tagNext = s.tagNext := rfl
@[simp] theorem State.setFrame_fsrBuf (k : Nat) (f : Frame) : (s.setFrame k f).fsrBuf = s.fsrBuf := rfl
@[simp] theorem State.setFrame_now (k : Nat) (f : Frame) : (s.setFrame k f).now = s.now := rfl
@[simp] theorem State.setFrame_ticks (k : Nat) (f : Frame) : (s.setFrame k f).ticks = s.ticks := rfl
@[simp] theorem State.setFrame_retired (k : Nat) (f : Frame) : (s.setFrame k f).retired = s.retired := rfl
@[simp] theorem State.setFrame_free (k : Nat) (f : Frame) : (s.setFrame k f).free = s.free := rfl

/-! ### setLines -/

@[simp] theorem State.setLines_pending (i : Nat) (ls : List Line) : (s.setLines i ls).pending = s.pending := rfl
@[simp] theorem State.setLines_regs (i : Nat) (ls : List Line) : (s.setLines i ls).regs = s.regs := rfl
@[simp] theorem State.setLines_mem (i : Nat) (ls : List Line) : (s.setLines i ls).mem = s.mem := rfl
@[simp] theorem State.setLines_psn (i : Nat) (ls : List Line) : (s.setLines i ls).psn = s.psn := rfl
@[simp] theorem State.setLines_tlb (i : Nat) (ls : List Line) : (s.setLines i ls).tlb = s.tlb := rfl
@[simp] theorem State.setLines_arb (i : Nat) (ls : List Line) : (s.setLines i ls).arb = s.arb := rfl
@[simp] theorem State.setLines_vc (i : Nat) (ls : List Line) : (s.setLines i ls).vc = s.vc := rfl
@[simp] theorem State.setLines_plat (i : Nat) (ls : List Line) : (s.setLines i ls).plat = s.plat := rfl
@[simp] theorem State.setLines_threads (i : Nat) (ls : List Line) : (s.setLines i ls).threads = s.threads := rfl
@[simp] theorem State.setLines_tiles (i : Nat) (ls : List Line) : (s.setLines i ls).tiles = s.tiles := rfl
@[simp] theorem State.setLines_jobs (i : Nat) (ls : List Line) : (s.setLines i ls).jobs = s.jobs := rfl
@[simp] theorem State.setLines_net (i : Nat) (ls : List Line) : (s.setLines i ls).net = s.net := rfl
@[simp] theorem State.setLines_ebuf (i : Nat) (ls : List Line) : (s.setLines i ls).ebuf = s.ebuf := rfl
@[simp] theorem State.setLines_runs (i : Nat) (ls : List Line) : (s.setLines i ls).runs = s.runs := rfl
@[simp] theorem State.setLines_eng (i : Nat) (ls : List Line) : (s.setLines i ls).eng = s.eng := rfl
@[simp] theorem State.setLines_sc (i : Nat) (ls : List Line) : (s.setLines i ls).sc = s.sc := rfl
@[simp] theorem State.setLines_halo (i : Nat) (ls : List Line) : (s.setLines i ls).halo = s.halo := rfl
@[simp] theorem State.setLines_hg (i : Nat) (ls : List Line) : (s.setLines i ls).hg = s.hg := rfl
@[simp] theorem State.setLines_host (i : Nat) (ls : List Line) : (s.setLines i ls).host = s.host := rfl
@[simp] theorem State.setLines_au (i : Nat) (ls : List Line) : (s.setLines i ls).au = s.au := rfl
@[simp] theorem State.setLines_rn (i : Nat) (ls : List Line) : (s.setLines i ls).rn = s.rn := rfl
@[simp] theorem State.setLines_cam (i : Nat) (ls : List Line) : (s.setLines i ls).cam = s.cam := rfl
@[simp] theorem State.setLines_pw (i : Nat) (ls : List Line) : (s.setLines i ls).pw = s.pw := rfl
@[simp] theorem State.setLines_tu (i : Nat) (ls : List Line) : (s.setLines i ls).tu = s.tu := rfl
@[simp] theorem State.setLines_bl (i : Nat) (ls : List Line) : (s.setLines i ls).bl = s.bl := rfl
@[simp] theorem State.setLines_nt (i : Nat) (ls : List Line) : (s.setLines i ls).nt = s.nt := rfl
@[simp] theorem State.setLines_fl (i : Nat) (ls : List Line) : (s.setLines i ls).fl = s.fl := rfl
@[simp] theorem State.setLines_rs (i : Nat) (ls : List Line) : (s.setLines i ls).rs = s.rs := rfl
@[simp] theorem State.setLines_io (i : Nat) (ls : List Line) : (s.setLines i ls).io = s.io := rfl
@[simp] theorem State.setLines_doms (i : Nat) (ls : List Line) : (s.setLines i ls).doms = s.doms := rfl
@[simp] theorem State.setLines_wakeq (i : Nat) (ls : List Line) : (s.setLines i ls).wakeq = s.wakeq := rfl
@[simp] theorem State.setLines_stallq (i : Nat) (ls : List Line) : (s.setLines i ls).stallq = s.stallq := rfl
@[simp] theorem State.setLines_extq (i : Nat) (ls : List Line) : (s.setLines i ls).extq = s.extq := rfl
@[simp] theorem State.setLines_resumeq (i : Nat) (ls : List Line) : (s.setLines i ls).resumeq = s.resumeq := rfl
@[simp] theorem State.setLines_reqs (i : Nat) (ls : List Line) : (s.setLines i ls).reqs = s.reqs := rfl
@[simp] theorem State.setLines_tagNext (i : Nat) (ls : List Line) : (s.setLines i ls).tagNext = s.tagNext := rfl
@[simp] theorem State.setLines_fsrBuf (i : Nat) (ls : List Line) : (s.setLines i ls).fsrBuf = s.fsrBuf := rfl
@[simp] theorem State.setLines_now (i : Nat) (ls : List Line) : (s.setLines i ls).now = s.now := rfl
@[simp] theorem State.setLines_ticks (i : Nat) (ls : List Line) : (s.setLines i ls).ticks = s.ticks := rfl
@[simp] theorem State.setLines_retired (i : Nat) (ls : List Line) : (s.setLines i ls).retired = s.retired := rfl
@[simp] theorem State.setLines_free (i : Nat) (ls : List Line) : (s.setLines i ls).free = s.free := rfl

/-! ### resumed -/

@[simp] theorem State.resumed_pending (k a : Nat) : (s.resumed k a).pending = s.pending := rfl
@[simp] theorem State.resumed_regs (k a : Nat) : (s.resumed k a).regs = s.regs := rfl
@[simp] theorem State.resumed_mem (k a : Nat) : (s.resumed k a).mem = s.mem := rfl
@[simp] theorem State.resumed_psn (k a : Nat) : (s.resumed k a).psn = s.psn := rfl
@[simp] theorem State.resumed_caches (k a : Nat) : (s.resumed k a).caches = s.caches := rfl
@[simp] theorem State.resumed_tlb (k a : Nat) : (s.resumed k a).tlb = s.tlb := rfl
@[simp] theorem State.resumed_arb (k a : Nat) : (s.resumed k a).arb = s.arb := rfl
@[simp] theorem State.resumed_vc (k a : Nat) : (s.resumed k a).vc = s.vc := rfl
@[simp] theorem State.resumed_plat (k a : Nat) : (s.resumed k a).plat = s.plat := rfl
@[simp] theorem State.resumed_threads (k a : Nat) : (s.resumed k a).threads = s.threads := rfl
@[simp] theorem State.resumed_tiles (k a : Nat) : (s.resumed k a).tiles = s.tiles := rfl
@[simp] theorem State.resumed_jobs (k a : Nat) : (s.resumed k a).jobs = s.jobs := rfl
@[simp] theorem State.resumed_net (k a : Nat) : (s.resumed k a).net = s.net := rfl
@[simp] theorem State.resumed_ebuf (k a : Nat) : (s.resumed k a).ebuf = s.ebuf := rfl
@[simp] theorem State.resumed_runs (k a : Nat) : (s.resumed k a).runs = s.runs := rfl
@[simp] theorem State.resumed_eng (k a : Nat) : (s.resumed k a).eng = s.eng := rfl
@[simp] theorem State.resumed_sc (k a : Nat) : (s.resumed k a).sc = s.sc := rfl
@[simp] theorem State.resumed_halo (k a : Nat) : (s.resumed k a).halo = s.halo := rfl
@[simp] theorem State.resumed_hg (k a : Nat) : (s.resumed k a).hg = s.hg := rfl
@[simp] theorem State.resumed_host (k a : Nat) : (s.resumed k a).host = s.host := rfl
@[simp] theorem State.resumed_au (k a : Nat) : (s.resumed k a).au = s.au := rfl
@[simp] theorem State.resumed_rn (k a : Nat) : (s.resumed k a).rn = s.rn := rfl
@[simp] theorem State.resumed_cam (k a : Nat) : (s.resumed k a).cam = s.cam := rfl
@[simp] theorem State.resumed_pw (k a : Nat) : (s.resumed k a).pw = s.pw := rfl
@[simp] theorem State.resumed_tu (k a : Nat) : (s.resumed k a).tu = s.tu := rfl
@[simp] theorem State.resumed_bl (k a : Nat) : (s.resumed k a).bl = s.bl := rfl
@[simp] theorem State.resumed_nt (k a : Nat) : (s.resumed k a).nt = s.nt := rfl
@[simp] theorem State.resumed_fl (k a : Nat) : (s.resumed k a).fl = s.fl := rfl
@[simp] theorem State.resumed_rs (k a : Nat) : (s.resumed k a).rs = s.rs := rfl
@[simp] theorem State.resumed_io (k a : Nat) : (s.resumed k a).io = s.io := rfl
@[simp] theorem State.resumed_doms (k a : Nat) : (s.resumed k a).doms = s.doms := rfl
@[simp] theorem State.resumed_wakeq (k a : Nat) : (s.resumed k a).wakeq = s.wakeq := rfl
@[simp] theorem State.resumed_stallq (k a : Nat) : (s.resumed k a).stallq = s.stallq := rfl
@[simp] theorem State.resumed_extq (k a : Nat) : (s.resumed k a).extq = s.extq := rfl
@[simp] theorem State.resumed_reqs (k a : Nat) : (s.resumed k a).reqs = s.reqs := rfl
@[simp] theorem State.resumed_tagNext (k a : Nat) : (s.resumed k a).tagNext = s.tagNext := rfl
@[simp] theorem State.resumed_fsrBuf (k a : Nat) : (s.resumed k a).fsrBuf = s.fsrBuf := rfl
@[simp] theorem State.resumed_now (k a : Nat) : (s.resumed k a).now = s.now := rfl
@[simp] theorem State.resumed_ticks (k a : Nat) : (s.resumed k a).ticks = s.ticks := rfl
@[simp] theorem State.resumed_retired (k a : Nat) : (s.resumed k a).retired = s.retired := rfl
@[simp] theorem State.resumed_free (k a : Nat) : (s.resumed k a).free = s.free := rfl

/-! ### Readings that an update leaves alone -/

@[simp] theorem State.rd_setThread (a b : Nat) (t : Thread) (x : Nat) : (s.setThread a b t).rd x = s.rd x := rfl
@[simp] theorem State.fget_setThread (a b : Nat) (t : Thread) (x : Nat) (y : Nat × Nat) : (s.setThread a b t).fget x y = s.fget x y := rfl
@[simp] theorem State.flag_setThread (a b : Nat) (t : Thread) (x : Nat) (y : Nat × Nat) : (s.setThread a b t).flag x y = s.flag x y := rfl
@[simp] theorem State.byte_setThread (a b : Nat) (t : Thread) (x : Nat) : (s.setThread a b t).byte x = s.byte x := rfl
@[simp] theorem State.tile_setThread (a b : Nat) (t : Thread) (x : Nat) : (s.setThread a b t).tile x = s.tile x := rfl
@[simp] theorem State.job_setThread (a b : Nat) (t : Thread) (x : Nat) : (s.setThread a b t).job x = s.job x := rfl
@[simp] theorem State.dom_setThread (a b : Nat) (t : Thread) (x : Nat) : (s.setThread a b t).dom x = s.dom x := rfl
@[simp] theorem State.isOn_setThread (a b : Nat) (t : Thread) (x : Nat) : (s.setThread a b t).isOn x = s.isOn x := rfl
@[simp] theorem State.ctx_setThread (a b : Nat) (t : Thread) (x : Nat) : (s.setThread a b t).ctx x = s.ctx x := rfl
@[simp] theorem State.sch_setThread (a b : Nat) (t : Thread) (x : Nat) : (s.setThread a b t).sch x = s.sch x := rfl
@[simp] theorem State.ent_setThread (a b : Nat) (t : Thread) (x y : Nat) : (s.setThread a b t).ent x y = s.ent x y := rfl
@[simp] theorem State.frame_setThread (a b : Nat) (t : Thread) (x : Nat) : (s.setThread a b t).frame x = s.frame x := rfl
@[simp] theorem State.devId_setThread (a b : Nat) (t : Thread) : (s.setThread a b t).devId = s.devId := rfl
@[simp] theorem State.time_setThread (a b : Nat) (t : Thread) : (s.setThread a b t).time = s.time := rfl
@[simp] theorem State.admin_setThread (a b : Nat) (t : Thread) : (s.setThread a b t).admin = s.admin := rfl
@[simp] theorem State.rd_setTile (a : Nat) (u : Tile) (x : Nat) : (s.setTile a u).rd x = s.rd x := rfl
@[simp] theorem State.fget_setTile (a : Nat) (u : Tile) (x : Nat) (y : Nat × Nat) : (s.setTile a u).fget x y = s.fget x y := rfl
@[simp] theorem State.flag_setTile (a : Nat) (u : Tile) (x : Nat) (y : Nat × Nat) : (s.setTile a u).flag x y = s.flag x y := rfl
@[simp] theorem State.byte_setTile (a : Nat) (u : Tile) (x : Nat) : (s.setTile a u).byte x = s.byte x := rfl
@[simp] theorem State.thread_setTile (a : Nat) (u : Tile) (x y : Nat) : (s.setTile a u).thread x y = s.thread x y := rfl
@[simp] theorem State.job_setTile (a : Nat) (u : Tile) (x : Nat) : (s.setTile a u).job x = s.job x := rfl
@[simp] theorem State.dom_setTile (a : Nat) (u : Tile) (x : Nat) : (s.setTile a u).dom x = s.dom x := rfl
@[simp] theorem State.isOn_setTile (a : Nat) (u : Tile) (x : Nat) : (s.setTile a u).isOn x = s.isOn x := rfl
@[simp] theorem State.ctx_setTile (a : Nat) (u : Tile) (x : Nat) : (s.setTile a u).ctx x = s.ctx x := rfl
@[simp] theorem State.sch_setTile (a : Nat) (u : Tile) (x : Nat) : (s.setTile a u).sch x = s.sch x := rfl
@[simp] theorem State.ent_setTile (a : Nat) (u : Tile) (x y : Nat) : (s.setTile a u).ent x y = s.ent x y := rfl
@[simp] theorem State.frame_setTile (a : Nat) (u : Tile) (x : Nat) : (s.setTile a u).frame x = s.frame x := rfl
@[simp] theorem State.devId_setTile (a : Nat) (u : Tile) : (s.setTile a u).devId = s.devId := rfl
@[simp] theorem State.time_setTile (a : Nat) (u : Tile) : (s.setTile a u).time = s.time := rfl
@[simp] theorem State.admin_setTile (a : Nat) (u : Tile) : (s.setTile a u).admin = s.admin := rfl
@[simp] theorem State.rd_setJob (c : Nat) (j : Option Job) (x : Nat) : (s.setJob c j).rd x = s.rd x := rfl
@[simp] theorem State.fget_setJob (c : Nat) (j : Option Job) (x : Nat) (y : Nat × Nat) : (s.setJob c j).fget x y = s.fget x y := rfl
@[simp] theorem State.flag_setJob (c : Nat) (j : Option Job) (x : Nat) (y : Nat × Nat) : (s.setJob c j).flag x y = s.flag x y := rfl
@[simp] theorem State.byte_setJob (c : Nat) (j : Option Job) (x : Nat) : (s.setJob c j).byte x = s.byte x := rfl
@[simp] theorem State.thread_setJob (c : Nat) (j : Option Job) (x y : Nat) : (s.setJob c j).thread x y = s.thread x y := rfl
@[simp] theorem State.tile_setJob (c : Nat) (j : Option Job) (x : Nat) : (s.setJob c j).tile x = s.tile x := rfl
@[simp] theorem State.dom_setJob (c : Nat) (j : Option Job) (x : Nat) : (s.setJob c j).dom x = s.dom x := rfl
@[simp] theorem State.isOn_setJob (c : Nat) (j : Option Job) (x : Nat) : (s.setJob c j).isOn x = s.isOn x := rfl
@[simp] theorem State.ctx_setJob (c : Nat) (j : Option Job) (x : Nat) : (s.setJob c j).ctx x = s.ctx x := rfl
@[simp] theorem State.sch_setJob (c : Nat) (j : Option Job) (x : Nat) : (s.setJob c j).sch x = s.sch x := rfl
@[simp] theorem State.ent_setJob (c : Nat) (j : Option Job) (x y : Nat) : (s.setJob c j).ent x y = s.ent x y := rfl
@[simp] theorem State.frame_setJob (c : Nat) (j : Option Job) (x : Nat) : (s.setJob c j).frame x = s.frame x := rfl
@[simp] theorem State.devId_setJob (c : Nat) (j : Option Job) : (s.setJob c j).devId = s.devId := rfl
@[simp] theorem State.time_setJob (c : Nat) (j : Option Job) : (s.setJob c j).time = s.time := rfl
@[simp] theorem State.admin_setJob (c : Nat) (j : Option Job) : (s.setJob c j).admin = s.admin := rfl
@[simp] theorem State.rd_setDom (d : Nat) (u : Dom) (x : Nat) : (s.setDom d u).rd x = s.rd x := rfl
@[simp] theorem State.fget_setDom (d : Nat) (u : Dom) (x : Nat) (y : Nat × Nat) : (s.setDom d u).fget x y = s.fget x y := rfl
@[simp] theorem State.flag_setDom (d : Nat) (u : Dom) (x : Nat) (y : Nat × Nat) : (s.setDom d u).flag x y = s.flag x y := rfl
@[simp] theorem State.byte_setDom (d : Nat) (u : Dom) (x : Nat) : (s.setDom d u).byte x = s.byte x := rfl
@[simp] theorem State.thread_setDom (d : Nat) (u : Dom) (x y : Nat) : (s.setDom d u).thread x y = s.thread x y := rfl
@[simp] theorem State.tile_setDom (d : Nat) (u : Dom) (x : Nat) : (s.setDom d u).tile x = s.tile x := rfl
@[simp] theorem State.job_setDom (d : Nat) (u : Dom) (x : Nat) : (s.setDom d u).job x = s.job x := rfl
@[simp] theorem State.ctx_setDom (d : Nat) (u : Dom) (x : Nat) : (s.setDom d u).ctx x = s.ctx x := rfl
@[simp] theorem State.sch_setDom (d : Nat) (u : Dom) (x : Nat) : (s.setDom d u).sch x = s.sch x := rfl
@[simp] theorem State.ent_setDom (d : Nat) (u : Dom) (x y : Nat) : (s.setDom d u).ent x y = s.ent x y := rfl
@[simp] theorem State.frame_setDom (d : Nat) (u : Dom) (x : Nat) : (s.setDom d u).frame x = s.frame x := rfl
@[simp] theorem State.devId_setDom (d : Nat) (u : Dom) : (s.setDom d u).devId = s.devId := rfl
@[simp] theorem State.time_setDom (d : Nat) (u : Dom) : (s.setDom d u).time = s.time := rfl
@[simp] theorem State.admin_setDom (d : Nat) (u : Dom) : (s.setDom d u).admin = s.admin := rfl
@[simp] theorem State.byte_wr (a : Nat) (v : Word) (x : Nat) : (s.wr a v).byte x = s.byte x := rfl
@[simp] theorem State.thread_wr (a : Nat) (v : Word) (x y : Nat) : (s.wr a v).thread x y = s.thread x y := rfl
@[simp] theorem State.tile_wr (a : Nat) (v : Word) (x : Nat) : (s.wr a v).tile x = s.tile x := rfl
@[simp] theorem State.job_wr (a : Nat) (v : Word) (x : Nat) : (s.wr a v).job x = s.job x := rfl
@[simp] theorem State.dom_wr (a : Nat) (v : Word) (x : Nat) : (s.wr a v).dom x = s.dom x := rfl
@[simp] theorem State.isOn_wr (a : Nat) (v : Word) (x : Nat) : (s.wr a v).isOn x = s.isOn x := rfl
@[simp] theorem State.ctx_wr (a : Nat) (v : Word) (x : Nat) : (s.wr a v).ctx x = s.ctx x := rfl
@[simp] theorem State.sch_wr (a : Nat) (v : Word) (x : Nat) : (s.wr a v).sch x = s.sch x := rfl
@[simp] theorem State.ent_wr (a : Nat) (v : Word) (x y : Nat) : (s.wr a v).ent x y = s.ent x y := rfl
@[simp] theorem State.frame_wr (a : Nat) (v : Word) (x : Nat) : (s.wr a v).frame x = s.frame x := rfl
@[simp] theorem State.time_wr (a : Nat) (v : Word) : (s.wr a v).time = s.time := rfl
@[simp] theorem State.byte_fset (a : Nat) (f : Nat × Nat) (u : Nat) (x : Nat) : (s.fset a f u).byte x = s.byte x := rfl
@[simp] theorem State.thread_fset (a : Nat) (f : Nat × Nat) (u : Nat) (x y : Nat) : (s.fset a f u).thread x y = s.thread x y := rfl
@[simp] theorem State.tile_fset (a : Nat) (f : Nat × Nat) (u : Nat) (x : Nat) : (s.fset a f u).tile x = s.tile x := rfl
@[simp] theorem State.job_fset (a : Nat) (f : Nat × Nat) (u : Nat) (x : Nat) : (s.fset a f u).job x = s.job x := rfl
@[simp] theorem State.dom_fset (a : Nat) (f : Nat × Nat) (u : Nat) (x : Nat) : (s.fset a f u).dom x = s.dom x := rfl
@[simp] theorem State.isOn_fset (a : Nat) (f : Nat × Nat) (u : Nat) (x : Nat) : (s.fset a f u).isOn x = s.isOn x := rfl
@[simp] theorem State.ctx_fset (a : Nat) (f : Nat × Nat) (u : Nat) (x : Nat) : (s.fset a f u).ctx x = s.ctx x := rfl
@[simp] theorem State.sch_fset (a : Nat) (f : Nat × Nat) (u : Nat) (x : Nat) : (s.fset a f u).sch x = s.sch x := rfl
@[simp] theorem State.ent_fset (a : Nat) (f : Nat × Nat) (u : Nat) (x y : Nat) : (s.fset a f u).ent x y = s.ent x y := rfl
@[simp] theorem State.frame_fset (a : Nat) (f : Nat × Nat) (u : Nat) (x : Nat) : (s.fset a f u).frame x = s.frame x := rfl
@[simp] theorem State.time_fset (a : Nat) (f : Nat × Nat) (u : Nat) : (s.fset a f u).time = s.time := rfl
@[simp] theorem State.byte_fadd (a : Nat) (f : Nat × Nat) (n : Nat) (x : Nat) : (s.fadd a f n).byte x = s.byte x := rfl
@[simp] theorem State.thread_fadd (a : Nat) (f : Nat × Nat) (n : Nat) (x y : Nat) : (s.fadd a f n).thread x y = s.thread x y := rfl
@[simp] theorem State.tile_fadd (a : Nat) (f : Nat × Nat) (n : Nat) (x : Nat) : (s.fadd a f n).tile x = s.tile x := rfl
@[simp] theorem State.job_fadd (a : Nat) (f : Nat × Nat) (n : Nat) (x : Nat) : (s.fadd a f n).job x = s.job x := rfl
@[simp] theorem State.dom_fadd (a : Nat) (f : Nat × Nat) (n : Nat) (x : Nat) : (s.fadd a f n).dom x = s.dom x := rfl
@[simp] theorem State.isOn_fadd (a : Nat) (f : Nat × Nat) (n : Nat) (x : Nat) : (s.fadd a f n).isOn x = s.isOn x := rfl
@[simp] theorem State.ctx_fadd (a : Nat) (f : Nat × Nat) (n : Nat) (x : Nat) : (s.fadd a f n).ctx x = s.ctx x := rfl
@[simp] theorem State.sch_fadd (a : Nat) (f : Nat × Nat) (n : Nat) (x : Nat) : (s.fadd a f n).sch x = s.sch x := rfl
@[simp] theorem State.ent_fadd (a : Nat) (f : Nat × Nat) (n : Nat) (x y : Nat) : (s.fadd a f n).ent x y = s.ent x y := rfl
@[simp] theorem State.frame_fadd (a : Nat) (f : Nat × Nat) (n : Nat) (x : Nat) : (s.fadd a f n).frame x = s.frame x := rfl
@[simp] theorem State.time_fadd (a : Nat) (f : Nat × Nat) (n : Nat) : (s.fadd a f n).time = s.time := rfl
@[simp] theorem State.byte_bump (a : Nat) (x : Nat) : (s.bump a).byte x = s.byte x := rfl
@[simp] theorem State.thread_bump (a : Nat) (x y : Nat) : (s.bump a).thread x y = s.thread x y := rfl
@[simp] theorem State.tile_bump (a : Nat) (x : Nat) : (s.bump a).tile x = s.tile x := rfl
@[simp] theorem State.job_bump (a : Nat) (x : Nat) : (s.bump a).job x = s.job x := rfl
@[simp] theorem State.dom_bump (a : Nat) (x : Nat) : (s.bump a).dom x = s.dom x := rfl
@[simp] theorem State.isOn_bump (a : Nat) (x : Nat) : (s.bump a).isOn x = s.isOn x := rfl
@[simp] theorem State.ctx_bump (a : Nat) (x : Nat) : (s.bump a).ctx x = s.ctx x := rfl
@[simp] theorem State.sch_bump (a : Nat) (x : Nat) : (s.bump a).sch x = s.sch x := rfl
@[simp] theorem State.ent_bump (a : Nat) (x y : Nat) : (s.bump a).ent x y = s.ent x y := rfl
@[simp] theorem State.frame_bump (a : Nat) (x : Nat) : (s.bump a).frame x = s.frame x := rfl
@[simp] theorem State.time_bump (a : Nat) : (s.bump a).time = s.time := rfl
@[simp] theorem State.rd_setCtx (c : Nat) (u : Ctx) (x : Nat) : (s.setCtx c u).rd x = s.rd x := rfl
@[simp] theorem State.fget_setCtx (c : Nat) (u : Ctx) (x : Nat) (y : Nat × Nat) : (s.setCtx c u).fget x y = s.fget x y := rfl
@[simp] theorem State.flag_setCtx (c : Nat) (u : Ctx) (x : Nat) (y : Nat × Nat) : (s.setCtx c u).flag x y = s.flag x y := rfl
@[simp] theorem State.byte_setCtx (c : Nat) (u : Ctx) (x : Nat) : (s.setCtx c u).byte x = s.byte x := rfl
@[simp] theorem State.thread_setCtx (c : Nat) (u : Ctx) (x y : Nat) : (s.setCtx c u).thread x y = s.thread x y := rfl
@[simp] theorem State.tile_setCtx (c : Nat) (u : Ctx) (x : Nat) : (s.setCtx c u).tile x = s.tile x := rfl
@[simp] theorem State.job_setCtx (c : Nat) (u : Ctx) (x : Nat) : (s.setCtx c u).job x = s.job x := rfl
@[simp] theorem State.dom_setCtx (c : Nat) (u : Ctx) (x : Nat) : (s.setCtx c u).dom x = s.dom x := rfl
@[simp] theorem State.isOn_setCtx (c : Nat) (u : Ctx) (x : Nat) : (s.setCtx c u).isOn x = s.isOn x := rfl
@[simp] theorem State.ent_setCtx (c : Nat) (u : Ctx) (x y : Nat) : (s.setCtx c u).ent x y = s.ent x y := rfl
@[simp] theorem State.frame_setCtx (c : Nat) (u : Ctx) (x : Nat) : (s.setCtx c u).frame x = s.frame x := rfl
@[simp] theorem State.devId_setCtx (c : Nat) (u : Ctx) : (s.setCtx c u).devId = s.devId := rfl
@[simp] theorem State.time_setCtx (c : Nat) (u : Ctx) : (s.setCtx c u).time = s.time := rfl
@[simp] theorem State.admin_setCtx (c : Nat) (u : Ctx) : (s.setCtx c u).admin = s.admin := rfl
@[simp] theorem State.rd_setSch (p : Nat) (u : PartS) (x : Nat) : (s.setSch p u).rd x = s.rd x := rfl
@[simp] theorem State.fget_setSch (p : Nat) (u : PartS) (x : Nat) (y : Nat × Nat) : (s.setSch p u).fget x y = s.fget x y := rfl
@[simp] theorem State.flag_setSch (p : Nat) (u : PartS) (x : Nat) (y : Nat × Nat) : (s.setSch p u).flag x y = s.flag x y := rfl
@[simp] theorem State.byte_setSch (p : Nat) (u : PartS) (x : Nat) : (s.setSch p u).byte x = s.byte x := rfl
@[simp] theorem State.thread_setSch (p : Nat) (u : PartS) (x y : Nat) : (s.setSch p u).thread x y = s.thread x y := rfl
@[simp] theorem State.tile_setSch (p : Nat) (u : PartS) (x : Nat) : (s.setSch p u).tile x = s.tile x := rfl
@[simp] theorem State.job_setSch (p : Nat) (u : PartS) (x : Nat) : (s.setSch p u).job x = s.job x := rfl
@[simp] theorem State.dom_setSch (p : Nat) (u : PartS) (x : Nat) : (s.setSch p u).dom x = s.dom x := rfl
@[simp] theorem State.isOn_setSch (p : Nat) (u : PartS) (x : Nat) : (s.setSch p u).isOn x = s.isOn x := rfl
@[simp] theorem State.ent_setSch (p : Nat) (u : PartS) (x y : Nat) : (s.setSch p u).ent x y = s.ent x y := rfl
@[simp] theorem State.frame_setSch (p : Nat) (u : PartS) (x : Nat) : (s.setSch p u).frame x = s.frame x := rfl
@[simp] theorem State.devId_setSch (p : Nat) (u : PartS) : (s.setSch p u).devId = s.devId := rfl
@[simp] theorem State.time_setSch (p : Nat) (u : PartS) : (s.setSch p u).time = s.time := rfl
@[simp] theorem State.admin_setSch (p : Nat) (u : PartS) : (s.setSch p u).admin = s.admin := rfl
@[simp] theorem State.rd_putByte (a b : Nat) (x : Nat) : (s.putByte a b).rd x = s.rd x := rfl
@[simp] theorem State.fget_putByte (a b : Nat) (x : Nat) (y : Nat × Nat) : (s.putByte a b).fget x y = s.fget x y := rfl
@[simp] theorem State.flag_putByte (a b : Nat) (x : Nat) (y : Nat × Nat) : (s.putByte a b).flag x y = s.flag x y := rfl
@[simp] theorem State.thread_putByte (a b : Nat) (x y : Nat) : (s.putByte a b).thread x y = s.thread x y := rfl
@[simp] theorem State.tile_putByte (a b : Nat) (x : Nat) : (s.putByte a b).tile x = s.tile x := rfl
@[simp] theorem State.job_putByte (a b : Nat) (x : Nat) : (s.putByte a b).job x = s.job x := rfl
@[simp] theorem State.dom_putByte (a b : Nat) (x : Nat) : (s.putByte a b).dom x = s.dom x := rfl
@[simp] theorem State.isOn_putByte (a b : Nat) (x : Nat) : (s.putByte a b).isOn x = s.isOn x := rfl
@[simp] theorem State.ctx_putByte (a b : Nat) (x : Nat) : (s.putByte a b).ctx x = s.ctx x := rfl
@[simp] theorem State.sch_putByte (a b : Nat) (x : Nat) : (s.putByte a b).sch x = s.sch x := rfl
@[simp] theorem State.ent_putByte (a b : Nat) (x y : Nat) : (s.putByte a b).ent x y = s.ent x y := rfl
@[simp] theorem State.frame_putByte (a b : Nat) (x : Nat) : (s.putByte a b).frame x = s.frame x := rfl
@[simp] theorem State.devId_putByte (a b : Nat) : (s.putByte a b).devId = s.devId := rfl
@[simp] theorem State.time_putByte (a b : Nat) : (s.putByte a b).time = s.time := rfl
@[simp] theorem State.admin_putByte (a b : Nat) : (s.putByte a b).admin = s.admin := rfl
@[simp] theorem State.rd_setGran (g : Nat) (b : Bool) (x : Nat) : (s.setGran g b).rd x = s.rd x := rfl
@[simp] theorem State.fget_setGran (g : Nat) (b : Bool) (x : Nat) (y : Nat × Nat) : (s.setGran g b).fget x y = s.fget x y := rfl
@[simp] theorem State.flag_setGran (g : Nat) (b : Bool) (x : Nat) (y : Nat × Nat) : (s.setGran g b).flag x y = s.flag x y := rfl
@[simp] theorem State.byte_setGran (g : Nat) (b : Bool) (x : Nat) : (s.setGran g b).byte x = s.byte x := rfl
@[simp] theorem State.thread_setGran (g : Nat) (b : Bool) (x y : Nat) : (s.setGran g b).thread x y = s.thread x y := rfl
@[simp] theorem State.tile_setGran (g : Nat) (b : Bool) (x : Nat) : (s.setGran g b).tile x = s.tile x := rfl
@[simp] theorem State.job_setGran (g : Nat) (b : Bool) (x : Nat) : (s.setGran g b).job x = s.job x := rfl
@[simp] theorem State.dom_setGran (g : Nat) (b : Bool) (x : Nat) : (s.setGran g b).dom x = s.dom x := rfl
@[simp] theorem State.isOn_setGran (g : Nat) (b : Bool) (x : Nat) : (s.setGran g b).isOn x = s.isOn x := rfl
@[simp] theorem State.ctx_setGran (g : Nat) (b : Bool) (x : Nat) : (s.setGran g b).ctx x = s.ctx x := rfl
@[simp] theorem State.sch_setGran (g : Nat) (b : Bool) (x : Nat) : (s.setGran g b).sch x = s.sch x := rfl
@[simp] theorem State.ent_setGran (g : Nat) (b : Bool) (x y : Nat) : (s.setGran g b).ent x y = s.ent x y := rfl
@[simp] theorem State.frame_setGran (g : Nat) (b : Bool) (x : Nat) : (s.setGran g b).frame x = s.frame x := rfl
@[simp] theorem State.devId_setGran (g : Nat) (b : Bool) : (s.setGran g b).devId = s.devId := rfl
@[simp] theorem State.time_setGran (g : Nat) (b : Bool) : (s.setGran g b).time = s.time := rfl
@[simp] theorem State.admin_setGran (g : Nat) (b : Bool) : (s.setGran g b).admin = s.admin := rfl
@[simp] theorem State.rd_setEnt (n p : Nat) (e : Word) (x : Nat) : (s.setEnt n p e).rd x = s.rd x := rfl
@[simp] theorem State.fget_setEnt (n p : Nat) (e : Word) (x : Nat) (y : Nat × Nat) : (s.setEnt n p e).fget x y = s.fget x y := rfl
@[simp] theorem State.flag_setEnt (n p : Nat) (e : Word) (x : Nat) (y : Nat × Nat) : (s.setEnt n p e).flag x y = s.flag x y := rfl
@[simp] theorem State.byte_setEnt (n p : Nat) (e : Word) (x : Nat) : (s.setEnt n p e).byte x = s.byte x := rfl
@[simp] theorem State.thread_setEnt (n p : Nat) (e : Word) (x y : Nat) : (s.setEnt n p e).thread x y = s.thread x y := rfl
@[simp] theorem State.tile_setEnt (n p : Nat) (e : Word) (x : Nat) : (s.setEnt n p e).tile x = s.tile x := rfl
@[simp] theorem State.job_setEnt (n p : Nat) (e : Word) (x : Nat) : (s.setEnt n p e).job x = s.job x := rfl
@[simp] theorem State.dom_setEnt (n p : Nat) (e : Word) (x : Nat) : (s.setEnt n p e).dom x = s.dom x := rfl
@[simp] theorem State.isOn_setEnt (n p : Nat) (e : Word) (x : Nat) : (s.setEnt n p e).isOn x = s.isOn x := rfl
@[simp] theorem State.ctx_setEnt (n p : Nat) (e : Word) (x : Nat) : (s.setEnt n p e).ctx x = s.ctx x := rfl
@[simp] theorem State.sch_setEnt (n p : Nat) (e : Word) (x : Nat) : (s.setEnt n p e).sch x = s.sch x := rfl
@[simp] theorem State.devId_setEnt (n p : Nat) (e : Word) : (s.setEnt n p e).devId = s.devId := rfl
@[simp] theorem State.time_setEnt (n p : Nat) (e : Word) : (s.setEnt n p e).time = s.time := rfl
@[simp] theorem State.admin_setEnt (n p : Nat) (e : Word) : (s.setEnt n p e).admin = s.admin := rfl
@[simp] theorem State.rd_setFrame (k : Nat) (f : Frame) (x : Nat) : (s.setFrame k f).rd x = s.rd x := rfl
@[simp] theorem State.fget_setFrame (k : Nat) (f : Frame) (x : Nat) (y : Nat × Nat) : (s.setFrame k f).fget x y = s.fget x y := rfl
@[simp] theorem State.flag_setFrame (k : Nat) (f : Frame) (x : Nat) (y : Nat × Nat) : (s.setFrame k f).flag x y = s.flag x y := rfl
@[simp] theorem State.byte_setFrame (k : Nat) (f : Frame) (x : Nat) : (s.setFrame k f).byte x = s.byte x := rfl
@[simp] theorem State.thread_setFrame (k : Nat) (f : Frame) (x y : Nat) : (s.setFrame k f).thread x y = s.thread x y := rfl
@[simp] theorem State.tile_setFrame (k : Nat) (f : Frame) (x : Nat) : (s.setFrame k f).tile x = s.tile x := rfl
@[simp] theorem State.job_setFrame (k : Nat) (f : Frame) (x : Nat) : (s.setFrame k f).job x = s.job x := rfl
@[simp] theorem State.dom_setFrame (k : Nat) (f : Frame) (x : Nat) : (s.setFrame k f).dom x = s.dom x := rfl
@[simp] theorem State.isOn_setFrame (k : Nat) (f : Frame) (x : Nat) : (s.setFrame k f).isOn x = s.isOn x := rfl
@[simp] theorem State.ctx_setFrame (k : Nat) (f : Frame) (x : Nat) : (s.setFrame k f).ctx x = s.ctx x := rfl
@[simp] theorem State.sch_setFrame (k : Nat) (f : Frame) (x : Nat) : (s.setFrame k f).sch x = s.sch x := rfl
@[simp] theorem State.devId_setFrame (k : Nat) (f : Frame) : (s.setFrame k f).devId = s.devId := rfl
@[simp] theorem State.time_setFrame (k : Nat) (f : Frame) : (s.setFrame k f).time = s.time := rfl
@[simp] theorem State.admin_setFrame (k : Nat) (f : Frame) : (s.setFrame k f).admin = s.admin := rfl
@[simp] theorem State.rd_setLines (i : Nat) (ls : List Line) (x : Nat) : (s.setLines i ls).rd x = s.rd x := rfl
@[simp] theorem State.fget_setLines (i : Nat) (ls : List Line) (x : Nat) (y : Nat × Nat) : (s.setLines i ls).fget x y = s.fget x y := rfl
@[simp] theorem State.flag_setLines (i : Nat) (ls : List Line) (x : Nat) (y : Nat × Nat) : (s.setLines i ls).flag x y = s.flag x y := rfl
@[simp] theorem State.byte_setLines (i : Nat) (ls : List Line) (x : Nat) : (s.setLines i ls).byte x = s.byte x := rfl
@[simp] theorem State.thread_setLines (i : Nat) (ls : List Line) (x y : Nat) : (s.setLines i ls).thread x y = s.thread x y := rfl
@[simp] theorem State.tile_setLines (i : Nat) (ls : List Line) (x : Nat) : (s.setLines i ls).tile x = s.tile x := rfl
@[simp] theorem State.job_setLines (i : Nat) (ls : List Line) (x : Nat) : (s.setLines i ls).job x = s.job x := rfl
@[simp] theorem State.dom_setLines (i : Nat) (ls : List Line) (x : Nat) : (s.setLines i ls).dom x = s.dom x := rfl
@[simp] theorem State.isOn_setLines (i : Nat) (ls : List Line) (x : Nat) : (s.setLines i ls).isOn x = s.isOn x := rfl
@[simp] theorem State.ctx_setLines (i : Nat) (ls : List Line) (x : Nat) : (s.setLines i ls).ctx x = s.ctx x := rfl
@[simp] theorem State.sch_setLines (i : Nat) (ls : List Line) (x : Nat) : (s.setLines i ls).sch x = s.sch x := rfl
@[simp] theorem State.ent_setLines (i : Nat) (ls : List Line) (x y : Nat) : (s.setLines i ls).ent x y = s.ent x y := rfl
@[simp] theorem State.frame_setLines (i : Nat) (ls : List Line) (x : Nat) : (s.setLines i ls).frame x = s.frame x := rfl
@[simp] theorem State.devId_setLines (i : Nat) (ls : List Line) : (s.setLines i ls).devId = s.devId := rfl
@[simp] theorem State.time_setLines (i : Nat) (ls : List Line) : (s.setLines i ls).time = s.time := rfl
@[simp] theorem State.admin_setLines (i : Nat) (ls : List Line) : (s.setLines i ls).admin = s.admin := rfl
@[simp] theorem State.rd_resumed (k a : Nat) (x : Nat) : (s.resumed k a).rd x = s.rd x := rfl
@[simp] theorem State.fget_resumed (k a : Nat) (x : Nat) (y : Nat × Nat) : (s.resumed k a).fget x y = s.fget x y := rfl
@[simp] theorem State.flag_resumed (k a : Nat) (x : Nat) (y : Nat × Nat) : (s.resumed k a).flag x y = s.flag x y := rfl
@[simp] theorem State.byte_resumed (k a : Nat) (x : Nat) : (s.resumed k a).byte x = s.byte x := rfl
@[simp] theorem State.thread_resumed (k a : Nat) (x y : Nat) : (s.resumed k a).thread x y = s.thread x y := rfl
@[simp] theorem State.tile_resumed (k a : Nat) (x : Nat) : (s.resumed k a).tile x = s.tile x := rfl
@[simp] theorem State.job_resumed (k a : Nat) (x : Nat) : (s.resumed k a).job x = s.job x := rfl
@[simp] theorem State.dom_resumed (k a : Nat) (x : Nat) : (s.resumed k a).dom x = s.dom x := rfl
@[simp] theorem State.isOn_resumed (k a : Nat) (x : Nat) : (s.resumed k a).isOn x = s.isOn x := rfl
@[simp] theorem State.ctx_resumed (k a : Nat) (x : Nat) : (s.resumed k a).ctx x = s.ctx x := rfl
@[simp] theorem State.sch_resumed (k a : Nat) (x : Nat) : (s.resumed k a).sch x = s.sch x := rfl
@[simp] theorem State.ent_resumed (k a : Nat) (x y : Nat) : (s.resumed k a).ent x y = s.ent x y := rfl
@[simp] theorem State.frame_resumed (k a : Nat) (x : Nat) : (s.resumed k a).frame x = s.frame x := rfl
@[simp] theorem State.devId_resumed (k a : Nat) : (s.resumed k a).devId = s.devId := rfl
@[simp] theorem State.time_resumed (k a : Nat) : (s.resumed k a).time = s.time := rfl
@[simp] theorem State.admin_resumed (k a : Nat) : (s.resumed k a).admin = s.admin := rfl

/-! ### Reading a record after its update -/

/-- A thread reads as it was written; the others stay. Threads are numbered below 16 in a tile (R99). -/
theorem State.thread_setThread {a b c d : Nat} (hb : b < 16) (hd : d < 16) (t : Thread) :
    (s.setThread a b t).thread c d = if c = a ∧ d = b then t else s.thread c d := by
  unfold State.thread State.setThread
  rw [Tab.get_set]
  have : (c * 16 + d = a * 16 + b) ↔ (c = a ∧ d = b) := by omega
  simp only [this]

@[simp] theorem State.thread_setThread_self (a b : Nat) (t : Thread) : (s.setThread a b t).thread a b = t := by
  simp [State.thread, State.setThread]

@[simp] theorem State.tile_setTile_self (a : Nat) (x : Tile) : (s.setTile a x).tile a = x := by simp [State.tile, State.setTile]

theorem State.tile_setTile_ne {a b : Nat} (h : b ≠ a) (x : Tile) : (s.setTile a x).tile b = s.tile b := by
  simp [State.tile, State.setTile, Tab.get_set_ne _ _ _ h]

@[simp] theorem State.job_setJob_self (c : Nat) (j : Option Job) : (s.setJob c j).job c = j := by simp [State.job, State.setJob]

theorem State.job_setJob_ne {c d : Nat} (h : d ≠ c) (j : Option Job) : (s.setJob c j).job d = s.job d := by
  simp [State.job, State.setJob, Tab.get_set_ne _ _ _ h]

@[simp] theorem State.dom_setDom_self (d : Nat) (x : Dom) : (s.setDom d x).dom d = x := by simp [State.dom, State.setDom]

theorem State.dom_setDom_ne {d e : Nat} (h : e ≠ d) (x : Dom) : (s.setDom d x).dom e = s.dom e := by
  simp [State.dom, State.setDom, Tab.get_set_ne _ _ _ h]

@[simp] theorem State.rd_wr_self (a : Nat) (v : Word) : (s.wr a v).rd a = v := by simp [State.rd, State.wr]

/-- A register written leaves every other register alone. -/
theorem State.rd_wr_ne {a b : Nat} (h : b ≠ a) (v : Word) : (s.wr a v).rd b = s.rd b := by
  simp [State.rd, State.wr, Tab.get_set_ne _ _ _ h]

theorem State.rd_fset_ne {a b : Nat} (h : b ≠ a) (f : Nat × Nat) (x : Nat) : (s.fset a f x).rd b = s.rd b := State.rd_wr_ne s h _

theorem State.rd_fadd_ne {a b : Nat} (h : b ≠ a) (f : Nat × Nat) (n : Nat) : (s.fadd a f n).rd b = s.rd b := State.rd_wr_ne s h _

theorem State.rd_bump_ne {a b : Nat} (h : b ≠ a) : (s.bump a).rd b = s.rd b := State.rd_wr_ne s h _

@[simp] theorem State.ctx_setCtx_self (c : Nat) (x : Ctx) : (s.setCtx c x).ctx c = x := by simp [State.ctx, State.setCtx]

theorem State.ctx_setCtx_ne {c d : Nat} (h : d ≠ c) (x : Ctx) : (s.setCtx c x).ctx d = s.ctx d := by
  simp [State.ctx, State.setCtx, Tab.get_set_ne _ _ _ h]

@[simp] theorem State.sch_setSch_self (p : Nat) (x : PartS) : (s.setSch p x).sch p = x := by simp [State.sch, State.setSch]

/-- A byte of memory reads as it was written; the others stay (R91). -/
theorem State.byte_putByte (a b c : Nat) : (s.putByte a b).byte c = if c = a then BitVec.ofNat 8 b else s.byte c := by
  simp [State.byte, State.putByte, Tab.get_set]

@[simp] theorem State.ent_setEnt_self (n p : Nat) (e : Word) : (s.setEnt n p e).ent n p = e := by simp [State.ent, State.setEnt]

@[simp] theorem State.frame_setFrame_self (k : Nat) (f : Frame) : (s.setFrame k f).frame k = f := by simp [State.frame, State.setFrame]

/-! ### Fields of a register -/

/-- The bits that a write of a field leaves (R10). -/
theorem setBits_bits (v hi lo x : Nat) : bits (setBits v hi lo x) hi lo = x % 2 ^ (hi + 1 - lo) := by
  unfold setBits bits
  generalize hi + 1 - lo = k
  have hp : 0 < 2 ^ lo := Nat.two_pow_pos lo
  have hk : 0 < 2 ^ k := Nat.two_pow_pos k
  have e1 : v = v / 2 ^ lo * 2 ^ lo + v % 2 ^ lo := by rw [Nat.mul_comm]; exact (Nat.div_add_mod v _).symm
  generalize v / 2 ^ lo = q at e1
  have hr : v % 2 ^ lo < 2 ^ lo := Nat.mod_lt _ hp
  generalize v % 2 ^ lo = r at e1 hr
  have e2 : q = q / 2 ^ k * 2 ^ k + q % 2 ^ k := by rw [Nat.mul_comm]; exact (Nat.div_add_mod q _).symm
  have e3 : q * 2 ^ lo = q / 2 ^ k * 2 ^ k * 2 ^ lo + q % 2 ^ k * 2 ^ lo := by rw [← Nat.add_mul, ← e2]
  have e4 : v - q % 2 ^ k * 2 ^ lo + x % 2 ^ k * 2 ^ lo = r + (q / 2 ^ k * 2 ^ k + x % 2 ^ k) * 2 ^ lo := by
    rw [Nat.add_mul]; omega
  rw [e4, Nat.add_mul_div_right _ _ hp, Nat.div_eq_of_lt hr, Nat.zero_add, Nat.mul_comm, Nat.mul_add_mod, Nat.mod_mod]

/-- A field written reads as written, in the registers of up to 64 bits (R10). -/
theorem State.fget_fset_self (s : State) (a : Nat) (f : Nat × Nat) (x : Nat) (h : f.2 ≤ f.1) (hw : f.1 < 64) :
    (s.fset a f x).fget a f = x % 2 ^ (f.1 + 1 - f.2) := by
  unfold State.fget State.fset
  rw [State.rd_wr_self]
  have hb : setBits (s.rd a).toNat f.1 f.2 x < 2 ^ 64 := by
    unfold setBits
    have h1 : x % 2 ^ (f.1 + 1 - f.2) < 2 ^ (f.1 + 1 - f.2) := Nat.mod_lt _ (Nat.two_pow_pos _)
    generalize x % 2 ^ (f.1 + 1 - f.2) = y at h1
    have hv : (s.rd a).toNat < 2 ^ 64 := (s.rd a).isLt
    generalize (s.rd a).toNat = v at hv
    unfold bits
    have hp : 0 < 2 ^ f.2 := Nat.two_pow_pos _
    have e1 : v = v / 2 ^ f.2 * 2 ^ f.2 + v % 2 ^ f.2 := by rw [Nat.mul_comm]; exact (Nat.div_add_mod v _).symm
    have hr : v % 2 ^ f.2 < 2 ^ f.2 := Nat.mod_lt _ hp
    have e2 : v / 2 ^ f.2 = v / 2 ^ f.2 / 2 ^ (f.1 + 1 - f.2) * 2 ^ (f.1 + 1 - f.2) + v / 2 ^ f.2 % 2 ^ (f.1 + 1 - f.2) := by
      rw [Nat.mul_comm]; exact (Nat.div_add_mod _ _).symm
    have e3 : 2 ^ (f.1 + 1 - f.2) * 2 ^ f.2 = 2 ^ (f.1 + 1) := by rw [← Nat.pow_add]; congr 1; omega
    have e4 : 2 ^ (f.1 + 1) * 2 ^ (63 - f.1) = 2 ^ 64 := by rw [← Nat.pow_add]; congr 1; omega
    have e5 : v / 2 ^ f.2 / 2 ^ (f.1 + 1 - f.2) = v / 2 ^ (f.1 + 1) := by rw [Nat.div_div_eq_div_mul, Nat.mul_comm, e3]
    have e6 : v / 2 ^ (f.1 + 1) < 2 ^ (63 - f.1) := by
      rw [Nat.div_lt_iff_lt_mul (Nat.two_pow_pos _), Nat.mul_comm, e4]; exact hv
    have e7 : v / 2 ^ f.2 * 2 ^ f.2 = v / 2 ^ (f.1 + 1) * 2 ^ (f.1 + 1) + v / 2 ^ f.2 % 2 ^ (f.1 + 1 - f.2) * 2 ^ f.2 := by
      conv => lhs; rw [e2]
      rw [Nat.add_mul, Nat.mul_assoc, e3, e5]
    have e8 : y * 2 ^ f.2 + 2 ^ f.2 ≤ 2 ^ (f.1 + 1) := by
      rw [← e3]
      calc y * 2 ^ f.2 + 2 ^ f.2 = (y + 1) * 2 ^ f.2 := by rw [Nat.add_mul, Nat.one_mul]
        _ ≤ 2 ^ (f.1 + 1 - f.2) * 2 ^ f.2 := Nat.mul_le_mul_right _ h1
    have e9 : v / 2 ^ (f.1 + 1) * 2 ^ (f.1 + 1) + 2 ^ (f.1 + 1) ≤ 2 ^ 64 := by
      rw [← e4]
      calc v / 2 ^ (f.1 + 1) * 2 ^ (f.1 + 1) + 2 ^ (f.1 + 1) = (v / 2 ^ (f.1 + 1) + 1) * 2 ^ (f.1 + 1) := by rw [Nat.add_mul, Nat.one_mul]
        _ ≤ 2 ^ (63 - f.1) * 2 ^ (f.1 + 1) := Nat.mul_le_mul_right _ e6
        _ = 2 ^ (f.1 + 1) * 2 ^ (63 - f.1) := Nat.mul_comm _ _
    omega
  rw [BitVec.toNat_ofNat, Nat.mod_eq_of_lt hb, setBits_bits]

/-! ### Registers of a thread -/

namespace Thread
variable (t : Thread)

@[simp] theorem getX_zero : t.getX 0 = 0 := by simp [getX]
@[simp] theorem xpsn_zero : t.xpsn 0 = false := by simp [xpsn]
@[simp] theorem setX_zero (v : Word) (p : Bool) : t.setX 0 v p = t := by simp [setX]
@[simp] theorem getP_zero : t.getP 0 = 0xFFFFFFFF := by simp [getP]
@[simp] theorem setP_zero (v : Lane) : t.setP 0 v = t := by simp [setP]

/-- A scalar register reads as it was written, s0 apart; the others stay (R133). -/
theorem getX_setX (r q : RegNo) (v : Word) (p : Bool) : (t.setX r v p).getX q = if q = r ∧ r ≠ 0 then v else t.getX q := by
  unfold getX setX
  by_cases hr : r = 0
  · simp [hr]
  · by_cases hq : q = 0
    · have : ¬(q = r ∧ r ≠ 0) := fun h => hr (h.1 ▸ hq)
      rw [if_pos hq, if_neg this, if_pos hq]
    · simp only [hr, hq, if_false, Tab.get_set, ne_eq, not_false_eq_true, and_true]
      have : q.toNat = r.toNat ↔ q = r := ⟨fun h => BitVec.eq_of_toNat_eq h, fun h => by rw [h]⟩
      simp only [this]

/-- A scalar register's mark reads as it was written (R135). -/
theorem xpsn_setX (r q : RegNo) (v : Word) (p : Bool) : (t.setX r v p).xpsn q = if q = r ∧ r ≠ 0 then p else t.xpsn q := by
  unfold xpsn setX
  by_cases hr : r = 0
  · simp [hr]
  · by_cases hq : q = 0
    · have : ¬(q = r ∧ r ≠ 0) := fun h => hr (h.1 ▸ hq)
      rw [if_neg this, hq]; rfl
    · have : q.toNat = r.toNat ↔ q = r := ⟨fun h => BitVec.eq_of_toNat_eq h, fun h => by rw [h]⟩
      have hb : (q != 0) = true := bne_iff_ne.2 hq
      rw [if_neg hr]
      simp only [NSet.has_put, this, hr, hb, Bool.true_and, ne_eq, not_false_eq_true, and_true]

/-- A lane reads as it was written; the others stay (R134). -/
theorem getV_setV (r q : RegNo) {i j : Nat} (hi : i < 32) (hj : j < 32) (v : Lane) (p : Bool) :
    (t.setV r i v p).getV q j = if q = r ∧ j = i then v else t.getV q j := by
  unfold getV setV
  simp only [Tab.get_set]
  have : (32 * q.toNat + j = 32 * r.toNat + i) ↔ (q = r ∧ j = i) :=
    ⟨fun h => ⟨BitVec.eq_of_toNat_eq (by omega), by omega⟩, fun h => by rw [h.1, h.2]⟩
  simp only [this]

/-- A predicate reads as it was written, p0 apart; the others stay (R133). -/
theorem getP_setP (r q : PredNo) (v : Lane) : (t.setP r v).getP q = if q = r ∧ r ≠ 0 then v else t.getP q := by
  unfold getP setP
  by_cases hr : r = 0
  · simp [hr]
  · by_cases hq : q = 0
    · have : ¬(q = r ∧ r ≠ 0) := fun h => hr (h.1 ▸ hq)
      rw [if_pos hq, if_neg this, if_pos hq]
    · simp only [hr, hq, if_false, Tab.get_set, ne_eq, not_false_eq_true, and_true]
      have : q.toNat = r.toNat ↔ q = r := ⟨fun h => BitVec.eq_of_toNat_eq h, fun h => by rw [h]⟩
      simp only [this]

end Thread

end Sys2Proof.Machine
end

