-- ==== Sys2Proof/Laws/Ops.lean ====
section
/-!
SUPPORT. What the shared operations of the thread instructions do: issuing, retiring, taking an exception.
-/
namespace Sys2Proof.Machine

variable {s t : State} {h : Th} {xs vs : List RegNo} {k : Thread → State}

/-! ### Issue -/

/-- An instruction that executes has its own effect and nothing else. -/
theorem issue_executes (hx : s.Executes h xs vs) :
    issue h xs vs s k = .next ((k (s.th h)).resumed (h.tile * 16 + h.thr) 0) := by
  obtain ⟨h1, h2, h3, h4, h5⟩ := hx
  have h6 : ¬(128 ≤ h.tile ∨ 16 ≤ h.thr) := by omega
  simp only [State.th] at *
  simp [issue, h6, h3, h4, h5]

/-- A command that names a tile or a thread the device does not have is a fault. -/
theorem issue_noSuchUnit (hn : 128 ≤ h.tile ∨ 16 ≤ h.thr) : issue h xs vs s k = .fault .noSuchUnit := by
  simp [issue, hn]

/-- An instruction that cannot issue yet waits and changes nothing. -/
theorem issue_waits (h1 : h.tile < 128) (h2 : h.thr < 16) (hc : s.canIssue h xs vs = false) : issue h xs vs s k = .next s := by
  have h6 : ¬(128 ≤ h.tile ∨ 16 ≤ h.thr) := by omega
  simp [issue, h6, hc]

/-- Everything issuing can do: a fault for a unit that does not exist, no change, an exception of the fetch, or the instruction's own effect. -/
theorem issue_cases : issue h xs vs s k = .fault .noSuchUnit ∨ issue h xs vs s k = .next s ∨
    (∃ c a, issue h xs vs s k = .next ((s.raise h.tile h.thr c 0 a).resumed (h.tile * 16 + h.thr) 0)) ∨
    issue h xs vs s k = .next ((k (s.th h)).resumed (h.tile * 16 + h.thr) 0) := by
  unfold issue
  by_cases h1 : 128 ≤ h.tile ∨ 16 ≤ h.thr
  · exact .inl (if_pos h1)
  rw [if_neg h1]
  by_cases h2 : (!s.canIssue h xs vs) = true
  · exact .inr (.inl (if_pos h2))
  rw [if_neg h2]
  refine .inr (.inr ?_)
  by_cases h3 : (!s.fetchOk (s.tenantAt h.tile) (s.thread h.tile h.thr).pc) = true
  · exact .inl ⟨excAccess, (s.thread h.tile h.thr).pc, by simp only [if_pos h3]⟩
  simp only [if_neg h3]
  cases h.fetch
  · exact .inr rfl
  all_goals exact .inl ⟨_, _, rfl⟩

/-! ### Retiring -/

theorem State.resumed_th (key acc : Nat) (g : Th) : (s.resumed key acc).th g = s.th g := rfl

/-- Putting the thread back and using up its resumption changes nothing else. -/
theorem onlyThread_setThread (u : Thread) : s.OnlyThread h ((s.setThread h.tile h.thr u).resumed (h.tile * 16 + h.thr) 0) := by
  refine ⟨by simp [State.resumed, State.setThread], fun a b hab => ?_, fun a => rfl⟩
  simp [State.resumed, State.thread, State.setThread, Tab.get_set, hab]

theorem th_setThread (u : Thread) : (s.setThread h.tile h.thr u).th h = u := by simp [State.th]

/-- An instruction that writes one scalar register and goes on. -/
theorem wroteX_setThread (rd : RegNo) (v : Word) (z : Bool) (pc : Word) :
    s.WroteX h rd v z pc ((s.setThread h.tile h.thr { (s.th h).setX rd v z with pc := pc, instret := (s.th h).instret + 1 }).resumed (h.tile * 16 + h.thr) 0) := by
  have e : ∀ (x : Tab Word) (xp : NSet) (q : RegNo), Thread.getX { s.th h with x := x, xp := xp, pc := pc, instret := (s.th h).instret + 1 } q = Thread.getX { s.th h with x := x, xp := xp } q := fun _ _ _ => rfl
  refine ⟨onlyThread_setThread _, fun r => ?_, fun r => ?_, ?_⟩
  · rw [State.resumed_th, th_setThread]
    have := Thread.getX_setX (s.th h) rd r v z
    by_cases hr : r = rd
    · subst hr; simpa [Thread.getX] using this
    · simpa [hr, Thread.getX] using this
  · rw [State.resumed_th, th_setThread]
    have := Thread.xpsn_setX (s.th h) rd r v z
    by_cases hr : r = rd
    · subst hr; simpa [Thread.xpsn] using this
    · simpa [hr, Thread.xpsn] using this
  · rw [State.resumed_th, th_setThread]
    unfold Thread.setX
    split <;> rfl

/-- Retiring after writing one scalar register. -/
theorem wroteX_retire (rd : RegNo) (v : Word) (z : Bool) :
    s.WroteX h rd v z ((s.th h).pc + 4) ((s.retire h ((s.th h).setX rd v z)).resumed (h.tile * 16 + h.thr) 0) := by
  have := wroteX_setThread (s := s) (h := h) rd v z ((s.th h).pc + 4)
  unfold State.retire
  have e1 : ((s.th h).setX rd v z).pc = (s.th h).pc := by unfold Thread.setX; split <;> rfl
  have e2 : ((s.th h).setX rd v z).instret = (s.th h).instret := by unfold Thread.setX; split <;> rfl
  rw [e1, e2]; exact this

/-- Jumping after writing one scalar register. -/
theorem wroteX_jump (rd : RegNo) (v : Word) (z : Bool) (pc : Word) :
    s.WroteX h rd v z pc ((s.jump h ((s.th h).setX rd v z) pc).resumed (h.tile * 16 + h.thr) 0) := by
  have e : ((s.th h).setX rd v z).instret = (s.th h).instret := by unfold Thread.setX; split <;> rfl
  unfold State.jump
  rw [e]; exact wroteX_setThread rd v z pc

/-- Going on without a result. -/
theorem wentTo_setThread (pc : Word) :
    s.WentTo h pc ((s.setThread h.tile h.thr { s.th h with pc := pc, instret := (s.th h).instret + 1 }).resumed (h.tile * 16 + h.thr) 0) := by
  exact ⟨onlyThread_setThread _, by rw [State.resumed_th, th_setThread]⟩

/-- Retiring after writing one predicate. -/
theorem wroteP_retire (pd : PredNo) (v : Lane) :
    s.WroteP h pd v ((s.retire h ((s.th h).setP pd v)).resumed (h.tile * 16 + h.thr) 0) := by
  have e1 : ((s.th h).setP pd v).pc = (s.th h).pc := by unfold Thread.setP; split <;> rfl
  have e2 : ((s.th h).setP pd v).instret = (s.th h).instret := by unfold Thread.setP; split <;> rfl
  refine ⟨onlyThread_setThread _, fun q => ?_, ?_⟩
  · rw [State.resumed_th, State.retire, th_setThread]
    have := Thread.getP_setP (s.th h) pd q v
    by_cases hr : q = pd
    · subst hr; simpa [Thread.getP] using this
    · simpa [hr, Thread.getP] using this
  · rw [State.resumed_th, State.retire, th_setThread, e1, e2]
    unfold Thread.setP
    split <;> rfl

/-! ### Vector lanes -/

theorem Thread.setV_get (u : Thread) (vd r : RegNo) (i j : Nat) (hi : i < 32) (hj : j < 32) (v : Lane) (z : Bool) :
    (u.setV vd i v z).getV r j = (if r = vd ∧ j = i then v else u.getV r j) ∧
    (u.setV vd i v z).vpsn r j = (if r = vd ∧ j = i then z else u.vpsn r j) := by
  have key : (32 * r.toNat + j = 32 * vd.toNat + i) ↔ (r = vd ∧ j = i) := by
    constructor
    · intro e
      have h1 : r.toNat = vd.toNat := by omega
      exact ⟨BitVec.eq_of_toNat_eq h1, by omega⟩
    · rintro ⟨rfl, rfl⟩; rfl
  constructor
  · simp only [Thread.getV, Thread.setV, Tab.get_set, key]
  · simp only [Thread.vpsn, Thread.setV, NSet.has_put, key]

/-- What folding writes of distinct lanes leaves in each lane, and that only the vector file changes. -/
theorem foldl_setV (vd : RegNo) (f : Nat → Lane) (z : Nat → Bool) :
    ∀ (l : List Nat) (u : Thread), (∀ i ∈ l, i < 32) →
      (∀ r j, j < 32 → (l.foldl (fun u i => u.setV vd i (f i) (z i)) u).getV r j = if r = vd ∧ j ∈ l then f j else u.getV r j) ∧
      (∀ r j, j < 32 → (l.foldl (fun u i => u.setV vd i (f i) (z i)) u).vpsn r j = if r = vd ∧ j ∈ l then z j else u.vpsn r j) ∧
      ∃ v vp, l.foldl (fun u i => u.setV vd i (f i) (z i)) u = { u with v := v, vp := vp }
  | [], u, _ => ⟨by simp, by simp, u.v, u.vp, rfl⟩
  | i :: l, u, hl => by
    have hi := hl i (by simp)
    obtain ⟨h1, h2, v, vp, h3⟩ := foldl_setV vd f z l (u.setV vd i (f i) (z i)) (fun j hj => hl j (by simp [hj]))
    refine ⟨fun r j hj => ?_, fun r j hj => ?_, v, vp, ?_⟩
    · rw [List.foldl_cons, h1 r j hj, (Thread.setV_get u vd r i j hi hj _ _).1]
      by_cases hr : r = vd <;> by_cases hm : j ∈ l <;> by_cases he : j = i <;> simp_all
    · rw [List.foldl_cons, h2 r j hj, (Thread.setV_get u vd r i j hi hj _ _).2]
      by_cases hr : r = vd <;> by_cases hm : j ∈ l <;> by_cases he : j = i <;> simp_all
    · rw [List.foldl_cons, h3]; rfl

/-- Retiring after a thread whose vector file alone has changed. -/
theorem wroteV_retire (vd : RegNo) (on : Nat → Bool) (v : Nat → Lane) (z : Nat → Bool) (u : Thread)
    (h1 : ∀ r j, j < 32 → u.getV r j = if r = vd ∧ on j = true then v j else (s.th h).getV r j)
    (h2 : ∀ r j, j < 32 → u.vpsn r j = if r = vd ∧ on j = true then z j else (s.th h).vpsn r j)
    (h3 : ∃ a b, u = { s.th h with v := a, vp := b }) :
    s.WroteV h vd on v z ((s.retire h u).resumed (h.tile * 16 + h.thr) 0) := by
  obtain ⟨a, b, rfl⟩ := h3
  refine ⟨onlyThread_setThread _, ?_, ?_, ?_⟩
  · intro r i hi; rw [State.resumed_th, State.retire, th_setThread]; exact h1 r i hi
  · intro r i hi; rw [State.resumed_th, State.retire, th_setThread]; exact h2 r i hi
  · rw [State.resumed_th, State.retire, th_setThread]

theorem Thread.mem_active (t : Thread) (g : PredNo) (i : Nat) (hi : i < 32) : i ∈ t.active g ↔ t.isActive g i = true := by
  simp [Thread.active, bitsOf, Thread.isActive, hi]

theorem Thread.active_lt (t : Thread) (g : PredNo) : ∀ i ∈ t.active g, i < 32 := by
  intro i hi; simp [Thread.active, bitsOf] at hi; exact hi.1

/-- Retiring after a lane-wise operation. -/
theorem wroteV_mapLanes (vd : RegNo) (g : PredNo) (f : Nat → Lane × Bool) :
    s.WroteV h vd ((s.th h).isActive g) (fun i => (f i).1) (fun i => (f i).2)
      ((s.retire h ((s.th h).mapLanes vd g f)).resumed (h.tile * 16 + h.thr) 0) := by
  obtain ⟨h1, h2, h3⟩ := foldl_setV vd (fun i => (f i).1) (fun i => (f i).2) ((s.th h).active g) (s.th h) (Thread.active_lt _ g)
  refine wroteV_retire vd _ _ _ _ (fun r j hj => ?_) (fun r j hj => ?_) h3
  · rw [Thread.mapLanes, h1 r j hj]; simp only [Thread.mem_active _ g j hj]
  · rw [Thread.mapLanes, h2 r j hj]; simp only [Thread.mem_active _ g j hj]

end Sys2Proof.Machine
end

