-- ==== Sys2Proof/Laws/Mem.lean ====
section
/-!
SUPPORT. What the memory operations do: the bytes each writes and the bytes it leaves, and that each keeps memory in canonical form.
-/
namespace Sys2Proof.Machine

/-! ### Folding writes of bytes -/

/-- Bytes written one after another at rising addresses. -/
theorem byte_foldl_putByte (a : Nat) (cov : Nat → Bool) (byte : Nat → Nat) :
    ∀ (n : Nat) (s : State) (x : Nat),
      ((List.range n).foldl (fun s i => if cov (a + i) then s.putByte (a + i) (byte (a + i)) else s) s).byte x =
        if a ≤ x ∧ x < a + n ∧ cov x = true then BitVec.ofNat 8 (byte x) else s.byte x
  | 0, s, x => by simp; intro h1 h2; omega
  | n + 1, s, x => by
    rw [List.range_succ, List.foldl_append]
    simp only [List.foldl_cons, List.foldl_nil]
    by_cases hc : cov (a + n) = true
    · rw [if_pos hc, State.byte_putByte, byte_foldl_putByte]
      by_cases hx : x = a + n
      · subst hx; simp [hc]
      · have : (x < a + n) ↔ (x < a + (n + 1)) := by omega
        simp only [if_neg hx, this]
    · rw [if_neg hc, byte_foldl_putByte]
      by_cases hx : x = a + n
      · subst hx; simp [hc]
      · have : (x < a + n) ↔ (x < a + (n + 1)) := by omega
        simp only [this]

/-- A fold of updates that each leave one reading alone leaves it alone. -/
theorem foldl_same {α β : Type} (f : State → α → State) (r : State → β) (h : ∀ s x, r (f s x) = r s) :
    ∀ (l : List α) (s : State), r (l.foldl f s) = r s
  | [], _ => rfl
  | x :: l, s => by rw [List.foldl_cons, foldl_same f r h l, h]

/-- A fold of updates that each keep a property keeps it. -/
theorem foldl_keeps {α : Type} (P : State → Prop) (f : State → α → State) (h : ∀ s x, P s → P (f s x)) :
    ∀ (l : List α) (s : State), P s → P (l.foldl f s)
  | [], _, hs => hs
  | x :: l, s, hs => foldl_keeps P f h l (f s x) (h s x hs)

/-- What a write at home leaves in memory (R609): the covered bytes are written, every other byte stays. -/
theorem byte_homeWrite (s : State) (lo n : Nat) (byte : Nat → Nat) (cov pz : Nat → Bool) (hl : s.isLost lo = false)
    (hp : (List.range n).any (fun i => cov (lo + i) && pz (lo + i)) = false ∨ area lo 1 ≠ .t2) (x : Nat) :
    (s.homeWrite lo n byte cov pz).byte x =
      if lo ≤ x ∧ x < lo + n ∧ cov x = true then BitVec.ofNat 8 (byte x) else s.byte x := by
  have h2 : ¬(area lo 1 = .t2 ∧ (!s.inlineEcc (chanOf lo)) = true ∧ (List.range n).any (fun i => cov (lo + i) && pz (lo + i)) = true) := by
    rintro ⟨h, -, h'⟩
    cases hp with
    | inl h3 => rw [h3] at h'; cases h'
    | inr h3 => exact h3 h
  unfold State.homeWrite
  simp only [hl]
  rw [if_neg (by decide), if_neg h2]
  rw [foldl_same (r := fun s => s.byte x)]
  · exact byte_foldl_putByte lo cov byte n s x
  · intro s i
    split
    · rfl
    · split <;> rfl

/-- What a store at home leaves in memory. -/
theorem byte_homeStore (s : State) (a : Nat) (bs : List Nat) (p : Bool) (hl : s.isLost a = false) (hp : p = false ∨ area a 1 ≠ .t2) (x : Nat) :
    (s.homeStore a bs p).byte x = if a ≤ x ∧ x < a + bs.length then BitVec.ofNat 8 (bs.getD (x - a) 0) else s.byte x := by
  unfold State.homeStore
  rw [byte_homeWrite s a bs.length _ _ _ hl]
  · simp
  · cases hp with
    | inl h => left; simp [h]
    | inr h => right; exact h

/-! ### Operations that leave memory alone -/

@[simp] theorem State.mem_touchPage (s : State) (n : Nat) (va : Word) : (s.touchPage n va).mem = s.mem := by
  unfold State.touchPage
  split
  · split
    · simp only; split <;> rfl
    · rfl
  · rfl

@[simp] theorem State.mem_abortEntry (s : State) (d : Nat) : (s.abortEntry d).mem = s.mem := by
  unfold State.abortEntry
  split
  · rfl
  · simp only [State.bump_mem, State.fset_mem]
    repeat' split
    all_goals rfl

theorem State.threads_abortEntry (s : State) (d : Nat) : (s.abortEntry d).threads = s.threads := by
  unfold State.abortEntry
  split
  · rfl
  · simp only [State.bump_threads, State.fset_threads]
    repeat' split
    all_goals rfl

@[simp] theorem State.mem_abortAll (s : State) (v : Via) (ps : List Part) : (s.abortAll v ps).mem = s.mem := by
  unfold State.abortAll
  exact foldl_same _ (fun s => s.mem) (fun s p => foldl_same _ (fun s => s.mem) (fun s d => State.mem_abortEntry s d) _ _) _ _

theorem State.threads_abortAll (s : State) (v : Via) (ps : List Part) : (s.abortAll v ps).threads = s.threads := by
  unfold State.abortAll
  exact foldl_same _ (fun s => s.threads) (fun s p => foldl_same _ (fun s => s.threads) (fun s d => State.threads_abortEntry s d) _ _) _ _

/-- A stall that is charged changes the arbitration record alone (R90). -/
theorem stallFor_keeps (s : State) (part tier cause ns : Nat) : ∃ x, s.stallFor part tier cause ns = { s with arb := x } := by
  unfold State.stallFor
  simp only
  split
  · exact ⟨_, rfl⟩
  · exact ⟨s.arb, rfl⟩

/-- A translation's use changes the translation caches, the arbitration record and the draw of free values alone (R72, R78). -/
theorem translated_keeps (s : State) (v : Via) (page : Nat) :
    ∃ t x f, s.translated v page = { s with tlb := t, arb := x, free := f } := by
  unfold State.translated
  simp only
  repeat' split
  all_goals first
    | exact ⟨_, s.arb, s.free, rfl⟩
    | exact (stallFor_keeps _ _ _ _ _).elim fun x hx => ⟨_, x, s.free + 1, hx⟩

/-- Marking a page ACCESSED changes the translation tables and their caches alone (R77). -/
theorem touchPage_keeps (s : State) (n : Nat) (va : Word) : ∃ c t, s.touchPage n va = { s with vc := c, tlb := t } := by
  unfold State.touchPage
  split
  · split
    · simp only
      split
      · exact ⟨_, _, rfl⟩
      · exact ⟨s.vc, s.tlb, rfl⟩
    · exact ⟨s.vc, s.tlb, rfl⟩
  · exact ⟨s.vc, s.tlb, rfl⟩

/-- An access to an object page changes the translation tables, their caches, the arbitration record and the draw of free values alone. -/
theorem touch_keeps (s : State) (v : Via) (va : Word) : ∃ c t x f, s.touch v va = { s with vc := c, tlb := t, arb := x, free := f } := by
  unfold State.touch
  split
  · rename_i a _
    split
    · obtain ⟨c, t, h1⟩ := touchPage_keeps s v.tenant va
      obtain ⟨t', x, f, h2⟩ := translated_keeps (s.touchPage v.tenant va) v ((a - objBase) / pageSize)
      exact ⟨c, t', x, f, by rw [h2, h1]⟩
    · exact ⟨s.vc, s.tlb, s.arb, s.free, rfl⟩
  · exact ⟨s.vc, s.tlb, s.arb, s.free, rfl⟩

/-- Using the pages of an access leaves whatever does not read those parts of the state. -/
theorem touchAll_same {β : Type} (r : State → β) (hr : ∀ (s : State) c t x f, r { s with vc := c, tlb := t, arb := x, free := f } = r s)
    (s : State) (v : Via) (qs : List LaneReq) : r (s.touchAll v qs) = r s :=
  foldl_same _ r (fun s (q : LaneReq) => by obtain ⟨c, t, x, f, h⟩ := touch_keeps s v q.va; simp only [h, hr]) _ _

@[simp] theorem State.mem_touchAll (s : State) (v : Via) (qs : List LaneReq) : (s.touchAll v qs).mem = s.mem :=
  touchAll_same (fun s => s.mem) (fun _ _ _ _ _ => rfl) s v qs

theorem State.threads_touchAll (s : State) (v : Via) (qs : List LaneReq) : (s.touchAll v qs).threads = s.threads :=
  touchAll_same (fun s => s.threads) (fun _ _ _ _ _ => rfl) s v qs

/-! ### Planning one access to memory of this device -/

/-- A single aligned access that translates to memory of this device whose domains are On is planned whole. -/
theorem plan_single (s : State) (v : Via) (wr home ctl : Bool) (l n d a : Nat) (va : Word) (p : Bool)
    (hal : va.toNat % n = 0) (hr : s.resolve v.tenant va n wr = .ok (.mem a)) (hd : ∀ d ∈ s.locDoms (.mem a), s.isOn d = true) :
    s.plan v wr home ctl [⟨l, va, n, d, p⟩] = .go [⟨l, .mem a, va, n, d, p, 0⟩] [] := by
  have hgo : s.domCheck (s.needDoms v home (.mem a)) = .go := by
    unfold State.domCheck
    have : (s.needDoms v home (.mem a)).filter (fun d => !s.isOn d) = [] := by
      rw [List.filter_eq_nil_iff]
      intro x hx
      have hm : x ∈ s.locDoms (.mem a) := by
        unfold State.needDoms at hx
        split at hx
        · cases hx
        · exact hx
      simp [hd x hm]
    simp [this]
  have h1 : s.planLanes v wr home ctl [⟨l, va, n, d, p⟩] [] [] = .go [⟨l, .mem a, va, n, d, p, 0⟩] [] := by
    simp [State.planLanes, hal, hr, hgo]
  simp [State.plan, h1, hgo]

/-- Aborting an entry leaves every domain as On as it was (R476). -/
@[simp] theorem State.isOn_abortEntry (s : State) (d e : Nat) : (s.abortEntry d).isOn e = s.isOn e := by
  have key : ∀ (en : Option DState) (f : Nat), (s.setDom d { s.dom d with entering := en, force := f }).isOn e = s.isOn e := by
    intro en f
    unfold State.isOn
    by_cases h : e = d
    · subst h; rw [State.dom_setDom_self]
    · rw [State.dom_setDom_ne _ h]
  unfold State.abortEntry
  split
  · rfl
  · simp only [State.isOn_bump, State.isOn_fset]
    repeat' split
    all_goals exact key _ _

@[simp] theorem State.isOn_abortAll (s : State) (v : Via) (ps : List Part) (e : Nat) : (s.abortAll v ps).isOn e = s.isOn e := by
  unfold State.abortAll
  exact foldl_same _ (fun s => s.isOn e) (fun s p => foldl_same _ (fun s => s.isOn e) (fun s d => State.isOn_abortEntry s d e) _ _) _ _

@[simp] theorem State.isOn_touchAll (s : State) (v : Via) (qs : List LaneReq) (e : Nat) : (s.touchAll v qs).isOn e = s.isOn e :=
  touchAll_same (fun s => s.isOn e) (fun _ _ _ _ _ => rfl) s v qs

/-- Noting a poisoned store touches the job alone (R356). -/
theorem notePoison_keeps (s : State) (tile : Nat) (ps : List Part) : s.notePoison tile ps = { s with jobs := (s.notePoison tile ps).jobs } := by
  unfold State.notePoison State.noteStat
  repeat' split
  all_goals rfl

/-- A store to memory of this device sends nothing to a peer. -/
theorem sendWrites_local (s : State) (v : Via) (h : Th) (id l n d a : Nat) (rel : Bool) (va : Word) (z : Bool) :
    s.sendWrites v h id rel [⟨l, .mem a, va, n, d, z, 0⟩] = (s, [⟨l, .mem a, va, n, d, z, 0⟩]) := rfl

/-- The tier a stalled access of memory is charged to (R90). -/
theorem chargeTier_mem (a : Nat) : chargeTier (Loc.tier (.mem a)) = if area a 1 = .t2 then 2 else 1 := by
  by_cases h1 : area a 1 = .t1
  · simp [Loc.tier, tierOf, chargeTier, h1]
  by_cases h2 : area a 1 = .t2
  · simp [Loc.tier, tierOf, chargeTier, h2]
  · simp [Loc.tier, tierOf, chargeTier, h2]

/-! ### Memory keeps its canonical form -/

theorem wf_putByte {s : State} (h : Memory.wf s.mem = true) (a b : Nat) : Memory.wf (s.putByte a b).mem = true := Tab.wf_set h _ _

theorem wf_layBytes {s : State} (h : Memory.wf s.mem = true) (a : Nat) (bs : List Nat) : Memory.wf (s.layBytes a bs).mem = true := by
  unfold State.layBytes
  refine foldl_keeps (fun s => Memory.wf s.mem = true) _ (fun s i hs => ?_) _ _ ?_
  · split <;> exact hs
  · exact foldl_keeps (fun s => Memory.wf s.mem = true) _ (fun s i hs => wf_putByte hs _ _) _ _ h

theorem wf_zeroFill {s : State} (h : Memory.wf s.mem = true) (a n : Nat) : Memory.wf (s.zeroFill a n).mem = true := Tab.wf_clear h _ _

theorem wf_copyRange {s : State} (h : Memory.wf s.mem = true) (src dst n : Nat) : Memory.wf (s.copyRange src dst n).mem = true := by
  unfold State.copyRange
  exact foldl_keeps (fun s => Memory.wf s.mem = true) _ (fun s c hs => wf_putByte hs _ _) _ _ (wf_zeroFill h _ _)

end Sys2Proof.Machine
end

