-- ==== Sys2Proof/Laws/Regs.lean ====
section
/-!
SUPPORT. Registers and their fields: what a field reads as after a write of another field, and which registers a run of updates may have changed.
-/
namespace Sys2Proof.Machine

/-! ### Bits of a number -/

theorem testBit_bits (v hi lo i : Nat) : (bits v hi lo).testBit i = (decide (i < hi + 1 - lo) && v.testBit (lo + i)) := by
  unfold bits
  rw [Nat.testBit_mod_two_pow, Nat.testBit_div_two_pow, Nat.add_comm i lo]

/-- The bits of a number after one of its fields was replaced (R10). -/
theorem testBit_setBits (v hi lo x i : Nat) (h : lo ≤ hi) :
    (setBits v hi lo x).testBit i = if lo ≤ i ∧ i ≤ hi then x.testBit (i - lo) else v.testBit i := by
  have hk : hi + 1 - lo + lo = hi + 1 := by omega
  generalize hkk : hi + 1 - lo = k at hk
  have hp : 0 < 2 ^ lo := Nat.two_pow_pos lo
  have e1 : v = 2 ^ lo * (v / 2 ^ lo) + v % 2 ^ lo := (Nat.div_add_mod v _).symm
  have e2 : v / 2 ^ lo = 2 ^ k * (v / 2 ^ lo / 2 ^ k) + v / 2 ^ lo % 2 ^ k := (Nat.div_add_mod _ _).symm
  have hr : v % 2 ^ lo < 2 ^ lo := Nat.mod_lt _ hp
  have hx : x % 2 ^ k < 2 ^ k := Nat.mod_lt _ (Nat.two_pow_pos k)
  have hb : bits v hi lo = v / 2 ^ lo % 2 ^ k := by simp [bits, hkk]
  have hs : setBits v hi lo x = 2 ^ lo * (2 ^ k * (v / 2 ^ lo / 2 ^ k) + x % 2 ^ k) + v % 2 ^ lo := by
    unfold setBits
    rw [hb, hkk]
    generalize v / 2 ^ lo % 2 ^ k = m at e2
    generalize v / 2 ^ lo / 2 ^ k = q at e2
    generalize x % 2 ^ k = y
    rw [e2] at e1
    rw [Nat.mul_add] at e1 ⊢
    rw [Nat.mul_comm m, Nat.mul_comm y]
    omega
  have hv : v.testBit i = (2 ^ lo * (2 ^ k * (v / 2 ^ lo / 2 ^ k) + v / 2 ^ lo % 2 ^ k) + v % 2 ^ lo).testBit i := by rw [← e2, ← e1]
  rw [hs, hv]
  have hm : v / 2 ^ lo % 2 ^ k < 2 ^ k := Nat.mod_lt _ (Nat.two_pow_pos k)
  rw [Nat.testBit_two_pow_mul_add _ hr, Nat.testBit_two_pow_mul_add _ hr, Nat.testBit_two_pow_mul_add _ hx, Nat.testBit_two_pow_mul_add _ hm]
  by_cases h1 : i < lo
  · have : ¬(lo ≤ i ∧ i ≤ hi) := by omega
    simp [h1, this]
  · by_cases h2 : i ≤ hi
    · have h3 : i - lo < k := by omega
      have h4 : lo ≤ i ∧ i ≤ hi := by omega
      simp [h1, h3, h4, Nat.testBit_mod_two_pow]
    · have h3 : ¬ i - lo < k := by omega
      have h4 : ¬(lo ≤ i ∧ i ≤ hi) := by omega
      simp [h1, h3, h4]

theorem setBits_lt {v hi lo x : Nat} (h : lo ≤ hi) (hw : hi < 64) (hv : v < 2 ^ 64) : setBits v hi lo x < 2 ^ 64 := by
  apply Nat.lt_pow_two_of_testBit
  intro i hi'
  rw [testBit_setBits _ _ _ _ _ h, if_neg (by omega)]
  exact Nat.testBit_lt_two_pow (Nat.lt_of_lt_of_le hv (Nat.pow_le_pow_right (by decide) hi'))

/-- A field keeps its value when another field of the number is replaced. -/
theorem bits_setBits_disj (v hi lo x a b : Nat) (h : lo ≤ hi) (hd : a < lo ∨ hi < b) : bits (setBits v hi lo x) a b = bits v a b := by
  apply Nat.eq_of_testBit_eq
  intro i
  rw [testBit_bits, testBit_bits, testBit_setBits _ _ _ _ _ h]
  by_cases hi' : i < a + 1 - b
  · rw [if_neg (by omega)]
  · simp [hi']

/-- The value of a register after one of its fields was written. -/
theorem State.rd_fset_self (s : State) (a : Nat) (f : Nat × Nat) (x : Nat) (h : f.2 ≤ f.1) (hw : f.1 < 64) :
    ((s.fset a f x).rd a).toNat = setBits (s.rd a).toNat f.1 f.2 x := by
  unfold State.fset
  rw [State.rd_wr_self, BitVec.toNat_ofNat, Nat.mod_eq_of_lt (setBits_lt h hw (s.rd a).isLt)]

/-- A field of a register keeps its value when another is written (R10). -/
theorem State.fget_fset_disj (s : State) (a : Nat) (f g : Nat × Nat) (x : Nat) (h : f.2 ≤ f.1) (hw : f.1 < 64) (hd : g.1 < f.2 ∨ f.1 < g.2) :
    (s.fset a f x).fget a g = s.fget a g := by
  unfold State.fget
  rw [State.rd_fset_self _ _ _ _ h hw, bits_setBits_disj _ _ _ _ _ _ h hd]

/-- A field of another register keeps its value. -/
theorem State.fget_fset_ne (s : State) {a b : Nat} (hab : b ≠ a) (f g : Nat × Nat) (x : Nat) : (s.fset a f x).fget b g = s.fget b g := by
  unfold State.fget; rw [State.rd_fset_ne s hab]

theorem State.fget_wr_ne (s : State) {a b : Nat} (hab : b ≠ a) (v : Word) (g : Nat × Nat) : (s.wr a v).fget b g = s.fget b g := by
  unfold State.fget; rw [State.rd_wr_ne s hab]

theorem State.fget_bump_ne (s : State) {a b : Nat} (hab : b ≠ a) (g : Nat × Nat) : (s.bump a).fget b g = s.fget b g := by
  unfold State.fget; rw [State.rd_bump_ne s hab]

/-- A 32-bit counter after one event (R9). -/
theorem State.fget_bump_self (s : State) (a : Nat) : (s.bump a).fget a (31, 0) = min (s.fget a (31, 0) + 1) (2 ^ 32 - 1) := by
  unfold State.bump State.fadd
  rw [State.fget_fset_self _ _ _ _ (by decide) (by decide)]
  simp only [satAdd]
  exact Nat.mod_eq_of_lt (by have := Nat.min_le_right (s.fget a (31, 0) + 1) (2 ^ 32 - 1); omega)

/-! ### Which registers changed -/

theorem State.RegsBut.refl (s : State) (as : List Nat) : s.RegsBut as s := fun _ _ => rfl

theorem State.RegsBut.of_regs {s t u : State} {as : List Nat} (h : s.RegsBut as t) (e : u.regs = t.regs) : s.RegsBut as u := by
  intro a ha; rw [← h a ha]; simp only [State.rd, e]

theorem State.RegsBut.wr {s t : State} {as : List Nat} (h : s.RegsBut as t) (a : Nat) (v : Word) (ha : a ∈ as) : s.RegsBut as (t.wr a v) := by
  intro b hb
  rw [State.rd_wr_ne _ (by rintro rfl; exact hb ha), h b hb]

theorem State.RegsBut.fset {s t : State} {as : List Nat} (h : s.RegsBut as t) (a : Nat) (f : Nat × Nat) (x : Nat) (ha : a ∈ as) :
    s.RegsBut as (t.fset a f x) := h.wr a _ ha

theorem State.RegsBut.fadd {s t : State} {as : List Nat} (h : s.RegsBut as t) (a : Nat) (f : Nat × Nat) (x : Nat) (ha : a ∈ as) :
    s.RegsBut as (t.fadd a f x) := h.wr a _ ha

theorem State.RegsBut.bump {s t : State} {as : List Nat} (h : s.RegsBut as t) (a : Nat) (ha : a ∈ as) : s.RegsBut as (t.bump a) := h.wr a _ ha

/-! ### Domains that are On -/

theorem State.abortEntry_idle (s : State) (d : Nat) (h : (s.dom d).entering = none) : s.abortEntry d = s := by
  unfold State.abortEntry; rw [h]

theorem State.abortAll_up (s : State) (ds : List Nat) (h : ∀ d ∈ ds, (s.dom d).entering = none) : ds.foldl (fun s d => s.abortEntry d) s = s := by
  induction ds with
  | nil => rfl
  | cons d ds ih =>
    rw [List.foldl_cons, State.abortEntry_idle s d (h d (by simp))]
    exact ih fun e he => h e (by simp [he])

/-- An effect whose domains are all On happens (R478). -/
theorem needOn_up {s : State} {ds : List Nat} {k : State} (h : s.Up ds) (hk : k.doms = s.doms) : needOn ds s k = k := by
  have hd : ds.filter (fun d => !s.isOn d) = [] := by
    rw [List.filter_eq_nil_iff]; intro d hd; simp [(h d hd).1]
  unfold needOn
  rw [hd]
  simp only [if_true]
  exact State.abortAll_up k ds fun d hd => by
    have := (h d hd).2
    simpa [State.dom, hk] using this

theorem domCheck_up {s : State} {ds : List Nat} (h : s.Up ds) : s.domCheck ds = .go := by
  have hd : ds.filter (fun d => !s.isOn d) = [] := by
    rw [List.filter_eq_nil_iff]; intro d hd; simp [(h d hd).1]
  simp [State.domCheck, hd]

/-- An access to domains that are all On touches nothing (R476, R478). -/
theorem domTouch_up {s : State} {ds : List Nat} (h : s.Up ds) : s.domTouch ds = s := by
  unfold State.domTouch
  rw [State.abortAll_up s ds fun d hd => (h d hd).2]
  simp only [domCheck_up h]

end Sys2Proof.Machine
end

