-- ==== Sys2Proof/Laws/Vc.lean ====
section
/-!
SUPPORT. Mapping commands: the fields of a command and of an entry, and what the end of a command leaves.
-/
namespace Sys2Proof.Machine

/-- The fields of VC_CMD read as they were laid out (R96). -/
theorem vcCmd_word (c : VcCmd) (h1 : c.page < 2 ^ 19) (h2 : c.op < 8) (h3 : c.tier < 4) (h4 : c.cls < 8) (h5 : c.loc < 2 ^ 16) (h6 : c.peer < 2 ^ 14) :
    vcCmd c.word = c ∧ bits c.word 31 30 = 0 ∧ bits c.word 63 62 = 0 := by
  obtain ⟨page, op, tier, cls, wr, pin, strict, loc, peer⟩ := c
  simp only at *
  have b1 : b2n wr < 2 := by cases wr <;> decide
  have b2 : b2n pin < 2 := by cases pin <;> decide
  have b3 : b2n strict < 2 := by cases strict <;> decide
  have hb : ∀ (n : Nat) (b : Bool), n = b2n b → (n == 1) = b := by rintro n b rfl; cases b <;> rfl
  simp only [vcCmd, VcCmd.word, bits, bit, VcCmd.mk.injEq]
  simp only [Nat.reducePow, Nat.reduceAdd, Nat.reduceSub] at *
  refine ⟨⟨?_, ?_, ?_, ?_, ?_, ?_, ?_, ?_, ?_⟩, ?_, ?_⟩
  · omega
  · omega
  · omega
  · omega
  · apply hb; omega
  · apply hb; omega
  · apply hb; omega
  · omega
  · omega
  · omega
  · omega

/-- The end of a mapping command changes registers alone. -/
theorem VcRes.finish_regs (r : VcRes) (n page : Nat) (h6 : r.status ≠ 6) : r.finish n page = { r.s with regs := (r.finish n page).regs } := by
  simp only [VcRes.finish, h6, if_false]; rfl

/-- What the end of a mapping command leaves in its registers (R79, R96). -/
theorem VcRes.finish_spec (r : VcRes) (n page : Nat) (h6 : r.status ≠ 6) (hs : r.status < 16) (hd : r.detail < 256) :
    let t := r.finish n page
    t.flag (A.VC_CMD_STATUS n) F.VC_CMD_STATUS_BUSY = false ∧ t.fget (A.VC_CMD_STATUS n) F.VC_CMD_STATUS_STATUS = r.status ∧
    t.fget (A.VC_CMD_STATUS n) F.VC_CMD_STATUS_DETAIL = r.detail ∧ t.rd (A.VC_CMD_ENTRY n) = r.s.ent n page ∧
    r.s.RegsBut [A.VC_CMD_STATUS n, A.VC_CMD_ENTRY n] t := by
  have hne : A.VC_CMD_STATUS n ≠ A.VC_CMD_ENTRY n := by simp only [A.VC_CMD_STATUS, A.VC_CMD_ENTRY]; omega
  intro t
  simp only [t, VcRes.finish, h6, if_false, State.flag]
  refine ⟨?_, ?_, ?_, ?_, ?_⟩
  · rw [State.fget_wr_ne _ hne, State.fget_fset_disj _ _ _ _ _ (by decide) (by decide) (by decide), State.fget_fset_disj _ _ _ _ _ (by decide) (by decide) (by decide), State.fget_fset_self _ _ _ _ (by decide) (by decide)]
    rfl
  · rw [State.fget_wr_ne _ hne, State.fget_fset_disj _ _ _ _ _ (by decide) (by decide) (by decide), State.fget_fset_self _ _ _ _ (by decide) (by decide)]
    exact Nat.mod_eq_of_lt hs
  · rw [State.fget_wr_ne _ hne, State.fget_fset_self _ _ _ _ (by decide) (by decide)]
    exact Nat.mod_eq_of_lt hd
  · rw [State.rd_wr_self]; rfl
  · exact ((((State.RegsBut.refl _ _).fset _ _ _ (by simp)).fset _ _ _ (by simp)).fset _ _ _ (by simp)).wr _ _ (by simp)

/-- A mapping command of a tenant on its own page, not BUSY, by its operation. -/
theorem vcRow_word (op n page tier cls : Nat) (wr pin strict : Bool) (loc peer : Nat) (s : State) (hn : n < 8) (h1 : page < 2 ^ 19) (h2 : op < 6) (h0 : op ≠ 0) (h3 : tier < 4) (h4 : cls < 8) (h5 : loc < 2 ^ 16) (h6 : peer < 2 ^ 14)
    (hb : s.flag (A.VC_CMD_STATUS n) F.VC_CMD_STATUS_BUSY = false) :
    vcRow op (.tenant n) n page tier cls wr pin strict loc peer s = .next (
      let c : VcCmd := ⟨page, op, tier, cls, wr, pin, strict, loc, peer⟩
      match op with
      | 1 => (s.vcMap n c).finish n c.page
      | 2 =>
        if !entValid (s.ent n c.page) then (VcRes.mk s 7 2).finish n c.page
        else if s.moving n c.page then
          { s.fset (A.VC_CMD_STATUS n) F.VC_CMD_STATUS_BUSY 1 with vc := { s.vc with unmapWait := s.vc.unmapWait ++ [(n, c.page)] } }
        else (VcRes.mk (s.vcUnmap n c.page) 0 0).finish n c.page
      | 3 => (s.vcMigrate n c).finish n c.page
      | 4 => (s.vcProtect n c).finish n c.page
      | _ => (VcRes.mk s 0 0).finish n c.page) := by
  obtain ⟨e, e1, e2⟩ := vcCmd_word ⟨page, op, tier, cls, wr, pin, strict, loc, peer⟩ h1 (show op < 8 by omega) h3 h4 h5 h6
  have hk : vcPageOk (.tenant n) n = true := by simp [vcPageOk, hn]
  simp only [vcRow, hk, if_true, State.vcWrite, e, e1, e2, hb]
  have : ¬(op = 0 ∨ 6 ≤ op ∨ (0:Nat) ≠ 0 ∨ (0:Nat) ≠ 0) := by omega
  rw [if_neg this]; rfl

/-- The other entries stay. -/
theorem State.ent_setEnt_ne (s : State) (n p m q : Nat) (e : Word) (h : m * 2 ^ 19 + q ≠ n * 2 ^ 19 + p) : (s.setEnt n p e).ent m q = s.ent m q := by
  simp only [State.ent, State.setEnt]
  rw [Tab.get_set_ne]; simpa using h

/-- The fields of a new entry (R77). -/
theorem mkEnt_fields (tier frame cls : Nat) (wr pin : Bool) (h1 : tier < 4) (h2 : frame < 2 ^ 30) (h3 : cls < 8) :
    let f := mkEnt tier frame cls wr pin
    entValid f = true ∧ entTier f = tier ∧ entFrame f = frame ∧ entClass f = cls ∧ entWritable f = wr ∧ entPinned f = pin ∧
      entMigrating f = false ∧ entPoisoned f = false := by
  have b1 : b2n wr < 2 := by cases wr <;> decide
  have b2 : b2n pin < 2 := by cases pin <;> decide
  have hb : ∀ (n : Nat) (b : Bool), n = b2n b → (n == 1) = b := by rintro n b rfl; cases b <;> rfl
  have hlt : 1 + tier % 4 * 2 + b2n wr * 8 + b2n pin * 16 + cls % 8 * 256 + frame % 2 ^ 30 * 2 ^ 20 < 2 ^ 64 := by omega
  simp only [mkEnt, entValid, entTier, entFrame, entClass, entWritable, entPinned, entMigrating, entPoisoned, BitVec.toNat_ofNat, Nat.mod_eq_of_lt hlt, bits, bit]
  simp only [Nat.reducePow, Nat.reduceAdd, Nat.reduceSub] at *
  refine ⟨?_, ?_, ?_, ?_, ?_, ?_, ?_, ?_⟩
  · apply hb _ true; show _ = 1; omega
  · omega
  · omega
  · omega
  · apply hb; omega
  · apply hb; omega
  · apply hb _ false; show _ = 0; omega
  · apply hb _ false; show _ = 0; omega

/-- The end of a mapping command, seen from the state before it. -/
theorem VcRes.finish_ended (s : State) (n page : Nat) (r : VcRes) (h6 : r.status ≠ 6) (hs : r.status < 16) (hd : r.detail < 256)
    (hr : r.s.regs = s.regs) (he : ∀ m q, m * 2 ^ 19 + q ≠ n * 2 ^ 19 + page → r.s.ent m q = s.ent m q) :
    let t := r.finish n page
    t.flag (A.VC_CMD_STATUS n) F.VC_CMD_STATUS_BUSY = false ∧ t.fget (A.VC_CMD_STATUS n) F.VC_CMD_STATUS_STATUS = r.status ∧ t.fget (A.VC_CMD_STATUS n) F.VC_CMD_STATUS_DETAIL = r.detail ∧
      t.rd (A.VC_CMD_ENTRY n) = t.ent n page ∧ s.RegsBut [A.VC_CMD_STATUS n, A.VC_CMD_ENTRY n] t ∧
      ∀ m q, m * 2 ^ 19 + q ≠ n * 2 ^ 19 + page → t.ent m q = s.ent m q := by
  obtain ⟨a, b, c, d, e⟩ := VcRes.finish_spec r n page h6 hs hd
  have f := VcRes.finish_regs r n page h6
  have g : ∀ m q, (r.finish n page).ent m q = r.s.ent m q := by intro m q; rw [f]; rfl
  refine ⟨a, b, c, by rw [d, g], ?_, fun m q h => by rw [g, he m q h]⟩
  intro x hx; rw [e x hx]; simp only [State.rd, hr]

/-- A mapping command that fails changes its status registers alone. -/
theorem VcRes.finish_fails (s : State) (n page st dt : Nat) (h6 : st ≠ 6) (hs : st < 16) (hd : dt < 256) : s.OnlyRegs [A.VC_CMD_STATUS n, A.VC_CMD_ENTRY n] ((VcRes.mk s st dt).finish n page) :=
  ⟨VcRes.finish_regs _ n page h6, (VcRes.finish_spec ⟨s, st, dt⟩ n page h6 hs hd).2.2.2.2⟩

/-- A read after a range was cleared. -/
theorem Tab.get_clear {α : Type} (t : Tab α) (d : α) (lo n x : Nat) : (Tab.clear t lo n).get d x = if lo ≤ x ∧ x < lo + n then d else t.get d x := by
  induction t with
  | nil => simp [Tab.clear, Tab.get, Tab.get?]
  | cons p t ih =>
    obtain ⟨a, v⟩ := p
    simp only [Tab.clear] at ih ⊢
    rw [List.filter_cons]
    by_cases hk : a < lo ∨ lo + n ≤ a
    · have e : (decide (a < lo) || decide (lo + n ≤ a)) = true := by simpa using hk
      simp only [e, if_true]
      by_cases hx : a = x
      · subst hx
        rw [if_neg (by omega)]; simp [Tab.get, Tab.get?]
      · simp only [Tab.get, Tab.get?, hx, if_false] at ih ⊢; exact ih
    · have e : (decide (a < lo) || decide (lo + n ≤ a)) = false := by simpa using hk
      simp only [e]
      rw [if_neg (by simp), ih]
      by_cases hr : lo ≤ x ∧ x < lo + n
      · simp [hr]
      · have hx : a ≠ x := by omega
        simp [hr, Tab.get, Tab.get?, hx]

/-- What a zeroed range reads as (R74). -/
theorem State.byte_zeroFill (s : State) (a n x : Nat) : (s.zeroFill a n).byte x = if a ≤ x ∧ x < a + n then 0 else s.byte x :=
  Tab.get_clear _ _ _ _ _

end Sys2Proof.Machine
end

