-- ==== Sys2Proof/Tests/Slice0.lean ====
section
/-!
SUPPORT. Tests: ill-formed terms that each check refuses, a state that meets the hypotheses of each clause of the statements, and single steps on small states.
-/
namespace Sys2Proof.Tests
set_option Elab.async false
open Sys2Proof Sys2Proof.Machine

/-- Refused: a tile or a thread the device does not have. -/
theorem test_wf_thread_1 : ([
  .add ⟨128, 0, .ok⟩ 0 0 0, .sub ⟨0, 16, .ok⟩ 0 0 0, .and_ ⟨128, 0, .ok⟩ 0 0 0, .or_ ⟨0, 16, .ok⟩ 0 0 0,
  .xor_ ⟨128, 0, .ok⟩ 0 0 0, .sll ⟨0, 16, .ok⟩ 0 0 0, .srl ⟨128, 0, .ok⟩ 0 0 0, .sra ⟨0, 16, .ok⟩ 0 0 0,
  .slt ⟨128, 0, .ok⟩ 0 0 0, .sltu ⟨0, 16, .ok⟩ 0 0 0, .min ⟨128, 0, .ok⟩ 0 0 0, .max ⟨0, 16, .ok⟩ 0 0 0,
  .minu ⟨128, 0, .ok⟩ 0 0 0, .maxu ⟨0, 16, .ok⟩ 0 0 0, .mul ⟨128, 0, .ok⟩ 0 0 0, .mulh ⟨0, 16, .ok⟩ 0 0 0,
  .mulhu ⟨128, 0, .ok⟩ 0 0 0, .div ⟨0, 16, .ok⟩ 0 0 0, .divu ⟨128, 0, .ok⟩ 0 0 0, .rem ⟨0, 16, .ok⟩ 0 0 0,
  .remu ⟨128, 0, .ok⟩ 0 0 0, .clz ⟨0, 16, .ok⟩ 0 0, .ctz ⟨128, 0, .ok⟩ 0 0, .popc ⟨0, 16, .ok⟩ 0 0,
  .addi ⟨128, 0, .ok⟩ 0 0 0, .andi ⟨0, 16, .ok⟩ 0 0 0, .ori ⟨128, 0, .ok⟩ 0 0 0, .xori ⟨0, 16, .ok⟩ 0 0 0,
  .slti ⟨128, 0, .ok⟩ 0 0 0, .sltiu ⟨0, 16, .ok⟩ 0 0 0, .slli ⟨128, 0, .ok⟩ 0 0 0, .srli ⟨0, 16, .ok⟩ 0 0 0,
  .srai ⟨128, 0, .ok⟩ 0 0 0, .lui ⟨0, 16, .ok⟩ 0 0, .shori ⟨128, 0, .ok⟩ 0 0 0, .auipc ⟨0, 16, .ok⟩ 0 0] : List Instr).all (fun i => !wellFormed i) = true := by decide

/-- Refused: a tile or a thread the device does not have. -/
theorem test_wf_thread_2 : ([
  .lb ⟨128, 0, .ok⟩ 0 0 0, .lbu ⟨0, 16, .ok⟩ 0 0 0, .lh ⟨128, 0, .ok⟩ 0 0 0, .lhu ⟨0, 16, .ok⟩ 0 0 0,
  .lw ⟨128, 0, .ok⟩ 0 0 0, .lwu ⟨0, 16, .ok⟩ 0 0 0, .ld ⟨128, 0, .ok⟩ 0 0 0, .sb ⟨0, 16, .ok⟩ 0 0 0,
  .sh ⟨128, 0, .ok⟩ 0 0 0, .sw ⟨0, 16, .ok⟩ 0 0 0, .sd ⟨128, 0, .ok⟩ 0 0 0, .ldAcq ⟨0, 16, .ok⟩ 0 0 0 false,
  .stRel ⟨128, 0, .ok⟩ 0 0 0, .amoAdd ⟨0, 16, .ok⟩ 0 0 0 false 0, .amoAnd ⟨128, 0, .ok⟩ 0 0 0 false 0, .amoOr ⟨0, 16, .ok⟩ 0 0 0 false 0,
  .amoXor ⟨128, 0, .ok⟩ 0 0 0 false 0, .amoSmin ⟨0, 16, .ok⟩ 0 0 0 false 0, .amoSmax ⟨128, 0, .ok⟩ 0 0 0 false 0, .amoUmin ⟨0, 16, .ok⟩ 0 0 0 false 0,
  .amoUmax ⟨128, 0, .ok⟩ 0 0 0 false 0, .amoSwap ⟨0, 16, .ok⟩ 0 0 0 false 0, .amoCas ⟨128, 0, .ok⟩ 0 0 0 false 0, .brEq ⟨0, 16, .ok⟩ 0 0 0,
  .brNe ⟨128, 0, .ok⟩ 0 0 0, .brLt ⟨0, 16, .ok⟩ 0 0 0, .brGe ⟨128, 0, .ok⟩ 0 0 0, .brLtu ⟨0, 16, .ok⟩ 0 0 0,
  .brGeu ⟨128, 0, .ok⟩ 0 0 0, .jal ⟨0, 16, .ok⟩ 0 0, .jalr ⟨128, 0, .ok⟩ 0 0 0, .bpAny ⟨0, 16, .ok⟩ 0 0,
  .bpAll ⟨128, 0, .ok⟩ 0 0, .bpNone ⟨0, 16, .ok⟩ 0 0, .bpNotall ⟨128, 0, .ok⟩ 0 0, .fenceFull ⟨0, 16, .ok⟩] : List Instr).all (fun i => !wellFormed i) = true := by decide

/-- Refused: a tile or a thread the device does not have. -/
theorem test_wf_thread_3 : ([
  .fenceSt ⟨128, 0, .ok⟩, .fenceLd ⟨0, 16, .ok⟩, .trap ⟨128, 0, .ok⟩ 0, .eret ⟨0, 16, .ok⟩,
  .tend ⟨128, 0, .ok⟩, .srr ⟨0, 16, .ok⟩ 0 0, .srw ⟨128, 0, .ok⟩ 0 0, .tstart ⟨0, 16, .ok⟩ 0 0 0,
  .msend ⟨128, 0, .ok⟩ 0 0 0 0, .mwait ⟨0, 16, .ok⟩ 0, .engMx ⟨128, 0, .ok⟩ 0 0, .engAt ⟨0, 16, .ok⟩ 0 0,
  .engSc ⟨128, 0, .ok⟩ 0 0, .engCv ⟨0, 16, .ok⟩ 0 0, .engSt ⟨128, 0, .ok⟩ 0 0, .engPp ⟨0, 16, .ok⟩ 0 0,
  .engwait ⟨128, 0, .ok⟩ 0 0, .engpoll ⟨0, 16, .ok⟩ 0 0, .cwb ⟨128, 0, .ok⟩ 0 0, .cinv ⟨0, 16, .ok⟩ 0 0,
  .cwbi ⟨128, 0, .ok⟩ 0 0, .vadd ⟨0, 16, .ok⟩ 0 0 0 0 0, .vsub ⟨128, 0, .ok⟩ 0 0 0 0 0, .vmul ⟨0, 16, .ok⟩ 0 0 0 0 0,
  .vmulh ⟨128, 0, .ok⟩ 0 0 0 0 0, .vmin ⟨0, 16, .ok⟩ 0 0 0 0 0, .vmax ⟨128, 0, .ok⟩ 0 0 0 0 0, .vminu ⟨0, 16, .ok⟩ 0 0 0 0 0,
  .vmaxu ⟨128, 0, .ok⟩ 0 0 0 0 0, .vand ⟨0, 16, .ok⟩ 0 0 0 0 0, .vor ⟨128, 0, .ok⟩ 0 0 0 0 0, .vxor ⟨0, 16, .ok⟩ 0 0 0 0 0,
  .vsll ⟨128, 0, .ok⟩ 0 0 0 0 0, .vsrl ⟨0, 16, .ok⟩ 0 0 0 0 0, .vsra ⟨128, 0, .ok⟩ 0 0 0 0 0, .vadds ⟨0, 16, .ok⟩ 0 0 0 0 0] : List Instr).all (fun i => !wellFormed i) = true := by decide

/-- Refused: a tile or a thread the device does not have. -/
theorem test_wf_thread_4 : ([
  .vsubs ⟨128, 0, .ok⟩ 0 0 0 0 0, .vabs ⟨0, 16, .ok⟩ 0 0 0, .vfadd ⟨128, 0, .ok⟩ 0 0 0 0 0, .vfsub ⟨0, 16, .ok⟩ 0 0 0 0 0,
  .vfmul ⟨128, 0, .ok⟩ 0 0 0 0 0, .vfma ⟨0, 16, .ok⟩ 0 0 0 0 0, .vfmin ⟨128, 0, .ok⟩ 0 0 0 0 0, .vfmax ⟨0, 16, .ok⟩ 0 0 0 0 0,
  .vfabs ⟨128, 0, .ok⟩ 0 0 0, .vfneg ⟨0, 16, .ok⟩ 0 0 0, .vfscale ⟨128, 0, .ok⟩ 0 0 0 0 0, .vfrcp ⟨0, 16, .ok⟩ 0 0 0,
  .vfrsq ⟨128, 0, .ok⟩ 0 0 0, .vcmpEq ⟨0, 16, .ok⟩ 0 0 0 0 0, .vcmpNe ⟨128, 0, .ok⟩ 0 0 0 0 0, .vcmpLt ⟨0, 16, .ok⟩ 0 0 0 0 0,
  .vcmpLe ⟨128, 0, .ok⟩ 0 0 0 0 0, .vcmpLtu ⟨0, 16, .ok⟩ 0 0 0 0 0, .vcmpLeu ⟨128, 0, .ok⟩ 0 0 0 0 0, .vcmpFeq ⟨0, 16, .ok⟩ 0 0 0 0 0,
  .vcmpFlt ⟨128, 0, .ok⟩ 0 0 0 0 0, .vcmpFle ⟨0, 16, .ok⟩ 0 0 0 0 0, .vcmpFunord ⟨128, 0, .ok⟩ 0 0 0 0 0, .vsplat ⟨0, 16, .ok⟩ 0 0 0,
  .vmvs ⟨128, 0, .ok⟩ 0 0 0, .vins ⟨0, 16, .ok⟩ 0 0 0, .vsel ⟨128, 0, .ok⟩ 0 0 0 0, .vperm ⟨0, 16, .ok⟩ 0 0 0 0,
  .viota ⟨128, 0, .ok⟩ 0 0, .vrsum ⟨0, 16, .ok⟩ 0 0 0, .vrmax ⟨128, 0, .ok⟩ 0 0 0, .vrmin ⟨0, 16, .ok⟩ 0 0 0,
  .vrfsum ⟨128, 0, .ok⟩ 0 0 0, .vrfmax ⟨0, 16, .ok⟩ 0 0 0, .vfexpmax ⟨128, 0, .ok⟩ 0 0 0, .vcvtF32I32 ⟨0, 16, .ok⟩ 0 0 false 0 0] : List Instr).all (fun i => !wellFormed i) = true := by decide

/-- Refused: a tile or a thread the device does not have. -/
theorem test_wf_thread_5 : ([
  .vcvtI32F32 ⟨128, 0, .ok⟩ 0 0 false 0 0, .vcvtF32T16 ⟨0, 16, .ok⟩ 0 0 false 0 0, .vcvtT16F32 ⟨128, 0, .ok⟩ 0 0 false 0 0, .vcvtF32H16 ⟨0, 16, .ok⟩ 0 0 false 0 0,
  .vcvtH16F32 ⟨128, 0, .ok⟩ 0 0 false 0 0, .vcvtF32S8 ⟨0, 16, .ok⟩ 0 0 0 false 0 0, .vcvtS8F32 ⟨128, 0, .ok⟩ 0 0 0 false 0 0, .vcvtF32S4 ⟨0, 16, .ok⟩ 0 0 0 false 0 0,
  .vcvtS4F32 ⟨128, 0, .ok⟩ 0 0 0 false 0 0, .vld ⟨0, 16, .ok⟩ 0 0 0 0, .vst ⟨128, 0, .ok⟩ 0 0 0 0, .vlds ⟨0, 16, .ok⟩ 0 0 0 0,
  .vsts ⟨128, 0, .ok⟩ 0 0 0 0, .vldx ⟨0, 16, .ok⟩ 0 0 0 0, .vstx ⟨128, 0, .ok⟩ 0 0 0 0, .pand ⟨0, 16, .ok⟩ 0 0 0,
  .por ⟨128, 0, .ok⟩ 0 0 0, .pxor ⟨0, 16, .ok⟩ 0 0 0, .pandn ⟨128, 0, .ok⟩ 0 0 0, .pnot ⟨0, 16, .ok⟩ 0 0,
  .pset ⟨128, 0, .ok⟩ 0 0, .pget ⟨0, 16, .ok⟩ 0 0, .pcnt ⟨128, 0, .ok⟩ 0 0, .pfirst ⟨0, 16, .ok⟩ 0 0,
  .plt ⟨128, 0, .ok⟩ 0 0, .accrd ⟨0, 16, .ok⟩ 0 0 0, .accwr ⟨128, 0, .ok⟩ 0 0 0, .accz ⟨0, 16, .ok⟩ 0] : List Instr).all (fun i => !wellFormed i) = true := by decide

/-- Refused: a requester that is no tenant. -/
theorem test_wf_requester_1 : ([
  .registerWrite (.tenant 8) 0 4 0, .map (.tenant 8) 0 0 0 0 false false false 0 0, .unmap (.tenant 8) 0 0, .migrate (.tenant 8) 0 0 0 false 0,
  .protect (.tenant 8) 0 0 false false, .query (.tenant 8) 0 0, .migResultRead (.tenant 8) 0, .doorbell (.tenant 8) 0 0,
  .hgCtxSaveWrite (.tenant 8) 0 0, .enable (.tenant 8) 0, .disable (.tenant 8) 0, .abortQueued (.tenant 8) 0,
  .abortJobs (.tenant 8) 0, .setResume (.tenant 8) 0, .wearCommit (.tenant 8) 0, .wearDecline (.tenant 8) 0,
  .auEventAck (.tenant 8), .auFetch (.tenant 8) 0 0 0 false, .auFetchCancel (.tenant 8), .wideEnable (.tenant 8) false 0 0,
  .load (.tenant 8), .stop (.tenant 8), .listen (.tenant 8), .trigger (.tenant 8),
  .rnPinClear (.tenant 8), .isStreamEnable (.tenant 8) 0, .isStreamDisable (.tenant 8) 0, .push (.tenant 8) 0 false,
  .clear (.tenant 8) 0, .lkForce (.tenant 8) 0 0, .lkTripClr (.tenant 8), .tuStepWrite (.tenant 8) 0,
  .arm (.tenant 8), .tcEnable (.tenant 8) 0, .tiStampRead (.tenant 8) 0, .blPortReset (.tenant 8) 0] : List Instr).all (fun i => !wellFormed i) = true := by decide

/-- Refused: a requester that is no tenant. -/
theorem test_wf_requester_2 : ([
  .blDbSend (.tenant 8) 0 0 0 0 0, .retire (.tenant 8) 0, .ack (.tenant 8) 0, .fsrRingEnable (.tenant 8) 0 0,
  .tlFeed64 (.tenant 8) 0 0, .tlFeed32 (.tenant 8) 0 0, .tlFeed8 (.tenant 8) 0 0, .run (.tenant 8) 0 0,
  .check (.tenant 8) 0, .reset (.tenant 8) 0, .pop (.tenant 8), .ioSpiTxPush (.tenant 8),
  .uartDataWrite (.tenant 8) 0, .uartDataRead (.tenant 8), .asSnapshot (.tenant 8) 0 0, .asSnapshotClear (.tenant 8) 0 0,
  .device (.tenant 8), .partition (.tenant 8) 0, .tile (.tenant 8) 0] : List Instr).all (fun i => !wellFormed i) = true := by decide

/-- Refused: a unit or a number out of range. -/
theorem test_wf_number_1 : ([
  .registerWrite .boot 0 3 0, .vaultFillDone 128, .map .boot 8 0 0 0 false false false 0 0, .map .boot 0 0 4 0 false false false 0 0,
  .map .boot 0 0 0 8 false false false 0 0, .unmap .boot 8 0, .unmapAfterMove 8 0, .migrate .boot 8 0 0 false 0,
  .migrate .boot 0 0 4 false 0, .protect .boot 8 0 false false, .query .boot 8 0, .migrationCommit 8 0 false [] [],
  .migResultRead .boot 8, .xmTrainStart 2, .xmTrainDone 2 0 0 false false, .memoryResponse 128 0 0 0,
  .memoryResponse 0 16 0 0, .storeErrorArrival 128 0 0 0, .storeErrorArrival 0 16 0 0, .mwaitDeadline 128 0,
  .mwaitDeadline 0 16, .mxCommand 128 none, .mxResult 128 0 0, .attend 16 none,
  .append 16 none false 0, .merge 16 none, .atResult 16 0 0, .scan 16 none false,
  .convolve 16 none, .evict 16 false, .scSetAsideReexamine 16 0, .scOrderLimitExpiry 16 0,
  .scStateLoadDone 16 0 false, .scResult 16 0 0, .convCommand 16 none, .haloRowArrival 16 false] : List Instr).all (fun i => !wellFormed i) = true := by decide

/-- Refused: a unit or a number out of range. -/
theorem test_wf_number_2 : ([
  .cvSetAsideReexamine 16 0, .cvHaloLimitExpiry 16 0, .cvResult 16 0 0, .doorbell .boot 8 0,
  .jobDispatch 16, .jobStart 16, .jobEnd 1024, .hgResultWrite 128 0 0,
  .hgResultWrite 0 1024 0, .hgCtxSaveWrite .boot 8 0, .enable .boot 8, .disable .boot 8,
  .abortQueued .boot 8, .abortJobs .boot 8, .setResume .boot 8, .replyArrival 1024 0 0 0 0 false,
  .replyArrival 0 64 0 0 0 false, .replySlotTimeout 1024 0, .replySlotTimeout 0 64, .sliceEnd 16,
  .jobQuiescent 16 0, .saveWritten 16 false, .restoreDone 16, .wearCommit .boot 256,
  .wearDecline .boot 256, .stuckDetect 16, .csiFrameStart 4 0 0 0, .csiFrameStart 0 16 0 0,
  .csiLongPacket 4 0 0 0 false false false [], .csiLongPacket 0 16 0 0 false false false [], .csiFrameEnd 4 0 0, .csiFrameEnd 0 16 0,
  .ispFrameDone 16, .isStreamEnable .boot 16, .isStreamDisable .boot 16, .push .boot 16 false] : List Instr).all (fun i => !wellFormed i) = true := by decide

/-- Refused: a unit or a number out of range. -/
theorem test_wf_number_3 : ([
  .clear .boot 16, .domainIdleExpiry 40, .lkForce .boot 40 0, .lkForce .boot 0 4,
  .domainEntryCommit 40 false, .domainReady 40, .levelRampDone 16, .thermalCapRaise 16,
  .dramRefresh 128, .tcFire 8, .tcEnable .boot 8, .tpPulseEnd 8,
  .tiEdge 2 false 0, .tiStampRead .boot 2, .blBlockSend 4, .blBlockReceive 4 false [] [],
  .blFrameAgeDiscard false 4 0, .carryTrackExpiry 4 0, .blLaneFault 4 0, .blLaneFault 0 8,
  .blReplayLimit 4, .blLockLost 4, .blRetrainEnd 4, .blBringupDone 4,
  .blRekeyThreshold 4, .blPortReset .boot 4, .blDbSend .boot 8 0 0 0 0, .blDbSend .boot 0 129 0 0 0,
  .blDbSend .boot 0 0 16 0 0, .hostPostedWrite 1 0 [] false, .hostRead 1 0 0, .msixHoldoffExpiry 2048,
  .msixUnmask 2048, .ingressRecord 8 [], .egressRecordWrite 8, .measure 9] : List Instr).all (fun i => !wellFormed i) = true := by decide

/-- Refused: a unit or a number out of range. -/
theorem test_wf_number_4 : ([
  .report 9, .spdmRelay 9, .dbAccess 0 128 false, .tileFault 128 0 0,
  .engineFault 6 0 0, .engineFault 0 16 0, .faultRepeatDone 16 false false false false 0, .retire .boot 128,
  .ack .boot 256, .layerLoss 4, .vaultFault 128 none, .channelLoss 4,
  .fsrRingEnable .boot 9 0, .fsrRingEnable .boot 0 32, .tlFeed64 .boot 16 0, .tlFeed32 .boot 16 0,
  .tlFeed8 .boot 16 0, .run .boot 16 0, .tlRunDone 16 false, .check .boot 16,
  .reset .boot 16, .uartRxChar 256 false, .uartDataWrite .boot 256, .asSnapshot .boot 8 0,
  .asSnapshot .boot 0 256, .asSnapshotClear .boot 8 0, .asSnapshotClear .boot 0 256, .partition .boot 16,
  .tile .boot 128, .deviceFault 40, .tenantWindowStart 6 0, .tenantWindowStart 0 16,
  .mr4TemperaturePolling 2 0 0, .rekeyKeyInstall 4 false, .deskewSequence 4, .ulpsEntryExit 4 false] : List Instr).all (fun i => !wellFormed i) = true := by decide

/-- Refused: a unit or a number out of range. -/
theorem test_wf_number_5 : ([
  .entdaa 128, .setdasa 128 0, .setdasa 0 128, .setnewda 128 0,
  .setnewda 0 128, .stallLimitReached 128 0 0, .stallLimitReached 0 16 0, .stallLimitReached 129 1 0] : List Instr).all (fun i => !wellFormed i) = true := by decide

/-- Refused: a byte or a bit out of range. -/
theorem test_wf_data_1 : ([
  .migrationCommit 0 0 false [256] [], .migrationCommit 0 0 false [] [2], .runnelFrameEval false [] [256] [], .csiLongPacket 0 0 0 0 false false false [256],
  .blBlockReceive 0 false [] [256], .hostPostedWrite 0 0 [256] false, .ingressRecord 0 [256], .exportDone none [256] [],
  .exportDone none [] [2], .getVersion none [256], .getCapabilities none [256], .negotiateAlgorithms none [256],
  .getDigests none [256], .getCertificate none [256], .challenge none [256], .getMeasurements none [256],
  .keyExchange none [256], .finish none [256] [], .finish none [] [256], .keyUpdate none [256],
  .endSession none [256], .respondIfReady none [256], .bindTenant none [256], .status none [256],
  .idcode [2], .samplePreload [2] [], .samplePreload [] [2], .extest [2] [],
  .extest [] [2], .clamp [2], .highz [2], .bypass [2],
  .spiFrame 0 [256], .bootSpiFrame [256], .powerOnReset 0 0 [256] 0 [] [] 0 0 [] [] 0, .powerOnReset 0 0 [] 0 [] [] 0 0 [256] [] 0,
  .powerOnReset 0 0 [] 0 [] [] 0 0 [] [256] 0] : List Instr).all (fun i => !wellFormed i) = true := by decide

/-- Accepted: a command of each shape, and the host's stalled access, which no tile made. -/
theorem test_wf_accepted : ([.add ⟨127, 15, .ok⟩ 1 2 3, .registerWrite (.tenant 7) 0 8 0, .stallLimitReached 129 0 0, .hostRead 4 0 1, .ack (.tenant 0) 255, .blBlockSend 3, .notaryTurn] : List Instr).all wellFormed = true := by decide
/-! ### A small machine -/

/-- Every domain On. -/
def upDoms : Tab Dom := (List.range 40).map fun d => (d, ⟨.on, false, none, 0⟩)

/-- A plat: device 3; partition 0 of tenant 0 with tiles 0 to 15, all ways and channel 0; LK_ADMIN's partition is that one; one exclusive group of two tiles, two rings, a route, a tick class. -/
def plat1 : Plat :=
  ⟨7, 3, 0, false, 0, 0, [], [⟨0, 0, 0, 0, 0xFFFF, 0, List.replicate 16 0xFFFF, 1⟩], [⟨0, true, 1000, 1000, 1000, 0, 16⟩],
   [⟨0, 0, false, 3, []⟩], [⟨0, 2, 0, 0, 0xFF, 0, 8192, 0, 4⟩], [], [⟨2, 5, 1, false⟩], [⟨0, 0, 0, 2560000⟩], [], []⟩

/-- The job of context 0: tenant 0, tiles 0 and 1, running. -/
def job0 : Job := ⟨[0, 1], 0, 0, true, false, false, [], [], [], [], []⟩

/-- Thread 0 of tile 0 runs at 0x1000 of T1; s1 to s9 hold small numbers, s3 is poisoned. -/
def thr0 : Thread :=
  { Thread.idle with st := .ready, pc := 0x1000, x := [(1, 0x2000), (2, 6), (3, 9), (4, 0x8000000000000000), (5, 0x2004), (6, 2), (9, 3)], xp := NSet.put [] 3 true, handler := 0x1800 }

/-- The machine: all domains On, the plat applied, context 0 running on tiles 0 and 1 with one READY thread. -/
def box : State :=
  { State.reset with
    doms := upDoms, jobs := [(0, some job0)], tiles := [(0, ⟨some 0, [], [], .none⟩), (1, ⟨some 0, [], [], .none⟩)], threads := [(0, thr0)]
    plat := { State.reset.plat with cur := some plat1, locked := true, ringFrames := [(0, [10])], journal := [(0, [0, 1, 192, 193])] }
    rs := { State.reset.rs with up := true }
    regs := Tab.set (Tab.set [] (regReset A.HG_PLAT_INFO) A.HG_PLAT_INFO 3) (regReset A.LK_ADMIN) A.LK_ADMIN 8 }

/-- Thread 0 of tile 0. -/
def h0 : Th := ⟨0, 0, .ok⟩

/-- The machine with its thread changed. -/
def boxT (f : Thread → Thread) : State := box.setThread 0 0 (f (box.thread 0 0))

/-- The command answers a next state of which the test holds. -/
def ran (c : Instr) (s : State) (p : State → Bool) : Bool :=
  match exec c s with
  | .next t => p t
  | _ => false
/-! ### Steps, issue and scalar instructions -/

/-- A command waits; none waits. -/
theorem witness_StepRunsTheFrontCommand :
    ({ box with pending := [.notaryTurn, .mwaitDeadline 0 0] } : State).pending = .notaryTurn :: [.mwaitDeadline 0 0] ∧ box.pending = [] := by decide

/-- A memory in canonical form, and a store that keeps it. -/
theorem witness_StepKeepsMemoryForm : Memory.wf ({ box with mem := [(0x2000, 5)] } : State).mem = true ∧
    (ran (.amoSwap h0 0 1 0 false 0) { box with mem := [(0x2000, 5)] } fun t => t.mem == []) = true := by decide +kernel

theorem witness_StepKeepsThePlatInRange : box.plat.cur = some plat1 ∧ plat1.inRange = true ∧ box.plat.shadow = none := by
  decide +kernel

theorem witness_CommandsLeaveTheQueue : (ran (.add h0 7 1 2) { box with pending := [.notaryTurn] } fun t => t.pending == [.notaryTurn]) = true := by decide +kernel

theorem witness_ScalarArithmeticResults : box.Executes h0 [31, 1, 2] [] ∧ box.Executes h0 [0, 3, 4] [] ∧ box.Executes h0 [7, 1] [] ∧ box.Executes h0 [0] [] := by
  unfold State.Executes; decide +kernel

theorem test_sra_of_a_negative : (ran (.sra h0 7 4 2) box fun t => (t.th h0).getX 7 == 0xFE00000000000000) = true := by decide +kernel
theorem test_div_by_zero : (ran (.div h0 7 2 0) box fun t => (t.th h0).getX 7 == BitVec.allOnes 64) = true := by decide +kernel
theorem test_div_overflow : (ran (.rem h0 8 4 7) (boxT fun t => t.setX 7 (BitVec.allOnes 64) false) fun t => (t.th h0).getX 8 == 0) = true := by decide +kernel
theorem test_mulh_of_a_negative : (ran (.mulh h0 7 4 6) box fun t => (t.th h0).getX 7 == BitVec.allOnes 64) = true := by decide +kernel
theorem test_write_to_s0 : (ran (.addi h0 0 1 5) box fun t => (t.th h0).getX 0 == 0 && (t.th h0).pc == 0x1004) = true := by decide +kernel
theorem test_poison_goes_along : (ran (.add h0 1 1 3) box fun t => (t.th h0).xpsn 1 && (t.th h0).getX 1 == 0x2009) = true := by decide +kernel
theorem test_lui_shori : (ran (.lui h0 7 0x1FFFFF) box fun t => (t.th h0).getX 7 == 0xFFFFFFFFFFFF0000 && (ran (.shori h0 7 7 0x8001) t fun u => (u.th h0).getX 7 == 0xFFFFFFFF00008001)) = true := by decide +kernel

theorem witness_ControlTransfer : box.Executes h0 [1, 2] [] ∧ (box.th h0).xpsn 1 = false ∧ (box.th h0).xpsn 2 = false ∧ box.Executes h0 [] [] ∧
    box.Executes h0 [31, 1] [] ∧ box.Executes h0 [31] [] := by
  unfold State.Executes; decide +kernel

theorem test_branch_back : (ran (.brLt h0 4 1 0x1FFF) box fun t => (t.th h0).pc == 0xFFC) = true := by decide +kernel
theorem test_bpAll_of_p0 : (ran (.bpAll h0 0 2) box fun t => (t.th h0).pc == 0x1008) = true := by decide +kernel
theorem test_jalr_to_itself : (ran (.jalr h0 1 1 7) box fun t => (t.th h0).pc == 0x2004 && (t.th h0).getX 1 == 0x1004) = true := by decide +kernel

theorem witness_SystemInstructions : box.Executes h0 [] [] ∧ (box.th h0).serr = [] ∧ box.Executes h0 [7] [] ∧ (7 : RegNo).toNat < 8 ∧ (0 : RegNo).toNat < 8 ∧
    box.Executes h0 [1] [] ∧ (box.th h0).xpsn 1 = false := by
  unfold State.Executes; decide +kernel

theorem test_srr_ident : (ran (.srr h0 7 4) box fun t => (t.th h0).getX 7 == 0x1800) = true := by decide +kernel

theorem witness_ExceptionEntry :
    ((box.thread 0 0).handler ≠ 0 ∧ (box.thread 0 0).hmode = false) ∧
    ((box.thread 0 1).handler = 0 ∧ box.jobAt 0 = some (0, job0)) ∧
    (((boxT fun t => { t with hmode := true }).thread 0 0).hmode = true ∧ (boxT fun t => { t with hmode := true }).jobAt 0 = some (0, job0)) ∧
    (boxT fun t => { t with hmode := true }).Executes h0 [] [] := by
  unfold State.Executes; decide +kernel

theorem test_trap_enters_the_handler : (ran (.trap h0 1023) box fun t => (t.th h0).pc == 0x1800 && (t.th h0).epc == 0x1000 && (t.th h0).eaddr == 1023 && (t.th h0).cause == 9) = true := by decide +kernel

theorem witness_TrapsOfInstructions_scalar :
    (box.Executes h0 [1, 3] [] ∧ ((box.th h0).xpsn 1 || (box.th h0).xpsn 3) = true) ∧
    (box.Executes h0 [7, 3] [] ∧ (box.th h0).xpsn 3 = true) ∧
    (box.Executes h0 [3] [] ∧ 8 ≤ (8 : RegNo).toNat ∧ 2 ≤ (2 : RegNo).toNat ∧ (1 : RegNo).toNat < 2) ∧ box.Executes h0 [7, 3, 1] [] := by
  unfold State.Executes; decide +kernel

theorem witness_TrapsOfInstructions_msend :
    (box.Executes h0 [9, 1] [] ∧ (0 : Imm3) = 0 ∧ (1 : RegNo) ≠ 0) ∧
    (box.Executes h0 ([9, 1] ++ (List.range (2 : Imm3).toNat).map fun i => (31 : RegNo) + BitVec.ofNat 5 i) [] ∧ 31 < (31 : RegNo).toNat + (2 : Imm3).toNat - 1) ∧
    (box.Executes h0 ([3, 1] ++ (List.range (7 : Imm3).toNat).map fun i => (25 : RegNo) + BitVec.ofNat 5 i) [] ∧ (25 : RegNo).toNat + (7 : Imm3).toNat ≤ 32 ∧
      (box.th h0).acc = [] ∧ (box.th h0).serr = [] ∧ (box.th h0).xpsn 3 = true) ∧
    (box.Executes h0 [4, 1] [] ∧ (box.th h0).xpsn 4 = false ∧ 2 ^ 35 ≤ ((box.th h0).getX 4).toNat) := by
  unfold State.Executes; decide +kernel

theorem witness_TrapsOfInstructions_memory :
    (box.Executes h0 [7, 3] [] ∧ (box.th h0).xpsn 3 = true) ∧ (box.Executes h0 [3, 7] []) ∧
    (box.Executes h0 [7, 1] [] ∧ (box.th h0).xpsn 1 = false ∧ ((box.th h0).getX 1 + (1 : Imm16).signExtend 64).toNat % 2 ≠ 0 ∧
      ((box.th h0).getX 1 + (2 : Imm16).signExtend 64).toNat % 4 ≠ 0 ∧ ((box.th h0).getX 1 + (4 : Imm16).signExtend 64).toNat % 8 ≠ 0) ∧
    (box.Executes h0 [4, 7] [] ∧ (box.th h0).xpsn 4 = false ∧ box.dst ((box.th h0).getX 4 + (0 : Imm16).signExtend 64) = .err ∧ box.accesses h0 (box.th h0) < 32) ∧
    (box.Executes h0 [7, 3, 2] [] ∧ (box.th h0).acc = [] ∧ (box.th h0).serr = []) := by
  unfold State.Executes; decide +kernel

theorem witness_TrapsOfInstructions_atomic_to_a_register :
    let s := boxT fun t => t.setX 1 0x7000000000 false
    s.Executes h0 [7, 1, 2] [] ∧ (s.th h0).acc = [] ∧ (s.th h0).serr = [] ∧ (s.th h0).xpsn 1 = false ∧
      ((s.th h0).getX 1).toNat % (if true then 8 else 4) = 0 ∧ s.resolve (s.viaTile h0.tile).tenant ((s.th h0).getX 1) (if true then 8 else 4) true = .ok (.reg 0x7000000000) := by
  unfold State.Executes; decide +kernel

theorem witness_IssueRules :
    (128 ≤ (128 : Nat)) ∧ (16 ≤ (16 : Nat)) ∧ box.canIssue ⟨0, 1, .ok⟩ [7] [] = false ∧ box.canIssue ⟨0, 1, .ok⟩ [] [7] = false ∧
    ((boxT fun t => { t with pc := objBase }).canIssue h0 [7] [] = true ∧ (boxT fun t => { t with pc := objBase }).fetchOk 0 objBase = false) ∧
    box.canIssue h0 [7] [] = true ∧ box.fetchOk (box.tenantAt 0) (box.th h0).pc = true := by decide +kernel

/-- The machine whose job of context 0 was dispatched before its packet was accepted. -/
def boxGated : State := { box with hg := { box.hg with jr := [⟨0, 0, 0, 0, 256, 192, 0, 0x60000, 9, .writing, 0, 0, 0, 0, false, 0⟩] } }

theorem witness_IssueRules_gated : boxGated.Executes h0 [1, 2] [] ∧ boxGated.gated h0.tile = true ∧ 0x2B ≤ (0xFFFFFFFF : BitVec 32).toNat % 64 := by
  unfold State.Executes; decide +kernel

/-- A word of format R from its fields (R142): OP, A, B, C, G and FN. -/
def wordR (op a b c g fn : Nat) : BitVec 32 := BitVec.ofNat 32 (op + a * 2 ^ 6 + b * 2 ^ 11 + c * 2 ^ 16 + g * 2 ^ 21 + fn * 2 ^ 24)

/-- Words of the scalar groups written from R145 to R171 stand for their instructions. -/
theorem test_scalar_words : ([
    (wordR 0x01 3 1 2 0 0x17, Instr.remu h0 3 1 2), (wordR 0x01 3 1 0 0 0x18, .clz h0 3 1), (0x00421488, .srli h0 18 2 2), (0xFFFFF8C9, .lui h0 3 0x1FFFFF),
    (0x0008194A, .shori h0 5 3 8), (0xFFFF08CC, .lb h0 3 1 0xFFFF), (0x00080856, .sd h0 1 1 8), (wordR 0x17 3 1 0 0 0x0A, .ldAcq h0 3 1 2 true),
    (wordR 0x17 0 1 2 0 0x07, .stRel h0 1 2 3), (wordR 0x18 3 1 2 0 0x79, .amoCas h0 3 1 2 true 3), (wordR 0x1B 1 2 4 0 0, .jalr h0 1 2 4),
    (0x0000069C, .bpNotall h0 2 0), (wordR 0x1D 0 31 31 0 0x08, .trap h0 1023), (wordR 0x1D 3 0 5 0 0x10, .srr h0 3 5), (wordR 0x1D 0 3 1 0 0x11, .srw h0 3 1),
    (wordR 0x1E 4 5 6 0 0x00, .tstart h0 4 5 6), (wordR 0x1E 4 5 6 0 0x2C, .msend h0 4 5 6 3), (wordR 0x1E 0 5 0 0 0x40, .mwait h0 5),
    (wordR 0x1F 7 1 0 0 0x05, .engPp h0 7 1), (wordR 0x1F 7 8 0 0 0x40, .engpoll h0 7 8), (wordR 0x20 0 1 2 0 0x01, .cinv h0 1 2)] : List (BitVec 32 × Instr)).all
    (fun x => decodeWord h0 x.1 == some x.2) = true := by decide +kernel

/-- Words of the vector groups written from R173 to R182 stand for their instructions. -/
theorem test_vector_words : ([
    (wordR 0x21 4 1 31 2 0x8E, Instr.vadds h0 4 1 2 31 2), (wordR 0x21 4 1 0 0 0x10, .vabs h0 4 1 0), (wordR 0x22 4 1 2 7 0x43, .vfma h0 4 1 1 2 7),
    (wordR 0x23 3 1 2 0 0x09, .vcmpFlt h0 3 1 0 2 0), (wordR 0x24 4 1 2 5 0x03, .vsel h0 4 1 2 5), (wordR 0x24 3 1 0 1 0x0D, .vfexpmax h0 3 1 1),
    (wordR 0x25 6 4 9 0 0xF8, .vcvtF32S4 h0 6 4 9 true 7 0), (0xFFF90867, .vst h0 1 1 0x1FFF 1), (wordR 0x28 4 1 2 3 0x02, .vldx h0 4 1 2 3),
    (wordR 0x29 1 2 3 0 0x03, .pandn h0 1 2 3), (wordR 0x29 31 2 0 0 0x06, .pget h0 31 2), (wordR 0x29 1 31 0 0 0x09, .plt h0 1 31),
    (wordR 0x2A 6 0 31 3 0x00, .accrd h0 6 3 31), (wordR 0x2A 0 0 0 1 0x40, .accz h0 1)] : List (BitVec 32 × Instr)).all
    (fun x => decodeWord h0 x.1 == some x.2) = true := by decide +kernel

/-- Reserved encodings (R143) stand for none: an unlisted FN of OPR, SHIFTI's third selector, COND 6 of BR, an 8-byte sign-extending LD.ACQ, operation 10 of AMO, MWAIT with a destination, engine 6, VFOP's immediate form, a predicate number above 7, PART 4 of S8, G[23] of ACC. -/
theorem test_reserved_words : ([wordR 0x01 3 1 2 0 0x13, 0x00C00008, 0x00000199, wordR 0x17 3 1 0 0 0x0B, wordR 0x18 3 1 2 0 0x0A, wordR 0x1E 1 5 0 0 0x40,
    wordR 0x1F 7 1 0 0 0x06, wordR 0x22 4 1 2 0 0x80, wordR 0x29 8 1 2 0 0x00, wordR 0x25 4 1 2 0 0x86, wordR 0x2A 4 0 0 4 0x00] : List (BitVec 32)).all
    (fun w => decodeWord h0 w == none) = true := by decide +kernel

theorem test_fetch_errors : ([(Fetch.error, 3), (.wakeLimit, 4), (.poisoned, 7), (.reserved, 1)].all fun (e : Fetch × Nat) => ran (.lui ⟨0, 0, e.1⟩ 7 1) box fun t => (t.th h0).cause == e.2 && (t.th h0).pc == 0x1800) = true := by
  decide +kernel

theorem witness_ThreadStart :
    (box.Executes h0 [9, 1, 2] [] ∧ (box.th h0).xpsn 1 = false ∧ (box.th h0).xpsn 9 = false ∧ ((box.th h0).getX 9).toNat % 16 ≠ h0.thr ∧ (box.thread 0 (((box.th h0).getX 9).toNat % 16)).st = .idle) ∧
    (box.th h0).xpsn 3 = true ∧ ((box.th h0).getX 0).toNat % 16 = h0.thr ∧ ((box.setThread 0 3 thr0).thread 0 3).st ≠ .idle := by
  unfold State.Executes; decide +kernel

theorem test_tstart : (ran (.tstart h0 9 1 2) box fun t => (t.thread 0 3).pc == 0x2000 && (t.thread 0 3).getX 1 == 6 && (t.th h0).getX 9 == 0) = true := by decide +kernel

theorem witness_MessageInstructions_msend :
    box.Executes h0 ([9, 1] ++ (List.range (7 : Imm3).toNat).map fun i => (25 : RegNo) + BitVec.ofNat 5 i) [] ∧ (25 : RegNo).toNat + (7 : Imm3).toNat ≤ 32 ∧
    (box.th h0).serr = [] ∧ (box.th h0).acc = [] ∧ (box.th h0).xpsn 9 = false ∧ ((box.th h0).getX 9).toNat < 2 ^ 35 ∧ (box.th h0).credits ≠ 0 ∧
    ((box.th h0).getX 9).toNat % 2 ^ 14 = box.devId ∧ box.devId < 2 ^ 14 ∧ box.jobAt h0.tile = some (0, job0) := by
  unfold State.Executes; decide +kernel

/-- A message with header 1 and the first payload word 2. -/
def msg1 : Msg := ⟨1, [2, 0, 0, 0, 0, 0, 0], false, []⟩

theorem witness_MessageInstructions_mwait :
    (box.Executes h0 ([3] ++ (List.range 8).map fun i => BitVec.ofNat 5 (24 + i)) [] ∧ (box.th h0).bq = [] ∧ (box.th h0).mq = [] ∧ (box.th h0).xpsn 3 = true) ∧
    ((boxT fun t => { t with bq := [msg1], mq := [msg1] }).Executes h0 ([1] ++ (List.range 8).map fun i => BitVec.ofNat 5 (24 + i)) []) ∧
    ((boxT fun t => { t with mq := [msg1] }).Executes h0 ([1] ++ (List.range 8).map fun i => BitVec.ofNat 5 (24 + i)) []) ∧
    (let s := boxT fun t => t.setX 7 (2 ^ 63 + 1) false
     s.Executes h0 ([7] ++ (List.range 8).map fun i => BitVec.ofNat 5 (24 + i)) [] ∧ (s.th h0).getX 7 ≠ 0 ∧ (BitVec.ofNat 64 s.time - (s.th h0).getX 7).toNat < 2 ^ 63) ∧
    ((box.th h0).xpsn 0 = false ∧ (box.th h0).getX 0 = 0) ∧ ((box.th h0).xpsn 4 = false ∧ 2 ^ 63 ≤ (BitVec.ofNat 64 box.time - (box.th h0).getX 4).toNat) := by
  unfold State.Executes; decide +kernel

theorem test_mwait_takes_the_bounce_first : (ran (.mwait h0 1) (boxT fun t => { t with bq := [{ msg1 with hdr := 9 }], mq := [msg1] }) fun t => (t.th h0).getX 24 == 9 && (t.th h0).getX 25 == 2 && (t.th h0).mq == [msg1]) = true := by decide +kernel

/-- A message of thread 0 on its way to a target. -/
def net1 (target : Word) : NetMsg := ⟨0, 0, true, target, 0, msg1, false, false, none⟩

/-- A target: rank 1 of context 0 of device 3, thread 2. -/
def to12 : Word := 3 + 1 * 2 ^ 24 + 2 * 2 ^ 31

theorem witness_MessageDelivery :
    (let s := { box with net := [net1 to12] }
     s.net[0]? = some (net1 to12) ∧ s.behind 0 (net1 to12) = false ∧ s.reachDev (tgtDev to12) = true ∧ s.bounceReason 0 to12 = none ∧ s.job (tgtCtx to12) = some job0 ∧ job0.saved = false ∧
       s.isOn (16 + 1 / 8) = true ∧ (s.thread 1 2).mq.length < 8 ∧ 0 * 16 + 0 ≠ 1 * 16 + tgtThr to12 ∧ job0.tiles.getD (tgtRank to12) 0 = 1) ∧
    ((({ box with net := [net1 to12] } : State).setThread 1 2 { thr0 with mq := List.replicate 8 msg1 }).bounceReason 0 to12 = none) ∧
    (({ box with net := [net1 (to12 + 2 ^ 14)] } : State).bounceReason 0 (to12 + 2 ^ 14) = some 1) ∧
    (box.jobAt 0 = some (0, job0) ∧ box.isOn 16 = true ∧ ({ net1 to12 with bounce := true } : NetMsg).bounce = true) ∧
    (let u := (boxT fun t => { t with st := .waitMsg, deadline := 2 ^ 63 + 1 }).thread 0 0
     u.st = .waitMsg ∧ u.deadline ≠ 0 ∧ (BitVec.ofNat 64 box.time - u.deadline).toNat < 2 ^ 63) := by decide +kernel

theorem test_message_arrives : (ran (.messageArrival 0) { box with net := [net1 to12] } fun t => (t.thread 1 2).mq == [msg1] && t.net == []) = true := by decide +kernel

theorem witness_ScalarAccessesPost :
    box.Executes h0 [7, 1] [] ∧ (box.th h0).xpsn 1 = false ∧ box.Reaches h0 false 0x2000 8 0x2000 ∧ box.Reaches h0 false 0x2004 4 0x2004 ∧ box.Reaches h0 false 0x2002 2 0x2002 ∧
    box.Reaches h0 false 0x2001 1 0x2001 ∧ box.Executes h0 [1, 4] [] ∧ box.Reaches h0 true 0x2000 8 0x2000 ∧ box.Reaches h0 true 0x2001 1 0x2001 ∧ (box.th h0).acc = [] ∧ (box.th h0).serr = [] := by
  unfold State.Executes State.Reaches; decide +kernel

/-- An access of the thread that waits: a load of 4 bytes at 0x2000 into s7, and a store of 2 bytes there. -/
def load4 : Acc := ⟨1, .load 7 4 true, [[⟨0, .mem 0x2000, 0x2000, 4, 0, false, 0⟩]], [], [], 0, 0, none, 0, 0, none⟩
def store2 : Acc := ⟨1, .store false, [[⟨0, .mem 0x2000, 0x2000, 2, 0x1234, false, 0⟩]], [], [], 1, 0, none, 0, 0, none⟩

theorem witness_AccessesPerformed :
    (let s := boxT fun t => { t with acc := [load4] }
     (s.thread 0 0).acc.find? (fun b => b.id == 1) = some load4 ∧ cacheable (s.viaTile 0).cl (.mem 0x2000) = false ∧ (∀ d ∈ s.locDoms (.mem 0x2000), s.isOn d = true) ∧
       (s.thread 0 0).earlier 1 = [] ∧ s.resumeFirst 0 1 = true ∧ s.waitings.length = 1 ∧ (s.waitings.all fun w => s.serves s.waitings w) = true ∧ s.isLost 0x2000 = false ∧
       area 0x2000 1 ≠ .t2) ∧
    ((boxT fun t => { t with acc := [store2] }).thread 0 0).acc.find? (fun b => b.id == 1) = some store2 ∧
    ((boxT fun t => { t with acc := [{ store2 with bad := 1 }] }).thread 0 0).acc.find? (fun b => b.id == 1) = some { store2 with bad := 1 } ∧
    (let s := { (boxT fun t => { t with st := .stalled, hold := .wake [17] 1 }) with stallq := [(0, 0)] }
     (s.thread 0 0).st = .stalled ∧ (s.thread 0 0).hold = .wake [17] 1 ∧ s.stallq.contains (0 * 16 + 0, 0) = true ∧ (s.thread 0 0).handler ≠ 0 ∧ (s.thread 0 0).hmode = false) := by decide +kernel

theorem test_load_sign_extends : (ran (.memoryResponse 0 0 1 0) { (boxT fun t => { t with acc := [load4] }) with mem := [(0x2000, 1), (0x2003, 0x80)] } fun t => (t.th h0).getX 7 == 0xFFFFFFFF80000001 && (t.th h0).acc == []) = true := by decide +kernel
theorem test_store_is_little_endian : (ran (.memoryResponse 0 0 1 0) (boxT fun t => { t with acc := [store2] }) fun t => t.mem == [(0x2000, 0x34), (0x2001, 0x12)]) = true := by decide +kernel

theorem witness_FencesAndAcquire :
    box.Executes h0 [7, 1] [] ∧ (box.th h0).xpsn 1 = false ∧ box.Reaches h0 false ((box.th h0).getX 1) (2 ^ (3 : Imm2).toNat) 0x2000 ∧
    box.findLine (box.viaTile 0).cl (box.viaTile 0).tenant 0x2000 = none ∧ (box.th h0).acc = [] ∧ box.Executes h0 [] [] ∧
    ((boxT fun t => { t with acc := [load4] }).th h0).acc = [load4] ∧ load4.tend = none ∧ store2.isStore = true ∧ (!load4.isStore) = true ∧
    ((boxT fun t => { t with serr := [⟨1, 0x40⟩] }).Executes h0 [] []) := by
  unfold State.Executes State.Reaches; decide +kernel

theorem witness_AtomicResults :
    box.Executes h0 [7, 1, 2] [] ∧ (box.th h0).xpsn 1 = false ∧ (box.th h0).xpsn 2 = false ∧ (box.th h0).xpsn 7 = false ∧ (box.th h0).acc = [] ∧ (box.th h0).serr = [] ∧
    box.Reaches h0 true ((box.th h0).getX 1) (if true then 8 else 4) 0x2000 ∧ box.Reaches h0 true ((box.th h0).getX 5) (if false then 8 else 4) 0x2004 ∧
    box.findLine (box.viaTile 0).cl (box.viaTile 0).tenant 0x2000 = none ∧ box.isLost 0x2000 = false ∧ box.homePsn 0x2000 8 = false := by
  unfold State.Executes State.Reaches; decide +kernel

theorem test_amoSmin : (ran (.amoSmin h0 7 1 2 false 3) { box with mem := [(0x2000, 0xFF), (0x2001, 0xFF), (0x2002, 0xFF), (0x2003, 0xFF)] } fun t => (t.th h0).getX 7 == BitVec.allOnes 64 && t.mem.length == 4) = true := by decide +kernel
theorem test_amoCas_stores : (ran (.amoCas h0 0 1 2 true 0) box fun t => t.mem == [(0x2000, 6)]) = true := by decide +kernel
/-! ### Caches, vectors, accumulators, engine issue -/

/-- A line of 128 bytes at 0x31000000 (of cluster 1's side of the map) with its first byte written in cluster 0. -/
def line1 : Line := ⟨0x200000000, 0, 9 :: List.replicate 127 0, 1, 0⟩

theorem witness_CacheRangeOperations :
    box.Executes h0 [3, 2] [] ∧ (box.th h0).serr = [] ∧ (box.th h0).xpsn 3 = true ∧ box.Executes h0 [2, 3] [] ∧ box.Executes h0 [1, 0] [] ∧ ((box.th h0).getX 0).toNat = 0 ∧
    (box.Executes h0 [1, 2] [] ∧ (box.th h0).xpsn 1 = false ∧ (box.th h0).xpsn 2 = false ∧ ((box.th h0).getX 2).toNat ≠ 0 ∧ (box.th h0).acc = [] ∧
      box.keyRanges (box.viaTile 0).tenant ((box.th h0).getX 1) ((box.th h0).getX 2).toNat = some ([(0x2000, 6)], .done) ∧
      ((List.range 3).all fun op => (box.dirtyIn (box.viaTile 0) op [(0x2000, 6)]) == []) = true ∧ box.gated 0 = false) ∧
    (line1.addr < 2 ^ 43 ∧ line1.dirty ≠ 0 ∧ line1.addr % 128 = 0 ∧ box.isLost line1.addr = false ∧ area line1.addr 1 ≠ .t2) := by
  unfold State.Executes; decide +kernel

theorem test_cwb_writes_home :
    (ran (.cwb h0 7 2) ((boxT fun t => t.setX 7 0x200000000 false).setLines (lineSet 0 0x200000000) [line1]) fun t => t.mem == [(0x200000000, 9)] && (t.lines (lineSet 0 0x200000000)).length == 1) = true := by
  decide +kernel

/-- The thread with vector registers 1 and 2, lane 3 of vector register 3 poisoned, predicate 1 naming lanes 0 and 3, predicate 2 no lane. -/
def boxV : State := boxT fun t => { t with v := [(32, 0x3F800000), (33, 0x7FFFFFFF), (35, 0x80000000), (64, 0x40000000), (65, 1), (67, 0xFFFFFFFF)], vp := NSet.put [] 99 true, p := [(1, 9)] }

theorem witness_VectorIntegerResults :
    boxV.Executes h0 [] [4, 1, 2] ∧ boxV.Executes h0 [2] [4, 1] ∧ boxV.Executes h0 [] [4, 1] ∧ (0 : Imm2).toNat ≤ 2 ∧ (2 : Imm2).toNat ≤ 2 := by
  unfold State.Executes; decide +kernel

theorem test_vadds_saturates : (ran (.vadds h0 4 1 0 2 0) boxV fun t => (t.th h0).getV 4 1 == 0x7FFFFFFF && (t.th h0).getV 4 3 == 0x80000000) = true := by decide +kernel
theorem test_vadd_predicated : (ran (.vadd h0 1 1 2 31 1) boxV fun t => (t.th h0).getV 1 0 == 0x3F7FFFFF && (t.th h0).getV 1 1 == 0x7FFFFFFF) = true := by decide +kernel

theorem witness_VectorFloatResults : boxV.Executes h0 [] [4, 1, 2] ∧ boxV.Executes h0 [2] [4, 1] ∧ (1 : Imm2).toNat ≤ 1 ∧ boxV.Executes h0 [] [4, 1] ∧
    f32 0x3F800000 ≠ .nan ∧ f32 (0x7FC00000 : Lane).toNat = .nan := by
  unfold State.Executes; decide +kernel

theorem test_vfmul : (ran (.vfmul h0 4 1 0 2 1) boxV fun t => (t.th h0).getV 4 0 == 0x40000000 && (t.th h0).getV 4 3 == 0x7FC00000) = true := by decide +kernel
theorem test_vfrcp_of_zero : (ran (.vfrcp h0 4 5 0) boxV fun t => (t.th h0).getV 4 7 == 0x7F800000) = true := by decide +kernel

theorem witness_FormatsRoundTrip : fmtF32 ∈ [fmtF32, fmtT16, fmtH16] ∧ 0xFF800000 < 2 ^ (1 + fmtF32.ebits + fmtF32.fbits) ∧ fmtF32.dec 0xFF800000 ≠ .nan ∧
    fmtT16.dec 1 ≠ .nan ∧ fmtH16.dec 0xFBFF ≠ .nan ∧ 0xFBFF < 2 ^ (1 + fmtH16.ebits + fmtH16.fbits) := by decide +kernel

theorem witness_ComparesAndPredicates :
    (boxV.Executes h0 [] [1, 2] ∧ ¬ ∃ i : Fin 32, (boxV.th h0).isActive 0 i = true ∧ ((boxV.th h0).vpsn 1 i || (boxV.th h0).vpsn 2 i) = true) ∧
    (boxV.Executes h0 [] [1, 3] ∧ ∃ i : Fin 32, (boxV.th h0).isActive 1 i = true ∧ ((boxV.th h0).vpsn 1 i || (boxV.th h0).vpsn 3 i) = true) ∧
    (boxV.Executes h0 [3] [1] ∧ (boxV.th h0).xpsn 3 = true ∧ (1 : Imm2).toNat ≤ 1 ∧ 2 ≤ (2 : Imm2).toNat) ∧
    boxV.Executes h0 [] [] ∧ (boxV.Executes h0 [2] [] ∧ (boxV.th h0).xpsn 2 = false) ∧ boxV.Executes h0 [3] [] := by
  unfold State.Executes; decide +kernel

theorem test_vcmpFlt_with_a_nan : (ran (.vcmpFlt h0 3 1 0 2 0) boxV fun t => (t.th h0).getP 3 == 1) = true := by decide +kernel
theorem test_pfirst : (ran (.pfirst h0 1 1) boxV fun t => (t.th h0).getP 1 == 1) = true := by decide +kernel
theorem test_plt_of_a_negative : (ran (.plt h0 1 4) boxV fun t => (t.th h0).getP 1 == 0) = true := by decide +kernel

theorem witness_VectorMovesAndReductions :
    boxV.Executes h0 [2] [4] ∧ boxV.Executes h0 [7, 3] [1] ∧ boxV.Executes h0 [2, 3] [4] ∧ boxV.Executes h0 [] [4, 1, 3] ∧ boxV.Executes h0 [] [4] ∧ boxV.Executes h0 [7] [1] ∧
    (boxV.th h0).active 2 = [] ∧ (boxV.th h0).active 1 = [0, 3] := by
  unfold State.Executes; decide +kernel

theorem test_vrsum : (ran (.vrsum h0 7 1 1) boxV fun t => (t.th h0).getX 7 == 0xFFFFFFFFBF800000) = true := by decide +kernel
theorem test_vrmin_of_no_lane : (ran (.vrmin h0 7 1 2) boxV fun t => (t.th h0).getX 7 == 0x7FFFFFFF) = true := by decide +kernel
theorem test_vins_past_32 : (ran (.vins h0 4 2 7) (boxV.setThread 0 0 ((boxV.th h0).setX 7 33 false)) fun t => (t.th h0).getV 4 1 == 6) = true := by decide +kernel

theorem witness_VectorConversions : boxV.Executes h0 [] [4, 1] ∧ boxV.Executes h0 [2] [4, 1] ∧ (0 : Imm3).toNat = 0 ∧ (7 : Imm3).toNat ≠ 0 ∧ (1 : Imm3).toNat < 2 ∧ 2 ≤ (2 : Imm3).toNat ∧
    (3 : Imm3).toNat < 4 ∧ 4 ≤ (4 : Imm3).toNat := by
  unfold State.Executes; decide +kernel

theorem test_vcvtF32I32_saturates : (ran (.vcvtF32I32 h0 4 1 true 0 0) (boxV.setThread 0 0 ((boxV.th h0).setV 1 5 0xFF800000 false)) fun t => (t.th h0).getV 4 0 == 1 && (t.th h0).getV 4 5 == 0x80000000) = true := by decide +kernel

theorem witness_VectorMemoryPosts :
    (boxV.Executes h0 [3] [4] ∧ (boxV.th h0).xpsn 3 = true) ∧ (boxV.Executes h0 [1] [4] ∧ (boxV.th h0).xpsn 1 = false ∧ (boxV.th h0).active 2 = []) ∧ boxV.Executes h0 [1, 2] [4] ∧
    (boxV.Executes h0 [1] [4, 3] ∧ ((boxV.th h0).active 1).any (fun j => (boxV.th h0).vpsn 3 j) = true) ∧ (boxV.Executes h0 [1] [4, 5] ∧ boxV.accesses h0 (boxV.th h0) < 32 ∧ (boxV.th h0).active 1 ≠ [] ∧
    ([true, false].all fun (st : Bool) => match boxV.plan (boxV.viaTile 0) st false false (((boxV.th h0).active 1).map fun j => ⟨j, (boxV.th h0).getX 1 + BitVec.ofNat 64 (4 * j), 4, ((boxV.th h0).getV 4 j).toNat, (boxV.th h0).vpsn 4 j⟩) with
      | .go ps [] => ps != [] && ps.all fun p => match p.loc with
        | .mem a => (boxV.locDoms (.mem a)).all boxV.isOn
        | _ => false
      | _ => false) = true) := by
  unfold State.Executes; decide +kernel

theorem test_vld_posts_two_lanes : (ran (.vld h0 4 1 1 1) boxV fun t => ((t.th h0).acc.map fun a => a.todo.map fun g => g.map fun p => (p.lane, p.va)) == [[[(0, 0x2004)], [(3, 0x2010)]]]) = true := by decide +kernel

/-- A descriptor of 64 bytes: fields by offset and size. -/
def desc (fs : List (Nat × Nat × Nat)) : List Nat := fs.foldl (fun d f => putBytes d f.1 (natLe f.2.1 f.2.2)) (List.replicate 64 0)

/-- A Matrix command of tile 0: S8 by S8 into accumulator 0, output held (NONE). -/
def mxDesc (m n k : Nat) : List Nat := desc [(0, 1, 5), (1, 1, 4), (2, 1, 6), (3, 1, m), (4, 3, k), (8, 2, n), (12, 4, 64), (16, 8, 0x4000), (24, 8, 0x5000), (56, 4, 64)]
/-- A command of thread 0 of tile 0, in its slot 0. -/
def cmd1 (eng : Nat) (d : List Nat) : Cmd := ⟨0, 0, 0, 1, 0, 0, 0, eng, d⟩

theorem witness_AccumulatorInstructions :
    box.accCmds 0 3 = [] ∧ ({ box with ebuf := [cmd1 0 (mxDesc 1 1 1)] } : State).accCmds 0 0 ≠ [] ∧ (box.th h0).accReady 0 = false ∧
    ((boxT fun t => { t with waitAcc := some ⟨0, t.pc, []⟩ }).th h0).accReady 0 = true ∧ box.Executes h0 [] [4] ∧ box.Executes h0 [] [] ∧
    ({ box with ebuf := [cmd1 0 (mxDesc 1 1 1)] } : State).Executes h0 [] [4] := by
  unfold State.Executes; decide +kernel

theorem test_accwr_then_accrd : (ran (.accwr h0 1 3 31) boxV fun t => ran (.accrd h0 6 3 31) t fun w => (w.th h0).getV 6 0 == 0x3F800000 && (w.th h0).getV 6 3 == 0x80000000) = true := by decide +kernel

theorem witness_EngineIssueAndRetrieval_issue :
    box.Executes h0 [7, 1] [] ∧ (box.th h0).serr = [] ∧ (box.th h0).acc = [] ∧ (box.th h0).xpsn 1 = false ∧ ((box.th h0).getX 1).toNat % 64 = 0 ∧ box.gated 0 = false ∧
    (box.th h0).freeSlot = some 0 ∧ box.bufUsed 0 < 32 ∧ box.resolve (box.viaTile 0).tenant ((box.th h0).getX 1) 64 false = .ok (.mem 0x2000) ∧
    (∀ d ∈ box.locDoms (.mem 0x2000), box.isOn d = true) ∧ cacheable (box.viaTile 0).cl (.mem 0x2000) = false ∧ box.homePsn 0x2000 64 = false ∧
    ((boxT fun t => { t with slots := (List.range 8).map fun i => (i, some ⟨0, i + 1, none⟩) }).th h0).freeSlot = none ∧
    32 ≤ ({ box with ebuf := List.replicate 32 (cmd1 0 (mxDesc 1 1 1)) } : State).bufUsed 0 := by
  unfold State.Executes; decide +kernel

theorem test_engAt_issues : (ran (.engAt h0 7 1) box fun t => (t.th h0).getX 7 == 0x188 && t.eng.q.length == 1 && t.ebuf == []) = true := by decide +kernel

/-- The thread holds the handle of its slot 2 in s7. -/
def boxE (r : Option Word) : State := boxT fun t => { t.setX 7 (engHandle 2 1 5) false with slots := [(2, some ⟨1, 5, r⟩)] }

theorem witness_EngineIssueAndRetrieval_retrieval :
    (boxE none).Executes h0 [8, 7] [] ∧ ((boxE none).th h0).xpsn 7 = false ∧
    Tab.get ((boxE none).th h0).slots none ((((boxE none).th h0).getX 7).toNat % 8) = some ⟨1, 5, none⟩ ∧ engHandle 2 1 5 = ((boxE none).th h0).getX 7 ∧
    Tab.get ((boxE (some 3)).th h0).slots none ((((boxE (some 3)).th h0).getX 7).toNat % 8) = some ⟨1, 5, some 3⟩ ∧
    ((boxE none).Executes h0 [8, 1] [] ∧ Tab.get ((boxE none).th h0).slots none ((((boxE none).th h0).getX 1).toNat % 8) = none) := by
  unfold State.Executes; decide +kernel

theorem test_engwait_takes_the_result : (ran (.engwait h0 8 7) (boxE (some 0x8000000500000000)) fun t => (t.th h0).getX 8 == 0x8000000500000000 && (t.th h0).slots == []) = true := by decide +kernel
/-! ### Engine commands -/

/-- Bytes in memory. -/
def putMem (s : State) (a : Nat) (bs : List Nat) : State := (List.range bs.length).foldl (fun s i => s.putByte (a + i) (bs.getD i 0)) s
/-- A queued command. -/
def qc (eng : Nat) (d : List Nat) : QCmd := ⟨cmd1 eng d, 0, 0, false, 0, 0, .none, []⟩
/-- A machine whose engine of cluster 0 (or the device) has a command queued. -/
def boxQ (eng : Nat) (d : List Nat) : State := { box with eng := ⟨[qc eng d], [], []⟩ }
/-- Is all that a reach names in domains that are On? -/
def upR (s : State) (r : Reach) : Bool :=
  match r with
  | .ok ds => ds.all fun d => s.isOn d && (s.dom d).entering == none
  | _ => false
/-- A machine with a Matrix command of tile 0 waiting. -/
def boxM (d : List Nat) : State := { box with ebuf := [cmd1 0 d] }

/-- Matrix descriptors: valid T16 with an output row, no row, a bad row count, a misaligned output, an unmapped operand. -/
def mxRow : List Nat := desc [(0, 1, 10), (1, 1, 4), (2, 1, 4), (3, 1, 1), (4, 3, 1), (8, 2, 1), (16, 8, 0x4000), (24, 8, 0x5000), (32, 8, 0x6000)]
def mxHeld : List Nat := mxDesc 1 1 1
def mxSkew : List Nat := putBytes mxRow 32 [1]
def mxLost : List Nat := putBytes mxRow 32 (natLe 8 objBase)

theorem witness_EngineCommandsRun_matrix :
    (let s := boxM mxHeld
     s.nextCmd 0 0 = some (cmd1 0 mxHeld) ∧ s.running 0 0 = none ∧ (s.runs.any fun r => r.tiles.contains 0) = false ∧ s.isOn (16 + 0 / 8) = true ∧ s.cmdReady (cmd1 0 mxHeld) = true ∧
     mxCheck mxHeld = none ∧ (mxD mxHeld).m ≠ 0 ∧ (mxD mxHeld).n ≠ 0 ∧ mxAlign (mxD mxHeld) = none ∧ (mxD mxHeld).act = 0 ∧ (mxD mxHeld).scaled = false ∧ (mxD mxHeld).tag ≤ 32 ∧
     (match s.mxReach (s.viaCmd (cmd1 0 mxHeld)) (mxD mxHeld) with
      | .ok ds => ds.all fun d => s.isOn d && (s.dom d).entering == none
      | _ => false) = true) ∧
    mxCheck (mxDesc 33 1 1) = some 2 ∧ (mxCheck (mxDesc 0 1 1) = none ∧ (mxD (mxDesc 0 1 1)).m = 0) ∧ (mxCheck mxSkew = none ∧ mxAlign (mxD mxSkew) = some 8) ∧
    (mxCheck mxLost = none ∧ mxAlign (mxD mxLost) = none ∧ (boxM mxLost).mxReach ((boxM mxLost).viaCmd (cmd1 0 mxLost)) (mxD mxLost) = .bad) := by decide +kernel

theorem test_mx_int_product : (ran (.mxCommand 0 none) (putMem (putMem (boxM mxHeld) 0x4000 [3]) 0x5000 [0xFE]) fun t => ((t.tile 0).getAcc 0 0 0).1 == 0xFFFFFFFA && t.ebuf == []) = true := by decide +kernel

/-- Attention descriptors: ATTEND of one T16 row over head 0, APPEND of some rows, MERGE of one part, and a bad dimension. -/
def atAttend : List Nat := desc [(0, 1, 0), (3, 1, 1), (4, 1, 1), (6, 1, 1), (8, 4, 0x3F800000), (16, 2, 1), (18, 1, 1), (19, 1, 1), (24, 8, 0x10000), (32, 8, 0x14000), (40, 8, 0x15000)]
def atAppend (rows : Nat) : List Nat := desc [(0, 1, 1), (3, 1, rows), (18, 1, 1), (19, 1, 1), (24, 8, 0x10000), (32, 8, 0x14000), (40, 8, 0x15000)]
def atMerge (o : Nat) : List Nat := desc [(0, 1, 2), (1, 1, 0), (3, 1, 1), (4, 1, 1), (18, 1, 1), (32, 8, 0x14000), (40, 8, o), (8, 8, 0x1000)]
/-- A sequence with an empty page list and one pool with its first slot free, or none. -/
def seqMem (s : State) (head : Nat) : State :=
  putMem (putMem (putMem s 0x10000 (putBytes (natLe 8 0x11000) 8 (natLe 8 0) ++ natLe 4 4 ++ [2, 1, 1, 1] ++ natLe 8 0x12000))
    0x12000 (natLe 8 0x400000 ++ natLe 4 4096 ++ natLe 4 2 ++ natLe 4 head)) 0x400004 (natLe 4 0xFFFFFFFF)

/-- What an ATTEND or an APPEND reaches before its pages: rows, output, page list and pools. -/
def atReach (s : State) (d : List Nat) (wr : Bool) : Reach :=
  let x := atD d
  let v := s.viaCmd (cmd1 1 d)
  let w := viaAt (cmd1 1 d) 0
  let r := s.seqRec w x.seq
  let l := if wr then r.tailPages else x.pageList r.pages
  let rows := if wr then
      ((s.reach v x.q (x.rows * (x.kvh * x.dim * x.wf.width / 8)) false locLocal).and (s.reach v x.o (x.rows * (x.kvh * x.dim * x.wf.width / 8)) false locLocal)).and
        ((if x.seg then s.reach v x.rowinfo (8 * x.rows) false locLocal else .ok []).and (s.reach v x.seq 64 true locLocal))
    else ((s.reach v x.q (x.rows * x.dim * (x.wf.width / 8)) false locLocal).and (s.reach v x.o x.outLen true locLocal)).and
        ((if x.causal || x.seg then s.reach v x.rowinfo (8 * x.rows) false locLocal else .ok []).and (s.reach v x.seq 64 false locLocal))
  rows.and ((if r.psnHi then Reach.ok [] else s.reach v r.poolA (64 * min r.pools 16) wr locLocal).and (l.foldl (fun q i => q.and (s.reach v (r.pt + 4 * i) 4 wr locLocal)) (.ok [])))

theorem witness_EngineCommandsRun_attention :
    (boxQ 1 atAttend).EngReady 1 0 (qc 1 atAttend) ∧ atCheck (desc [(0, 1, 0)]) = some 2 ∧ atCheck (putBytes (atAppend 1) 18 [9]) = some 2 ∧ atCheck (putBytes (atMerge 0x15000) 18 [0]) = some 2 ∧
    atCheck atAttend = none ∧ atCheck (atAppend 0) = none ∧ atCheck (atAppend 1) = none ∧ atCheck (atMerge 0x15000) = none ∧ atCheck (atMerge objBase) = none ∧
    (boxQ 1 (atMerge objBase)).reach ((boxQ 1 (atMerge objBase)).viaCmd (cmd1 1 (atMerge objBase))) objBase (atD (atMerge objBase)).outLen true locLocal = .bad ∧
    upR box (box.reach (box.viaCmd (cmd1 1 (atMerge 0x15000))) 0x15000 (atD (atMerge 0x15000)).outLen true locLocal) = true ∧
    (atD (atMerge 0x15000)).out ≠ 3 ∧ (atD (atMerge 0x15000)).tag ≤ 32 ∧
    (let s := seqMem (boxQ 1 atAttend) 0
     let w := viaAt (cmd1 1 atAttend) 0
     let r := s.seqRec w 0x10000
     upR s (atReach s atAttend false) = true ∧ (atD atAttend).pageList r.pages = [] ∧ s.atRecords w (atD atAttend) r (s.poolsOf w r) [] = none ∧ (atD atAttend).out ≠ 3 ∧ (atD atAttend).tag ≤ 32 ∧
     upR s (s.kvReach w r (s.poolsOf w r) [] false) = true) ∧
    (let s := putMem (seqMem (boxQ 1 atAttend) 0) 0x10014 [9]
     s.atRecords (viaAt (cmd1 1 atAttend) 0) (atD atAttend) (s.seqRec (viaAt (cmd1 1 atAttend) 0) 0x10000) (s.poolsOf (viaAt (cmd1 1 atAttend) 0) (s.seqRec (viaAt (cmd1 1 atAttend) 0) 0x10000)) [] ≠ none) := by
  unfold State.EngReady; decide +kernel

theorem witness_EngineCommandsRun_append :
    let s := seqMem (boxQ 1 (atAppend 1)) 0
    let x := atD (atAppend 1)
    let w := viaAt (cmd1 1 (atAppend 1)) 0
    let r := s.seqRec w x.seq
    let pools := s.poolsOf w r
    let plan := appendPlan x.rows r.pages r.tail false
    let s0 := s.readAll w ((x.seq, 64) :: (List.range pools.length).map fun k => (r.poolA + 64 * k, 64))
    s.EngReady 1 0 (qc 1 (atAppend 1)) ∧ r.psn = false ∧ r.tailPages = [] ∧ s.atRecords w x r pools [] = none ∧ upR s (atReach s (atAppend 1) true) = true ∧ plan.fresh = [0] ∧
    upR s (s.kvReach w r pools [] true) = true ∧ upR s (plan.fresh.foldl (fun q p => q.and (s.reach (s.viaCmd (cmd1 1 (atAppend 1))) (r.pt + 4 * p) 4 true locLocal)) (Reach.ok [])) = true ∧
    plan.fresh.all (fun p => decide (kvPageSize (kvFmt r.nf) x.kvh x.dblk ≤ (r.poolOf pools p).slotSize) && !(r.poolOf pools p).psn) = true ∧
    r.pages + plan.fresh.length ≤ r.cap ∧ (kvFmt r.nf).isBlock = false ∧ x.tag ≤ 32 ∧ x.rows ≠ 0 ∧ (s0.popAll w r plan.fresh []).2 = ([(0, 0)], .done) ∧
    upR s (s.kvReach w r pools [(0, 0, false)] true) = true ∧
    ((seqMem (boxQ 1 (atAppend 1)) 0xFFFFFFFF).popAll w r plan.fresh []).2 = ([], .empty 0) ∧ ((seqMem (boxQ 1 (atAppend 1)) 7).popAll w r plan.fresh []).2.2 = .range := by
  unfold State.EngReady; decide +kernel

theorem test_append_of_no_row : (ran (.append 0 none false 0) (seqMem (boxQ 1 (atAppend 0)) 0) fun t => (t.runs.map fun r => (r.status, r.value)) == [(0, 0)]) = true := by decide +kernel
theorem test_append_to_an_empty_pool : (ran (.append 0 none false 0) (seqMem (boxQ 1 (atAppend 1)) 0xFFFFFFFF) fun t => (t.runs.map fun r => (r.status, r.detail)) == [(6, 0xD0)]) = true := by decide +kernel
theorem test_append_takes_a_page : (ran (.append 0 none false 0) (seqMem (boxQ 1 (atAppend 1)) 0) fun t => (t.runs.map fun r => (r.status, r.value)) == [(0, 0)] && ((t.seqRec (viaAt (cmd1 1 (atAppend 1)) 0) 0x10000).pages, (t.seqRec (viaAt (cmd1 1 (atAppend 1)) 0) 0x10000).tail) == (1, 1)) = true := by decide +kernel
theorem test_attend_over_no_page : (ran (.attend 0 none) (seqMem (boxQ 1 atAttend) 0) fun t => (t.runs.map fun r => r.status) == [0]) = true := by decide +kernel

/-- Scan descriptors and a stream record of 32 I32 elements. -/
def scScan (l seq : Nat) : List Nat := desc [(1, 1, 0x30), (2, 2, l), (8, 8, seq), (16, 8, 0x20000)]
def scEvict : List Nat := desc [(0, 1, 2), (16, 8, 0x20000)]
def scConv : List Nat := desc [(0, 1, 1), (1, 1, 0x30), (2, 2, 1), (16, 8, 0x20000)]
/-- The record of a stream at 0x20000 with the chunk number it expects; it is resident in cluster 0, or not. -/
def streamMem (s : State) (next where_ : Nat) : State :=
  putMem s 0x20000 ([0, 0] ++ natLe 2 32 ++ natLe 2 0 ++ natLe 2 0 ++ natLe 8 next ++ natLe 8 0x21000 ++ natLe 8 0 ++ natLe 4 where_)
/-- The same with the elements in the engine's store. -/
def resident (s : State) : State := { streamMem s 5 1 with sc := ⟨[⟨0, 0, 0x20000, 0, [(0, 1)], List.replicate 32 (7, false)⟩], []⟩ }

/-- The machine whose stream record names a cluster that holds the state no more. -/
def lostState (s : State) : State := streamMem s 5 1

theorem witness_EngineCommandsRun_scan :
    (let s := resident (boxQ 2 (scScan 16 5))
     let c := cmd1 2 (scScan 16 5)
     let r := s.stRec 0 0x20000
     s.EngReady 2 0 (qc 2 (scScan 16 5)) ∧ scReserved (scScan 16 5) = false ∧ (scD (scScan 16 5)).lenOk = true ∧ (scD (scScan 15 5)).lenOk = false ∧
     upR s (s.reach (s.viaCmd c) 0x20000 64 true locLocal) = true ∧ s.scRecords c 0 r = none ∧ upR s (s.scReach (s.viaCmd c) (scD (scScan 16 5)) r) = true ∧ s.scScales c = none ∧ r.psn = false ∧
     r.resident = true ∧ r.cluster = 0 ∧ s.scLost 0 0x20000 r = false ∧ seqAhead (scD (scScan 16 5)).seq r.next = 0 ∧
     seqAhead (scD (scScan 16 6)).seq r.next = 1 ∧ 2 ^ 63 ≤ seqAhead (scD (scScan 16 4)).seq r.next ∧ (scD scConv).needs = false ∧ s.scRecords (cmd1 2 scConv) 0 r = none ∧ s.scScales (cmd1 2 scConv) = none) ∧
    (let s := streamMem (boxQ 2 scEvict) 5 0
     let c := cmd1 2 scEvict
     s.EngReady 2 0 (qc 2 scEvict) ∧ scReserved scEvict = false ∧ (scD scEvict).lenOk = true ∧ upR s (s.reach (s.viaCmd c) 0x20000 64 true locLocal) = true ∧ s.scRecords c 0 (s.stRec 0 0x20000) = none ∧
     upR s (s.scReach (s.viaCmd c) (scD scEvict) (s.stRec 0 0x20000)) = true ∧ s.scScales c = none ∧ (s.stRec 0 0x20000).resident = false ∧ scReserved (putBytes scEvict 5 [1]) = true) ∧
    (let s := lostState (boxQ 2 scEvict)
     (s.stRec 0 0x20000).resident = true ∧ s.scLost 0 0x20000 (s.stRec 0 0x20000) = true ∧ s.scRecords (cmd1 2 scEvict) 0 (s.stRec 0 0x20000) = none) ∧
    (let s := resident (boxQ 2 scEvict)
     (s.scFind 0 0 0x20000).any (fun y => s.saveTry y == .ready) = true ∧ s.scRecords (cmd1 2 scEvict) 0 (s.stRec 0 0x20000) = none) := by
  unfold State.EngReady; decide +kernel

theorem test_scan_behind_its_stream : (ran (.scan 0 none false) (resident (boxQ 2 (scScan 16 4))) fun t => (t.runs.map fun r => (r.status, r.detail)) == [(7, 0xA)]) = true := by decide +kernel
theorem test_evict_saves : (ran (.evict 0 false) (resident (boxQ 2 scEvict)) fun t => t.sc.st == [] && (t.runs.map fun r => (r.status, r.value)) == [(0, 1)] && t.byte 0x21000 == 7) = true := by decide +kernel

/-- Convolution and Stem descriptors of 1 by 1 kernels, T16 in and out, with their extension at 0x30000; a bad kernel height. -/
def cvDesc (stem : Bool) (rows recv : Nat) : List Nat :=
  desc [(0, 1, if stem then 0x1D else 0x2A), (2, 1, 0x11), (3, 1, 0x11), (4, 1, 1), (5, 1, 1), (6, 1, if stem then 0 else 4), (8, 2, 1), (10, 2, 1), (12, 2, 1), (14, 2, 1), (24, 2, 1),
    (28, 2, rows), (32, 8, 0x31000), (40, 8, 0x32000), (48, 8, 0x33000), (56, 8, if stem then 0x30080 else if recv = 0 then 0x30000 else 0x30040)]
/-- The extension records: tile 0; the second also takes one halo row from above. -/
def cvMem (s : State) : State := putMem (putMem s 0x3001F [1]) 0x3005F [1, 1]

/-- The extension record's bytes and the command read from a descriptor. -/
def cvOf (e : Nat) (d : List Nat) : List Nat × CvD :=
  let s := cvMem (boxQ e d)
  let x := (s.cvExt (s.viaCmd (cmd1 e d)) (field d 56 8)).2.map (·.1)
  (x, cvD (e == 4) d x)
/-- Is a descriptor valid with everything it touches in domains that are On, and its extension unpoisoned? -/
def cvGood (e : Nat) (d : List Nat) : Bool :=
  let s := cvMem (boxQ e d)
  let v := s.viaCmd (cmd1 e d)
  let eb := (s.cvExt v (field d 56 8)).2
  upR s (s.reach v (field d 56 8) 64 false locLocal) && s.cvScales v (cvOf e d).2 false == none &&
  s.cvValidate v (cmd1 e d) (cvOf e d).2 (cvOf e d).1 0 == none && !ppsn eb 0 16 && !ppsn eb 32 32 && !(cvOf e d).2.rowCount == 0 && !(cvOf e d).2.cout == 0 && !(cvOf e d).2.outW == 0 &&
  upR s (s.cvReach v (cvOf e d).2)

/-- A present halo row from above for context 0. -/
def hrow (fmt : Nat) : HaloRow := ⟨0, true, 0, 0, 0, fmt, 0, 32, List.replicate 64 (0, false), 2, none⟩
/-- A Post-processing descriptor: one cell of one class, T16; with a bad stride; with an output that is not mapped. -/
def ppDesc (stride out : Nat) : List Nat := desc [(0, 1, 1), (1, 1, 1), (2, 1, stride), (4, 2, 1), (6, 2, 1), (12, 2, 1), (16, 8, 0x31000), (32, 8, out)]

theorem witness_ImageCommandsRun_conv :
    (cvMem (boxQ 3 (cvDesc false 1 0))).EngReady 3 0 (qc 3 (cvDesc false 1 0)) ∧ (qc 3 (cvDesc false 1 0)).conv = [] ∧ cvGood 3 (cvDesc false 1 0) = true ∧
    (cvOf 3 (cvDesc false 1 0)).2.haloNeed = [] ∧ (cvOf 3 (cvDesc false 1 0)).2.sendList = [] ∧
    (cvOf 3 (cvDesc false 1 0)).2.tiles 0 = [0] ∧ box.running 3 0 = none ∧ (cvOf 3 (cvDesc false 0 0)).2.rowCount = 0 ∧
    (let d := putBytes (cvDesc false 1 0) 2 [0]
     (cvMem (boxQ 3 d)).cvValidate ((cvMem box).viaCmd (cmd1 3 d)) (cmd1 3 d) (cvOf 3 d).2 (cvOf 3 d).1 0 = some 2) ∧
    cvGood 3 (cvDesc false 1 1) = true ∧ (cvOf 3 (cvDesc false 1 1)).2.haloNeed = [(true, 0)] ∧ (cvMem (boxQ 3 (cvDesc false 1 1))).haloFind 0 0 (cvOf 3 (cvDesc false 1 1)).2 (true, 0) = none ∧
    ({ cvMem (boxQ 3 (cvDesc false 1 1)) with halo := [hrow 1] } : State).haloFind 0 0 (cvOf 3 (cvDesc false 1 1)).2 (true, 0) = some (hrow 1) ∧
    (hrow 1).fmt ≠ (cvOf 3 (cvDesc false 1 1)).2.inK ∧ ((hrow 2).fmt, (hrow 2).comp, (hrow 2).len) = ((cvOf 3 (cvDesc false 1 1)).2.inK, (cvOf 3 (cvDesc false 1 1)).2.inComp, (cvOf 3 (cvDesc false 1 1)).2.inL) := by
  unfold State.EngReady; decide +kernel

theorem witness_ImageCommandsRun_stem_post :
    (cvMem (boxQ 4 (cvDesc true 1 0))).EngReady 4 0 (qc 4 (cvDesc true 1 0)) ∧ cvGood 4 (cvDesc true 1 0) = true ∧ (cvOf 4 (cvDesc true 0 0)).2.rowCount = 0 ∧
    ({ boxQ 4 (cvDesc true 1 0) with doms := Tab.set upDoms Dom.reset 14 Dom.reset } : State).isOn 14 = false ∧ ({ boxQ 4 (cvDesc true 1 0) with doms := Tab.set upDoms Dom.reset 14 Dom.reset } : State).engNext 4 0 = some (qc 4 (cvDesc true 1 0)) ∧
    ({ boxQ 5 (ppDesc 1 0x32000) with doms := Tab.set upDoms Dom.reset 14 Dom.reset } : State).engNext 5 0 = some (qc 5 (ppDesc 1 0x32000)) ∧
    (boxQ 5 (ppDesc 1 0x32000)).EngReady 5 0 (qc 5 (ppDesc 1 0x32000)) ∧ ppValidate (ppDesc 0 0x32000) (ppD (ppDesc 0 0x32000)) = some 2 ∧
    ppValidate (ppDesc 1 objBase) (ppD (ppDesc 1 objBase)) = none ∧ (boxQ 5 (ppDesc 1 objBase)).ppReach ((boxQ 5 (ppDesc 1 objBase)).viaCmd (cmd1 5 (ppDesc 1 objBase))) (ppD (ppDesc 1 objBase)) = .bad ∧
    ppValidate (ppDesc 1 0x32000) (ppD (ppDesc 1 0x32000)) = none ∧
    (match (boxQ 5 (ppDesc 1 0x32000)).ppReach (box.viaCmd (cmd1 5 [])) (ppD (ppDesc 1 0x32000)) with
     | .ok ds => ds.all fun d => box.isOn d && (box.dom d).entering == none
     | _ => false) = true := by
  unfold State.EngReady; decide +kernel

theorem test_conv_of_one_tap : (ran (.convCommand 0 none) (putMem (putMem (cvMem (boxQ 3 (cvDesc false 1 0))) 0x31000 [0, 0x40]) 0x32000 [0x80, 0x3F]) fun t => (t.runs.map fun r => r.status) == [0]) = true := by decide +kernel
theorem test_conv_waits_for_its_halo_row : (ran (.convCommand 0 none) (cvMem (boxQ 3 (cvDesc false 1 1))) fun t => (t.eng.q.map fun q => q.aside) == [4] && t.runs == []) = true := by decide +kernel

/-- A queued command that is set aside since time 0, and a machine that holds it later. -/
def asideQ (eng why : Nat) (d : List Nat) : QCmd := ⟨cmd1 eng d, why, 0, false, 0, 0, .none, []⟩
def boxA (eng why : Nat) (d : List Nat) (now : Nat) : State := { box with eng := ⟨[asideQ eng why d], [], []⟩, now := now }

theorem witness_ImageCommandsRun_aside :
    ((boxA 3 4 (cvDesc false 1 1) 0).queueOf 3 0)[0]? = some (asideQ 3 4 (cvDesc false 1 1)) ∧ (boxA 3 4 (cvDesc false 1 1) 0).asideNs (asideQ 3 4 (cvDesc false 1 1)) ≤ (boxA 3 4 (cvDesc false 1 1) 0).limitNs (A.CV_HALO_LIMIT 0) ∧
    (boxA 3 4 (cvDesc false 1 1) (2 ^ 60)).limitNs (A.CV_HALO_LIMIT 0) < (boxA 3 4 (cvDesc false 1 1) (2 ^ 60)).asideNs (asideQ 3 4 (cvDesc false 1 1)) ∧ (boxA 3 4 (cvDesc false 1 1) 0).running 3 0 = none ∧
    (streamMem (boxA 2 1 (scScan 16 5) 0) 5 0 |>.queueOf 2 0)[0]? = some (asideQ 2 1 (scScan 16 5)) ∧
    seqAhead (scD (scScan 16 5)).seq ((streamMem (boxA 2 1 (scScan 16 5) 0) 5 0).stRec 0 0x20000).next = 0 ∧
    seqAhead (scD (scScan 16 6)).seq ((streamMem (boxA 2 1 (scScan 16 6) 0) 5 0).stRec 0 0x20000).next = 1 ∧
    2 ^ 63 ≤ seqAhead (scD (scScan 16 4)).seq ((streamMem (boxA 2 1 (scScan 16 4) 0) 5 0).stRec 0 0x20000).next ∧
    (boxA 2 1 (scScan 16 6) (2 ^ 60)).limitNs (A.SC_ORDER_LIMIT 0) ≤ (boxA 2 1 (scScan 16 6) (2 ^ 60)).asideNs (asideQ 2 1 (scScan 16 6)) ∧
    (boxA 2 1 (scScan 16 6) 0).asideNs (asideQ 2 1 (scScan 16 6)) < (boxA 2 1 (scScan 16 6) 0).limitNs (A.SC_ORDER_LIMIT 0) ∧
    ((streamMem (boxA 2 3 (scScan 16 5) 0) 5 1).stRec 0 0x20000).resident = true ∧ ((streamMem (boxA 2 3 (scScan 16 5) 0) 5 0).stRec 0 0x20000).resident = false := by decide +kernel

theorem witness_ImageCommandsRun_saves_and_halos :
    (let s : State := { resident box with sc := { (resident box).sc with saves := [(0, 0, 0x20000)] } }
     s.sc.saves[0]? = some (0, 0, 0x20000) ∧ (s.scFind 0 0 0x20000).isSome = true ∧ (s.sc.st.all fun y => !s.scBusy y) = true ∧ s.isOn (16 + 0) = true) ∧
    box.scFind 0 0 0x20000 = none ∧
    (({ resident box with runs := [⟨cmd1 2 (scScan 16 5), 0, 0, 0, 0, [], none, [], [], 0, none⟩] } : State).sc.st.all fun y => ({ resident box with runs := [⟨cmd1 2 (scScan 16 5), 0, 0, 0, 0, [], none, [], [], 0, none⟩] } : State).scBusy y) = true ∧
    (∀ h ∈ box.halo, ¬(h.cluster = 0 ∧ h.above = true ∧ h.stage = 1)) ∧
    ({ box with halo := [{ hrow 2 with stage := 1 }] } : State).halo = [] ++ { hrow 2 with stage := 1 } :: [] := by decide +kernel

/-- The thread's command runs in the Attention engine; it ends OK with VALUE 9. -/
def boxR (eng detail : Nat) : State :=
  { (boxT fun t => { t with st := .waitEng, slots := [(0, some ⟨eng, 1, none⟩)] }) with runs := [⟨cmd1 eng (atMerge 0x15000), 0, 0, detail, 9, [], none, [], [], 0, none⟩] }

theorem witness_EngineResultsReturn :
    ([0, 1, 2, 3, 4, 5].all fun (e : Nat) => ((boxR e 0).running e 0).any fun r => decide (r.cmd.thr < 16) && r.cmd.tenant == 0 && r.bumps == [] && r.scale == [] && r.assay == none && r.commit == none && r.status != 7) = true ∧
    overrun (box.fget (A.AT_NP_LIMIT 0) (15, 0)) (box.clkLevel 0) 0 = false ∧ overrun 1 2 (10 ^ 9) = true ∧
    Tab.get ((boxR 1 0).thread 0 0).slots none 0 = some ⟨1, 1, none⟩ ∧ ((boxR 1 0).thread 0 0).st = .waitEng ∧ ((boxR 1 0).thread 0 0).waitAcc = none := by decide +kernel

theorem test_atResult : (ran (.atResult 0 100 50) (boxR 1 3) fun t => (Tab.get (t.th h0).slots none 0) == some ⟨1, 1, some 0x8000000900000030⟩ && (t.th h0).st == .ready && t.rd (A.AT_BUSY_CYCLES 0 0) == 100) = true := by decide +kernel

/-! ### Registers, mappings -/

theorem witness_RegisterWrites :
    (∀ d ∈ [regDom (A.FL_T_RING_BASE 0)], box.isOn d = true ∧ (box.dom d).entering = none) ∧ box.extq = [] ∧ regAt 0x700FFFFFF8 = none ∧
    ((regAt (A.FL_T_RING_BASE 0)).any fun h => !h.sizeOk (A.FL_T_RING_BASE 0) 2) = true ∧
    ((regAt (A.FL_T_RING_BASE 0)).any fun h => h.sizeOk (A.FL_T_RING_BASE 0) 8 && !box.regOk (.tenant 1) h true) = true ∧
    ((regAt (A.FL_T_RING_BASE 0)).any fun h => h.sizeOk (A.FL_T_RING_BASE 0) 8 && box.regOk (.tenant 0) h true && h.reg.win == 0) = true ∧
    ((regAt A.LK_ADMIN).any fun h => h.reg.flds.all fun f => decide (f.lo ≤ f.hi) && decide (f.hi < 64)) = true := by decide +kernel

theorem witness_RegisterWrites_blocks_windows_and_sleep :
    ((regAt (A.ST_CMD_COUNT 0)).any fun h => ["MX", "AT", "SC", "CV", "ST", "PP"].contains h.blk && !commandReg h.reg.name && h.reg.win == 0 && h.sizeOk (A.ST_CMD_COUNT 0) 8 && box.regOk (.tenant 0) h true) = true ∧
    ((regAt A.IO_SPI_TX).any fun h => h.reg.win != 0 && h.sizeOk A.IO_SPI_TX 4 && box.regOk (.tenant 0) h true) = true ∧
    (let s : State := { box with doms := Tab.set upDoms Dom.reset 14 Dom.reset }
     s.isOn (regDom (A.ST_CMD_COUNT 0)) = false ∧ (s.dom (regDom (A.ST_CMD_COUNT 0))).entering = none ∧ (s.domE (regDom (A.ST_CMD_COUNT 0))).wakeAcc = true ∧ s.extq = []) := by decide +kernel

theorem test_register_write : (ran (.registerWrite (.tenant 0) (A.FL_T_RING_BASE 0) 8 0x40000) box fun t => t.rd (A.FL_T_RING_BASE 0) == 0x40000) = true := by decide +kernel
theorem test_register_write_of_another : (ran (.registerWrite (.tenant 1) (A.FL_T_RING_BASE 0) 8 0x40000) box fun t => t.regs == box.regs) = true := by decide +kernel
/-! ### Mappings, memory, the plat -/

/-- The machine with a page of tenant 0 mapped. -/
def boxP (page : Nat) (e : Word) : State := box.setEnt 0 page e
/-- Channel 0 trained with 64 units. -/
def boxX : State := box.fset (A.XM_CAP 0) F.XM_CAP_CH0_CAP 64
/-- The tenant has no quota. -/
def poor : State := { box with plat := { box.plat with cur := some { plat1 with tenants := [⟨0, true, 0, 0, 0, 0, 16⟩] } } }

theorem witness_MappingCommands_map :
    box.flag (A.VC_CMD_STATUS 0) F.VC_CMD_STATUS_BUSY = false ∧ (box.fset (A.VC_CMD_STATUS 7) F.VC_CMD_STATUS_BUSY 1).flag (A.VC_CMD_STATUS 7) F.VC_CMD_STATUS_BUSY = true ∧
    entValid ((boxP 5 (mkEnt 0 1 0 true false)).ent 0 5) = true ∧ entValid (box.ent 0 524287) = false ∧ box.ownsTile 0 (16 % 128) = false ∧ box.ownsTile 0 (15 % 128) = true ∧
    (box.route 2).isSome = true ∧ (box.route 5).isSome = true ∧ box.usedPages 0 3 + 1 ≤ box.quota 0 3 ∧
    (box.ownsVault 0 0 = true ∧ box.usedPages 0 1 + 1 ≤ box.quota 0 1 ∧ box.pickFrame 0 1 0 true = some 2) ∧
    (boxX.ownsChan 0 0 = true ∧ boxX.trained 0 ≠ 0 ∧ boxX.usedPages 0 2 + 1 ≤ boxX.quota 0 2 ∧ boxX.pickFrame 0 2 0 false = some 65536) ∧
    (poor.ownsVault 0 0 = true ∧ poor.quota 0 1 < poor.usedPages 0 1 + 1) := by decide +kernel

theorem witness_MappingCommands_no_frame :
    let s : State := { box.fset (A.XM_CAP 0) F.XM_CAP_CH0_CAP 1 with vc := { box.vc with frames := (List.range 128).map fun i => (65536 + i, ⟨true, 0, false, false⟩) } }
    s.ownsChan 0 0 = true ∧ s.trained 0 ≠ 0 ∧ s.usedPages 0 2 + 1 ≤ s.quota 0 2 ∧ s.pickFrame 0 2 0 false = none := by decide +kernel

theorem witness_MappingCommands_mapped :
    (let s : State := boxP 5 (mkEnt 1 3 0 true false)
     entValid (s.ent 0 5) = true ∧ s.moving 0 5 = false ∧ s.caches = [] ∧ entKey (s.ent 0 5) = some 3 ∧ entPinned (s.ent 0 5) = false ∧
     box.ownsTile 0 0 = true ∧ entTier (s.ent 0 5) ≠ 0 ∧ s.ownsVault 0 1 = true ∧ entFrame (s.ent 0 5) / 384 ≠ 1 ∧
     (s.vc.moves.filter fun m => m.tenant == 0).length + (Tab.get s.vc.results [] 0).length < 8 ∧ s.usedPages 0 1 + 1 ≤ s.quota 0 1 ∧ (s.pickFrame 0 1 1 false) = some 384) ∧
    (let s : State := { boxP 5 (mkEnt 1 3 0 true false) with vc := { (boxP 5 (mkEnt 1 3 0 true false)).vc with moves := [⟨0, 5, 0, 0, false, []⟩] } }
     entValid (s.ent 0 5) = true ∧ s.moving 0 5 = true) ∧
    entPinned ((boxP 5 (mkEnt 1 3 0 true true)).ent 0 5) = true ∧ entTier ((boxP 5 (mkEnt 0 3 0 true false)).ent 0 5) = 0 ∧ entTier ((boxP 5 (mkEnt 3 (2 * 65536) 0 true false)).ent 0 5) = 3 ∧
    (entKey ((boxP 5 (mkEnt 2 1 0 true false)).ent 0 5) = some 65537 ∧ ([0, 1, 2, 3].all fun c => ((box.fset (A.XM_CFG 0) F.XM_CFG_INLINE_ECC 1).fset (A.XM_CFG 1) F.XM_CFG_INLINE_ECC 1).inlineEcc c) = true) ∧
    (let s : State := { boxP 5 (mkEnt 0 1 0 true false) with vc := { (boxP 5 (mkEnt 0 1 0 true false)).vc with unmapWait := [(0, 5)], results := [(0, [⟨0, 0, 5⟩])] } }
     s.vc.unmapWait.contains (0, 5) = true ∧ s.moving 0 5 = false ∧ entTier (s.ent 0 5) = 0 ∧ Tab.get s.vc.results [] 0 = ⟨0, 0, 5⟩ :: []) := by decide +kernel

theorem test_map_of_t0 : (ran (.map (.tenant 0) 0 5 0 3 true false false 7 0) box fun t => t.ent 0 5 == 0x700309 && t.fget (A.VC_CMD_STATUS 0) F.VC_CMD_STATUS_STATUS == 0) = true := by decide +kernel
theorem test_unmap_of_nothing : (ran (.unmap (.tenant 0) 0 5) box fun t => t.fget (A.VC_CMD_STATUS 0) F.VC_CMD_STATUS_STATUS == 7 && t.fget (A.VC_CMD_STATUS 0) F.VC_CMD_STATUS_DETAIL == 2) = true := by decide +kernel

/-- A page of T1 frame 3 with a move to frame 400 queued, and with the copy running. -/
def boxMv (lane : Bool) (tier : Nat) : State := { boxP 5 (mkEnt 1 3 0 true false ||| if lane then 0x40 else 0) with vc := { (boxP 5 (mkEnt 1 3 0 true false ||| if lane then 0x40 else 0)).vc with moves := [⟨0, 5, tier, 400, lane, []⟩] } }

theorem witness_PageMoves :
    (((boxMv false 1).vc.moves.filter fun x => x.lane).length < 4 ∧ (boxMv false 1).nextMove = some ⟨0, 5, 1, 400, false, []⟩ ∧ (boxMv false 1).caches = [] ∧ entTier ((boxMv false 1).ent 0 5) ≠ 2) ∧
    (boxMv true 1).vc.moves.find? (fun x => x.tenant == 0 && x.page == 5 && x.lane) = some ⟨0, 5, 1, 400, true, []⟩ ∧ (boxMv true 1).extq = [] ∧
    (boxMv true 0).vc.moves.find? (fun x => x.tenant == 0 && x.page == 5 && x.lane) = some ⟨0, 5, 0, 400, true, []⟩ ∧
    entTier ((boxMv true 1).ent 0 5) = 1 ∧ entKey ((boxMv true 1).ent 0 5) = some 3 ∧ 3 ≠ 400 ∧ entPoisoned ((boxMv true 1).ent 0 5) = false ∧ (boxMv true 1).psn = [] ∧
    (∀ d ∈ (boxMv false 1).moveDoms ⟨0, 5, 1, 400, false, []⟩, (boxMv false 1).isOn d = true ∧ ((boxMv false 1).dom d).entering = none) ∧
    (boxMv true 1).domCheck ((boxMv true 1).moveDoms ⟨0, 5, 1, 400, true, []⟩) = .go ∧ (boxMv true 1).pageBusy (entPlace ((boxMv true 1).ent 0 5)) = false ∧
    ((boxMv true 1).setThread 0 0 { thr0 with acc := [{ store2 with todo := [[⟨0, .mem (frameAddr 3), 0x2000, 2, 0x1234, false, 0⟩]] }] }).pageBusy (entPlace ((boxMv true 1).ent 0 5)) = true ∧
    (let s : State := { boxMv true 1 with doms := Tab.set upDoms Dom.reset 32 Dom.reset }
     s.domCheck (s.moveDoms ⟨0, 5, 1, 400, true, []⟩) = .wait [32]) ∧
    (let s : State := { boxMv true 1 with doms := Tab.set upDoms Dom.reset 32 Dom.reset, plat := { box.plat with cur := some { plat1 with doms := [⟨32, 0, 0, 2, false, 1, 0⟩] } } }
     s.domCheck (s.moveDoms ⟨0, 5, 1, 400, true, []⟩) = .refuse) := by decide +kernel

theorem test_migration_lane_start : (ran .migrationLaneStart (boxMv false 1) fun t => entMigrating (t.ent 0 5) && (t.vc.moves.map fun m => m.lane) == [true]) = true := by decide +kernel

theorem witness_ChannelsAndLosses :
    ({ State.reset with doms := upDoms } : State).isOn (36 + 1) = true ∧ ({ State.reset with doms := upDoms } : State).plat.cur = none ∧ box.plat.cur ≠ none ∧ box.isOn 36 = true ∧
    plat1.inRange = true ∧ box.layerGone 3 = false ∧ 4 ≤ 4 ∧ ({ box with vc := { box.vc with lostLayers := (List.range 128).map fun v => v * 4 + 3 } } : State).layerGone 3 = true ∧
    box.flag A.FL_STATUS F.FL_STATUS_JOURNAL_SINGLE = false ∧
    (box.vc.lostLayers.has 3 = false) ∧ box.vc.lostLayers.has (512 + 3) = false ∧ (box.fset A.FL_STATUS F.FL_STATUS_JOURNAL_SINGLE 1).flag A.FL_STATUS F.FL_STATUS_JOURNAL_SINGLE = true ∧
    ((box.fset A.FL_STATUS F.FL_STATUS_JOURNAL_SINGLE 1).plat.journal.all fun j => (box.rewritten j.2).isSome) = true := by decide +kernel

/-- The state in which the layer of the journal's first copy is lost, from one whose second copy is not or is gone. -/
theorem witness_ChannelsAndLosses_copies :
    ({ box with vc := { box.vc with lostLayers := (List.range 128).map fun v => v * 4 } } : State).copiesGone false = false ∧
    ({ box with vc := { box.vc with lostLayers := (List.range 256).map fun v => v * 2 } } : State).copiesGone true = true := by decide +kernel

theorem test_channel_training : (ran (.xmTrainDone 0 64 32 false true) (({ State.reset with doms := upDoms } : State).wr (A.XM_CFG 0) 7) fun t => t.fget (A.XM_CAP 0) F.XM_CAP_CH1_CAP == 0 && t.flag (A.XM_TRAIN 0) F.XM_TRAIN_DONE) = true := by decide +kernel

/-- A plat image with serial number 9, signed with the secret number 1 and the nonce 1: partition 0 with tiles 0 to 15, tenant 0, one group of two tiles, two rings. -/
def platImg : List Nat :=
  [(0x0, 4, 0x54414C50), (0x4, 2, 0x1), (0x6, 1, 0x4), (0x8, 4, 0x240), (0x10, 8, 0x9), (0x18, 2, 0x3), (0x40, 2, 0x1), (0x42, 2, 0x60), (0x44, 4, 0x80), (0x48, 4, 0x1), (0x50, 2, 0x2), (0x52, 2, 0x20), (0x54, 4, 0x100), (0x58, 4, 0x1), (0x60, 2, 0x3), (0x62, 2, 0x30), (0x64, 4, 0x140), (0x68, 4, 0x1), (0x70, 2, 0x4), (0x72, 2, 0x20), (0x74, 4, 0x180), (0x78, 4, 0x1), (0x88, 16, 0xFFFF), (0xA8, 4, 0xFFFFFFFF), (0xC8, 1, 0x1), (0x104, 4, 0x64), (0x112, 2, 0x10), (0x148, 16, 0x3), (0x158, 8, 0xFFFFFFFFFFFFFFFF), (0x184, 4, 0x2), (0x18B, 1, 0x0), (0x18A, 1, 0xFF), (0x18C, 4, 0x2000), (0x192, 2, 0x4)].foldl (fun d f => putBytes d f.1 (natLe f.2.1 f.2.2)) (List.replicate 448 0) ++
    natBe 48 0xaa87ca22be8b05378eb1c71ef320ad746e1d3b628ba79b9859f741e082542a385502f25dbf55296c3a545e3872760ab7 ++
    natBe 48 0xe2ceaa2d5f183bf1fe101b1395359e9144390488eea0bc5cb891884f590ef0cb15b8922808cb2da18d6e992051e54b91 ++ List.replicate 32 0
/-- The Notary's device page holds a PLAT_LOAD of an image at 0x40000. -/
def boxN (img : List Nat) : State :=
  { (box.wr (A.NT_MB_ARG0 8) 0x40000).wr (A.NT_MB_ARG0 8 + 8) (BitVec.ofNat 64 img.length) with
    mem := ((List.range img.length).zip img).filterMap fun e => if e.2 = 0 then none else some (0x40000 + e.1, BitVec.ofNat 8 e.2)
    nt := { box.nt with fuse := { Fuses.blank with keys := [(0, ecBytes (some p384g))] }, pages := [(8, some ⟨1, false, 0, [], false⟩)] } }

theorem witness_PlatApplication_page :
    (boxN platImg).ntPending 8 = some ⟨1, false, 0, [], false⟩ ∧ (boxN platImg).ntNow = some 8 ∧ (∀ d ∈ [6, 13, 15], (boxN platImg).isOn d = true ∧ ((boxN platImg).dom d).entering = none) ∧
    (boxN platImg).plat.shadow = none ∧ (boxN platImg).ntArg 8 1 ≤ 131072 ∧ ((boxN platImg).ntTake 8).ntImage false 0x40000 576 = some (platImg, false) := by decide +kernel

theorem witness_PlatApplication_good :
    (match ((boxN platImg).ntTake 8).validate platImg with
     | .inr q => ((boxN platImg).affectedBy q).all fun i => (boxN platImg).quiesced i
     | .inl _ => false) = true := by decide +kernel

theorem witness_PlatApplication_bad :
    (match ((boxN (platImg.set 16 0)).ntTake 8).validate (platImg.set 16 0) with
     | .inl f => f.1 == 4
     | .inr _ => false) = true ∧
    (let s : State := { boxN platImg with hg := { (boxN platImg).hg with rings := [(1, { RingSt.reset with enabled := true })] } }
     (match (s.ntTake 8).validate platImg with
      | .inr q => (s.affectedBy q).any fun i => !s.quiesced i
      | .inl _ => false)) = true := by decide +kernel

theorem witness_PlatApplication_commit :
    (let s : State := { box with plat := { box.plat with shadow := some plat1 } }
     s.plat.shadow ≠ none ∧ s.plat.drained = false ∧ s.drainBusy = false) ∧
    (let s : State := { box with plat := { box.plat with shadow := some plat1, drained := true } }
     s.plat.shadow = some plat1 ∧ s.plat.drained = true ∧ s.savesDue plat1 = [] ∧ ∀ d ∈ [13, 15], s.isOn d = true ∧ (s.dom d).entering = none) ∧
    (let q : Plat := { plat1 with parts := [] }
     let s : State := { resident box with runs := [⟨cmd1 2 (scScan 16 5), 0, 0, 0, 0, [], none, [], [], 0, none⟩], plat := { box.plat with shadow := some q, drained := true } }
     s.plat.shadow = some q ∧ s.plat.drained = true ∧ ((s.platSave q).savesDue q).any (s.platSave q).saveWaits = true) ∧
    (let s : State := { box with vc := { box.vc with fill := [127] } }
     s.vc.fill.contains 127 = true ∧ ∀ d ∈ [16 + 127 / 8, 32, 33, 34, 35], s.isOn d = true ∧ (s.dom d).entering = none) := by decide +kernel

/-! ### Mailbox and SPDM -/

/-- The Notary's page holds a command with three arguments. -/
def boxMb (k op a0 a1 a2 : Nat) : State :=
  let s := ((box.wr (A.NT_MB_ARG0 k) (BitVec.ofNat 64 a0)).wr (A.NT_MB_ARG0 k + 8) (BitVec.ofNat 64 a1)).wr (A.NT_MB_ARG0 k + 16) (BitVec.ofNat 64 a2)
  { s with nt := { s.nt with pages := [(k, some ⟨op, false, 0, [], false⟩)] } }

/-- Is the page's command the one served, with the Notary's domain On and no plat being applied? -/
def served (s : State) (k op : Nat) : Bool :=
  s.ntPending k == some ⟨op, false, 0, [], false⟩ && s.ntNow == some k && s.isOn 6 && (s.dom 6).entering == none && s.plat.shadow.isNone

/-- Bytes the Notary got, as a command reads them: a test of them. -/
def gotten (r : NtRead) (p : List PByte → Bool) : Bool :=
  match r with
  | .got b => p b
  | _ => false

theorem witness_MailboxCommands_tenant :
    (served (boxMb 0 9 0 0 0) 0 9 = true ∧ ntOpOk 0 9 = false ∧ ntOpOk 8 2 = false) ∧
    (served (boxMb 0 2 0x40000 63 0) 0 2 = true ∧ (boxMb 0 2 0x40000 63 0).ntArg 0 1 % 64 ≠ 0) ∧ (served (boxMb 0 2 0x40000 0 0) 0 2 = true ∧ (boxMb 0 2 0x40000 0 0).ntArg 0 1 = 0) ∧
    (served (boxMb 0 2 0x40000 64 7) 0 2 = true ∧ gotten (((boxMb 0 2 0x40000 64 7).ntTake 0).ntRead 0 0x40000 64) (fun b => b.length == 64 && !b.any (·.2)) = true) ∧
    gotten ((({ boxMb 0 2 0x40000 64 7 with psn := NSet.put [] 0x4000 true } : State).ntTake 0).ntRead 0 0x40000 64) (fun b => b.length == 64 && b.any (·.2)) = true ∧
    (served (boxMb 0 3 0x40001 0x50000 0) 0 3 = true ∧ (boxMb 0 3 0x40001 0x50000 0).ntArg 0 0 % 64 ≠ 0) ∧
    (served (boxMb 0 3 0x40000 0x50000 0) 0 3 = true ∧ (match (boxMb 0 3 0x40000 0x50000 0).ntMayWrite 0 0x40000 864 with
      | .inl b => b
      | .inr _ => false) = true ∧ gotten ((boxMb 0 3 0x40000 0x50000 0).ntRead 0 0x50000 32) (fun b => !b.any (·.2)) = true) ∧
    (served (boxMb 0 4 0x40000 0x50000 (4 + 8 * 2 ^ 24)) 0 4 = true ∧ gotten ((boxMb 0 4 0x40000 0x50000 (4 + 8 * 2 ^ 24)).ntRead 0 0x40000 4) (fun b => !b.any (·.2)) = true ∧
      (match (boxMb 0 4 0x40000 0x50000 (4 + 8 * 2 ^ 24)).ntMayWrite 0 0x50000 8 with
      | .inl b => b
      | .inr _ => false) = true) := by decide +kernel

theorem witness_MailboxCommands_relay :
    (((boxMb 0 4 0x40000 0x50000 (4 + 3 * 2 ^ 24)).ntTake 0).spdm none [0x10, 0x84, 0, 0] []).2.length = 8 ∧ bits ((boxMb 0 4 0x40000 0x50000 (4 + 3 * 2 ^ 24)).ntArg 0 2) 47 24 < 8 ∧
    8 ≤ bits ((boxMb 0 4 0x40000 0x50000 (4 + 8 * 2 ^ 24)).ntArg 0 2) 47 24 := by decide +kernel

theorem witness_MailboxCommands_device :
    (served (boxMb 8 5 0 0 0) 8 5 = true ∧ ((boxMb 8 5 0 0 0).partsOf 0).all (fun p => (boxMb 8 5 0 0 0).quiesced p.id) = true ∧
      (((boxMb 8 5 0 0 0).vaultsOf 0).flatMap (fun v => [16 + v / 8, 32, 33, 34, 35]) ++ ((boxMb 8 5 0 0 0).chansOf 0).map chanDom).all (fun d => (boxMb 8 5 0 0 0).isOn d && ((boxMb 8 5 0 0 0).dom d).entering == none) = true) ∧
    (let s : State := { boxMb 8 5 0 0 0 with hg := { (boxMb 8 5 0 0 0).hg with rings := [(1, { RingSt.reset with enabled := true })] } }
     (s.partsOf 0).any (fun p => !s.quiesced p.id) = true) ∧
    (let s := (boxMb 8 6 5 0 0).wr A.HG_PLAT_SERIAL 5
     served s 8 6 = true ∧ s.nt.floor < s.ntArg 8 0 ∧ s.ntArg 8 0 ≤ (s.rd A.HG_PLAT_SERIAL).toNat ∧ s.nt.fuse.floors.length < 16) ∧
    ¬ (boxMb 8 6 5 0 0).ntArg 8 0 ≤ ((boxMb 8 6 5 0 0).rd A.HG_PLAT_SERIAL).toNat ∧ served (boxMb 8 7 3 0 0) 8 7 = true ∧
    (let s := box.fset A.HG_PLAT_INFO F.HG_PLAT_INFO_CONFIDENTIAL 1
     s.confMode = true ∧ s.ntNow = none ∧ ({ s with now := ntTurn } : State).nt.since + ntTurn ≤ ({ s with now := ntTurn } : State).now) := by decide +kernel

theorem test_floor_set : (ran .floorSet ((boxMb 8 6 5 0 0).wr A.HG_PLAT_SERIAL 5) fun t => t.nt.fuse.floors == [5] && t.rd A.NT_FLOOR == 5) = true := by decide +kernel
theorem test_measure_of_nothing : (ran (.measure 0) (boxMb 0 2 0x40000 0 0) fun t => t.nt.pages == [] && t.fget (A.NT_MB_STATUS 0) F.NT_MB_STATUS_STATUS == 0) = true := by decide +kernel

/-- The SPDM connection at a stage. -/
def boxS (stage : Nat) : State := { box with nt := { box.nt with conn := ⟨stage, [], [], []⟩ } }
/-- A request: version, code, two parameters, and a body. -/
def spReq (code p1 p2 : Nat) (body : List Nat) : List Nat := [0x12, code, p1, p2] ++ body
/-- A session of identity number 5, open or not. -/
def sess5 (op : Bool) : Sess := ⟨5, [], [], List.replicate 60 1, List.replicate 48 2, List.replicate 48 3, op, [], 0⟩
def boxSs (op conf : Bool) : State :=
  let s := if conf then box.fset A.HG_PLAT_INFO F.HG_PLAT_INFO_CONFIDENTIAL 1 else box
  { s with nt := { s.nt with conn := ⟨3, [], [], []⟩, sess := [sess5 op] } }

theorem witness_SpdmExchanges_negotiation :
    box.rs.up = true ∧ (∀ d ∈ [6], box.isOn d = true ∧ (box.dom d).entering = none) ∧ field [0x10, 0x84, 0, 0] 1 1 = 0x84 ∧ field [0x10, 0x84, 0, 0] 0 1 = 0x10 ∧
    (let r := spReq 0xE1 0 0 (List.replicate 16 0)
     field r 1 1 = 0xE1 ∧ (boxS 1).nt.conn.stage = 1 ∧ versionOk r = true ∧ 20 ≤ r.length ∧ (boxS 2).nt.conn.stage ≠ 1) ∧
    (let r := spReq 0xE3 0 0 ([0, 0, 0, 0, 0x80, 0, 0, 0, 2] ++ List.replicate 20 0)
     field r 1 1 = 0xE3 ∧ (boxS 2).nt.conn.stage = 2 ∧ versionOk r = true ∧ 32 ≤ r.length ∧ bit (field r 8 4) 7 = true ∧ bit (field r 12 4) 1 = true) ∧
    ((boxS 3).nt.conn.stage = 3 ∧ versionOk (spReq 0x81 0 0 []) = true ∧ field (spReq 0x81 0 0 []) 1 1 = 0x81) ∧
    (let r := spReq 0x82 0 0 [0, 0, 255, 0]
     field r 1 1 = 0x82 ∧ field r 2 1 % 16 = 0 ∧ field r 4 2 < (boxS 3).spdmChain.length ∧ 8 ≤ r.length) ∧
    (let r := spReq 0x83 0 0 (List.replicate 32 0)
     field r 1 1 = 0x83 ∧ field r 2 1 = 0 ∧ 36 ≤ r.length) ∧
    (field (spReq 0xE0 0 0 []) 1 1 = 0xE0 ∧ field (spReq 0xE0 0 0 []) 3 1 = 0 ∧ 8 < field (spReq 0xE0 0 9 []) 3 1 ∧ field (spReq 0xE0 0 9 []) 3 1 ≠ 0xFF) ∧
    (let r := spReq 0xE4 0 0 (List.replicate 36 0 ++ ecBytes (some p384g) ++ [0, 0])
     field r 1 1 = 0xE4 ∧ (boxS 3).nt.sess.length < 9 ∧ field r 3 1 = 0 ∧ 138 ≤ r.length ∧ slice r 40 96 = ecBytes (some p384g) ∧ ecPoint (slice r 40 96) = some p384g) ∧
    field (spReq 0xFF 0 0 []) 1 1 = 0xFF := by decide +kernel

/-- What the requester signs in a FINISH of session 5 with an empty chain, and the request, signed with the secret number 1 and the nonce 1. -/
def finDigest : List Nat := spdmSigned "requester-finish signing" (sha384 (List.replicate 60 1 ++ sha384 [] ++ [0x12, 0xE5, 1, 0]))
def finSig : List Nat := natBe 48 (p384g.1 % p384n) ++ natBe 48 ((beNat finDigest + p384g.1) % p384n)
def finReq : List Nat := [0x12, 0xE5, 1, 0] ++ finSig ++
  hmac (finishedKey (List.replicate 48 2) "req hs data" (sha384 ((List.replicate 60 1).take 12))) (sha384 (List.replicate 60 1 ++ sha384 [] ++ [0x12, 0xE5, 1, 0] ++ finSig))

/-- The digest a FINISH signs, as a number. -/
theorem finish_signature : ecdsaOk (ecBytes (some p384g)) finDigest finSig = true := by decide +kernel

/-- A FINISH meets its clause whenever the requester's key, an opaque function of the chain, is the one of the secret number 1. -/
theorem witness_SpdmExchanges_finish :
    (boxSs false false).sess (some 5) = some (sess5 false) ∧ (boxSs true false).sess (some 5) = some (sess5 true) ∧ finReq.take 4 = [0x12, 0xE5, 1, 0] ∧ slice finReq 4 96 = finSig ∧
    slice finReq 100 48 = hmac (finishedKey (List.replicate 48 2) "req hs data" (sha384 ((List.replicate 60 1).take (60 - 48)))) (sha384 (List.replicate 60 1 ++ sha384 [] ++ finReq.take 4 ++ slice finReq 4 96)) ∧
    field finReq 1 1 = 0xE5 ∧ versionOk finReq = true ∧ field finReq 2 1 % 2 = 1 := by decide +kernel

theorem witness_SpdmExchanges_session :
    (field (spReq 0xE9 3 0 []) 1 1 = 0xE9 ∧ versionOk (spReq 0xE9 3 0 []) = true ∧ 1 ≤ field (spReq 0xE9 3 0 []) 2 1 ∧ field (spReq 0xE9 3 0 []) 2 1 ≤ 3 ∧ (sess5 true).open_ = true) ∧
    field (spReq 0xEC 0 0 []) 1 1 = 0xEC ∧ (boxSs true false).bindRefusal (sess5 true) 0 = some 1 ∧ (boxSs true true).bindRefusal (sess5 true) 0 = none ∧ (boxSs true true).nt.bind = none ∧
    ((boxSs true true).tenE 0).isSome = true ∧ (boxSs true true).tenE 7 = none ∧ (boxSs true true).inDrained 0 = true ∧ (∀ d ∈ [6, 7], box.isOn d = true ∧ (box.dom d).entering = none) ∧
    ((boxSs true true).wr (A.HI_T_IN_PROD 0) 1).inDrained 0 = false ∧ 0 + 2560000000 < ({ boxSs true true with now := 2560000001 } : State).now := by decide +kernel

/-- A vendor-defined BIND_TENANT (1) or STATUS (2) of tenant 7, whatever Evcor's vendor number is. -/
theorem witness_SpdmExchanges_vendor :
    vendorOp (spReq 0xFE 0 0 ([3, 0, 2] ++ natLe 2 (Config.identity 3) ++ [2, 0, 1, 7])) = some (1, 7) ∧ vendorOp (spReq 0xFE 0 0 ([3, 0, 2] ++ natLe 2 (Config.identity 3) ++ [2, 0, 2, 7])) = some (2, 7) := by
  have e : ∀ n : Nat, n % 256 + 256 * (n / 256 % 256) = n % 65536 := by omega
  constructor <;> simp [vendorOp, spReq, versionOk, field, natLe, leNat, e]

theorem test_spdm_version : (ran (.getVersion none [0x10, 0x84, 0, 0]) box fun t => t.nt.out == [(0, [0x10, 0x04, 0, 0, 0, 1, 0x00, 0x12])]) = true := by decide +kernel
/-! ### Rings, jobs, slices -/

/-- The machine with ring 0 enabled, or not, and PROD_BYTES of it. -/
def boxG (on : Bool) (prod : Nat) : State :=
  putMem { box with hg := { box.hg with rings := [(0, { RingSt.reset with enabled := on })] } } 0x1400000 (natLe 8 prod)
/-- The same with its doorbell rung. -/
def rung (s : State) : State := { s with hg := { s.hg with dbq := [0] } }
/-- A packet of 192 payload bytes in the ring's first place; one with a reserved flag. -/
def packet (flags : Nat) : List Nat := [1, flags, 0, 0] ++ natLe 4 0 ++ natLe 4 192 ++ natLe 4 0 ++ natLe 8 0x60000
/-- Its journal entry. -/
def jent (st : JState) (ctx : Nat) : JEnt := ⟨0, 0, 0, 0, 256, 192, 0, 0x60000, 9, st, ctx, 0, 0, 0, false, 0⟩
def boxJ (st : JState) (ctx : Nat) : State := { boxG true 256 with hg := { (boxG true 256).hg with jr := [jent st ctx] } }

theorem witness_DoorbellsAndAcceptance_doorbell :
    box.ringTenant 5 ≠ some 0 ∧ box.ringTenant 1 = some 0 ∧ (box.ringSt 1).enabled = false ∧ ((boxG true 0).ringSt 0).enabled = true ∧ (boxG true 0).ringTenant 0 = some 0 ∧
    (rung (boxG true 0)).hg.dbq.contains 0 = true ∧ (boxG true 0).hg.dbq.contains 0 = false ∧ (boxG true 0).dbRoom 0 = true ∧
    ({ boxG true 0 with hg := { (boxG true 0).hg with dbq := List.replicate 4096 1 } } : State).dbRoom 0 = false := by decide +kernel

theorem witness_DoorbellsAndAcceptance_serve :
    (let s := putMem (rung (boxG true 256)) 0x1400100 (packet 0)
     s.accepting = true ∧ s.isOn 13 = true ∧ s.nextServe = some (0, false) ∧ (∀ d ∈ t1Doms (s.ringBase 0), s.isOn d = true ∧ (s.dom d).entering = none) ∧ (s.ringE 0).isSome = true ∧
     (s.homePB (s.ringBase 0) 256).any (·.2) = false ∧ s.writing 0 = none ∧ s.ringProd 0 = 256 ∧ s.examine 0 (s.ringSt 0) (s.ringProd 0) (s.homePB (s.ringAt 0 0) 64) = .packet 256 ∧ s.jrUsed 0 < 32768) ∧
    (let s := putMem (rung (boxG true 256)) 0x1400100 (packet 0x80)
     s.examine 0 (s.ringSt 0) (s.ringProd 0) (s.homePB (s.ringAt 0 0) 64) = .refuse 3 0) := by decide +kernel

/-- The journal of a partition is full of entries of another ring. -/
theorem witness_DoorbellsAndAcceptance_full :
    32768 ≤ ({ box with hg := { box.hg with jr := List.replicate 32768 { jent .accepted 0xFFFF with ring := 1 } } } : State).jrUsed 0 := by
  have h : ∀ (l : List JEnt), ({ box with hg := { box.hg with jr := l } } : State).jrUsed 0 = (l.filter fun e => e.part == 0).length := fun l => rfl
  have e := h (List.replicate 32768 { jent .accepted 0xFFFF with ring := 1 })
  rw [List.filter_replicate_of_pos (by decide), List.length_replicate] at e
  exact Nat.le_of_eq e.symm

theorem witness_DoorbellsAndAcceptance_accept :
    (boxJ .writing 0xFFFF).writing 0 = some (jent .writing 0xFFFF) ∧ ((boxJ .writing 0xFFFF).ringSt 0).enabled = true ∧ (∀ d ∈ (boxJ .writing 0xFFFF).journalDoms 0, (boxJ .writing 0xFFFF).isOn d = true ∧ ((boxJ .writing 0xFFFF).dom d).entering = none) ∧
    (boxJ .writing 0xFFFF).ringProd 0 = (0 + 256) % 2 ^ 64 ∧
    (({ boxJ .writing 0xFFFF with hg := { (boxJ .writing 0xFFFF).hg with rings := [] } } : State).ringSt 0).enabled = false ∧
    ((boxJ .writing 0).writing 0 = some (jent .writing 0) ∧ (jent .writing 0).ctx ≠ 0xFFFF ∧ (jent .writing 0).seq = ((boxJ .writing 0).ringSt 0).acceptNext ∧ (jent .writing 0).count = ((boxJ .writing 0).ringSt 0).cons ∧
      (boxJ .writing 0).job 0 = some job0) ∧
    (∃ e ∈ box.ringEs, e.ctx0 ≤ box.fget (A.HG_CTX_SEL 0) F.HG_CTX_SEL_CONTEXT ∧ box.fget (A.HG_CTX_SEL 0) F.HG_CTX_SEL_CONTEXT < e.ctx0 + e.ctxN ∧ (box.partE e.part).any (fun p => p.tenant == 0) = true) ∧ (box.ctx 0).st = 0 ∧
    (¬ ∃ e ∈ box.ringEs, e.ctx0 ≤ 4 ∧ 4 < e.ctx0 + e.ctxN) ∧ (box.fset (A.HG_CTX_SEL 0) F.HG_CTX_SEL_CONTEXT 4).fget (A.HG_CTX_SEL 0) F.HG_CTX_SEL_CONTEXT = 4 ∧
    (box.tile 0).job = some 0 ∧ (({ box with hg := { box.hg with ctx := [(0, { Ctx.free with st := 1 })] } } : State).ctx 0).st = 1 ∧ (box.tile 2).job ≠ some 0 := by decide +kernel

theorem test_packet_accept : (ran (.packetAccept 0) (boxJ .writing 0xFFFF) fun t => (t.ringSt 0).acceptNext == 1 && (t.ringSt 0).cons == 256 && (t.hg.jr.map fun e => e.st) == [.accepted]) = true := by decide +kernel

theorem witness_RingCommandsAndCompletion :
    (boxJ .writing 0xFFFF).writing 0 = some (jent .writing 0xFFFF) ∧ (boxJ .writing 0xFFFF).ringTenant 0 = some 0 ∧ box.writing 0 = none ∧
    box.fget (A.HG_RING_SEL 0) F.HG_RING_SEL_RING = 0 ∧ box.ringTenant 0 = some 0 ∧ box.ringTenant ((box.fset (A.HG_RING_SEL 0) F.HG_RING_SEL_RING 5).fget (A.HG_RING_SEL 0) F.HG_RING_SEL_RING) ≠ some 0 ∧
    ((boxG true 0).ringSt 0).enabled = true ∧ (box.ringSt 0).enabled = false ∧ box.drained 0 = true ∧ (boxG true 0).drained 0 = false ∧
    (boxJ .accepted 0xFFFF).hg.jr.find? (fun f => f.ring == 0) = some (jent .accepted 0xFFFF) ∧ (jent .accepted 0xFFFF).st ≠ .done ∧ (boxJ .accepted 0xFFFF).isOn 13 = true ∧
    (boxJ .done 2).hg.jr.find? (fun f => f.ring == 0) = some (jent .done 2) ∧
    (∀ d ∈ (boxJ .done 2).journalDoms 0 ++ t1Doms ((boxJ .done 2).ringBase 0), (boxJ .done 2).isOn d = true ∧ ((boxJ .done 2).dom d).entering = none) ∧ (jent .done 2).ctx ≠ 0xFFFF ∧ (jent .done 2).status ≠ 1 ∧
    ((List.range 32).all fun i => !(boxJ .done 2).isLost ((boxJ .done 2).ringAt 0 0 + 0x20 + i)) = true := by decide +kernel

theorem test_completion_publish : (ran (.completionPublish 0) (boxJ .done 2) fun t => (t.ringSt 0).completeNext == 1 && (t.ringSt 0).release == 256 && t.hg.jr == []) = true := by decide +kernel

/-- The machine without its job, context 1 bound to a packet of group 0 whose program is at 0x60000, waiting in partition 0. -/
def ctx1 (st prog : Nat) : Ctx := { Ctx.free with st := st, part := 0, grp := 0, ring := 0, program := prog }
def boxW (st prog : Nat) : State :=
  { box with jobs := [], tiles := [], threads := [], hg := { box.hg with ctx := [(1, ctx1 st prog)], parts := [(0, { PartS.idle with waiting := [1] })], rings := [(0, { RingSt.reset with enabled := true })] } }

theorem witness_JobsStartAndEnd_dispatch :
    let s : State := { boxJ .accepted 0xFFFF with jobs := [], tiles := [] }
    s.isOn 13 = true ∧ ((s.partE 0).map (·.policy)) = some 0 ∧ s.boundOf 0 = [] ∧
    s.bestPacket (s.hg.jr.filter fun e => e.part == 0 && s.readyPacket e && (s.ringE e.ring).any fun re => re.tick == 0xFF && (s.freeContext re).isSome && !s.groupHeld re.group) = some (jent .accepted 0xFFFF) ∧
    ((s.ringE 0).bind fun re => s.freeContext re) = some 0 ∧ ∀ d ∈ s.journalDoms 0, s.isOn d = true ∧ (s.dom d).entering = none := by decide +kernel

theorem witness_JobsStartAndEnd_early :
    let s : State := { boxJ .writing 0xFFFF with jobs := [], tiles := [] }
    let offered : (JEnt → Bool) → Option JEnt := fun ready => s.bestPacket (s.hg.jr.filter fun e => e.part == 0 && ready e &&
      (s.ringE e.ring).any fun re => re.tick == 0xFF && (s.freeContext re).isSome && !s.groupHeld re.group)
    s.isOn 13 = true ∧ s.boundOf 0 = [] ∧ offered s.readyPacket = none ∧ offered s.readyEarly = some (jent .writing 0xFFFF) ∧ ((s.ringE 0).bind fun re => s.freeContext re) = some 0 ∧
    ∀ d ∈ s.journalDoms 0, s.isOn d = true ∧ (s.dom d).entering = none := by decide +kernel

theorem witness_JobsStartAndEnd_start :
    (let s := boxW 1 0x60000
     (s.sch 0).cur = none ∧ s.nextWaiting 0 = some 1 ∧ (s.ctx 1).st = 1 ∧ (s.ctx 1).kill = none ∧ s.accepting = true ∧ s.flag (A.HG_SCH_WEAR_CTRL 0) F.HG_SCH_WEAR_CTRL_COMMIT = false ∧ (s.partE 0).isSome = true ∧
     (s.ctx 1).part = 0 ∧ s.rankMap 0 = [0, 1] ∧ (s.readProg 0 0x60000 [0, 1]).2 = .entries [0, 0] ∧ (∀ k ∈ [0, 1], s.isOn (16 + k / 8) = true) ∧ (s.ctx 1).tick = false ∧ s.job 1 = none) ∧
    (boxW 1 objBase).nextWaiting 0 = some 1 ∧ ((boxW 1 objBase).readProg 0 objBase [0, 1]).2 = .fault ∧
    (({ boxW 1 0x60000 with psn := NSet.put [] 0x6000 true } : State).readProg 0 0x60000 [0, 1]).2 = .poison := by decide +kernel

theorem test_early_dispatch_waits_at_the_gate :
    (ran (.jobDispatch 0) { boxJ .writing 0xFFFF with jobs := [], tiles := [] } fun t => (t.hg.jr.map fun e => (e.st, e.ctx)) == [(.writing, 0)] && (t.sch 0).waiting == [0] && t.gatedCtx 0) = true := by decide +kernel

theorem test_job_start : (ran (.jobStart 0) (putMem (boxW 1 0x60000) 0x60000 (natLe 8 0x3007 ++ natLe 8 0x4000)) fun t =>
    (t.thread 0 0).pc == 0x3004 && (t.thread 1 0).pc == 0x4000 && (t.thread 1 0).getX 2 == 1 && (t.thread 1 0).getX 3 == 2 && (t.thread 1 1).st == .idle) = true := by decide +kernel

/-- Context 0 with its job, which is over: all its threads idle; or it ends for a retry, its packet asking for one. -/
def boxO (kill : Option (Nat × Nat)) : State :=
  { boxJ .dispatched 0 with
    threads := [], jobs := [(0, some { job0 with ending := kill.isSome })]
    hg := { (boxJ .dispatched 0).hg with ctx := [(0, ⟨1, false, false, 0, 0, 0, 0, 0, 0, 0, 0, 4096, 0x60000, 0, 0, 0, none, false, false, kill, 0, 0, 0, []⟩)], jr := [{ jent .dispatched 0 with flags := 4 }] } }

theorem witness_JobsStartAndEnd_end :
    (¬ ((box.ctx 0).st = 1 ∨ (box.ctx 0).st = 2)) ∧
    (((boxO none).ctx 0).st = 1 ∧ (boxO none).isOn 13 = true ∧ (boxO none).jobOver 0 = true ∧ (∀ d ∈ (boxO none).journalDoms 0, (boxO none).isOn d = true ∧ ((boxO none).dom d).entering = none) ∧ (boxO none).fl.retiring = [] ∧
      State.isRetry ((boxO none).ctx 0) = false ∧ ((boxO none).ctx 0).tick = false) ∧
    ((boxO (some (5, 0x30))).jobOver 0 = true ∧ State.isRetry ((boxO (some (5, 0x30))).ctx 0) = true ∧ ((boxO (some (5, 0x30))).statusNow 0).2 = 0x30 ∧
      (boxO (some (5, 0x30))).hg.jr.find? (fun e => e.ctx == 0 && e.st == .dispatched) = some { jent .dispatched 0 with flags := 4 } ∧ bit 4 2 = true) := by decide +kernel

/-- A plat whose rings belong to tick class 0, with a tick made. -/
def plat2 : Plat := { plat1 with rings := [⟨0, 2, 0, 0, 0, 0, 8192, 0, 4⟩] }
def boxK (enabled : Bool) (cls : Nat) : State :=
  { box with plat := { box.plat with cur := some plat2 }, jobs := [], tiles := [], hg := { box.hg with ticks := [(cls, 77)], rings := [(1, { RingSt.reset with enabled := enabled })] } }

theorem witness_JobsStartAndEnd_ticks :
    box.hg.ticks = [] ∧ (boxK true 0).hg.ticks = (0, 77) :: [] ∧ (∀ d ∈ 13 :: (boxK true 0).tickDoms 0, (boxK true 0).isOn d = true ∧ ((boxK true 0).dom d).entering = none) ∧
    ((boxK true 0).hg.ctx.filter fun kv => kv.2.cls == some 0 && (kv.2.st == 1 || kv.2.st == 2)) = [] ∧ ((boxK true 3).ringEs.filter fun re => re.tick == 3) = [] ∧
    ((boxK true 0).ringEs.filter fun re => re.tick == 0) = [⟨0, 2, 0, 0, 0, 0, 8192, 0, 4⟩] ∧ ((boxK true 0).ringSt (0 + 1)).enabled = true ∧
    (boxK true 0).freeContext ⟨0, 2, 0, 0, 0, 0, 8192, 0, 4⟩ = some 0 ∧
    ({ boxK true 0 with hg := { (boxK true 0).hg with ctx := (List.range 4).map fun c => (c, ctx1 1 0) } } : State).freeContext ⟨0, 2, 0, 0, 0, 0, 8192, 0, 4⟩ = none ∧
    (let s : State := { boxK true 0 with hg := { (boxK true 0).hg with jr := [{ jent .accepted 0xFFFF with ring := 1 }] } }
     s.bestPacket (s.hg.jr.filter fun e => decide (0 ≤ e.ring) && decide (e.ring < 0 + 2) && s.readyPacket e) = some { jent .accepted 0xFFFF with ring := 1 }) ∧
    (let s : State := { boxK true 0 with hg := { (boxK true 0).hg with rings := [(0, { RingSt.reset with enabled := true, tickProg := 0x60000 })] } }
     s.bestPacket (s.hg.jr.filter fun e => decide (0 ≤ e.ring) && decide (e.ring < 0 + 2) && s.readyPacket e) = none ∧ (s.ringSt 0).tickProg ≠ 0) ∧
    (let s : State := { boxK true 3 with hg := { (boxK true 3).hg with ctx := [(2, { ctx1 1 0 with cls := some 3 })] } }
     ((s.hg.ctx.filter fun kv => kv.2.cls == some 3 && (kv.2.st == 1 || kv.2.st == 2)).map (·.1)) = [2] ∧ (s.ctx 2).part < 16) ∧
    box.wearOk (.tenant 1) 0 = false ∧ box.wearOk (.tenant 0) 0 = true ∧
    (box.fset (A.HG_SCH_WEAR_CTRL 0) F.HG_SCH_WEAR_CTRL_PROPOSED 1).flag (A.HG_SCH_WEAR_CTRL 0) F.HG_SCH_WEAR_CTRL_PROPOSED = true := by decide +kernel

/-- Partition 0 shares its tiles by slices of 1 ms; context 0's job holds them, in a phase; context 1 may wait. -/
def boxSl (ph : Phase) (waits : Bool) (save : Nat) : State :=
  { box with
    plat := { box.plat with cur := some { plat1 with parts := plat1.parts.map fun e => { e with policy := 1, sliceUs := 1000 } } }, now := 2 ^ 40
    hg := { box.hg with ctx := [(0, { ctx1 1 0x60000 with save := save })], parts := [(0, ⟨some 0, ph, 0, 1000000, 0, if waits then [1] else []⟩)] } }

theorem witness_SlicesAndReplySlots_slices :
    (∀ ph ∈ [Phase.run, .stop, .save, .restore], ((boxSl ph true 4096).sch 0).cur = some 0 ∧ ((boxSl ph true 4096).sch 0).phase = ph ∧ (boxSl ph true 4096).job 0 = some job0) ∧
    ((boxSl .run true 4096).partE 0).map (·.policy) = some 1 ∧ ((boxSl .run true 4096).sch 0).t0 + ((boxSl .run true 4096).sch 0).slice * 256 ≤ (boxSl .run true 4096).now ∧ ((boxSl .run true 4096).ctx 0).kill = none ∧ (boxSl .run true 4096).gatedCtx 0 = false ∧
    ((boxSl .run false 4096).sch 0).waiting = [] ∧ (boxSl .run true 4097).saveOk 0 0 = false ∧ (boxSl .run true 4096).saveOk 0 0 = true ∧ ({ boxSl .run true 4096 with now := 5 } : State).now < 0 + 1000000 * 256 ∧
    (∀ k ∈ job0.tiles, ∀ m ∈ List.range 16, ((boxSl .stop true 4096).thread k m).acc = [] ∧ (boxSl .stop true 4096).midInstr k m = false) ∧
    (∃ r ∈ ({ boxSl .stop true 4096 with runs := [⟨cmd1 1 [], 0, 0, 0, 0, [], none, [], [], 0, none⟩] } : State).runs, r.cmd.ctx = 0) ∧ ((boxSl .save true 4096).ctx 0).slots = [] ∧
    (∀ d ∈ job0.tiles.map (fun k => 16 + k / 8), (boxSl .restore true 4096).isOn d = true ∧ ((boxSl .restore true 4096).dom d).entering = none) := by decide +kernel


/-- Reply slot 63 of context 0 waits for a load of 4 bytes into s7 of thread 0 of rank 0, for a running or a stopped job. -/
def rslot : RSlot := ⟨1, 0, 0, 0, 7, 0, false, 4, true, 0, 42, 0, 0, none⟩
def boxRs (running : Bool) : State :=
  { box with jobs := [(0, some { job0 with running := running })], hg := { box.hg with ctx := [(0, { ctx1 1 0 with slots := [(63, rslot)] })] }, now := 10 ^ 12 }

theorem witness_SlicesAndReplySlots_replies :
    ((box.ctx 0).slot 5).st ≠ 1 ∧ (((boxRs true).ctx 0).slot 63) = rslot ∧ (boxRs true).job 0 = some job0 ∧ (boxRs false).job 0 = some { job0 with running := false } ∧
    (∀ d ∈ [16 + job0.tiles.getD 0 0 / 8], (boxRs true).isOn d = true ∧ ((boxRs true).dom d).entering = none) ∧ rslot.since + (boxRs false).blTimeout ≤ (boxRs false).now ∧
    ({ boxRs false with now := 5 } : State).now < rslot.since + ({ boxRs false with now := 5 } : State).blTimeout := by decide +kernel

theorem test_reply_sign_extends : (ran (.replyArrival 0 63 42 0x80000000 0 false) (boxRs true) fun t => (t.th h0).getX 7 == 0xFFFFFFFF80000000 && (t.th h0).pc == 0x1004) = true := by decide +kernel

/-! ### Boot, resets, power -/

/-- Power-on reset has ended with BOOT_SEL `sel`, and every domain is On. -/
def boxB (sel : Nat) : State :=
  let s : State := { State.reset with doms := upDoms, rs := { State.reset.rs with up := true } }
  s.fset A.LK_BOOT_STATUS F.LK_BOOT_STATUS_SOURCE sel

/-- Bytes in the staging area. -/
def staged (s : State) (bs : List Nat) : State :=
  { s with mem := ((List.range bs.length).zip bs).filterMap fun e => if e.2 = 0 then none else some (stagingBase + e.1, BitVec.ofNat 8 e.2) }

/-- Frame `k` of a boot transfer over SPI. -/
def spiFrame (k : Nat) (p : List Nat) : List Nat := let b := p ++ natLe 2 k; b ++ natLe 4 (crc32c b)

/-- Frame 0 of a 512-byte image, and the state in which its last frame, 8, is expected: 48 bytes of it belong to the image. -/
def spi0 : List Nat := spiFrame 0 (putBytes (List.replicate 58 1) 8 (natLe 4 512))
def spi8 : List Nat := spiFrame 8 (List.replicate 48 7 ++ List.replicate 10 0)
def boxB8 : State := { staged (boxB 1) (putBytes (List.replicate 12 1) 8 (natLe 4 512)) with rs := { (boxB 1).rs with frame := 8 } }

/-- A boot image of 512 bytes: firmware sections of 16 bytes, a boot program of 64 bytes signed with the secret number 1 and the nonce 1, and a fourth section. -/
def bootImg0 : List Nat :=
  let body := List.replicate 64 7
  let sec := body ++ natBe 48 (p384g.1 % p384n) ++ natBe 48 ((beNat (sha384 body) + p384g.1) % p384n) ++ List.replicate 32 0
  let b := [(0, 4, 0x54425645), (4, 2, 1), (6, 1, 4), (8, 4, 512), (0x40, 2, 1), (0x44, 4, 0x80), (0x48, 4, 16), (0x50, 2, 2), (0x54, 4, 0xC0), (0x58, 4, 16),
    (0x60, 2, 3), (0x62, 1, 3), (0x64, 4, 0x100), (0x68, 4, 192), (0x70, 2, 4), (0x74, 4, 0x1C0), (0x78, 4, 16)].foldl (fun d f => putBytes d f.1 (natLe f.2.1 f.2.2)) (List.replicate 512 0)
  putBytes b 0x100 sec
/-- The image with its check value. -/
def bootImg : List Nat := putBytes bootImg0 0xC (natLe 4 1557358349)

/-- The device waits on tenant-page input 0 for a boot image that stands in the staging area; key slot 3 holds the key of the secret number 1. -/
def boxI (img : List Nat) : State :=
  { staged (boxB 0) img with rs := { (boxB 0).rs with bootLen := img.length }, nt := { (boxB 0).nt with fuse := { Fuses.blank with keys := [(3, ecBytes (some p384g))] } } }

theorem witness_BootOfTheDevice :
    (3 < 4 ∧ (boxB 3).rs.up = true ∧ State.reset.rs.up = false ∧ State.reset.nt.fuse = Fuses.blank ∧ (boxI bootImg).nt.fuse ≠ Fuses.blank) ∧
    ((boxB 1).bootWaits = true ∧ (boxB 1).bootSel = 1 ∧ (boxB 1).fget A.LK_BOOT_STATUS F.LK_BOOT_STATUS_ERROR = 0 ∧
      ¬(([] : List Nat).length = 64) ∧ spi0.length = 64 ∧ field spi0 60 4 = crc32c (spi0.take 60) ∧ field spi0 58 2 = 0 ∧
      (∀ d ∈ [39, 15, 31, 33], (boxB 1).isOn d = true ∧ ((boxB 1).dom d).entering = none) ∧ imageLenOk (field spi0 8 4) = true ∧
      zeroBytes spi0 58 0 = true ∧ (boxB 1).isLost stagingBase = false) ∧
    (boxB8.bootWaits = true ∧ boxB8.bootSel = 1 ∧ boxB8.rs.frame = 8 ∧ spi8.length = 64 ∧ field spi8 60 4 = crc32c (spi8.take 60) ∧ field spi8 58 2 = 8 ∧
      imageLenOk boxB8.spiLen = true ∧ 58 * 8 < boxB8.spiLen ∧ min 58 (boxB8.spiLen - 58 * 8) = 48 ∧ zeroBytes spi8 48 10 = true) ∧
    ((boxI (List.replicate 100 0)).bootWaits = true ∧ (boxI (List.replicate 100 0)).rs.bootLen ≠ 0 ∧ imageLenOk 100 = false ∧
      imageLenOk 512 = true ∧ bootImageOk ((boxI (List.replicate 512 0)).homeBytes stagingBase 512) 512 = false ∧
      (∀ d ∈ [6, 15, 16, 31, 33] ++ (boxI bootImg).sourceDoms, (boxI bootImg).isOn d = true ∧ ((boxI bootImg).dom d).entering = none)) := by decide +kernel

/-- The check value of some bytes from those of four parts. -/
theorem crc32c_parts (l : List Nat) (a b c d : Nat) (ha : crcFeed 0xFFFFFFFF (l.take 128) = a) (hb : crcFeed a ((l.drop 128).take 128) = b)
    (hc : crcFeed b ((l.drop 256).take 128) = c) (hd : crcFeed c (l.drop 384) = d) : crc32c l = d ^^^ 0xFFFFFFFF := by
  have h : ∀ x (k : List Nat), crcFeed x k = crcFeed (crcFeed x (k.take 128)) (k.drop 128) := fun x k => by
    unfold crcFeed
    rw [← List.foldl_append, List.take_append_drop]
  rw [crc32c, h, ha, h, hb, h, List.drop_drop, List.drop_drop, hc, hd]

theorem bootImg_crc : crc32c (putBytes bootImg 0xC [0, 0, 0, 0]) = 1557358349 :=
  crc32c_parts _ 1828941245 2477764183 1035540385 2737608946 (by decide +kernel) (by decide +kernel) (by decide +kernel) (by decide +kernel)

theorem bootImg_staged : (boxI bootImg).homeBytes stagingBase 512 = bootImg := by decide +kernel

/-- What the last clause asks of a good image, but for the two firmware checks: `Config.firmware` is opaque, so any result of it is taken. -/
theorem witness_BootOfTheDevice_good :
    (let s := boxI bootImg
     s.bootWaits = true ∧ s.fget A.LK_BOOT_STATUS F.LK_BOOT_STATUS_ERROR = 0 ∧ s.bootSel = 0 ∧ s.rs.bootLen = 512 ∧ s.homePsn stagingBase 512 = false ∧
     s.nt.fuse.svnN ≤ 0 ∧ s.nt.fuse.svnR ≤ 0) ∧ bootImageOk ((boxI bootImg).homeBytes stagingBase 512) 512 = true ∧
    (let sec := bootSec bootImg 3
     let slot := (((bootDir bootImg).find? fun d => d.ty == 3).map (·.slot)).getD 0
     128 ≤ sec.length ∧ Tab.get (boxI bootImg).nt.fuse.keys [] slot ≠ [] ∧ (boxI bootImg).nt.fuse.revoked.has slot = false ∧
     zeroBytes sec (sec.length - 32) 32 = true) := by
  refine ⟨by decide +kernel, ?_, by decide +kernel⟩
  rw [bootImg_staged, bootImageOk, bootImg_crc]
  decide +kernel

theorem witness_BootOfTheDevice_signed :
    (let sec := bootSec bootImg 3
     ecdsaOk (ecBytes (some p384g)) (sha384 (sec.take (sec.length - 128))) (slice sec (sec.length - 128) 96)) = true := by decide +kernel

theorem test_power_on : (ran (.powerOnReset 1 3 [9] 0 [] [] 0 0 [] [] 0) State.reset fun t => t.fget A.IO_ADDR F.IO_ADDR_STATIC_ADDR == 0x5B && t.wakeq.contains 39 && t.rd (A.NT_UID 0) == 9) = true := by decide +kernel

/-- The machine in a warm reset of a cause. -/
def boxWr (c : Nat) : State := { box with rs := { box.rs with warm := some c, rstLow := true } }

theorem witness_ResetsOfTheDevice_device :
    (box.rs.up = true ∧ box.pw.trip = false ∧ box.rs.warm ≠ some 1 ∧ (boxWr 1).rs.up = true ∧ (boxWr 1).rs.warm = some 1) ∧
    ((boxWr 3).rs.rstLow = true ∧ (boxWr 3).rs.warm = some 3) ∧
    (box.lkAdmin (.tenant 0) = true ∧ box.rs.warm = none) := by decide +kernel

/-- The partition of tenant 0 is not LK_ADMIN's. -/
def boxNa : State := { box with regs := Tab.set box.regs (regReset A.LK_ADMIN) A.LK_ADMIN 0 }

theorem witness_ResetsOfTheDevice_parts :
    box.admin ≠ some 1 ∧ (∀ p, box.partE 15 = some p → p.tenant ≠ 1) ∧ box.ownsTile 1 127 = false ∧
    (box.partE 0).map (·.tenant) = some 0 ∧ box.rs.warm = none ∧ box.pw.trip = false ∧ box.partResetRuns 0x23 = false ∧
    (∀ d ∈ 13 :: box.journalDoms 0, box.isOn d = true ∧ (box.dom d).entering = none) ∧
    box.ownsTile 0 15 = true ∧ box.partResetRuns 0x24 = false ∧ box.retired.has 15 = false ∧ box.fl.cls = [] := by
  refine ⟨by decide +kernel, ?_, ?_⟩
  · have h : box.partE 15 = none := by decide +kernel
    simp [h]
  · decide +kernel

theorem test_tile_reset : (ran (.tile (.tenant 0) 0) box fun t => (t.thread 0 0).st == .idle && t.fget A.LK_RESET_STATUS F.LK_RESET_STATUS_LAST_KIND == 3) = true := by decide +kernel

theorem witness_ResetsOfTheDevice_erasing :
    ({ box with nt := { box.nt with fwN := [1] } } : State).isOn 6 = true ∧ ({ box with nt := { box.nt with fwN := [1] } } : State).nt.fwN ≠ [] ∧
    (∀ x ∈ [0x53454352, 0], served (boxMb 8 8 x 0 0) 8 8 = true) ∧ (boxMb 8 8 0x53454352 0 0).ntArg 8 0 = 0x53454352 ∧ (boxMb 8 8 0 0 0).ntArg 8 0 ≠ 0x53454352 ∧
    ({ box with pw := { box.pw with logic := [420] } } : State).hotter 420 = true ∧
    (let s : State := { box with pw := { box.pw with trip := true, logic := [380] } }
     s.hotter 380 = true) ∧
    (let s : State := { box with pw := { box.pw with trip := true, logic := [379] } }
     s.pw.trip = true ∧ s.hotter 380 = false) := by decide +kernel

/-- Domain 39 On, its plat entry asking for Retention or Off; the TAP holds it, or not. -/
def boxD (target tap : Nat) : State :=
  { box with plat := { box.plat with cur := some { plat1 with doms := [⟨39, target, 0, 2, true, 1, 0⟩, ⟨14, target, 0, 2, true, 1, 0⟩, ⟨8, target, 0, 2, true, 1, 0⟩] } }, io := { box.io with tap := tap }
             host := { box.host with link := .l1 } }
/-- A domain in a state. -/
def domIn (d : Nat) (st : DState) (waking : Bool) (e : Option DState) : State := box.setDom d ⟨st, waking, e, 0⟩

theorem witness_PowerDomainEvents_entry :
    (∀ d ∈ [8, 14, 39], ((boxD 1 0).dom d).st = .on ∧ ((boxD 1 0).dom d).waking = false ∧ ((boxD 1 0).dom d).entering = none ∧ (boxD 1 0).force d ≠ 1 ∧
      (boxD 1 0).domIdle d = true ∧ ((boxD 1 0).domE d).target = some .ret ∧ (boxD 1 0).refuser d .ret false = none) ∧
    ((boxD 1 3).domIdle 39 = true ∧ ((boxD 1 3).domE 39).target = some .ret ∧ (boxD 1 3).refuser 39 .ret false = some (2, 0) ∧ (boxD 1 3).force 39 < 2) ∧
    (∀ d ∈ [1, 39], box.lkForceOk (.tenant 0) d = true ∧ (box.dom d).st = .on ∧ (domIn d .ret false none).lkForceOk (.tenant 0) d = true ∧
      ((domIn d .ret false none).dom d).st ≠ .on ∧ (domIn d .ret false none).portHeld d = false) ∧
    (∀ d ∈ [1, 9, 12, 16, 31, 39], ((domIn d .on false (some .ret)).dom d).entering = some .ret ∧ ((domIn d .on false (some .ret)).dom d).force = 0 ∧
      (9 ≤ d ∧ d ≤ 12 → ((domIn d .on false (some .ret)).blPort (d - 9)).retAsk = false) ∧
      (32 ≤ d → (domIn d .on false (some .off)).layerTraffic d = none ∧ (domIn d .on false (some .off)).liveState d = none) ∧
      (16 ≤ d → d ≤ 31 → ((domIn d .on false (some .off)).prepCluster (d - 16)).2 = .ready) ∧
      ((domIn d .off true none).dom d).waking = true ∧ ((domIn d .off true none).dom d).force = 0 ∧ (domIn d .off true none).extq = []) := by decide +kernel

theorem witness_PowerDomainEvents_needed_layer :
    let s : State := { domIn 32 .on false (some .off) with hg := { box.hg with jr := [jent .accepted 0xFFFF] } }
    (s.dom 32).entering = some .off ∧ (s.dom 32).force = 0 ∧ (s.layerTraffic 32).isSome = true := by decide +kernel

theorem test_entry_commit : (ran (.domainEntryCommit 16 false) (domIn 16 .on false (some .off)) fun t => (t.dom 16).st == .off && t.thread 0 0 == Thread.idle) = true := by decide +kernel

/-- A wake source with EN set and a map of one domain. -/
def boxSrc (i d : Nat) : State := ((domIn d .off false none).fset (A.LK_WAKE_CFG i) F.LK_WAKE_CFG_EN 1).wr (A.LK_WAKE_MAP i) (BitVec.ofNat 64 (2 ^ d))

theorem witness_PowerDomainEvents_wake :
    (∀ i ∈ [2, 27, 36, 39], (box.fset (A.LK_WAKE_CFG i) F.LK_WAKE_CFG_EN 0).flag (A.LK_WAKE_CFG i) F.LK_WAKE_CFG_EN = false ∧ (boxSrc i 39).flag (A.LK_WAKE_CFG i) F.LK_WAKE_CFG_EN = true ∧ (boxSrc i 39).srcDoms i = [39] ∧
      (boxSrc i 39).isOn 39 = false ∧ (boxSrc i 39).portHeld 39 = false ∧ ((boxSrc i 39).dom 39).waking = false ∧ ((boxSrc i 39).dom 39).entering = none) ∧
    (domIn 39 .off false none).isOn 39 = false ∧
    (∀ b ∈ [true, false],
      let s : State := { (domIn 16 .off false none).fset A.LK_PWR_LIMIT F.LK_PWR_LIMIT_MW (if b then 100000 else 1) with wakeq := [16] }
      s.nextWake = some 16 ∧ s.wakingNow = none ∧ s.pw.trip = false ∧ (∀ e ∈ domDeps 16, s.isOn e = true) ∧ s.wakeFits 16 = b ∧ s.pw.held ≠ some 16) := by decide +kernel

theorem test_wake_start : (ran .domainWakeStart { (domIn 16 .off false none).fset A.LK_PWR_LIMIT F.LK_PWR_LIMIT_MW 100000 with wakeq := [16] } fun t => (t.dom 16).waking && t.wakeq == []) = true := by decide +kernel

/-- The power has been low since time 0; the vault limit or one cluster's cap is lowered. -/
def boxLow (vault cap : Nat) : State :=
  let s : State := { box with pw := { box.pw with low := some 0, cool := [(15, some 0)], tcap := [(15, 2)] }, now := 256 * 10000000 }
  ((List.range 16).foldl (fun s c => s.fset (A.LK_C_LEVEL c) F.LK_C_LEVEL_GOV_CAP (if c = 15 then cap else 3)) s).fset A.LK_STATUS F.LK_STATUS_VAULT_LIMIT vault
/-- Cluster 15 has a new effective level that its voltage has reached. -/
def boxLv : State := { box.fset (A.LK_C_LEVEL 15) F.LK_C_LEVEL_EFFECTIVE 3 with pw := { box.pw with volt := [(15, (850, 0))], clk := [(15, 2)] } }

theorem witness_LevelsAndTemperature :
    ((boxLow 1 3).pw.low = some 0 ∧ 0 + 256 * 1000000 ≤ (boxLow 1 3).now ∧ 0 < (boxLow 1 3).fget A.LK_STATUS F.LK_STATUS_VAULT_LIMIT) ∧
    ((boxLow 0 2).fget A.LK_STATUS F.LK_STATUS_VAULT_LIMIT = 0 ∧ (boxLow 0 2).confMode = false ∧ (boxLow 0 2).fget (A.LK_C_LEVEL 15) F.LK_C_LEVEL_GOV_CAP = 2 ∧
      ∀ e, e < 15 → (boxLow 0 2).fget (A.LK_C_LEVEL e) F.LK_C_LEVEL_GOV_CAP = 3) ∧
    (boxLv.clkLevel 15 ≠ boxLv.fget (A.LK_C_LEVEL 15) F.LK_C_LEVEL_EFFECTIVE ∧ boxLv.voltNow 15 = levelMv 3 ∧ boxLv.pw.unacked = false) ∧
    (Tab.get (boxLow 0 2).pw.cool none 15 = some 0 ∧ 0 + 256 * 10000000 ≤ (boxLow 0 2).now ∧ Tab.get (boxLow 0 2).pw.tcap 3 15 < 3) ∧
    (box.pw.trip = false ∧ ({ box with pw := { box.pw with logic := [419], dram := [419] } } : State).hotter 420 = false) := by decide +kernel

theorem test_thermal_trip : (ran (.thermalSample [420] []) box fun t => t.pw.trip && t.mem == [] && t.isOn 0 && !t.isOn 13) = true := by decide +kernel

/-! ### Audio, Runnel, cameras -/

/-- Is a range reachable with all its domains On? -/
def upAt (s : State) (r : Reach) : Bool :=
  match r with
  | .ok ds => ds.all fun d => s.isOn d && (s.dom d).entering == none
  | _ => false

/-- The history belongs to tenant 0; the next sample index is `idx`. -/
def boxAu (idx : Nat) : State :=
  (box.fset A.AU_HIST_TENANT F.AU_HIST_TENANT_VALID 1).wr A.AU_HIST_INDEX (BitVec.ofNat 64 idx)

/-- The front end's settings for one clause: both channels that may be absent. -/
def boxCh (b c mute : Nat) : State := ((box.fset A.AU_CLK_CFG F.AU_CLK_CFG_LISTEN_MICS (1 - b)).fset A.AU_CLK_CFG F.AU_CLK_CFG_BC_EN c).fset A.AU_MUTE F.AU_MUTE_MUTE mute
/-- The detector before the end of frame 0, an event firing after `n` frames, `run` frames above the floor, with a floor written or not, muted or not. -/
def boxDet (n run : Nat) (w muted : Bool) (pend : Nat) : State :=
  { (boxAu 160).fset A.AU_EVENT_CTRL F.AU_EVENT_CTRL_PENDING pend with au := { box.au with cfg := n * 8 + 1 * 128 + 5 * 2048, run := run, floorW := w, muted := muted } }

theorem witness_AudioSamplesAndEvents :
    (box.au.fetch = none ∧ (boxAu (2 ^ 64 - 2)).auIdx + 1 < 2 ^ 64) ∧
    (∀ b ∈ [0, 1], ∀ c ∈ [0, 1], ∀ m ∈ [0, 1], (boxCh b c m).flag A.AU_CLK_CFG F.AU_CLK_CFG_LISTEN_MICS = decide (b = 0) ∧ (boxCh b c m).flag A.AU_CLK_CFG F.AU_CLK_CFG_BC_EN = decide (c = 1) ∧
      (boxCh b c m).flag A.AU_MUTE F.AU_MUTE_MUTE = decide (m = 1)) ∧
    ((boxAu 159).auIdx % 160 ≠ 0 ∧ (boxAu 0).auIdx / 160 ≤ (boxAu 0).au.judged) ∧
    (∀ w ∈ [true, false], ∀ m ∈ [true, false], ∀ p ∈ [0, 1], (boxDet 2 1 w m p).auIdx % 160 = 0 ∧ (boxDet 2 1 w m p).au.judged < (boxDet 2 1 w m p).auIdx / 160 ∧
      (boxDet 2 1 w m p).au.fetch = none ∧ (boxDet 2 1 w m p).detSilent = false ∧ (boxDet 2 1 w m p).au.floor + (boxDet 2 1 w m p).au.margin ≤ 30720 ∧ bits (boxDet 2 1 w m p).au.cfg 6 3 = 2 ∧
      (boxDet 2 1 w m p).au.run + 1 = 2 ∧ (boxDet 2 1 w m p).flag A.AU_EVENT_CTRL F.AU_EVENT_CTRL_PENDING = decide (p = 1)) ∧
    ((boxAu 0).auOk (.tenant 0) = true ∧ box.auOk (.tenant 0) = false) ∧ box.isOn 3 = true ∧ (domIn 3 .off false none).isOn 3 = false := by decide +kernel

theorem test_frame_end_above : (ran (.audioFrameEnd 30720) (boxDet 2 1 false false 0) fun t => t.rd A.AU_ENERGY == 63488 && t.rd A.AU_EVENT_FIRE == 160 && t.rd A.AU_EVENT_ONSET == 0) = true := by decide +kernel
theorem test_audio_sample : (ran (.audioSample (-1) 5 7 []) (boxCh 1 1 0) fun t => Tab.get t.au.ring 0 0 == 0x70005FFFF) = true := by decide +kernel

/-- A fetch's source and destination; a running one. -/
def boxF (idx src dst busy : Nat) : State := (((boxAu idx).wr A.AU_FETCH_SRC (BitVec.ofNat 64 src)).wr A.AU_FETCH_DST (BitVec.ofNat 64 dst)).fset A.AU_FETCH_STATUS F.AU_FETCH_STATUS_BUSY busy
def boxFr (left : Nat) : State := { boxF 9 0 0x10000 1 with au := { box.au with fetch := some ⟨0, 0, 9, left, 0x10000, 1, true⟩ } }

theorem witness_FetchAndWideStream_fetch :
    ((boxF 0 0 0 1).auOk (.tenant 0) = true ∧ (boxF 0 0 0 1).flag A.AU_FETCH_STATUS F.AU_FETCH_STATUS_BUSY = true ∧ (boxF 0 0 0 0).flag A.AU_FETCH_STATUS F.AU_FETCH_STATUS_BUSY = false) ∧
    (65536 < 2 ^ 17 ∧ ((0 : Nat) = 0 ↔ (7 : Nat) ≠ 0) ∧ ((2 : Nat) = 0 ↔ (0 : Nat) ≠ 0) ∧ ¬((0 : Nat) = 0 ↔ (0 : Nat) ≠ 0)) ∧
    (0 + 65536 < (boxF 65537 0 0 0).histW 0) ∧
    ((boxF 0 0 0 0).histW 0 ≤ 0 + 65536 ∧ (boxF 0 0 0 0).histW 0 < 0 + 1 ∧ (boxF 0 0 0 0).histW 0 + 65536 < 65537) ∧
    ((boxF 0 0 objBase 0).auTenant = some 0 ∧ (boxF 0 0 objBase 0).reach (viaHome 0) objBase (1 * histEntry 0 7) true locNear = .bad ∧
      (boxF 0 0 0x10000 0).reach (viaHome 0) 0x10000 (1 * histEntry 0 7) true locNear ≠ .bad ∧ (boxF 0 0 0x10000 0).histW 0 ≤ 0) ∧
    (∀ r ∈ [0, 1, 2], 0 < (((boxF 160 0 0x10000 0).wr A.AU_GLANCE_INDEX 1).histW r) ∧ upAt (boxF 160 0 0x10000 0) ((boxF 160 0 0x10000 0).reach (viaHome 0) 0x10000 (histEntry r 7) true locNear) = true) ∧
    ((boxF 0 0 0 0).au.fetch = none ∧ (boxFr 0).au.fetch = some ⟨0, 0, 9, 0, 0x10000, 1, true⟩ ∧ (boxFr 1).au.fetch = some ⟨0, 0, 9, 1, 0x10000, 1, true⟩ ∧ (boxFr 1).histW 0 ≤ 9) := by decide +kernel

/-- The wide stream: the chain settled or not, enabled or not, with a ring at a base. -/
def boxWd (settled : Bool) (en base : Nat) : State :=
  let s := (((boxAu 1).fset A.AU_WIDE_CTRL F.AU_WIDE_CTRL_WIDE_EN en).wr A.AU_WIDE_BASE (BitVec.ofNat 64 base)).fset A.AU_STATUS F.AU_STATUS_CLK0_RATE 2
  { s with au := { s.au with settled := settled } }

theorem witness_FetchAndWideStream_wide :
    ((boxWd false 0 0).isOn 3 = true ∧ ((boxWd false 0 0).dom 3).entering = none ∧ (domIn 3 .off false none).isOn 3 = false ∧ (boxWd false 0 0).fget A.AU_STATUS F.AU_STATUS_CLK0_RATE = 2 ∧ (boxWd false 0 0).au.settled = false ∧
      ¬((boxWd true 0 0).isOn 3 = true ∧ (boxWd true 0 0).fget A.AU_STATUS F.AU_STATUS_CLK0_RATE = 2 ∧ (boxWd true 0 0).au.settled = false)) ∧
    (∀ b ∈ [0x1000000, 1], (boxWd true 0 b).auOk (.tenant 0) = true ∧ (boxWd true 0 b).flag A.AU_WIDE_CTRL F.AU_WIDE_CTRL_WIDE_EN = false ∧
      ∀ p ∈ [0, 6], ((((boxWd true 0 b).fset A.AU_WIDE_CTRL F.AU_WIDE_CTRL_WIDTH 1).fset A.AU_WIDE_CTRL F.AU_WIDE_CTRL_PAGES p).fset A.AU_WIDE_CTRL F.AU_WIDE_CTRL_CH_MASK 255).wideRingOk = decide (b = 0x1000000)) ∧
    ((boxWd true 1 0x1000000).flag A.AU_WIDE_CTRL F.AU_WIDE_CTRL_WIDE_EN = true ∧ (boxWd true 1 0x1000000).au.wbuf = [] ∧ (boxWd true 1 0x1000000).auTenant = some 0 ∧
      upAt (boxWd true 1 0x1000000) ((boxWd true 1 0x1000000).reach (viaHome 0) 0x1000000 16 true locNear) = true) ∧
    (box.flag A.AU_RECAL_CTRL F.AU_RECAL_CTRL_RECAL_EN = false ∧ (box.fset A.AU_RECAL_CTRL F.AU_RECAL_CTRL_RECAL_EN 1).flag A.AU_RECAL_CTRL F.AU_RECAL_CTRL_RECAL_EN = true) := by decide +kernel

theorem test_wide_sample : (ran (.wideSample [-2]) (boxWd true 1 0x1000000) fun t => t.rd A.AU_WIDE_INDEX == 1) = true := by decide +kernel

/-- Runnel in a state, an event pending or not. -/
def boxRn (st pend : Nat) : State := { (boxAu 160).fset A.AU_EVENT_CTRL F.AU_EVENT_CTRL_PENDING pend with rn := { RnSt.reset with st := st } }
/-- An image of one model; the bytes of a model image with its check value, and the machine that loads it. -/
def rnImg : RnImage := ⟨[⟨0, 0, 1, 0, 0, 1⟩], 5, []⟩
def rnBytes : List Nat :=
  let b := [(0, 4, 0x4C4E5552), (4, 2, 1), (6, 1, 1), (8, 4, 320), (0x10, 8, 5), (0x22, 2, 1), (0x28, 4, 256), (0x2C, 4, 64)].foldl (fun d f => putBytes d f.1 (natLe f.2.1 f.2.2)) (List.replicate 320 0)
  putBytes b 0xC (natLe 4 890673727)
def boxLd (addr : Nat) : State := (putMem (boxRn 5 0) 0x10000 rnBytes).wr A.RN_LOAD_ADDR (BitVec.ofNat 64 addr)

theorem witness_RunnelCore_states :
    (∀ k ∈ [0, 1, 2, 3, 5], ∀ p ∈ [0, 1], (boxRn k p).isOn 1 = true ∧ (boxRn k p).rn.st = k ∧ (boxRn k p).flag A.AU_EVENT_CTRL F.AU_EVENT_CTRL_PENDING = decide (p = 1) ∧
      (boxRn k p).fget A.RN_CASCADE_CFG F.RN_CASCADE_CFG_D3_ON ≠ 1 ∧ (boxRn k p).auOk (.tenant 0) = true ∧ ((boxRn k p).dom 1).entering = none ∧ (boxRn k p).rn.load = none) ∧
    box.auOk (.tenant 0) = false ∧
    ((boxLd 1).rd A.RN_LOAD_ADDR).toNat % 64 ≠ 0 ∧ (boxRn 3 0).auTenant = some 0 ∧
    (let s : State := { boxRn 5 0 with rn := { RnSt.reset with load := some (0x10000, some rnImg) } }
     s.rn.load.isSome = true ∧ s.rn.load = some (0x10000, some rnImg) ∧ rnImg.models.length ≤ 8) ∧
    (let s : State := { boxRn 1 0 with rn := { RnSt.reset with st := 1, quiet := 255 } }
     max 1 (s.fget A.RN_HOLD F.RN_HOLD_HOLD_FRAMES) ≤ s.rn.quiet) ∧ (boxRn 1 0).rn.quiet < max 1 ((boxRn 1 0).fget A.RN_HOLD F.RN_HOLD_HOLD_FRAMES) ∧
    ((boxRn 2 0).refractory (boxRn 2 0).rn.decided = []) ∧
    (let s : State := { (boxRn 2 0).fset A.RN_HOLD F.RN_HOLD_REFRACTORY 9 with rn := { RnSt.reset with st := 2, decided := [(0, 1)] } }
     s.refractory s.rn.decided ≠ []) := by decide +kernel

/-- The bytes a load reads, as it reads them. -/
def ldRead (s : State) : State × List PByte :=
  ((s.setRn { s.rn with load := some (0x10000, none) }).readBytes (viaHome 0) 0x10000 32)

theorem witness_RunnelCore_load :
    ((boxLd 0x10000).rd A.RN_LOAD_ADDR).toNat % 64 = 0 ∧ (boxLd 0x10000).auTenant = some 0 ∧
    upAt (boxLd 0x10000) (((boxLd 0x10000).setRn { (boxLd 0x10000).rn with load := some (0x10000, none) }).reach (viaHome 0) 0x10000 32 false locT12) = true ∧
    rnLenOk (pnat (ldRead (boxLd 0x10000)).2 8 4) = true ∧ upAt (boxLd 0x10000) ((ldRead (boxLd 0x10000)).1.reach (viaHome 0) 0x10000 320 false locT12) = true ∧
    ((ldRead (boxLd 0x10000)).1.readBytes (viaHome 0) 0x10000 320).2 = rnBytes.map (fun b => (b, false)) ∧
    (rnCheck ((rnBytes.set 4 2).map fun b => (b, false))).1 = some 4 := by decide +kernel

theorem witness_RunnelCore_image : (rnCheck (rnBytes.map fun b => (b, false))).1 = none := by
  have h : (rnBytes.map fun b => (b, false)).map (·.1) = rnBytes := by decide +kernel
  have c : crc32c (putBytes rnBytes 0xC (natLe 4 0)) = 890673727 :=
    crc32c_parts _ 3740209707 2154592454 3404293568 3404293568 (by decide +kernel) (by decide +kernel) (by decide +kernel) (by decide +kernel)
  unfold rnCheck
  simp only [h, c]
  decide +kernel

/-- Runnel listens with an image whose model decides at any score of at least 0. -/
def boxEv (confirm : Nat) : State :=
  ({ boxRn 1 0 with rn := { RnSt.reset with st := 1, image := some rnImg } } : State).wr (A.RN_THRESH 0) (BitVec.ofNat 64 (confirm * 65536))
/-- A handoff record waits for the Leat ring, ring 0. -/
def boxHo (on : Bool) (held : List (List Nat)) (synced : Bool) : State :=
  { (boxG on 0).fset A.AU_HIST_TENANT F.AU_HIST_TENANT_VALID 1 with rn := { RnSt.reset with held := held, synced := synced } }

theorem witness_RunnelCore_frames :
    (∀ c ∈ [1, 2], (boxEv c).oldestFrame ≤ (boxEv c).rn.next ∧ (boxEv c).rn.next + 160 ≤ (boxEv c).auIdx ∧ (boxEv c).au.bad = [] ∧
      (((boxEv c).rn.pick fun m => m.kind != 2).filter fun m => decide (bits ((boxEv c).thresh m 0) 23 16 ≠ 0) && decide (bits ((boxEv c).thresh m 0) 23 16 ≤
        (if scoreMeets 0 (bits ((boxEv c).thresh m 0) 15 0) then Tab.get (boxEv c).rn.conf 0 m + 1 else 0)) && (Tab.get? ((boxEv c).refractory (boxEv c).rn.decided) m).isNone) = (if c = 1 then [0] else []) ∧
      (boxEv c).fget A.RN_CASCADE_CFG F.RN_CASCADE_CFG_D3_ON ≠ 2) ∧
    (let s : State := { boxEv 1 with rn := { (boxEv 1).rn with next := 1 } }
     s.auIdx < 1 + 160) ∧
    box.auTenant = none ∧ ((boxHo true [] true).auTenant = some 0 ∧ (boxHo true [] true).ringTenant 0 = some 0 ∧ (boxHo true [] true).rn.held = [] ∧ (boxHo true [] true).rn.synced = true) ∧
    ((boxHo true [List.replicate 128 1] false).rn.held = [List.replicate 128 1] ∧ (boxHo true [List.replicate 128 1] false).ringProd 0 = ((boxHo true [List.replicate 128 1] false).ringSt 0).cons ∧
      (boxHo true [List.replicate 128 1] false).leatReady = true ∧
      (∀ d ∈ 13 :: t1Doms (box.ringBase 0), box.isOn d = true ∧ (box.dom d).entering = none)) := by decide +kernel

theorem test_runnel_decides : (ran (.runnelFrameEval false [0] [0] [0]) (boxEv 1) fun t => t.rn.st == 2 && t.rn.next == 160 && t.fget A.RN_DECISIONS (31, 0) == 1) = true := by decide +kernel

/-- Stream 15 of receiver 3, virtual channel 1, RAW8, 16 by 16, enabled or not, a frame running or not, with parameter sets queued. -/
def frm : IsFrame := ⟨7, 1, 0, 0, 0, IsParam.default, false, [], 0, 0, 0, false, false, false⟩
def boxIs (en : Nat) (cur : Option IsFrame) (q : List (Nat × Nat)) : State :=
  let s := [(A.IS_S_CFG 15, F.IS_S_CFG_EN, en), (A.IS_S_CFG 15, F.IS_S_CFG_RX, 3), (A.IS_S_CFG 15, F.IS_S_CFG_VC, 1), (A.IS_S_CFG 15, F.IS_S_CFG_DT, 0x2A), (A.IS_S_SIZE 15, F.IS_S_SIZE_WIDTH, 16),
    (A.IS_S_SIZE 15, F.IS_S_SIZE_HEIGHT, 16), (A.IS_S_NBUF 15, F.IS_S_NBUF_NBUF, 1), (A.IS_S_TENANT 15, F.IS_S_TENANT_VALID, 1), (A.CA_TENANT 3, F.CA_TENANT_VALID, 1), (A.CA_CTRL 3, F.CA_CTRL_EN, 1)].foldl
    (fun (s : State) p => s.fset p.1 p.2.1 p.2.2) box
  let s := ((s.wr (A.IS_S_BUF_BASE 15) 0x10000).wr (A.IS_S_REC_BASE 15) 0x20000).wr (A.IS_S_PUSH_ADDR 15) 0x30000
  { s with cam := { s.cam with streams := [(15, ⟨cur, [], none, q⟩)] } }

theorem witness_CamerasAndGlance_lines :
    (box.isOn 5 = true ∧ box.flag (A.CA_CTRL 3) F.CA_CTRL_EN = false ∧ (boxIs 1 none []).flag (A.CA_CTRL 3) F.CA_CTRL_EN = true) ∧
    (boxIs 1 none []).isMatch 3 0 (fun _ => true) = [] ∧ (boxIs 1 none []).isMatch 3 1 (fun _ => true) = [15] ∧
    (((boxIs 1 none []).isSt 15).cur = none ∧ ((boxIs 1 none []).isSt 15).queue = [] ∧ ((boxIs 1 (some frm) []).isSt 15).cur = some frm) ∧
    dtOk 0x29 = false ∧ dtOk 0x2A = true ∧ (boxIs 1 none []).isMatch 3 1 (fun c => c.dt == 0x2A) = [15] ∧ frm.lines.length < ((boxIs 1 (some frm) []).isCfg 15).h ∧ (boxIs 1 (some frm) []).isFull 15 = false := by decide +kernel

theorem witness_CamerasAndGlance_streams :
    (box.cam.out = [] ∧ (box.isSt 15).ended = []) ∧
    (let s : State := { box with cam := { box.cam with streams := [(15, { IsSt.idle with ended := [{ frm with ended := true }] })] } }
     s.cam.out = [] ∧ (s.isSt 15).ended = [{ frm with ended := true }]) ∧
    box.isOk (.tenant 0) 15 = false ∧ (boxIs 0 none []).isOk (.tenant 0) 15 = true ∧ ((boxIs 0 none []).isOn 4 = true ∧ ((boxIs 0 none []).dom 4).entering = none) ∧
    (boxIs 1 none []).isOnStream 15 = true ∧ (boxIs 0 none []).isOnStream 15 = false ∧ (boxIs 0 none []).isEnableOk 15 = true ∧ ((boxIs 0 none []).fset (A.IS_S_SIZE 15) F.IS_S_SIZE_WIDTH 15).isEnableOk 15 = false ∧
    (((boxIs 1 none []).wr (A.IS_S_PUSH_ADDR 15) 1).rd (A.IS_S_PUSH_ADDR 15)).toNat % 64 ≠ 0 ∧ (boxIs 1 none []).reach (viaHome 0) 0x30000 1792 false locNear ≠ .bad ∧
    ((boxIs 1 none ((List.range 8).map fun i => (0, 100 + i))).isSt 15).queue.length = 8 ∧ (∀ p ∈ ((List.range 8).map fun i => (0, 100 + i)), p.2 ≠ 8) ∧
    (box.isOn 2 = true ∧ box.flag A.GP_CTRL F.GP_CTRL_EN = false ∧ (box.fset A.GP_CTRL F.GP_CTRL_EN 1).flag A.GP_CTRL F.GP_CTRL_EN = true ∧ box.au.fetch = none) := by decide +kernel

theorem test_long_packet : (ran (.csiLongPacket 3 1 0x2A 0 false false false (List.replicate 16 9)) (boxIs 1 (some frm) []) fun t =>
    match (t.isSt 15).cur with
    | some y => y.recv == 1 && y.lenErr == 0 && y.lines == [⟨List.replicate 16 9, false, false⟩]
    | none => false) = true := by decide +kernel

/-! ### Time, the Brefen link -/

/-- Compare channel 7 enabled and due, with a mode and a period. -/
def boxTc (mode period : Nat) : State :=
  { ((box.fset (A.TU_TC_CTRL 7) F.TU_TC_CTRL_EN 1).fset (A.TU_TC_CTRL 7) F.TU_TC_CTRL_MODE mode).wr (A.TU_TC_PERIOD 7) (BitVec.ofNat 64 period) with tu := { box.tu with pulse := [(7, some (3, 100))] } }
/-- Tick input 1 enabled, with an edge accepted at time 0. -/
def boxTi (edge : Bool) (now : Nat) : State :=
  { box.fset (A.TU_TI_CFG 1) F.TU_TI_CFG_EN 1 with tu := { box.tu with edge := if edge then [(1, some 0)] else [], unread := [1] }, now := now }
/-- A second tenant, in confidential mode. -/
def boxWh (w : List (Nat × Option (Nat × Nat))) : State :=
  { box.fset A.HG_PLAT_INFO F.HG_PLAT_INFO_CONFIDENTIAL 1 with
    plat := { box.plat with cur := some { plat1 with tenants := [⟨0, true, 1000, 1000, 1000, 0, 16⟩, ⟨7, true, 1000, 1000, 1000, 0, 16⟩] } }
    now := 25600000, eng := { box.eng with wheel := w } }

theorem witness_TimeUnit :
    (box.lkAdmin (.tenant 0) = true ∧ box.lkAdmin (.tenant 1) = false ∧ (box.fset A.TU_CTRL F.TU_CTRL_STEP_ARMED 0).flag A.TU_CTRL F.TU_CTRL_STEP_ARMED = false ∧ (box.fset A.TU_CTRL F.TU_CTRL_STEP_ARMED 1).flag A.TU_CTRL F.TU_CTRL_STEP_ARMED = true) ∧
    (plat1.inRange = true ∧ box.plat.shadow = none ∧ box.stallCharges box.waitings = [] ∧ box.arb.due = []) ∧
    (∀ m ∈ [0, 1], (boxTc m 2560000).flag (A.TU_TC_CTRL 7) F.TU_TC_CTRL_EN = true ∧ timeReached (BitVec.ofNat 64 (boxTc m 2560000).time) ((boxTc m 2560000).rd (A.TU_TC_TIME 7)) = true ∧
      (boxTc m 2560000).flag (A.TU_TC_CTRL 7) F.TU_TC_CTRL_MODE = decide (m = 1) ∧ (boxTc m 2560000).rd (A.TU_TC_PERIOD 7) ≠ 0) ∧
    ¬(box.flag (A.TU_TC_CTRL 7) F.TU_TC_CTRL_EN = true) ∧ (boxTc 1 2559999).tcOwner (.tenant 0) 7 = true ∧ box.tcOwner (.tenant 1) 7 = false ∧ ((boxTc 1 2559999).rd (A.TU_TC_PERIOD 7)).toNat < 2560000 ∧
    (Tab.get box.tu.pulse none 7 = none ∧ Tab.get (boxTc 0 1).tu.pulse none 7 = some (3, 100) ∧ (boxTc 0 1).now < 100 ∧ 100 ≤ ({ boxTc 0 1 with now := 100 } : State).now) ∧
    (∀ e ∈ [true, false], (boxTi e 255999).flag (A.TU_TI_CFG 1) F.TU_TI_CFG_EN = true ∧ (boxTi e 255999).flag (A.TU_TI_CFG 1) F.TU_TI_CFG_EDGE = false ∧ (boxTi e 255999).fget (A.TU_TI_CFG 1) F.TU_TI_CFG_FILTER ≤ 1000 ∧
      (boxTi e 255999).tu.unread.has 1 = true ∧ Tab.get (boxTi e 255999).tu.edge none 1 = if e then some 0 else none) ∧ (255999 < 0 + 256000) ∧
    ¬(box.flag (A.TU_TI_CFG 1) F.TU_TI_CFG_EN = true) ∧
    (box.wheeled 5 0 = false ∧ (boxWh []).wheeled 5 0 = true ∧ (boxWh []).wheelTenants 5 0 = [0, 7] ∧ Tab.get (boxWh []).eng.wheel none (engKey 5 0) = none ∧
      Tab.get (boxWh [(80, some (0, 0))]).eng.wheel none (engKey 5 0) = some (0, 0) ∧ 256000000 ≤ ((boxWh []).now - 0) * (boxWh []).wheelClk 5 0 ∧ (25599999 - 0) * (boxWh []).wheelClk 5 0 < 256000000) := by decide +kernel

theorem test_tc_fire : (ran (.tcFire 7) (boxTc 0 0) fun t => t.flag (A.TU_TC_CTRL 7) F.TU_TC_CTRL_FIRED && !t.flag (A.TU_TC_CTRL 7) F.TU_TC_CTRL_EN) = true := by decide +kernel
theorem test_time_advance : (ran (.timeAdvance 3) box fun t => t.now == 31250) = true := by decide +kernel

/-- A frame of device 5 to this device: tenant 0, TAG 32. -/
def rq (ty op addr : Nat) (pay : List Nat) : LFrame := ⟨ty, 0, 3, 5, 0, 255, 32, addr, 0, op, 0, pay⟩
/-- Port 3 in a state, changed. -/
def boxL (st : Nat) (f : BlPort → BlPort) : State := (box.fset (A.BL_STATUS 3) F.BL_STATUS_STATE st).setPort 3 (f BlPort.reset)
def addPort (s : State) (f : BlPort → BlPort) : State := s.setPort 3 (f (s.blPort 3))
/-- A frame queued at the port since time 0: a WRITE of 128 bytes, with the credit for it. -/
def qf : QFrame := ⟨8, rq 2 7 0x1000 (List.replicate 128 1), 0, none⟩
def boxLq : State := boxL 2 fun p => { p with q := [qf], credit := [(15, 9)] }
/-- A block kept for replay. -/
def rblk : RBlock := ⟨4095, List.replicate 160 0, 8⟩

theorem witness_LinkBlocksAndPorts_send :
    (box.reqs = [] ∧ box.bl.outq = []) ∧
    (let s := addPort (domIn 12 .off false none) fun p => { p with q := [qf] }
     s.isOn 12 = false ∧ (s.blPort 3).q ≠ []) ∧
    (∀ st ∈ [2, 3, 5], (boxL st id).isOn 12 = true ∧ (boxL st id).blState 3 = st) ∧ (boxL 2 id).blSealed 3 = false ∧ ((boxL 2 id).blPort 3) = BlPort.reset ∧
    ((boxL 2 fun p => { p with replay := [rblk], resend := some 4095 }).blPort 3).replay.find? (fun x => x.seq == 4095) = some rblk ∧
    (boxLq.blPort 3).q = [qf] ∧ qf.inp < 9 ∧ qf.fr.pay.length ≤ 128 ∧ boxLq.credOk 3 qf.fr = true ∧ (boxLq.blPort 3).replay.length < 512 ∧ boxLq.credKey qf.fr = 15 := by decide +kernel

theorem test_block_send : (ran (.blBlockSend 3) boxLq fun t => (t.blPort 3).out.length == 1 && (t.blPort 3).q == [] && (t.blPort 3).txSeq == 1 && Tab.get (t.blPort 3).credit 0 15 == 0) = true := by decide +kernel

/-- A request of the thread that waits for its frame: a message to device 5, or to one with no route. -/
def rreq (kind : RKind) (dev acc : Nat) (wire : Option (Nat × Nat × Nat)) : RReq := ⟨1, kind, dev, 0x1000, 64, List.replicate 72 0, 0, 0, 0, acc, 0, none, wire, false⟩

theorem witness_LinkBlocksAndPorts_issue :
    (∀ d ∈ [5, 6],
      let s : State := { boxL 5 id with reqs := [rreq .message d 0 none] }
      s.isOn 12 = true ∧ s.blState 3 = 5 ∧ s.bl.outq = [] ∧ s.draining d = false ∧ s.way d 0 = (if d = 5 then .port 0 else .noRoute) ∧ s.freeWire 0 0 = some 0) := by decide +kernel

/-- Idle blocks with the expected BSEQ and with a later one; a block that begins with a frame of 128 payload bytes. -/
def idleB (seq : Nat) : List Nat := mkBlock none (blkHeader seq 4095 false true false 4 4095 none 0) []
def frameB : List Nat := mkBlock none (blkHeader 0 4095 false false false 4 4095 (some 0) 0) (rq 2 7 0x1000 (List.replicate 128 1)).bytes

theorem witness_LinkBlocksAndPorts_receive :
    (List.replicate 160 0).length = 160 ∧ (List.replicate 8 1).length = 8 ∧
    (∀ b ∈ [idleB 0, mkBlock none (blkHeader 4095 0 false false false 0 0 none 0) [], frameB], b.length = 160 ∧ crc32c (b.take 152) = field b 152 4 ∧ field b 156 4 = 0) ∧
    ((boxL 3 id).confMode = false ∧ (boxL 3 id).blPort 3 = BlPort.reset ∧ BlPort.reset.rxSeq = 0) ∧
    field (idleB 0) 0 8 = blkHeader 0 4095 false true false 4 4095 none 0 ∧ field frameB 0 8 = blkHeader 0 4095 false false false 4 4095 (some 0) 0 ∧
    (let f := rq 2 7 0x1000 (List.replicate 128 1)
     LFrame.ofHeader f.header f.pay = f ∧ slice frameB 8 144 = zeroTo 144 f.bytes ∧ frameType f.ty = true ∧ f.pay.length ≤ 128 ∧ f.pay.length % 16 = 0 ∧ f.dst = box.devId) := by decide +kernel

theorem test_block_receive : (ran (.blBlockReceive 3 true (List.replicate 8 1) frameB) (boxL 3 id) fun t => t.bl.inbox == [(3, rq 2 7 0x1000 (List.replicate 128 1), 0)] && (t.blPort 3).rxSeq == 1) = true := by decide +kernel

/-- Faulty lanes 0 and 7 of port 3, as the flags say. -/
def boxLane (a b : Nat) : State := ((boxL 4 id).fset (A.BL_LANE_STATUS 3 0) F.BL_LANE_STATUS_FAULT a).fset (A.BL_LANE_STATUS 3 7) F.BL_LANE_STATUS_FAULT b

theorem witness_LinkBlocksAndPorts_ports :
    ((boxL 1 id).blState 3 = 1 ∧ ((boxL 1 id).fset (A.BL_STATUS 3) F.BL_STATUS_PARTNER_VALID 1).flag (A.BL_STATUS 3) F.BL_STATUS_PARTNER_VALID = true ∧ (boxL 1 id).blSealed 3 = false ∧
      (boxL 1 id).flag (A.BL_STATUS 3) F.BL_STATUS_PARTNER_VALID = false ∧ (boxL 1 id).sentBy 3 = []) ∧
    (∀ e ∈ [0, 1], ((boxL 2 id).fset (A.BL_CFG 3) F.BL_CFG_DEGRADE_EN e).flag (A.BL_CFG 3) F.BL_CFG_DEGRADE_EN = decide (e = 1)) ∧
    ((∃ b ∈ ((boxL 2 fun p => { p with replay := [rblk] }).blPort 3).replay, 8 ≤ b.sent) ∧ 64 ≤ ((boxL 3 fun p => { p with replays := List.replicate 64 0 }).recent ((boxL 3 fun p => { p with replays := List.replicate 64 0 }).blPort 3).replays).length ∧
      ¬(∃ b ∈ ((boxL 2 id).blPort 3).replay, 8 ≤ b.sent) ∧ ((boxL 2 fun p => { p with replays := List.replicate 63 0 }).recent ((boxL 2 fun p => { p with replays := List.replicate 63 0 }).blPort 3).replays).length < 64) ∧
    (∀ a ∈ [0, 1], ∀ b ∈ [0, 1], (boxLane a b).blState 3 = 4 ∧ (boxLane a b).halfBad 3 0 = decide (a = 1) ∧ (boxLane a b).halfBad 3 1 = decide (b = 1)) ∧
    (let s : State := { boxLq with now := boxLq.blTimeout / 16 + 1 }
     (s.blPort 3).q[0]? = some qf ∧ qf.since + s.blTimeout / 16 < s.now ∧ boxLq.now ≤ qf.since + boxLq.blTimeout / 16) ∧
    (let s : State := { box with bl := { box.bl with inbox := [(3, rq 1 7 0 [], 0)] }, now := box.blTimeout / 16 + 1 }
     s.bl.inbox[0]? = some (3, rq 1 7 0 [], 0) ∧ 0 + s.blTimeout / 16 < s.now) := by decide +kernel

/-- The machine with frames that have arrived at port 3 at time 0. -/
def boxIn (fs : List LFrame) : State := { box with bl := { box.bl with inbox := fs.map fun f => (3, f, 0) } }

theorem witness_LinkBlocksAndPorts_link :
    (let f := rq 14 0 0 (payload ([0, 0] ++ natLe 2 5))
     (boxIn [f]).bl.inbox[0]? = some (3, f, 0) ∧ f.pay.headD 0 = 0 ∧ (boxIn [f]).flag (A.BL_CFG 3) F.BL_CFG_EXPECT_EN = false) ∧
    (let s := ((boxIn []).fset (A.BL_CFG 3) F.BL_CFG_EXPECT_EN 1).fset (A.BL_CFG 3) F.BL_CFG_EXPECT_ID 6
     s.flag (A.BL_CFG 3) F.BL_CFG_EXPECT_EN = true ∧ 5 ≠ s.fget (A.BL_CFG 3) F.BL_CFG_EXPECT_ID) := by decide +kernel

theorem witness_FramesServed_memory :
    (∀ ty ∈ [1, 2, 3],
      let f := rq ty (if ty = 3 then 16 else 7) t0Base (List.replicate (if ty = 2 then 128 else 16) 3)
      let s := boxIn [f]
      s.bl.inbox[0]? = some (3, f, 0) ∧ s.heldUp 0 3 f = false ∧ s.ahead 0 f = [] ∧ f.addr % 128 = 0 ∧ s.peerOk 0 f.addr 128 = true ∧ (∀ d ∈ s.locDoms (.mem f.addr), s.isOn d = true ∧ (s.dom d).entering = none) ∧ s.isLost f.addr = false ∧
      (let u := { s with doms := (domIn 16 .off false none).doms }
       u.domCheck (u.locDoms (.mem f.addr)) = .wait [16]) ∧ s.now ≤ 0 + s.blTimeout / 2 ∧ 0 + s.blTimeout / 2 < ({ s with now := 256000 * 200 } : State).now) ∧
    (List.replicate 128 3).length = 16 * ceilDiv 128 16 ∧ (boxIn []).peerOk 0 (t0Base + 2 ^ 30) 128 = false ∧ ((boxIn []).blPort 3).refused = [] ∧ 0 < (boxIn []).trackMax ∧
    (let f := rq 1 0 t0Base []
     let g := rq 2 0 (t0Base + 127) (List.replicate 16 0)
     ∃ h ∈ (boxIn [g, f]).ahead 1 f, sameLine f h = true) ∧
    amoStore 0 8 5 false 6 false 6 false ≠ none ∧ amoStore 9 8 5 false 7 false 0 false = none := by decide +kernel

theorem test_read_served : (ran (.read 0 false) { boxIn [rq 1 2 t0Base []] with mem := [(t0Base, 7)] } fun t => (t.bl.outq.map fun x => (x.fr.ty, x.fr.dst, x.fr.pay)) == [(8, 5, 7 :: List.replicate 15 0)] && t.bl.inbox == []) = true := by decide +kernel

/-- A MESSAGE or CARRY to rank 1, thread 2 of a context. -/
def mf (ty ctx : Nat) : LFrame := rq ty 0 (ctx + 1 * 2 ^ 10 + 2 * 2 ^ 17 + 9 * 2 ^ 21 + 1 * 2 ^ 37) (List.replicate 16 5)

theorem witness_FramesServed_messages :
    (∀ ty ∈ [4, 5], ∀ c ∈ [0, 1],
      let s := boxIn [mf ty c]
      let m := (s.frameMsg 3 0 (mf ty c)).2
      (s.blPort 3).refused = [] ∧ 0 < s.trackMax ∧ s.heldUp 0 3 (mf ty c) = false ∧ s.ahead 0 (mf ty c) = [] ∧ s.holdingFull 0 = false ∧ s.reachDev (tgtDev m.target) = true ∧ s.bounceReason 0 m.target = (if c = 0 then none else some 1) ∧
      tgtRank m.target = 1 ∧ tgtThr m.target = 2) ∧
    (boxIn []).job 0 = some job0 ∧ job0.saved = false ∧ (boxIn []).isOn 16 = true ∧ ((boxIn []).thread 1 2).mq.length < 8 ∧
    (let s : State := { boxIn [mf 4 0] with net := List.replicate 64 { net1 to12 with srcLocal := false, waiting := true } }
     s.holdingFull 0 = true ∧ ∀ ty ∈ [1, 2, 3, 4, 5, 6], ({ s with bl := (boxIn [mf 4 0, mf ty 0]).bl } : State).heldUp 1 3 (mf ty 0) = true) ∧
    (∃ g ∈ (boxIn [rq 2 0 t0Base (List.replicate 16 0), mf 5 0]).ahead 1 (mf 5 0), g.ty = 2) ∧
    (let s := addPort (boxIn [mf 5 0]) fun p => { p with refused := [(0, (mf 5 0).path, 0)] }
     (∀ g ∈ s.ahead 0 (mf 5 0), g.ty ≠ 2 ∧ sameTarget (mf 5 0) g = false) ∧ s.heldUp 0 3 (mf 5 0) = false ∧ (∃ r ∈ (s.blPort 3).refused, r.1 = s.trackKey (mf 5 0) ∧ r.2.1 = (mf 5 0).path) ∧ s.now < 0 + s.blTimeout ∧
     0 + s.blTimeout ≤ ({ s with now := 256000 * 200 } : State).now) ∧
    (∀ r ∈ [0, 1, 5],
      let f := rq 6 0 r []
      let s := { boxIn [f] with hg := (boxG true 0).hg }
      s.ahead 0 f = [] ∧ s.heldUp 0 3 f = false ∧ s.isOn 13 = true ∧ (s.dom 13).entering = none ∧ s.ringTenant r = (if r = 5 then none else some 0) ∧ (s.ringSt r).enabled = decide (r = 0) ∧ s.hg.dbq.contains r = false ∧ s.dbRoom 0 = true) := by decide +kernel

/-- A response of device 5 to the thread's request. -/
def rs (ty op : Nat) (pay : List Nat) : LFrame := ⟨ty, 0, 3, 5, 0, 255, 7, 0, 0, op, 0, pay⟩
/-- The thread with its request on the wire. -/
def boxRq (kind : RKind) (acc : Nat) (f : LFrame) (g : Thread → Thread) : State :=
  { boxT g with reqs := [rreq kind 5 acc (some (7, 0, 3))], bl := { box.bl with inbox := [(3, f, 0)] } }

theorem witness_AnswersOfPeers :
    (∀ ty ∈ [8, 9, 10, 11, 12], (boxIn [rs ty 0 []]).bl.inbox[0]? = some (3, rs ty 0 [], 0) ∧ (boxIn [rs ty 0 []]).reqOf (rs ty 0 []) = none ∧ (boxIn [rs ty 0 []]).reqUndel (rs ty 0 []) = none) ∧
    (∀ k ∈ [RKind.read, .write, .atomic, .message, .carry], (boxRq k 1 (rs 8 0 []) id).reqOf (rs 8 0 []) = some (rreq k 5 1 (some (7, 0, 3))) ∧ (boxRq k 1 (rs 12 0 []) id).reqUndel (rs 12 0 []) = some (rreq k 5 1 (some (7, 0, 3)))) ∧
    (box.isOn 16 = true ∧ (box.dom 16).entering = none) ∧
    (box.makeRoom (box.viaTile 0).cl (box.viaTile 0).ways ((5 + 1) * 2 ^ 43 + 0x1000)).2 = some 0 ∧ (box.makeRoom (box.viaTile 0).cl (box.viaTile 0).ways ((5 + 1) * 2 ^ 43 + 0x1000)).1 = box ∧
    (let u := (boxRq .read 0 (rs 8 3 []) fun t => { t with st := .stalled, hold := .link }).thread 0 0
     u.st = .stalled ∧ u.hold = .link ∧ (rs 8 3 []).op % 16 ≠ 0) ∧
    (let a : Acc := ⟨1, .store false, [[⟨0, .peer 5 0x1000, 0x1000, 4, 1, false, 2⟩]], [], [], 1, 0, none, 0, 0, none⟩
     ((boxRq .write 1 (rs 9 0 []) fun t => { t with acc := [a] }).thread 0 0).acc = [a]) ∧
    (let a : Acc := ⟨1, .amo 3 7 4, [[⟨0, .peer 5 0x1000, 0x1000, 4, 1, false, 2⟩]], [], [], 1, 0, none, 0, 0, none⟩
     ((boxRq .atomic 1 (rs 10 0 []) fun t => { t with acc := [a] }).thread 0 0).acc.find? (fun b => b.id == 1) = some a) ∧
    (bits (rs 11 0x30 []).op 6 4 ≠ 0 ∧ bits (rs 11 0 []).op 6 4 = 0 ∧ (box.tile 0).job = some (bits (field (List.replicate 72 0) 0 8) 23 14)) ∧
    (let s := boxRq .message 0 (rs 12 0 []) id
     s.reqs.find? (fun q => q.tag == 1) = some (rreq .message 5 0 (some (7, 0, 3))) ∧ s.now < 0 + s.blTimeout ∧ 0 + s.blTimeout ≤ ({ s with now := 256000 * 200 } : State).now) ∧
    (let s : State := { box with bl := { box.bl with reserved := [(7, 0)] } }
     s.bl.reserved[0]? = some (7, 0) ∧ s.now < 0 + 33 * s.blTimeout ∧ 0 + 33 * s.blTimeout ≤ ({ s with now := 33 * 256000 * 200 } : State).now) ∧
    (5 ≠ box.devId ∧ box.ringTenant 0 = some 0 ∧ (box.ringSt 0).enabled = false) := by decide +kernel

theorem test_msg_rsp_credit : (ran (.msgRsp 0) (boxRq .message 0 (rs 11 0 []) id) fun t => t.reqs == [] && t.bl.inbox == []) = true := by decide +kernel

/-- Port 3 sealed with keys of SESSION 4. -/
def boxLk (thr : Nat) (rekey : Bool) : State :=
  let k : LKey := ⟨List.replicate 32 1, 4, 100⟩
  (boxL 2 fun p => { p with txKey := some k, rxKey := some k, master := some [1], rekey := rekey }).wr (A.BL_REKEY_THRESH 3) (BitVec.ofNat 64 thr)
/-- A key exchange at a stage whose next message has arrived; device 3 is first when the partner's identifier is 5. -/
def kx1 (stage : Nat) : Kx := ⟨stage, 9, List.replicate 32 1, List.replicate 32 2, 5, 200, [], [], [1], [2]⟩
def boxKx (stage partner : Nat) (pay : List Nat) : State :=
  addPort ((boxIn [rq 15 0 0 pay]).fset (A.BL_STATUS 3) F.BL_STATUS_PARTNER_ID partner) fun p => { p with kx := some (kx1 stage) }

/-- Clauses that judge a certificate chain or an own signature take any result of the opaque `Config.chainInfo`, `Config.aliasCert` and `Config.secret`; the others are met here. -/
theorem witness_LinkKeys :
    (((boxLk 100 false).blPort 3).txKey = some ⟨List.replicate 32 1, 4, 100⟩ ∧ ((boxLk 100 false).rd (A.BL_REKEY_THRESH 3)).toNat ≤ 100 ∧ 100 < ((boxLk 101 false).rd (A.BL_REKEY_THRESH 3)).toNat ∧
      ((boxLk 100 false).blPort 3).txNew = none ∧ ((boxLk 100 false).blPort 3).master = some [1] ∧ ((boxLk 100 true).blPort 3).rekey = true ∧ (boxLk 0 true).isOn 6 = true ∧ (domIn 6 .off false none).isOn 6 = false ∧
      ((domIn 6 .off false none).dom 6).entering = none) ∧
    (∀ st ∈ [1, 2, 3, 4, 5], ∀ p ∈ [1, 5],
      let pay := payload ([st, 8] ++ List.replicate 34 0 ++ natLe 2 5 ++ natLe 4 300)
      (boxKx st p pay).bl.inbox[0]? = some (3, rq 15 0 0 pay, 0) ∧ pay.headD 0 = st ∧ ((boxKx st p pay).blPort 3).kx = some (kx1 st) ∧ field pay 36 2 = (kx1 st).peer ∧
      (boxKx st p pay).devId = 3 ∧ (boxKx st p pay).partner 3 = p ∧ (boxKx st p pay).isOn 6 = true ∧ (kx1 st).stage ≠ st % 5 + 1) ∧
    (let whole := (kx1 2).chain ++ (slice (payload ([2, 8, 0, 0] ++ List.replicate 124 7)) 4 124).take ((kx1 2).chainLen - 0)
     ¬((kx1 2).chainLen ≤ whole.length)) ∧
    (∀ d ∈ [0, 1], ecdh d (slice (payload ([3, 8, 0, 0] ++ List.replicate 96 0)) 4 96) = none) ∧
    (let pay := payload ([5, 8, 0, 0] ++ hmac (kx1 5).master (kx1 5).trans)
     slice pay 4 48 = hmac (kx1 5).master (kx1 5).trans) ∧
    slice (payload [5, 8]) 4 48 ≠ hmac (kx1 5).master (kx1 5).trans := by decide +kernel

/-! ### Host interface, Fault ledger, Tally, Assay, pins -/

/-- The host link is in L0, bus master enabled; page 0 of the tenant's objects is T1 frame 3; channel of windows as the plat gives them. -/
def boxH : State := { boxP 0 (mkEnt 1 3 0 true false) with host := { box.host with link := .l0, bme := true, win := [(1, 0x10000)] } }
/-- In confidential mode. -/
def conf (s : State) : State := s.fset A.HG_PLAT_INFO F.HG_PLAT_INFO_CONFIDENTIAL 1
/-- The device waits for a boot image of the host. -/
def boxHb (len : Nat) : State := { boxB 0 with host := { box.host with link := .l0 }, rs := { (boxB 0).rs with bootLen := len } }

theorem witness_HostRequests :
    (boxH.isOn 7 = true ∧ boxH.isOn 8 = true ∧ boxH.host.link = .l0 ∧ boxH.rs.warm = none ∧ boxH.extq = []) ∧
    (tlpOk 0 0xFFF 2 = false ∧ tlpOk 0 0xFFC 4 = true ∧ tlpOk 2 4095 1 = true ∧ tlpOk 4 0 4096 = true) ∧
    boxH.bar0 0x3F000 = .none ∧ boxH.bar0 0x207FFC = .table 0x7FFC ∧ msixOk 0x7FFC 4 = true ∧ boxH.host.pba = [] ∧
    (boxH.bar0 0 = .reg (.tenant 0) (A.HG_DOORBELL 0) ∧ boxH.bellShut 0 = false ∧ boxH.isOn (regDom (A.HG_DOORBELL 0)) = true ∧ (boxH.dom (regDom (A.HG_DOORBELL 0))).entering = none) ∧
    (boxH.plat.cur.isSome = true ∧ boxH.winRing 0 0 4 = some (0, 0) ∧ boxH.winRing 0 (0x10000 + 8192 - 4) 4 = some (1, 8188) ∧ boxH.winRing 0 (0x10000 + 8192) 4 = none ∧ boxH.confMode = false ∧ (conf boxH).confMode = true ∧
      (∀ d ∈ t1Doms (boxH.ringBase 1), boxH.isOn d = true ∧ (boxH.dom d).entering = none) ∧ (∀ i ∈ List.range 4, boxH.isLost (boxH.ringBase 1 + 8188 + i) = false)) ∧
    (∀ n ∈ [0, 512], (boxHb n).isOn 7 = true ∧ (boxHb n).host.link = .l0 ∧ (boxHb n).plat.cur = none ∧ (boxHb n).bootWaits = true ∧ (boxHb n).bootSel = 0 ∧ (∀ d ∈ [15, 31, 33], (boxHb n).isOn d = true ∧ ((boxHb n).dom d).entering = none) ∧
      0x7FFFFF + 1 ≤ 0x800000 ∧ (boxHb n).isLost (stagingBase + 0x7FFFFF) = false) ∧
    (boxH.caches = [] ∧ (boxH.resolve 0 (BitVec.ofNat 64 (boxH.objWin 0 64)) 4 true = .ok (.mem (3 * pageSize + 64))) ∧ (boxH.resolve 0 (BitVec.ofNat 64 (boxH.objWin 0 64)) 4 false = .ok (.mem (3 * pageSize + 64))) ∧
      (match boxH.resolve 0 (BitVec.ofNat 64 (boxH.objWin 0 pageSize)) 4 true with
       | .bad _ => true
       | _ => false) = true ∧
      (∀ d ∈ boxH.locDoms (.mem (3 * pageSize + 64)), boxH.isOn d = true ∧ (boxH.dom d).entering = none) ∧ (∀ i ∈ List.range 4, boxH.isLost (3 * pageSize + 64 + i) = false) ∧
      (match ({ boxH with doms := (domIn 32 .off false none).doms } : State).domCheck (boxH.locDoms (.mem (3 * pageSize + 64))) with
       | .wait ds => ds.contains 32
       | _ => false) = true) := by decide +kernel

/-- A register that the host may read and write. -/
theorem witness_HostRequests_register :
    (match (boxH.extWrite (.tenant 0) (A.HG_DOORBELL 0) 4 0).2 with
     | .ok _ => true
     | _ => false) = true ∧
    (match (boxH.extRead (.tenant 0) (A.VC_CMD_STATUS 0) 4).2 with
     | some (.ok _) => true
     | _ => false) = true := by decide +kernel

theorem test_host_write : (ran (.hostPostedWrite 4 64 [1, 2] false) boxH fun t => t.homeBytes (3 * pageSize + 63) 4 == [0, 1, 2, 0]) = true := by decide +kernel

/-- Vector 2047 holds events back since time 0; its message is given, masked or not, and its bit of the pending array. -/
def boxMs (mask : Nat) (pend : Bool) : State :=
  { boxH.fset (A.HI_VEC_MOD 2047) F.HI_VEC_MOD_HOLDOFF_US 1 with
    host := { boxH.host with vec := [(2047, (3, 0))], msix := Tab.set [(8188, 0xFEE00000), (8190, 5)] 1 8191 mask, pba := if pend then [2047] else [] }, now := 256000 }

theorem witness_HostInterfaceEvents :
    (¬(({ boxH with host := { boxH.host with link := .down } } : State).host.link = .l0) ∧ boxH.host.pba = [] ∧ ({ boxH with host := { boxH.host with link := .l2 } } : State).host.link = .l2 ∧ 5 ∈ [5, 6]) ∧
    (box.host.link = .down ∧ 8 ∈ [1, 2, 4, 8] ∧ box.rs.up = true ∧ box.isOn 7 = true ∧ box.isOn 8 = true) ∧ (domIn 7 .off false none).isOn 7 = false ∧
    (∀ m ∈ [0, 1], (Tab.get (boxMs m false).host.vec (0, 0) 2047) = (3, 0) ∧ (boxMs m false).fget (A.HI_VEC_MOD 2047) F.HI_VEC_MOD_HOLDOFF_US = 1 ∧ 0 + 1 * 256000 ≤ (boxMs m false).now ∧
      (boxMs m false).vecMasked 2047 = decide (m = 1)) ∧
    (boxMs 0 false).hostUp = true ∧ (boxMs 1 true).host.pba.has 2047 = true ∧ (boxMs 1 false).host.pba.has 2047 = false ∧ (Tab.get box.host.vec (0, 0) 2047).1 = 0 := by decide +kernel

theorem test_holdoff : (ran (.msixHoldoffExpiry 2047) (boxMs 0 false) fun t => t.host.out == [(0xFEE00000, [5, 0, 0, 0])]) = true := by decide +kernel

/-- A key, the header of record `c` of session 9, and the sealed record. -/
def hkey : List Nat := List.replicate 32 1
def rhead (pt : List Nat) (kind ring c : Nat) : List Nat := bounceHead pt.length kind ring c 9
def rseal (pt : List Nat) (kind ring c : Nat) : List Nat × List Nat :=
  let h := rhead pt kind ring c
  gcmSeal hkey (slice h 16 4 ++ slice h 8 8) h pt
def rec_ (pt : List Nat) (kind ring c : Nat) : List Nat := rhead pt kind ring c ++ (rseal pt kind ring c).1 ++ (rseal pt kind ring c).2 ++ List.replicate 16 0

/-- A sealed record begins with its header, and its payload opens. -/
theorem rec_opens (pt : List Nat) (kind ring c : Nat) :
    (rec_ pt kind ring c).take 32 = rhead pt kind ring c ∧ (rec_ pt kind ring c).length = pt.length + 64 ∧
    (let h := rhead pt kind ring c
     gcmOpen hkey (slice h 16 4 ++ slice h 8 8) h (slice (rec_ pt kind ring c) 32 pt.length) (slice (rec_ pt kind ring c) (32 + pt.length) 16) = some pt) := by
  have k : ((aesKeys hkey).getD 14 []).length = 16 := by decide +kernel
  have hl : (rhead pt kind ring c).length = 32 := by simp [rhead, bounceHead]
  obtain ⟨l1, l2⟩ := gcmSeal_length hkey (slice (rhead pt kind ring c) 16 4 ++ slice (rhead pt kind ring c) 8 8) (rhead pt kind ring c) pt k
  have o := gcmOpen_gcmSeal hkey (slice (rhead pt kind ring c) 16 4 ++ slice (rhead pt kind ring c) 8 8) (rhead pt kind ring c) pt k
  have e : rseal pt kind ring c = gcmSeal hkey (slice (rhead pt kind ring c) 16 4 ++ slice (rhead pt kind ring c) 8 8) (rhead pt kind ring c) pt := rfl
  rw [← e] at o l1 l2
  have s1 : slice (rec_ pt kind ring c) 32 pt.length = (rseal pt kind ring c).1 := by
    rw [slice, rec_, List.append_assoc, List.append_assoc, ← hl, List.drop_left, ← l1, List.take_left]
  have s2 : slice (rec_ pt kind ring c) (32 + pt.length) 16 = (rseal pt kind ring c).2 := by
    rw [slice, rec_, List.append_assoc, show 32 + pt.length = (rhead pt kind ring c ++ (rseal pt kind ring c).1).length by rw [List.length_append, hl, l1], List.drop_left, ← l2, List.take_left]
  refine ⟨?_, ?_, ?_⟩
  · rw [rec_, List.append_assoc, List.append_assoc, ← hl, List.take_left]
  · simp only [rec_, List.length_append, List.length_replicate, hl, l1, l2]; omega
  · show gcmOpen hkey _ _ (slice (rec_ pt kind ring c) 32 pt.length) (slice (rec_ pt kind ring c) (32 + pt.length) 16) = some pt
    rw [s1, s2]
    exact o

/-- Tenant 0's ingress ring of 1024 bytes with a record to read. -/
def boxIg (prod : Nat) : State :=
  { (((conf boxH).fset (A.HI_T_IN_CFG 0) F.HI_T_IN_CFG_EN 1).fset (A.HI_T_IN_CFG 0) F.HI_T_IN_CFG_LOG2 10).wr (A.HI_T_IN_PROD 0) (BitVec.ofNat 64 prod) with
    host := { boxH.host with inKey := [(0, hkey)], sess := [(0, 9)] } }
/-- A packet of no payload, and an export request of 64 bytes. -/
def pkt0 : List Nat := packet 0 |>.set 8 0
def expo : List Nat := natLe 8 objBase ++ natLe 4 64 ++ List.replicate 52 0

theorem witness_HostInterfaceEvents_ingress :
    ((boxIg 128).bounceUp 0 = true ∧ (boxIg 128).flag (A.HI_T_IN_CFG 0) F.HI_T_IN_CFG_EN = true ∧ (boxIg 128).flag (A.HI_T_IN_CFG 0) F.HI_T_IN_CFG_IN_STOPPED = false ∧ Tab.get (boxIg 128).host.inKey [] 0 ≠ [] ∧
      timeReached ((boxIg 128).rd (A.HI_T_IN_PROD 0)) ((boxIg 128).rd (A.HI_T_IN_CONS 0)) = true ∧ (boxIg 128).rd (A.HI_T_IN_PROD 0) ≠ (boxIg 128).rd (A.HI_T_IN_CONS 0) ∧ (boxIg 0).rd (A.HI_T_IN_PROD 0) = (boxIg 0).rd (A.HI_T_IN_CONS 0)) ∧
    ((boxIg 128).inCheck 0 (rhead expo 2 0 1) = some 2 ∧ (boxIg 128).inCheck 0 (rhead expo 2 0 0) = none ∧ (boxIg 128).inCheck 0 (rhead [] 0 0 0) = none) ∧
    (∀ x ∈ [(expo, 2), (List.replicate 64 5, 0), (expo ++ expo, 2)],
      let h := rhead x.1 x.2 0 0
      (boxIg 1024).inCheck 0 h = none ∧ field h 0 4 = x.1.length ∧ field h 4 2 = x.2) ∧
    (field expo 0 8 % 64 = 0 ∧ field expo 8 4 = 64 ∧ zeroBytes expo 20 44 = true ∧ area (field expo 0 8) 1 = .obj) := by decide +kernel

/-- A record with one of two tags does not open. -/
theorem witness_HostInterfaceEvents_forged (iv h ct : List Nat) : ∃ tag ∈ [List.replicate 16 0, List.replicate 16 1], gcmOpen hkey iv h ct tag = none := by
  by_cases z : gcmTag (aesKeys hkey) iv h ct = List.replicate 16 0
  · exact ⟨List.replicate 16 1, by simp, by rw [gcmOpen, if_neg (by rw [z]; decide)]⟩
  · exact ⟨List.replicate 16 0, by simp, by rw [gcmOpen, if_neg z]⟩

theorem witness_HostInterfaceEvents_packet :
    box.ringTenant 5 ≠ some 0 ∧ box.ringTenant 0 = some 0 ∧ (packet 0).take 64 ≠ [] ∧
    (let pt := (packet 0 ++ List.replicate 256 0).take 256
     let h := rhead pt 1 0 0
     pt.length = packetLen (field pt 8 4) ∧ (∀ b ∈ pt, b < 256) ∧ (boxIg 1024).inCheck 0 h = none ∧ field h 4 2 = 1 ∧ field h 6 2 = 0 ∧
     (boxIg 1024).placeAt 0 256 = some (0, false) ∧ (∀ d ∈ [13] ++ t1Doms (box.ringBase 0), (boxIg 1024).isOn d = true ∧ ((boxIg 1024).dom d).entering = none) ∧ Tab.get (boxIg 1024).host.inWait 0 0 = 0 ∧
     ({ boxIg 1024 with mem := (boxG true 7800).mem } : State).placeAt 0 256 = none) := by decide +kernel

theorem witness_HostInterfaceEvents_loses_nothing : ∀ x, (boxIg 1024).isLost x = false := by
  intro x
  have h : (boxIg 1024).vc = boxH.vc := rfl
  have f : ∀ k, ((boxIg 1024).frame k).lost = false := by
    intro k
    have g : (boxIg 1024).vc.frames = boxH.vc.frames := rfl
    rw [State.frame, g]
    rfl
  have l : ∀ k, (boxIg 1024).vc.lostLayers.has k = false := fun k => rfl
  unfold State.isLost
  cases area x 1 <;> simp [f, l]

/-- An export of 64 bytes at an address; a record that leaves tenant 0's egress ring of 1024 bytes. -/
def boxXp (a : Nat) : State := { boxIg 0 with host := { (boxIg 0).host with exports := [⟨0, a, 64, expo⟩] } }
def boxEg (cons prod : Nat) : State :=
  { ((((conf boxH).fset (A.HI_T_OUT_CFG 0) F.HI_T_OUT_CFG_EN 1).fset (A.HI_T_OUT_CFG 0) F.HI_T_OUT_CFG_LOG2 10).wr (A.HI_T_OUT_CONS 0) (BitVec.ofNat 64 cons)).wr (A.HI_T_OUT_PROD 0) (BitVec.ofNat 64 prod) with
    host := { boxH.host with outKey := [(0, List.replicate 32 1)], egress := [⟨0, 2, 0, List.replicate 128 3⟩] } }

theorem witness_HostInterfaceEvents_egress :
    (pagePieces (objBase + pageSize) 64 = [(objBase + pageSize, 64)] ∧ (match (boxXp (objBase + pageSize)).resolve 0 (BitVec.ofNat 64 (objBase + pageSize)) 64 false with
       | .bad _ => true
       | _ => false) = true) ∧
    (pagePieces objBase 64 = [(objBase, 64)] ∧ (boxXp objBase).resolve 0 (BitVec.ofNat 64 objBase) 64 false = .ok (.mem (3 * pageSize)) ∧ ((boxXp objBase).readHome 0 objBase 64).any (·.2) = false ∧
      ((boxXp objBase).readHome 0 objBase 64).length = 64) ∧
    (∀ c ∈ [0, 832], (boxEg c (c + 192)).bounceUp 0 = true ∧ (boxEg c (c + 192)).flag (A.HI_T_OUT_CFG 0) F.HI_T_OUT_CFG_EN = true ∧ Tab.get (boxEg c (c + 192)).host.outKey [] 0 ≠ [] ∧ (c + 192) % 1024 + 192 ≤ 1024 ∧
      192 + 192 ≤ 2 ^ (boxEg c (c + 192)).fget (A.HI_T_OUT_CFG 0) F.HI_T_OUT_CFG_LOG2) ∧
    (2 ^ (boxEg 0 832).fget (A.HI_T_OUT_CFG 0) F.HI_T_OUT_CFG_LOG2 < 1016 + 192) ∧
    0 + 1 < ((boxEg 0 0).rd A.HI_CONF_REKEY).toNat ∧ ((boxEg 0 0).rd (A.HI_T_OUT_COUNTER 0)).toNat = 0 := by decide +kernel

/-- A fault of tile 3's partition under classification, which repeats. -/
def clsE (eng unit : Nat) : ClsE := ⟨eng, unit, 0, true, 0, 0xFFFF, 0, 0⟩
def boxC (e : ClsE) : State := { box with fl := { box.fl with cls := [e] } }
/-- Partition 0 has tile 3 alone. -/
def boxC1 (e : ClsE) : State := { boxC e with plat := { box.plat with cur := some { plat1 with parts := plat1.parts.map fun p => { p with tiles := 8 } } } }

theorem witness_FaultLedger :
    (box.tilePart 127 = none ∧ (box.tilePart 15).map (·.id) = some 0 ∧ box.fl.cls = [] ∧ (box.tile 15).job = none ∧ (box.tile 0).job = some 0 ∧
      (let s : State := { box with hg := { box.hg with ctx := [(0, ctx1 1 0)] } }
       (s.ctx 0).st = 1 ∧ (s.ctx 0).kill = none)) ∧
    (∀ e ∈ [1, 3], box.running e 1 = none ∧
      (let s : State := { box with runs := [⟨cmd1 e [], 1, 0, 0, 0, [], none, [], [], 0, none⟩] }
       (s.running e 1).isSome = true)) ∧
    (∀ e ∈ [0, 3], (boxC (clsE e 1)).fl.cls = [clsE e 1] ∧ (boxC (clsE e 1)).transientLimit (clsE e 1) = false ∧ (boxC (clsE e 1)).plat.shadow = none ∧ (boxC (clsE e 1)).reference (clsE e 1) = some (if e = 0 then 0 else 0)) ∧
    (boxC1 (clsE 0 3)).reference (clsE 0 3) = none ∧ (boxC1 (clsE 1 0)).reference (clsE 1 0) = none ∧
    (box.lkAdmin (.tenant 0) = true ∧ box.isOn 15 = true ∧ (box.dom 15).entering = none ∧ box.retired.has 127 = false ∧ ({ box with retired := [127] } : State).retired.has 127 = true ∧ box.fl.retiring = [] ∧ box.plat.shadow = none ∧
      box.groupJobs (box.groupsOf 0) 1 = [] ∧ box.groupJobs (box.groupsOf 0) 2 = [] ∧ ({ box with plat := { box.plat with shadow := some plat1 } } : State).plat.shadow.isSome = true) ∧
    (box.isOn (storeDom 0 127) = true ∧ box.scrubs 0 0 0 = true ∧ box.flag A.FL_DEV_RING_CFG F.FL_T_RING_CFG_EN = false ∧ (∀ n, n < 8 → box.flag (A.FL_T_RING_CFG n) F.FL_T_RING_CFG_EN = false) ∧
      box.fget A.FL_SCRUB_T1 F.FL_SCRUB_T1_POS < 383 ∧ (box.fset A.FL_SCRUB_T1 F.FL_SCRUB_T1_POS 383).fget A.FL_SCRUB_T1 F.FL_SCRUB_T1_POS = 383) ∧
    (∀ t0 ∈ [0, 1],
      let s : State := { box with fl := { box.fl with ce := [(2 * 65536 + 127, (3, t0))] }, now := 256000000 }
      (Tab.get s.fl.ce (0, 0) (2 * 65536 + 127)) = (3, t0) ∧ (t0 ≠ 0 → s.now < t0 + 256000000)) ∧
    ((∀ lg ∈ [4, 20], (box.wr (A.FL_T_RING_BASE 0) 0x2000).ringBaseOk 0 lg = true ∧ (box.wr (A.FL_T_RING_BASE 0) 1).ringBaseOk 0 lg = false) ∧ box.fsrBuf = []) := by decide +kernel

theorem test_tile_fault : (ran (.tileFault 15 1 7) box fun t => (t.fl.cls.map fun e => (e.eng, e.unit, e.part, e.synd)) == [(0, 15, 0, 7)] && t.flag A.FL_STATUS F.FL_STATUS_CLASSIFYING) = true := by decide +kernel

/-- Tally unit 15 of tenant 0, with a source, and a RUN or none. -/
def boxTl (src : Nat) (run : Option (Nat × Nat)) : State :=
  { (((box.fset (A.TL_CFG 15) F.TL_CFG_OWNER_VALID 1).fset (A.TL_CFG 15) F.TL_CFG_SOURCE src).wr (A.TL_ADDR 15) 0x2000) with fl := { box.fl with run := [(15, run)] } }

theorem witness_TallyAndAssay :
    (box.tlOk (.tenant 0) 15 = false ∧ (∀ v ∈ [0, 1], (boxTl v none).tlOk (.tenant 0) 15 = true ∧ (boxTl v none).tlBusy 15 = false ∧ (boxTl v none).fget (A.TL_CFG 15) F.TL_CFG_SOURCE = v) ∧ (boxTl 0 (some (5, 64))).tlBusy 15 = true ∧
      box.isOn 15 = true ∧ (box.dom 15).entering = none) ∧
    ((boxTl 0 none).flag (A.TL_CFG 15) F.TL_CFG_ALIVE_EN = false ∧ box.largeClass = false ∧ (box.fset A.HG_PLAT_INFO F.HG_PLAT_INFO_CONFIG_CLASS 1).largeClass = true ∧
      (let s := (boxTl 0 none).wr (A.TL_EXPECT 15) (BitVec.ofNat 64 ((boxTl 0 none).tlValue 15 ^^^ 0xFFFFFFFF))
       s.tlValue 15 ^^^ 0xFFFFFFFF = (s.rd (A.TL_EXPECT 15)).toNat) ∧
      (let s := (boxTl 0 none).wr (A.TL_EXPECT 15) 1
       s.tlValue 15 ^^^ 0xFFFFFFFF ≠ (s.rd (A.TL_EXPECT 15)).toNat) ∧ (boxTl 0 none).flag (A.TL_CFG 15) F.TL_CFG_IRQ_EN = false) ∧
    ((boxTl 0 none).reach (viaHome 0) 0x2000 64 false locLocal ≠ .bad ∧ ((boxTl 0 none).wr (A.TL_ADDR 15) (BitVec.ofNat 64 objBase)).reach (viaHome 0) objBase (2 ^ 24 - 1) false locLocal = .bad) ∧
    (let s := boxTl 0 (some (5, 64))
     Tab.get s.fl.run none 15 = some (5, 64) ∧ upAt s (s.reach (viaHome 0) 0x2000 64 false locLocal) = true ∧ (s.readHome 0 0x2000 64).any (·.2) = false ∧
     (({ s with psn := NSet.add 0x200 (NSet.add 0x2000 []) } : State).readHome 0 0x2000 64).any (·.2) = true) ∧
    (box.asOk (.tenant 7) 7 = true ∧ box.asOk (.tenant 0) 7 = false ∧ 255 / 32 = 7 ∧ 223 / 32 ≠ 7) := by decide +kernel

theorem test_tally_check : (ran (.tlFeed8 (.tenant 0) 15 0x61) (boxTl 0 none) fun t => t.tlValue 15 ^^^ 0xFFFFFFFF == 0xC1D04330) = true := by decide +kernel

/-- The low-speed I/O with frames received. -/
def boxIo (en rx : Nat) (unit : Nat) : State :=
  { (box.fset A.IO_SPI_CTRL F.IO_SPI_CTRL_EN en).fset (A.TL_CFG 15) F.TL_CFG_SOURCE unit with io := { box.io with rx := List.replicate rx ([], 0, false), tx := List.replicate 64 1 } }
def boxUa (rx tx : Nat) : State := { box.fset A.IO_UART_CFG F.IO_UART_CFG_EN 1 with io := { box.io with urx := List.replicate rx 1, utx := List.replicate tx 65 } }

theorem witness_LowSpeedPins :
    (box.isOn 39 = true ∧ (box.dom 39).entering = none) ∧
    ((boxIo 0 0 0).flag A.IO_SPI_CTRL F.IO_SPI_CTRL_EN = false ∧ (boxIo 1 7 0).flag A.IO_SPI_CTRL F.IO_SPI_CTRL_EN = true ∧ (boxIo 1 7 0).rs.up = true ∧ (boxIo 1 7 0).bootWaits = false ∧ (boxIo 1 7 0).spiUnit = none ∧ (boxIo 1 7 2).spiUnit = some 15 ∧
      (boxIo 1 7 0).io.tx ≠ [] ∧ (boxIo 1 7 0).io.rx.length < 8 ∧ 8 ≤ (boxIo 1 8 0).io.rx.length ∧ box.isOn 15 = true ∧ (box.dom 15).entering = none) ∧
    (box.spiOk (.tenant 0) = true ∧ box.spiOk (.tenant 1) = false) ∧
    (¬(box.flag A.IO_UART_CFG F.IO_UART_CFG_EN = true) ∧ (boxUa 15 15).flag A.IO_UART_CFG F.IO_UART_CFG_EN = true ∧ (boxUa 15 15).io.urx.length < 16 ∧ 16 ≤ (boxUa 16 16).io.urx.length ∧ (boxUa 15 15).io.utx = 65 :: List.replicate 14 65 ∧
      16 ≤ (boxUa 16 16).io.utx.length ∧ box.lkAdmin (.tenant 0) = true ∧ box.lkAdmin (.tenant 1) = false) ∧
    (box.flag A.IO_ADDR F.IO_ADDR_DYN_VALID = false ∧ (box.fset A.IO_ADDR F.IO_ADDR_DYN_VALID 1).flag A.IO_ADDR F.IO_ADDR_DYN_VALID = true ∧ 127 < 128) ∧
    (box.confMode = false ∧ (conf box).confMode = true ∧ (∀ e ∈ box.tenEs, e.debug = true) ∧
      (let s : State := { box with plat := { box.plat with cur := some { plat1 with tenants := plat1.tenants.map fun e => { e with debug := false } } } }
       ∃ e ∈ s.tenEs, e.debug = false) ∧ box.isOn 38 = true ∧ (box.dom 38).entering = none) ∧
    (box.extq = [] ∧ box.isOn (regDom A.DB_STATUS) = true ∧ (match (((box.tapSelect 0x10).tdoOut []).extRead .debug A.DB_STATUS (regBytes A.DB_STATUS)).2 with
      | some (.ok _) => true
      | _ => false) = true) := by decide +kernel

theorem test_idcode : (ran (.idcode (List.replicate 32 false |>.map fun b => b2n b)) box fun t => t.io.tdo == [natBits 32 0x1A94D2B3]) = true := by decide +kernel

end Sys2Proof.Tests
end

section
/-!
SUPPORT. Register writes of a requester outside the tiles, the fields they write, and the outcomes of issuing an instruction.
-/
namespace Sys2Proof.Machine

section RegisterBus
variable {s : State} {who : Who} {w : Writer} {h : RegHit} {a n v : Nat}

/-! ### Writes over the register bus (R5, R6, R66) -/

/-- With no stalled access before it, an access that nothing holds back is performed at once. -/
theorem external_go {c : ExtAcc} (hq : s.extq = []) (hh : s.extHold c = .go) : s.external c = s.extNow c := by
  simp [State.external, hq, hh]

/-- To a register whose domain is On, REGISTER_WRITE is the write over the bus and nothing else. -/
theorem exec_registerWrite_up (hu : s.Up [regDom a]) (hq : s.extq = []) (v : Word) :
    exec (.registerWrite who a n v) s = .next (s.busWrite ⟨who, none⟩ a n v.toNat).1 := by
  have hh : s.extHold (.reg who a n v.toNat) = .go := by
    simp only [State.extHold, State.holdFor, domCheck_up hu]
  have hw : s.extNow (.reg who a n v.toNat) = (s.busWrite ⟨who, none⟩ a n v.toNat).1 := by
    simp only [State.extNow, State.extWrite, domCheck_up hu, domTouch_up hu]
  exact congrArg Host.Outcome.next ((external_go hq hh).trans hw)

theorem busWrite_noRegister (hr : regAt a = none) : s.busWrite w a n v = (s, .err) := by
  simp only [State.busWrite, hr]

theorem busWrite_wrongSize (hr : regAt a = some h) (hs : h.sizeOk a n = false) : s.busWrite w a n v = (s, .align) := by
  simp [State.busWrite, hr, hs]

theorem busWrite_denied (hr : regAt a = some h) (hs : h.sizeOk a n = true) (ho : s.regOk w.who h true = false) :
    s.busWrite w a n v = (s.regRefused w.who, .err) := by
  simp [State.busWrite, hr, hs, ho]

theorem busWrite_window (hr : regAt a = some h) (hs : h.sizeOk a n = true) (ho : s.regOk w.who h true = true) (hw : h.reg.win ≠ 0) :
    s.busWrite w a n v = (s.winWrite h n v, .ok 0) := by
  simp [State.busWrite, hr, hs, ho, hw]

/-- A write that the bus lets through to a register has the effect its block gives it. -/
theorem busWrite_register (hr : regAt a = some h) (hs : h.sizeOk a n = true) (ho : s.regOk w.who h true = true) (hw : h.reg.win = 0) :
    (s.busWrite w a n v).1 = (s.regWrite w h a (v % 2 ^ (8 * n))).1 := by
  simp only [State.busWrite, hr, hs, ho, hw]
  generalize s.regWrite w h a (v % 2 ^ (8 * n)) = r
  obtain ⟨t, good⟩ := r
  cases good <;> rfl

/-- The engines' registers have no rule of their own: each field takes a write by its access code (R10). -/
theorem regWrite_engine (hb : ["MX", "AT", "SC", "CV", "ST", "PP"].contains h.blk = true) (hc : commandReg h.reg.name = false) :
    s.regWrite w h a v = (s.writeReg a v h.reg, true) := by
  have hb : h.blk = "MX" ∨ h.blk = "AT" ∨ h.blk = "SC" ∨ h.blk = "CV" ∨ h.blk = "ST" ∨ h.blk = "PP" := by simpa using hb
  simp only [State.regWrite, hc]
  rcases hb with hb | hb | hb | hb | hb | hb <;> simp [hb]

/-! ### Writes to a register of a sleeping domain (R478) -/

/-- A demanded wake only joins the wake queue. -/
theorem demandWake_keeps (s : State) (d : Nat) : ∃ q, s.demandWake d = { s with wakeq := q } := by
  refine foldl_keeps (fun t => ∃ q, t = { s with wakeq := q }) _ ?_ (domChain d) s ⟨s.wakeq, rfl⟩
  rintro _ e ⟨q, rfl⟩
  split
  · exact ⟨q, rfl⟩
  · exact ⟨_, rfl⟩

/-- An access to one domain that is not On and wakes on an access waits for it. -/
theorem domCheck_asleep {d : Nat} (hoff : s.isOn d = false) (hwake : (s.domE d).wakeAcc = true) : s.domCheck [d] = .wait [d] := by
  simp [State.domCheck, hoff, hwake]

theorem domTouch_asleep {d : Nat} (hoff : s.isOn d = false) (hent : (s.dom d).entering = none) (hwake : (s.domE d).wakeAcc = true) :
    s.domTouch [d] = s.demandWake d := by
  simp [State.domTouch, State.abortEntry_idle s d hent, domCheck_asleep hoff hwake]

/-- A write to a register of a sleeping domain wakes it and stands stalled. -/
theorem exec_registerWrite_asleep (hoff : s.isOn (regDom a) = false) (hent : (s.dom (regDom a)).entering = none)
    (hwake : (s.domE (regDom a)).wakeAcc = true) (hq : s.extq = []) (v : Word) :
    exec (.registerWrite who a n v) s = .next { s.demandWake (regDom a) with extq := [.reg who a n v.toNat] } := by
  have hh : s.extHold (.reg who a n v.toNat) = .wake [regDom a] := by
    simp only [State.extHold, State.holdFor, domCheck_asleep hoff hwake]
  have he : s.external (.reg who a n v.toNat) = { s.demandWake (regDom a) with extq := [.reg who a n v.toNat] } := by
    simp [State.external, hq, hh, domTouch_asleep hoff hent hwake]
  exact congrArg Host.Outcome.next he

end RegisterBus

/-! ### One field of a register write (R8, R10) -/

/-- What a field of value `old` holds after `x` is written to it: its own value for a reserved encoding, else what its access code makes of the two. -/
def Fld.after (f : Fld) (locked : Bool) (old x : Nat) : Nat :=
  if f.rsv.contains x then old
  else match f.acc with
  | .rw => x
  | .ro => old
  | .wo => old
  | .w1c => old - (old &&& x)
  | .w1s => old ||| x
  | .rwl => if locked then old else x

theorem bits_lt (v hi lo : Nat) : bits v hi lo < 2 ^ (hi + 1 - lo) := Nat.mod_lt _ (Nat.two_pow_pos _)

/-- The value after a write fits the field that the old value and the value written fit. -/
theorem Fld.after_lt {f : Fld} {locked : Bool} {old x k : Nat} (ho : old < 2 ^ k) (hx : x < 2 ^ k) : f.after locked old x < 2 ^ k := by
  unfold Fld.after
  split
  · exact ho
  split
  · exact hx
  · exact ho
  · exact ho
  · exact Nat.lt_of_le_of_lt (Nat.sub_le _ _) ho
  · exact Nat.or_lt_two_pow ho hx
  · split
    · exact ho
    · exact hx

/-- A write of a field leaves the state as it is when the field keeps its value, and otherwise sets that field alone. -/
theorem writeField_cases (s : State) (a v : Nat) (f : Fld) :
    let x := f.after s.plat.locked (s.fget a (f.hi, f.lo)) (bits v f.hi f.lo)
    (s.writeField a v f = s ∧ x = s.fget a (f.hi, f.lo)) ∨ s.writeField a v f = s.fset a (f.hi, f.lo) x := by
  unfold State.writeField Fld.after
  by_cases hr : f.rsv.contains (bits v f.hi f.lo) = true
  · simp only [hr]; exact .inl ⟨rfl, rfl⟩
  simp only [hr]
  cases f.acc with
  | rw | w1c | w1s => exact .inr rfl
  | ro | wo => exact .inl ⟨rfl, rfl⟩
  | rwl =>
    cases s.plat.locked with
    | true => exact .inl ⟨rfl, rfl⟩
    | false => exact .inr rfl

theorem State.OnlyRegs.refl (s : State) (as : List Nat) : s.OnlyRegs as s := ⟨rfl, .refl s as⟩

theorem State.OnlyRegs.fset (s : State) (a : Nat) (f : Nat × Nat) (x : Nat) : s.OnlyRegs [a] (s.fset a f x) :=
  ⟨rfl, (State.RegsBut.refl s [a]).fset a f x (by simp)⟩

/-- A write of a field gives it the value its access code makes, and changes no other bit of the register and nothing else. -/
theorem writeField_spec (s : State) (a v : Nat) {f : Fld} (hlo : f.lo ≤ f.hi) (hhi : f.hi < 64) :
    s.OnlyRegs [a] (s.writeField a v f) ∧
    (∀ hi lo, lo ≤ hi → (hi < f.lo ∨ f.hi < lo) → (s.writeField a v f).fget a (hi, lo) = s.fget a (hi, lo)) ∧
    (s.writeField a v f).fget a (f.hi, f.lo) = f.after s.plat.locked (s.fget a (f.hi, f.lo)) (bits v f.hi f.lo) := by
  obtain ⟨hs, hx⟩ | hs := writeField_cases s a v f
  · rw [hs]
    exact ⟨.refl s [a], fun _ _ _ _ => rfl, hx.symm⟩
  · rw [hs]
    refine ⟨.fset s a _ _, fun hi lo _ hd => State.fget_fset_disj s a _ (hi, lo) _ hlo hhi hd, ?_⟩
    rw [State.fget_fset_self s a _ _ hlo hhi]
    exact Nat.mod_eq_of_lt (Fld.after_lt (bits_lt _ _ _) (bits_lt _ _ _))

/-! ### Instructions as issued: the registers each waits for and what stands behind the gate (R100, R350) -/

theorem exec_lui_issue (h : Th) (rd : RegNo) (imm : Imm21) (s : State) :
    ∃ k, exec (.lui h rd imm) s = issue h [rd] [] s k :=
  ⟨_, (rfl : _ = execLui h rd imm s)⟩

theorem exec_viota_issue (h : Th) (vd : RegNo) (g : PredNo) (s : State) :
    ∃ k, exec (.viota h vd g) s = issue h [] [vd] s k :=
  ⟨_, (rfl : _ = execViota h vd g s)⟩

theorem accInstr_issue (acc : Imm2) (vs : List RegNo) (h : Th) (s : State) (f : Thread → State) :
    ∃ k, accInstr acc vs h s f = issue h [] vs s k := ⟨_, rfl⟩

theorem exec_accrd_issue (h : Th) (vd : RegNo) (acc : Imm2) (row : RegNo) (s : State) :
    ∃ k, exec (.accrd h vd acc row) s = issue h [] [vd] s k := by
  show ∃ k, execAccrd h vd acc row s = issue h [] [vd] s k
  unfold execAccrd
  exact accInstr_issue acc [vd] h s _

theorem exec_tend_issue (h : Th) (s : State) : ∃ k, exec (.tend h) s = issue h [] [] s k :=
  ⟨_, (rfl : _ = execTend h s)⟩

theorem scalarStore_issue (n : Nat) (h : Th) (rs2 rs1 : RegNo) (imm : Imm16) (s : State) :
    ∃ k : Thread → State, scalarStore n h rs2 rs1 imm s = issue h [rs1, rs2] [] s fun t => s.pastGate h (k t) := ⟨_, rfl⟩

theorem exec_sd_issue (h : Th) (rs2 rs1 : RegNo) (imm : Imm16) (s : State) :
    ∃ k : Thread → State, exec (.sd h rs2 rs1 imm) s = issue h [rs1, rs2] [] s fun t => s.pastGate h (k t) :=
  scalarStore_issue 8 h rs2 rs1 imm s

theorem rangeInstr_issue (op : Nat) (h : Th) (rs1 rs2 : RegNo) (s : State) :
    ∃ k : Thread → State, rangeInstr op h rs1 rs2 s = issue h [rs1, rs2] [] s fun t => s.pastGate h (k t) := ⟨_, rfl⟩

theorem exec_cwb_issue (h : Th) (rs1 rs2 : RegNo) (s : State) :
    ∃ k : Thread → State, exec (.cwb h rs1 rs2) s = issue h [rs1, rs2] [] s fun t => s.pastGate h (k t) :=
  rangeInstr_issue 0 h rs1 rs2 s

section Issue
variable {s : State} {h : Th} {xs vs : List RegNo} {k : Thread → State}

/-- Behind the gate an instruction that needs the packet's acceptance has no effect (R350). -/
theorem issue_gated (hx : s.Executes h xs vs) (hg : s.gated h.tile = true) :
    issue h xs vs s (fun t => s.pastGate h (k t)) = .next (s.resumed (h.tile * 16 + h.thr) 0) := by
  rw [issue_executes hx, State.pastGate, if_pos hg]

/-! ### A fetch that fails (R139, R143) -/

/-- The cause and EADDR of the exception that a fetch at `pc` raises: none when it gives the word. -/
def fetchException (pc : Word) : Fetch → Option (Nat × Word)
  | .ok => none
  | .error => some (excAccess, pc)
  | .wakeLimit => some (excWake, pc)
  | .poisoned => some (excPoison, pc)
  | .reserved => some (excIllegal, 0)

/-- An instruction whose PC lies where no fetch may go raises ACCESS and has no effect. -/
theorem issue_fetchOutside (h1 : h.tile < 128) (h2 : h.thr < 16) (hc : s.canIssue h xs vs = true)
    (hf : s.fetchOk (s.tenantAt h.tile) (s.th h).pc = false) :
    issue h xs vs s k = .next ((s.raise h.tile h.thr excAccess 0 (s.th h).pc).resumed (h.tile * 16 + h.thr) 0) := by
  have hu : ¬(128 ≤ h.tile ∨ 16 ≤ h.thr) := by omega
  simp only [State.th] at *
  simp [issue, hu, hc, hf]

/-- An instruction whose fetch fails, finds poison or a reserved encoding raises that exception and has no effect. -/
theorem issue_fetchRaises (h1 : h.tile < 128) (h2 : h.thr < 16) (hc : s.canIssue h xs vs = true)
    (hf : s.fetchOk (s.tenantAt h.tile) (s.th h).pc = true) {c : Nat} {ea : Word} (he : fetchException (s.th h).pc h.fetch = some (c, ea)) :
    issue h xs vs s k = .next ((s.raise h.tile h.thr c 0 ea).resumed (h.tile * 16 + h.thr) 0) := by
  have hu : ¬(128 ≤ h.tile ∨ 16 ≤ h.thr) := by omega
  simp only [State.th] at *
  cases hx : h.fetch with
  | ok => simp [hx, fetchException] at he
  | error | wakeLimit | poisoned | reserved =>
    rw [hx] at he
    cases he
    simp [issue, hu, hc, hf, hx]

end Issue

/-! ### Words (R144) -/

/-- The opcodes above 0x2A are reserved. -/
theorem decodeWord_reservedOpcode (h : Th) (w : BitVec 32) (hw : 0x2B ≤ w.toNat % 64) : decodeWord h w = none := by
  have ho : (w.extractLsb' 0 6).toNat = w.toNat % 64 := by simp [BitVec.extractLsb'_toNat]
  obtain ⟨k, hk⟩ := Nat.exists_eq_add_of_le' hw
  unfold decodeWord
  rw [ho, hk]
  rfl

end Sys2Proof.Machine
end

section
open Sys2Proof Sys2Proof.Machine

/-- Settles O32. To a domain that is On the write is `busWrite`, which each clause follows to its branch; to a sleeping one it wakes the domain and stands stalled (R478); a field is set to `Fld.after`. -/
theorem registerWrites : Obligations.RegisterWrites := by
  refine ⟨fun s who a n v hu hq => ?_, fun s who a n v hoff hent hwake hq => ?_, fun _ _ _ _ _ => ⟨_, rfl⟩,
    fun s a v f hlo hhi => writeField_spec s a v hlo hhi⟩
  · have reaches {t : State} (ht : (s.busWrite ⟨who, none⟩ a n v.toNat).1 = t) : s.Gives (.registerWrite who a n v) (fun u => u = t) :=
      ⟨_, exec_registerWrite_up hu hq v, ht⟩
    refine ⟨fun hr => reaches ?_, fun h hr => ⟨fun hs => reaches ?_, fun hs ho => reaches ?_, fun hs ho hw => reaches ?_,
      fun hs ho hw hb hc => reaches ?_, fun hs ho hw => reaches ?_⟩⟩
    · rw [busWrite_noRegister hr]
    · rw [busWrite_wrongSize hr hs]
    · rw [busWrite_denied hr hs ho]
    · rw [busWrite_register hr hs ho hw]
    · rw [busWrite_register hr hs ho hw, regWrite_engine hb hc]
    · rw [busWrite_window hr hs ho hw]
  · obtain ⟨q, hk⟩ := demandWake_keeps s (regDom a)
    exact ⟨_, exec_registerWrite_asleep hoff hent hwake hq v, by rw [hk], by rw [hk], rfl⟩

/-- Settles O11. Each instruction is an `issue` of its registers, so one lemma per outcome of `issue` answers every clause; the words are computed by `decodeWord`. That a thread which cannot issue changes nothing, and that the outcome of the fetch is an operand, are choices of the model (log entries 2 and 8). -/
theorem issueRules : Obligations.IssueRules := by
  refine ⟨fun s h rs1 rs2 imm hx hg => ?_, fun h => ?_, fun s h rd imm row acc g => ?_⟩
  · obtain ⟨_, hsd⟩ := exec_sd_issue h rs2 rs1 imm s
    obtain ⟨_, hcwb⟩ := exec_cwb_issue h rs1 rs2 s
    exact ⟨⟨_, hsd.trans (issue_gated hx hg), rfl⟩, ⟨_, hcwb.trans (issue_gated hx hg), rfl⟩⟩
  · exact ⟨rfl, rfl, rfl, rfl, rfl, rfl, rfl, rfl, rfl, rfl, rfl, rfl, decodeWord_reservedOpcode h⟩
  · obtain ⟨_, hlui⟩ := exec_lui_issue h rd imm s
    obtain ⟨_, hviota⟩ := exec_viota_issue h rd g s
    obtain ⟨_, haccrd⟩ := exec_accrd_issue h rd acc row s
    obtain ⟨_, htend⟩ := exec_tend_issue h s
    rw [hlui, hviota, haccrd, htend]
    refine ⟨fun hn => ⟨issue_noSuchUnit hn, issue_noSuchUnit hn, issue_noSuchUnit hn, issue_noSuchUnit hn⟩, fun h1 h2 =>
      ⟨issue_waits h1 h2, fun hc => ⟨issue_waits h1 h2 hc, issue_waits h1 h2 hc⟩, fun hc =>
        ⟨fun hf => ⟨_, hlui.trans (issue_fetchOutside h1 h2 hc hf), rfl⟩, fun hf => ?_⟩⟩⟩
    have raises {c ea} (he : fetchException (s.th h).pc h.fetch = some (c, ea)) : s.Gives (.lui h rd imm) (s.Took h c ea) :=
      ⟨_, hlui.trans (issue_fetchRaises h1 h2 hc hf he), rfl⟩
    exact ⟨fun he => raises (by rw [he]; rfl), fun he => raises (by rw [he]; rfl), fun he => raises (by rw [he]; rfl),
      fun he => raises (by rw [he]; rfl)⟩

end
